-- ==== Sys2Proof/Word.lean ====
section
/-!
DEFINITION. The words the model is written in: bytes, 32-bit register words, and the shape of a sparse table, a
list of (key, value) pairs whose keys rise strictly.
-/

namespace Sys2Proof

/-- A byte of memory or of a message. -/
abbrev Byte := BitVec 8
/-- A register value (R14). -/
abbrev Word := BitVec 32
/-- A sparse table keyed by number. In its canonical form the keys rise strictly. -/
abbrev Tbl (V : Type) := List (Nat × V)

end Sys2Proof
end

