-- ==== Sys2Proof/Syntax.lean ====
section
/-!
DEFINITION. The commands the QK4800 block takes: one constructor of `Instr` per row of
spec/opcode_table.json, with the operands the row's rule needs. Numbers that name a thing (a partition, a ring,
a CPN, an acceptance number) are `Nat`; register values are 32-bit vectors; data is a list of bytes.
-/

namespace Sys2Proof

/-- Who makes an MMIO access (R341, R343): its world, its partition, and the number of the host port
(0 to 3) or 4 for the management channel. -/
structure Requester where
  secure : Bool
  pt : Nat
  src : Nat
  deriving DecidableEq, Repr

/-- What the reads of an HBM unit meet (R285, R286): the errors that the first read, the second read and the reads of the two patterns see, as
the difference of each of the 36 symbols of the unit's word from what was stored (an absent symbol: 0), and whether the die reports a correction of
its own. -/
structure UnitErr where
  inner : Bool := false
  first : List Byte := []
  second : List Byte := []
  fives : List Byte := []
  tens : List Byte := []
  deriving DecidableEq, Repr

/-- What a CXL.mem response answers: a move's request, or a read of the line at an address of the port's window. -/
inductive CxlAns where
  | move (id : Nat)
  | line (addr : Nat)
  deriving DecidableEq, Repr

/-- The kinds of a back-invalidate snoop: BISnpCur, BISnpData and BISnpInv, or the Blk form of each where it names several lines (R298). -/
inductive SnoopKind where
  | cur | data | inv
  deriving DecidableEq, Repr

/-- The lines of a region that a snoop names: the first and how many. -/
structure SnoopLines where
  region : Nat
  line : Nat
  n : Nat
  deriving DecidableEq, Repr

/-- The end of an ownership read: its id, and whether its data is poison. -/
structure Grant where
  id : Nat
  poison : Bool
  deriving DecidableEq, Repr

/-- A range of a pool device's addresses, in bytes. -/
structure DpaRange where
  base : Nat
  size : Nat
  deriving DecidableEq, Repr

/-- A command that tries its sequence's lock, by acceptance number, and the others that try the same lock in its cycle (R69). -/
structure Try where
  acc : Nat
  rivals : List Nat
  deriving DecidableEq, Repr

/-- What an answer of host memory belongs to: an outstanding read, by its tag, or the read of a command's buffer, by its host address and the
partition that the frame names. -/
inductive HostAns where
  | read (tag : Nat)
  | buffer (addr pt : Nat)
  deriving DecidableEq, Repr

/-- The OP of a host-port transaction (R404). -/
inductive TxnOp where
  | mmioRd | mmioWr | mmioRsp | memRd | memWr | memCpl | wrAck | irqMsg
  deriving DecidableEq, Repr

/-- A host-port transaction (R403). -/
structure Txn where
  op : TxnOp
  ackrq : Bool := false
  status : Nat := 0
  tag : Nat := 0
  bytes : Nat := 0
  addr : Nat := 0
  data : List Byte := []
  deriving DecidableEq, Repr

/-- The packet types of the fabric (R439); `reserved`: a PTYPE that R439 does not list. -/
inductive PType where
  | send | put | getReq | getData | ack | coll | collAns | probe | report | assign | snap
  | reserved (code : Nat)
  deriving DecidableEq, Repr

/-- A fabric packet (R438) with the PT and SECURE of its frame header. -/
structure Packet where
  ptype : PType
  hops : Nat := 31
  start : Bool := false
  last : Bool := false
  retx : Bool := false
  dstDev : Nat := 0
  dstPt : Nat := 0
  srcDev : Nat := 0
  dstQpn : Nat := 0xFFFF
  srcQpn : Nat := 0xFFFF
  psn : Nat := 0
  answer : Nat := 0
  seg : Nat := 0
  arg : Nat := 0
  cpn : Nat := 0
  data : List Byte := []
  framePt : Nat := 0
  frameSecure : Bool := false
  deriving DecidableEq, Repr

/-- The body of a Jurola frame (R391); `reserved`: a frame whose TYPE R391 does not list. -/
inductive FrameBody where
  | idle
  | credit (counts : List Nat)
  | ack (next : Nat)
  | nak (next : Nat)
  | key (newKgen fromSeq : Nat)
  | txn (t : Txn)
  | pkt (p : Packet)
  | mgmt (mtype : Nat) (som eom : Bool) (data : List Byte)
  | reserved (ftype : Nat)
  deriving DecidableEq, Repr

/-- A Jurola frame (R390). `enc`: ENC of the header. -/
structure Frame where
  vc : Nat := 0
  enc : Bool := false
  pt : Nat := 0
  secure : Bool := false
  len : Nat := 16
  fseq : Nat := 0
  kgen : Nat := 0
  body : FrameBody := .idle
  deriving DecidableEq, Repr

/-- A collective message header with its contents (R215). -/
structure CollMsg where
  type : Nat
  member : Nat
  group : Nat
  opId : Nat
  srcDev : Nat
  srcPt : Nat
  epoch : Nat
  len : Nat
  nrec : Nat
  ndev : Nat
  answer : Nat := 0
  /-- the partition the message is addressed to at the collector -/
  dstPt : Nat := 0
  retx : Bool := false
  /-- the NREC O parts, then the NREC 16-byte statistics records -/
  data : List Byte := []
  deriving DecidableEq, Repr

/-- What a far end's configuration block says (R386). -/
structure CfgBlock where
  kind : Nat
  lanes : Nat
  nonce : Nat
  cred : List Nat
  nextRx : Nat
  deriving DecidableEq, Repr

/-- A discovery PROBE body (R444). -/
structure Probe where
  serial : Nat
  level : Nat
  port : Nat
  id : Nat
  idValid : Bool
  dgen : Nat
  deriving DecidableEq, Repr

/-- A discovery REPORT body (R444). -/
structure Report where
  serial : Nat
  level : Nat
  parent : Nat
  dgen : Nat
  neighSerial : List Nat
  neighPort : List Nat
  deriving DecidableEq, Repr

/-- A discovery ASSIGN body (R444). -/
structure AssignMsg where
  serial : Nat
  id : Nat
  level : Nat
  nhops : Nat
  dgen : Nat
  path : Nat
  deriving DecidableEq, Repr

/-- The status of an NVMe completion, as R332 sorts it. -/
inductive NvmeStatus where
  | success | macMismatch | mediaError | otherError
  deriving DecidableEq, Repr

/-- What a drive reports during bring-up: the conditions of R322, one field each, and the volatile cache of R323. -/
structure DriveInfo where
  present : Bool
  trains32 : Bool
  gen5 : Bool
  width : Nat
  nsid1Ok : Bool
  mdtsOk : Bool
  queuesOk : Bool
  sectors : Nat
  fatal : Bool
  cacheStays : Bool
  deriving DecidableEq, Repr

/-- What the rails read at one power sample (R549): millivolts and amperes per rail, in the order of R544, and
the package power in watts. -/
structure RailSample where
  mv : List Nat
  amps : List Nat
  watts : Nat
  deriving DecidableEq, Repr

/-- The commands, one per row of the opcode table. `acc` is an acceptance number (R520), `ring` a global ring number
(partition × 256 + ring), `np`, `pt`, `cq`, `stack`, `tile`, `port` numbers of R18's identifier table; a Jurola port is
numbered 0 to 11 in the order of R347. -/
inductive Instr where
  -- the commands of the catalogue (R50), carried out for the accepted and issued node `acc`
  | nop (acc : Nat)
  | profileCreate (acc : Nat)
  | seqOpen (acc : Nat)
  | seqFork (c : Try)
  | seqClose (c : Try)
  /-- `rivals`: as in `Try` -/
  | append (acc : Nat) (rivals : List Nat)
  | flush (c : Try)
  | attend (acc : Nat)
  | headGather (acc : Nat)
  | spanMerge (acc : Nat)
  | prefixLookup (acc : Nat)
  | prefixPublish (c : Try)
  | prefixRefPin (acc : Nat)
  | prefixRefUnpin (acc : Nat)
  | prefixRefRelease (acc : Nat)
  | warm (c : Try)
  | hint (acc : Nat)
  | putPage (acc : Nat)
  | getPage (acc : Nat)
  | send (acc : Nat)
  | postRecv (acc : Nat)
  | regionOpen (acc : Nat)
  | regionPublish (acc : Nat)
  | regionClose (acc : Nat)
  | regionRelease (acc : Nat)
  | epochCommit (acc : Nat)
  | fence (acc : Nat)
  /-- the graph that stands fetched at the head of ring `ring` -/
  | graphBegin (ring : Nat)
  -- rings, graphs and epochs
  | depSqDb (req : Requester) (pt ring : Nat) (val : Word)
  | depCqDb (req : Requester) (pt cq : Nat) (val : Word)
  /-- `answered`: host memory answers the fetch within the step; otherwise the read stays outstanding for MEM_CPL -/
  | ringTurnFetch (core : Nat) (answered : Bool)
  | graphAccept (ring : Nat)
  | nodeIssue (acc : Nat)
  | nodeComplete (acc : Nat)
  | completionPost (pt cq : Nat)
  | coalTimerExpire (pt cq : Nat)
  | epochCommitMake
  | epochApply (unit : Nat)
  | epochCommitTimeout
  | depRingCfg (req : Requester) (val : Word)
  | depStageLen (req : Requester) (val : Word)
  -- registers without a row of their own, and the MMIO path
  | regWrite (req : Requester) (addr : Nat) (val : Word)
  | mmioRd (req : Requester) (addr size tag : Nat)
  | mmioWr (req : Requester) (addr size : Nat) (val : Word)
  -- sequence engine
  | ctxFetchDone (seq : Nat)
  | allocWaitGranted (acc : Nat)
  | allocWaitTimeout (acc : Nat)
  | selfFlushReserve (tile : Nat)
  | idleFlush (seq layer : Nat)
  | mapCommitFlush (tile pt : Nat)
  | seqSrSeedHi (req : Requester) (val : Word)
  -- Chanter
  | chnSalt (req : Requester) (idx : Nat) (val : Word)
  | camInsertPass (bank : Nat)
  | chnBankCfgApply (bank : Nat)
  -- attention and collectives
  /-- unit `unit` of ATTEND `acc` (the page index; the staging entry is the number of pages), read with outcome `dec` -/
  | gatherReadDone (acc unit : Nat) (err : UnitErr)
  | attendDeadline (acc : Nat)
  | attendComplete (acc : Nat)
  | collRx (port : Nat) (msg : CollMsg)
  | collAnsRx (port : Nat) (msg : CollMsg)
  | collHoldExpire (pt group opId member : Nat)
  | collectorDeadline (acc : Nat)
  | collRetxTimeout (acc : Nat)
  -- warm
  | windowLayerLoaded (acc layer : Nat)
  | kernelStepEnd (tile : Nat)
  | tileStepChange (tile : Nat)
  -- Bellows
  | sweepVisit (pt stack : Nat)
  | sweepT2Visit (pt : Nat)
  | sweepT0Visit (tile : Nat)
  | sketchDecay
  | leafIdle (leaf : Nat)
  | moveStart (slice : Nat)
  | moveBlockDone (cpn : Nat)
  /-- `ok`: every write of the destination is confirmed; `media`: the tier reports a media fault at the frame -/
  | moveConfirm (cpn : Nat) (ok media : Bool)
  | sourceRelease (cpn : Nat)
  -- HBM
  | hbmReadDone (stack offset : Nat) (err : UnitErr)
  | patrolRead (stack : Nat) (err : UnitErr)
  | hbcRetAdd (req : Requester) (stack : Nat) (val : Word)
  | blwT1Cfg (req : Requester) (val : Word)
  -- pool
  | extentOffer (port dc : Nat) (tag : List Byte) (range : DpaRange)
  | extentReleaseReq (port index : Nat)
  | extentDrainEnd (port index : Nat)
  | extentDrainTimeout (port index : Nat)
  | extRelease (req : Requester)
  | extReleaseEvac (req : Requester)
  /-- the response to request `id` of the port -/
  | cxlMemResponse (port : Nat) (what : CxlAns) (poison media : Bool)
  | ctrlLineGrant (port : Nat) (grant : Grant)
  | bisnpRx (port : Nat) (kind : SnoopKind) (lines : SnoopLines)
  | cxlPortFail (port : Nat)
  | rgnFormat (req : Requester) (val : Word)
  | ckptGo (req : Requester)
  | ckptTimer (pt : Nat)
  | ckptQuiesced (pt : Nat)
  | ckptWaitTimeout (pt : Nat)
  | ckptRestore (req : Requester)
  -- flash
  /-- a write of NVH_CFG: `flags` are EN and TRIM, bit 0 and bit 1 -/
  | nvhEnable (req : Requester) (flags slotLog2 : Nat)
  | nvmeCompletion (np cid : Nat) (st : NvmeStatus)
  | nvmeCmdTimeout (np cid : Nat)
  | nvmeAbortTimeout (np cid : Nat)
  | nvmeDriveFail (np : Nat)
  | reinit (req : Requester)
  | detach (req : Requester)
  -- common header, snapshots, clocks
  | snapRel (req : Requester) (page : Nat)
  | logRel (req : Requester) (page : Nat)
  | blkWorld (req : Requester) (page : Nat) (val : Word)
  | snpTrig (req : Requester)
  | snpRelease (req : Requester)
  | clkTileReq (req : Requester) (val : Word)
  | clkTileAll (req : Requester) (val : Word)
  | clkSsc (req : Requester) (val : Word)
  -- DMA
  | dmaStart (req : Requester)
  | dmaStop (req : Requester)
  | dmaClear (req : Requester)
  | dmaChSwreq (req : Requester) (val : Word)
  | dmaRequest (line : Nat)
  | dmaDescFetch (ch : Nat)
  | dmaBeat
  | dmaDescDone (ch : Nat)
  | dmaFenceDone (ch : Nat)
  | dmaCreditRefill
  -- Jurola link
  | jlkEn (req : Requester) (port : Nat) (val : Word)
  | signalDetect (port group : Nat)
  | eqDone (port lanes : Nat)
  | eqTimeout (port : Nat)
  | alignLock (port : Nat)
  | alignFail (port : Nat)
  | configBlockRx (port : Nat) (blk : CfgBlock)
  | linkDegrade (port lane : Nat)
  | rowLockLoss (port : Nat)
  | recoverDone (port lanes nextRx : Nat)
  | recoverTimeout (port : Nat)
  | retrain (req : Requester) (port : Nat)
  | down (req : Requester) (port : Nat)
  | rekey (req : Requester) (port : Nat)
  | codewordUncorrectable (port lane : Nat)
  | jlkAckRx (port next ctr : Nat) (authOk : Bool)
  | jlkNakRx (port next ctr : Nat) (authOk : Bool)
  | creditRx (port : Nat) (counts : List Nat) (ctr : Nat) (authOk : Bool)
  | keyRx (port newKgen fromSeq ctr : Nat) (authOk : Bool)
  | dataFrameRx (port : Nat) (frame : Frame) (authOk : Bool)
  | replayTimeout (port : Nat)
  | ackTimer (port : Nat)
  | creditTimer (port : Nat)
  | memCpl (port : Nat) (ans : HostAns) (off status : Nat) (data : List Byte)
  | wrAck (port tag : Nat)
  | memRdTimeout (port tag : Nat)
  -- management channel and SPDM
  | statusRd (port sel : Nat)
  | getVersion (port : Nat)
  | getCapabilities (port : Nat)
  | negotiateAlgorithms (port : Nat)
  | getDigests (port : Nat)
  | getCertificate (port slot offset len : Nat)
  | challenge (port : Nat) (nonce : List Byte)
  | getMeasurements (port index : Nat) (sign : Bool)
  | keyExchange (port : Nat) (pub : List Byte)
  | finish (port : Nat) (verified : Bool)
  | heartbeat (port : Nat)
  | keyUpdate (port : Nat)
  | endSession (port : Nat)
  | spdmUnsupported (port code : Nat)
  | sessionTimeout (port : Nat)
  | provision (port : Nat) (msg : List Byte)
  -- traffic
  | txFrameSelect (port : Nat)
  | gateEntryAdvance (port : Nat)
  | gateTakeover (port : Nat)
  -- fabric
  | fabForward (port : Nat) (pkt : Packet)
  | pktSendRx (port : Nat) (pkt : Packet)
  | pktPutRx (port : Nat) (pkt : Packet)
  | putLanded (cpn : Nat) (ok : Bool)
  | pktGetReqRx (port : Nat) (pkt : Packet)
  | pktGetDataRx (port : Nat) (pkt : Packet)
  | fabAckRx (port : Nat) (pkt : Packet)
  | odpHoldExpire (qpn psn : Nat)
  | qpcFetchDone (qpn : Nat)
  | qpRetxTimeout (qpn : Nat)
  | probeRx (port : Nat) (p : Probe)
  | discReportTimer
  | reportRx (port : Nat) (r : Report)
  | discReportQuiet
  | assignRx (port : Nat) (a : AssignMsg)
  | discTimeout
  | snapPacketRx (port : Nat) (id dev stamp : Nat)
  | fabDiscGo (req : Requester)
  | qpConnect (req : Requester)
  | qpReset (req : Requester)
  | keyCreate (req : Requester)
  | keyRevoke (req : Requester)
  | keyRevokeDone (key : Nat)
  -- security
  | scrub (req : Requester) (val : Word)
  | scrubStepEnd (pt : Nat)
  | scrubSweepEnd (pt tier : Nat)
  -- errors, counters, recorder
  | errorEntryPost (ring : Nat)
  | deviceFatal (cause : Nat)
  | counterGather
  | pmcClr (req : Requester) (tile n : Nat)
  | recMark (req : Requester) (val : Word)
  | recSegmentDone
  | recLossRecord
  | recReplay (req : Requester) (val : Word)
  | replayStep
  -- power, thermal, clocks
  | thermalDiffThrottle (tile nbr : Nat)
  | powerSample (sample : RailSample)
  | powerEval
  | thermalSample (qdeg : List Nat)
  | thermalLevelFall
  | thermalLimitStep
  | thermLevelSample
  | refclkLoss
  | prochotN (low : Bool)
  | pwrLimit (req : Requester) (val : Word)
  | pwrPtCeil (req : Requester) (val : Word)
  -- resets and boot
  | pwrOkRise
  | pwrOkFall
  | rstNLow
  | rstNRise
  | cold (req : Requester)
  | warmReset (req : Requester)
  | glbPortRst (req : Requester) (val : Word)
  | fuseLoad (drkOk attOk rngOk : Bool)
  | romSelfCheck (match_ : Bool) (failed : Nat)
  | memoryFillDone
  | hostPortWaitTimeout
  | attestationReady
  | bootStageTimeout
  | cxlPortUp (port width : Nat) (lopt : Bool)
  | nvmeLinkUp (np : Nat) (drive : DriveInfo)
  | perstHoldEnd (port : Nat)
  | spdmResponseRx (port code : Nat) (verified : Bool)
  | heartbeatSend (port : Nat)
  deriving DecidableEq, Repr

end Sys2Proof
end

