-- ==== Sys2Proof/Decode.lean ====
section
/-!
DEFINITION. The command that a word spells by the table's bits. No row of spec/opcode_table.json gives bits: a command of
this block is a register access, a host command in a ring, a frame, or an event, and none is a word of the table.
-/

namespace Sys2Proof

/-- The command spelled by the low `nbits` bits `w`: none, since the table gives no row any bits. -/
def decodeTableWord (_nbits _w : Nat) : Option Instr := none

end Sys2Proof
end

