-- ==== Sys2Proof/Config.lean ====
section
/-!
DEFINITION. What one implementation or one run fixes and the spec leaves open, as constants without a body: nothing can
evaluate them, so a statement holds for every value. Each is named in the assumption log.
-/

namespace Sys2Proof.Config

/-- A value the device draws or the spec leaves unstated: number n of the run (random generator draws of R126, R173, R386,
R457, R474; sampling of R263; undefined outputs). [DESIGN CHOICE, log 4] -/
opaque freeValue : Nat → BitVec 64

/-- Which of the FP32 values that lie within the bound of the spec around the true value a transcendental unit answers (R98, R193, R242): an index
into them, in rising order. First argument: the function (1 exp, 2 tanh, 3 erf, 4 rsqrt, 5 cos, 6 sin, 7 power, 8 division). [DESIGN CHOICE, log 5] -/
opaque ulpChoice : Nat → Nat → Nat

/-- The MAC-key-dependent part of a measurement signature and of every SPDM message body that cryptography makes (R410,
R488, R489): by message kind and number. [DESIGN CHOICE, log 4] -/
opaque spdmBytes : Nat → Nat → List (BitVec 8)

/-- The heartbeat period of an SPDM session in ns (R412): KEY_EXCHANGE negotiates it, and the spec gives no value. [DESIGN CHOICE, log 4] -/
opaque heartbeatNs : Nat

/-- The serial number fused at manufacture (R444). [DESIGN CHOICE, log 4] -/
opaque serial : BitVec 64

/-- Whether the part is an engineering sample (SEC_FUSE_STAT.ES). [DESIGN CHOICE, log 4] -/
opaque engineeringSample : Bool

/-- The device root key (R485). [DESIGN CHOICE, log 4] -/
opaque deviceRootKey : List (BitVec 8)

/-- The ROM digest fused at manufacture (R572). [DESIGN CHOICE, log 4] -/
opaque romDigest : List (BitVec 8)

/-- The stream into which the Bellows codes a page block after the shuffle of the given kind (R281): the spec fixes what a
decoder makes of a stream, not which stream the coder chooses. A stream that does not decode to the block is not used. [DESIGN CHOICE, log 4; DESIGN CHOICE, log 61] -/
opaque blockStream : Nat → List (BitVec 8) → List (BitVec 8)

/-- BLK_ERR_LOG1.DETAIL of the common error codes (R346, R349), by code and offset: the spec calls it code-specific and gives none for
them. [DESIGN CHOICE, log 4] -/
opaque errDetail : Nat → Nat → BitVec 16

/-- A byte of HBM's metadata carve-out, where MACs lie (R482, R483): by DEPOCH, the bytes HBM holds, and the address. [DESIGN CHOICE, log 4; DEDUCED, log 10] -/
opaque carveByte : Nat → List (Nat × BitVec 8) → Nat → BitVec 8

/-- Byte i of the MAC of a 256-byte unit (R482): by the partition's epoch, the tweak and the stored bytes. The keys lie in the security block.
[DEDUCED, log 10] [DEDUCED, log 10] -/
opaque unitMac : Nat → Nat → List (BitVec 8) → Nat → BitVec 8

end Sys2Proof.Config
end

