-- ==== Sys2Proof/Machine/State.lean ====
section
/-!
DEFINITION. The state of the QK4800 block as plain data: every register, table, queue, counter, mode and pin that the
spec names, unit by unit, the queue of waiting commands, and the state after reset. Defaults of the fields are the reset
values; the assumption log names those that the spec does not give.
-/

namespace Sys2Proof.Machine

/-! ### Sequences, profiles and pages -/

/-- A cache profile (R82) with its owning partition. -/
structure Profile where
  owner : Nat
  tppLog2 : Nat
  kFmt : Nat
  vFmt : Nat
  kvh : Nat
  hdimCode : Nat
  rotEn : Bool
  rotPair : Bool
  mute : Bool
  sr : Bool
  kvhBase : Nat
  rotDims : Nat
  rotBase : Nat
  rotPosScale : Nat
  deriving DecidableEq, Repr

/-- CTX_STATE of R87. -/
inductive CtxState where
  | free | open_ | closing
  deriving DecidableEq, Repr

/-- PARENT_KIND with PARENT (and PARENT_GEN) of R87. -/
inductive Parent where
  | none
  | seq (id : Nat)
  | handle (h gen : Nat)
  deriving DecidableEq, Repr

/-- A sequence context (R87). `stageTile = 0x3F`: no tile. The append lock's owner is the acceptance number of the
command holding it; LOCK_OWNER shows that command's ring. -/
structure Ctx where
  state : CtxState := .free
  pt : Nat := 0
  warmTarget : Bool := false
  tierHint : Nat := 0
  profile : Nat := 0
  layers : Nat := 0
  stageTile : Nat := 0x3F
  length : Nat := 0
  lockOwner : Option Nat := none
  lockRing : Nat := 0
  lockPtr : Nat := 0
  l1Addr : Nat := 0
  parent : Parent := .none
  forkLen : Nat := 0
  readers : Nat := 0
  epochOpen : Nat := 0
  openTime : Nat := 0
  lastAppend : Nat := 0
  tokensIn : Nat := 0
  attends : Nat := 0
  mutedPages : Nat := 0
  partials : Nat := 0
  cowCopies : Nat := 0
  poisonedLayers : Nat := 0
  deriving DecidableEq, Repr

/-- A page-table entry (R90). -/
structure Pte where
  cpn : Nat
  fill : Nat
  deriving DecidableEq, Repr

/-- A layer row (R88) with the layer's PTEs in page order (R90). `chunks`: the HBM addresses of the VALID chunks, CHUNK0 first; a chunk
holds 512 PTEs. -/
structure LayerRow where
  tokens : Nat := 0
  staged : Nat := 0
  poisoned : Bool := false
  ptes : List Pte := []
  chunks : List Nat := []
  deriving DecidableEq, Repr

/-- STATE of a location entry (R92, R107). -/
inductive PgState where
  | free | staging | resident | moving | sharedRo | poisoned | retired
  deriving DecidableEq, Repr

/-- TIER of a location entry (R92). -/
inductive Tier where
  | t0 | t1 | t2 | t3 | th
  deriving DecidableEq, Repr

/-- A location entry (R92). `addr` is ADDR; `mute` is MUTE_FRAME while MUTE_VALID. -/
structure Loc where
  tier : Tier := .t1
  state : PgState := .free
  compressed : Bool := false
  mute : Option Nat := none
  ret : PgState := .free
  published : Bool := false
  hard : Bool := false
  /-- in POISONED: HARD describes the mute frame (R284) -/
  hardMute : Bool := false
  addr : Nat := 0
  refcnt : Nat := 0
  age : Nat := 0
  /-- the bytes of the stored form, for a compressed page (R280) -/
  clen : Nat := 0
  deriving DecidableEq, Repr

/-- A staged token: its key and value rows in the form R100 stages them, KC4 keys in BF16. -/
structure StagedTok where
  pos : Nat
  key : List Byte
  val : List Byte
  deriving DecidableEq, Repr

/-- A staging entry (R102): the staged tokens of one (sequence, layer) on one tile, oldest first. -/
structure StageEntry where
  tile : Nat
  pt : Nat
  lastAppend : Nat
  /-- the epoch of the last command that appended to it -/
  epoch : Nat
  toks : List StagedTok
  deriving DecidableEq, Repr

/-- Granules of a flushed entry that issued ATTENDs still read (R105). -/
structure KeptStage where
  tile : Nat
  granules : Nat
  readers : List Nat
  deriving DecidableEq, Repr

/-- An APPEND that waits for granules (R102): its node and the end of its wait. -/
structure AllocWait where
  acc : Nat
  until_ : Nat
  deriving DecidableEq, Repr

/-- The sequence engine. Layer rows and staging entries are keyed by sequence × 256 + layer, location entries by
CPN. -/
structure Seq where
  ctxs : Tbl Ctx := []
  rows : Tbl LayerRow := []
  locs : Tbl Loc := []
  stage : Tbl StageEntry := []
  kept : List KeptStage := []
  allocWaits : List AllocWait := []
  /-- sequences whose context is in the context cache, and those being fetched (R87) -/
  cached : List Nat := []
  fetching : List Nat := []
  /-- per partition: R120's cursor, R91's next CPN of its range and the freed CPNs to reuse after the range's end -/
  cursor : List Nat := List.replicate 8 0
  nextCpn : List Nat := List.replicate 8 0
  freed : List (List Nat) := List.replicate 8 []
  /-- lockless flushes held until their tail page's move ends (R108): sequence × 256 + layer, and the cause (R520) -/
  heldFlush : List (Nat × Nat) := []
  /-- the rotating pointer of each location entry (R109) -/
  locPtr : Tbl Nat := []
  deriving DecidableEq, Repr

/-! ### Attention at the data -/

/-- The partial of one record over one unit, or a running fold: EMPTY, or (m, l, U) in FP32 (R188). `bad`: a NaN or an
infinity was met (R197). -/
structure Partial where
  empty : Bool := true
  bad : Bool := false
  m : Word := 0xFF800000
  l : Word := 0
  u : List Word := []
  deriving DecidableEq, Repr

/-- The result of one unit of an ATTEND: one partial and one count of visible tokens per record. -/
structure UnitRes where
  unit : Nat
  muted : Bool
  parts : List (Partial × Nat)
  deriving DecidableEq, Repr

/-- An issued ATTEND (R188, R203, R208). Units are page indices; the staging entry has the index after the last
page. -/
structure AttendOp where
  acc : Nat
  seq : Nat
  layer : Nat
  home : Nat
  /-- the tile of each page block, and the pages of a block (R194) -/
  blocks : List Nat := []
  blockPages : Nat := 8
  /-- the flushed count and the staged tokens noted at issue (R105) -/
  flushed : Nat
  staged : List StagedTok
  /-- the bitmap's bytes, read once at issue (R186) -/
  bitmap : List Byte
  /-- units not skipped whose read has not completed, in ascending order -/
  todo : List Nat
  /-- the command has begun on its tile, which has loaded the query block (R181) -/
  begun : Bool := false
  query : List Byte := []
  /-- units of `todo` that are to be read from their mute copy (R204) -/
  muted : List Nat := []
  /-- pages left out (R203) -/
  left : List Nat := []
  res : List UnitRes := []
  poisoned : Bool := false
  timedOut : Bool := false
  deadlineTaken : Bool := false
  deadlineAt : Option Nat := none
  deriving DecidableEq, Repr

/-- What stands for a member entry with VALID = 0. -/
def noMember : Nat := 2 ^ 15

/-- A group entry of the attention table (R213). `members` are device × 8 + partition by index (R214). -/
structure Group where
  id : Nat
  span : Bool
  ndev : Nat
  outFp32 : Bool
  hdimCode : Nat
  members : List Nat
  deriving DecidableEq, Repr

/-- A partition's attention table (R213). -/
structure AttnTable where
  statOff : Nat := 0x01000000
  bitmapMax : Nat := 0x02000000
  holdUs : Nat := 1000
  blockPages : Nat := 8
  landOff : Nat := 0
  landSize : Nat := 0
  groups : List Group := []
  deriving DecidableEq, Repr

/-- A contribution held by a collector: its member and its contents. -/
structure Contribution where
  member : Nat
  srcDev : Nat
  srcPt : Nat
  data : List Byte
  deriving DecidableEq, Repr

/-- An issued collector command (R218). -/
structure CollectorOp where
  acc : Nat
  pt : Nat
  group : Nat
  opId : Nat
  got : List Contribution
  deadlineAt : Option Nat
  deriving DecidableEq, Repr

/-- A contribution that waits in the landing area (R217), with its place there, the end of its hold, and the fields of its header that
the answer repeats (R216). -/
structure Landed where
  pt : Nat
  group : Nat
  opId : Nat
  member : Nat
  srcDev : Nat
  srcPt : Nat
  off : Nat
  size : Nat
  until_ : Nat
  data : List Byte
  epoch : Nat := 0
  len : Nat := 0
  nrec : Nat := 0
  ndev : Nat := 0
  deriving DecidableEq, Repr

/-- An issued contributor command that waits for its answer (R216), with R464's retransmission count. -/
structure ContribOp where
  acc : Nat
  pt : Nat
  group : Nat
  opId : Nat
  collector : Nat
  member : Nat
  sentAt : Nat
  retries : Nat
  msg : List Byte
  deriving DecidableEq, Repr

/-- Attention and the collectives. `ended`: (partition, group, OP_ID) of collector commands that have completed or whose
hold expired (R216). -/
structure Att where
  ops : Tbl AttendOp := []
  collectors : List CollectorOp := []
  landed : List Landed := []
  contribs : List ContribOp := []
  ended : List (Nat × Nat × Nat) := []
  deriving DecidableEq, Repr

/-! ### Memory tiers and the Bellows -/

/-- The policy entry of one partition (R292). -/
structure PolicyPt where
  lowPm : Nat := 20
  highPm : Nat := 40
  minPm : Nat := 5
  spillAge : Nat := 2
  hotKeep : Nat := 64
  t0Hot : Nat := 0
  coldT3 : Nat := 0
  order : List Nat := [1, 2, 0]
  compT2 : Bool := true
  compT3 : Bool := true
  coldT3En : Bool := false
  prefetchEn : Bool := true
  keepQ : Nat := 0
  t0Slots : Nat := 0
  allocWaitUs : Nat := 200
  deriving DecidableEq, Repr

/-- The migration policy table (R292). -/
structure Policy where
  sampleLog2 : Nat := 4
  hotSkipMax : Nat := 16
  decayMs : Nat := 100
  leafIdleMs : Nat := 0
  pts : List PolicyPt := List.replicate 8 {}
  deriving DecidableEq, Repr

/-- What a T1 frame, T0 slot, spill frame or host frame holds. -/
inductive FrameUse where
  | page (cpn : Nat)
  | mute (cpn : Nat)
  | leaf (n : Nat)
  | reserved (acc : Nat)
  /-- a spill or TH frame with a fault, never used again (R277) -/
  | faulty
  deriving DecidableEq, Repr

/-- What a queued or started move does. `dest` is the destination tier; `mute` builds a mute copy (R283); `evacMute`
moves a mute copy to a new frame; `leaf` moves a location leaf (R261). -/
inductive MoveKind where
  | page (dest : Tier)
  | mute
  | evacMute
  | leaf (toT2 : Bool)
  deriving DecidableEq, Repr

/-- A queued request (R271, R272): the page (or leaf), its class, in class 3 the acceptance number of the command that waits and its
deadline, and its number in the order of queueing. -/
structure MoveReq where
  cpn : Nat
  kind : MoveKind
  cls : Nat
  seq : Nat := 0
  ord : Nat := 0
  deadline : Option Nat := none
  home : Nat := 0
  retire : Bool := false
  deriving DecidableEq, Repr

/-- A started move (R275). `srcTier`, `srcAddr` are the source; `dst` the destination frame; `block` the blocks
copied; `out` the stored form written when the move compresses. -/
structure Move where
  cpn : Nat
  kind : MoveKind
  cls : Nat
  slice : Nat
  srcTier : Tier
  srcAddr : Nat
  srcCompressed : Bool := false
  dst : Nat
  block : Nat := 0
  page : List Byte := []
  compress : Bool := false
  /-- the deadline of a deadline move, and the home tile -/
  deadline : Option Nat := none
  home : Nat := 0
  /-- the size of the stored form, set when the last block has been coded -/
  clen : Nat := 0
  cancel : Bool := false
  retire : Bool := false
  /-- the frames are to be zeroed if the move ends in FREE (R113) -/
  zero : Bool := false
  /-- the header FILL held for the switch (R276), and whether WARM_HELD is to be cleared (R118) -/
  heldFill : Option Nat := none
  clearHeld : Bool := false
  deriving DecidableEq, Repr

/-- A sweep hand (R265). [DEDUCED, log 78] -/
structure Hand where
  frame : Nat := 0
  guarded : Nat := 0
  /-- free frames fell below LOW_PM and have not reached HIGH_PM since -/
  running : Bool := false
  stopped : Bool := false
  /-- the lap so far has started a spill or changed an AGE -/
  dirty : Bool := false
  lapFrom : Nat := 0
  deriving DecidableEq, Repr

/-- A location leaf with its directory entry (R261): its tier, its address (ADDR of its first spill frame in T2, HBM address in T1), MOVING, and
when an entry of it last changed. -/
structure Leaf where
  inT2 : Bool := false
  addr : Nat := 0
  moving : Bool := false
  changed : Nat := 0
  deriving DecidableEq, Repr

/-- The Bellows. -/
structure Blw where
  /-- queued requests, oldest first -/
  queue : List MoveReq := []
  moves : Tbl Move := []
  /-- order numbers given to queued requests -/
  reqNext : Nat := 0
  /-- sources that wait for their reads to end before release (step 6): by CPN, the frame (tier, address, retire) -/
  leaving : Tbl (Tier × Nat × Bool × Nat) := []
  /-- frames in use, per tier: T1 by ADDR, T0 by ADDR, T2 spill frames by partition × 2^48 + ADDR, TH by partition × 2^48
  + frame -/
  t1 : Tbl FrameUse := []
  t0 : Tbl FrameUse := []
  t2 : Tbl FrameUse := []
  th : Tbl FrameUse := []
  /-- frames never to be allocated again, although not yet retired (R288) -/
  condemned : List Nat := []
  /-- sweep hands: T1 by partition × 16 + stack, T2 by partition, T0 by tile -/
  hands : Tbl Hand := []
  t2Hands : Tbl Hand := []
  t0Hands : Tbl Hand := []
  sketch : Tbl Nat := []
  decayAt : Nat := 100000000
  leaves : Tbl Leaf := []
  deriving DecidableEq, Repr

/-- An HBM controller. `counts` is the table at HBC_ERR_BASE (R288); `retired` holds every retired frame, `log` the
logged ones with their causes (R289). -/
structure Hbc where
  excluded : Bool := false
  counts : Tbl Nat := []
  retired : List Nat := []
  log : List (Nat × Nat) := []
  ovf : Bool := false
  ceOuter : Nat := 0
  ceInner : Nat := 0
  ue : Nat := 0
  /-- the HBM address of the last uncorrectable unit (R515) -/
  lastUe : Nat := 0
  /-- offset of the next unit that patrol reads -/
  patrol : Nat := 0
  deriving DecidableEq, Repr

/-! ### Traffic scheduling -/

/-- A queue entry of the traffic table (R433). -/
structure QueueCfg where
  pt : Nat
  en : Bool := true
  vc : Nat
  band : Nat
  yband : Nat
  shapeEn : Bool := false
  mtype : Nat := 0
  demote : Bool := false
  quantum : Nat := 128
  idleRate : Nat := 0
  hiCredit : Nat := 0
  cir : Nat := 0
  cbs : Nat := 0
  pir : Nat := 0
  ebsPbs : Nat := 0
  deriving DecidableEq, Repr

/-- One port's section of the traffic table (R433): `map` gives for each key PT × 16 + VC × 4 + TC its queue, if VALID. -/
structure TrafficCfg where
  compat : Bool := false
  ovh : Nat := 0
  queues : List QueueCfg
  map : List (Option Nat)
  deriving DecidableEq, Repr

/-- The traffic table's reset section (R433). -/
def TrafficCfg.reset : TrafficCfg where
  queues := (List.range 64).map fun q =>
    { pt := q / 8, vc := q / 2 % 4, band := q % 2, yband := q % 2 }
  map := (List.range 128).map fun k => some (k / 16 * 8 + k / 4 % 4 * 2 + k % 4 / 2)

/-- One port's gate list (R429): entries of gates and duration. -/
structure GateList where
  baseTime : Nat := 0
  cycle : Nat := 0
  entries : List (Nat × Nat) := []
  deriving DecidableEq, Repr

/-- The head frame's colour (R437). -/
inductive Colour where
  | green | yellow | red | none
  deriving DecidableEq, Repr

/-- A queued frame: its traffic key, and a number by which its origin knows it. -/
structure QFrame where
  key : Nat
  frame : Frame
  /-- who may wait for a host write (R67, R375): 0 nobody, 1 + ring a submission ring, 2^40 + channel a DMA channel -/
  origin : Nat := 0
  deriving DecidableEq, Repr

/-- An egress queue. Credit and bucket levels are in thousandths of a byte. -/
structure EgQueue where
  frames : List QFrame := []
  deficit : Nat := 0
  credit : Int := 0
  tc : Nat := 0
  tx : Nat := 0
  colour : Colour := .none
  eband : Nat := 0
  elig : Bool := false
  vcBlock : Bool := false
  gateBlock : Bool := false
  shapeBlock : Bool := false
  redBlock : Bool := false
  deriving DecidableEq, Repr

/-- A traffic scheduler. -/
structure Tsc where
  cfg : TrafficCfg := .reset
  qs : List EgQueue := List.replicate 64 {}
  /-- CUR and HOLD of each band (R421) -/
  cur : List Nat := [63, 63, 63, 63]
  hold : List Bool := [false, false, false, false]
  /-- the running gate list with its start and running entry, and the pending one with its take-over time -/
  gates : GateList := {}
  gateStart : Nat := 0
  entry : Nat := 0
  pending : Option (GateList × Nat) := none
  /-- the time up to which credits and buckets have been brought -/
  at_ : Nat := 0
  /-- frames that wait with their origin for room in a full queue, oldest first (R416) -/
  stalled : List QFrame := []
  /-- partitions whose scrub is in progress (R436) -/
  scrubbing : List Nat := []
  /-- frames sent that left the port, newest first: what the far end sees -/
  sent : List Frame := []
  deriving DecidableEq, Repr

/-! ### Partitions and security -/

/-- The state of a partition (R474). -/
inductive PtState where
  | empty | keying | active | scrubbing | failed
  deriving DecidableEq, Repr

/-- A partition's entry of the partition map (R475). -/
structure MapEntry where
  valid : Bool := false
  strict : Bool := false
  tkey : Bool := false
  hp : Nat := 0
  xp : Nat := 0
  banks : Nat := 0
  np : Nat := 0
  cp : Nat := 0
  tiles : Nat := 0
  pc : List Nat := List.replicate 12 0
  seqBase : Nat := 0
  seqCount : Nat := 0
  deriving DecidableEq, Repr

/-- The partition map (R475): the working-area window of each stack, if it exists, and the eight entries; `raw` is the
staged bytes and `epoch` the epoch of its commit, which measurement 4 digests. -/
structure PtMap where
  wa : List (Option (Nat × Nat)) := List.replicate 12 none
  pts : List MapEntry := List.replicate 8 {}
  raw : List Byte := []
  epoch : Nat := 0
  deriving DecidableEq, Repr

/-- A running scrub (R490): its step, when it began, and ZERO. -/
structure Scrub where
  step : Nat := 0
  startedAt : Nat := 0
  zero : Bool := false
  deriving DecidableEq, Repr

/-- A partition as the security block holds it. `sweeps`: the tiers whose background sweep has not ended (R493). -/
structure Part where
  state : PtState := .empty
  pepoch : Nat := 0
  /-- the PEPOCH in use when a tenant provided it (R474) -/
  provEpoch : Option Nat := none
  ts : Option (List Byte) := none
  prk : List Byte := []
  seed : Nat := 0
  seedLo : Nat := 0
  scrub : Scrub := {}
  scrubUs : Nat := 0
  sweeps : List Nat := []
  therm : Nat := 0
  deriving DecidableEq, Repr

/-- The security block. -/
structure Sec where
  pts : List Part := List.replicate 8 {}
  depoch : Nat := 0
  drkOk : Bool := false
  attOk : Bool := false
  es : Bool := false
  serial : Nat := 0
  romDigest : List Byte := []
  deriving DecidableEq, Repr

/-- The route table (R446): PORT_UP and, for input port 0 to 7 or 8 (own packets), the routes that differ from 15. -/
structure Routes where
  portUp : Nat := 0
  out : Tbl Nat := []
  deriving DecidableEq, Repr

/-- The epoch-scoped tables of one epoch (R71). -/
structure EpochCfg where
  profiles : Tbl Profile := []
  /-- default deadline policy per partition: 0 WAIT, 1 MUTE, 2 PARTIAL (R80) -/
  dlp : List Nat := List.replicate 8 0
  gates : List GateList := List.replicate 12 {}
  pmap : PtMap := {}
  routes : Routes := {}
  policy : Policy := {}
  traffic : List TrafficCfg := List.replicate 12 .reset
  attn : List AttnTable := List.replicate 8 {}
  deriving DecidableEq, Repr


/-! ### Commands, rings and task graphs -/

/-- The status codes of R55. -/
inductive Status where
  | ok | muted | partialOk | empty
  | poisoned | timeout | revoked | busy | format | perm | staleEpoch | conflict | retry | invalid | nospace | aborted
  | device
  deriving DecidableEq, Repr

/-- What a command reports beside its header: STATUS, DETAIL0, DETAIL1 and RESULT of R54. -/
structure Comp where
  status : Status := .ok
  detail0 : Nat := 0
  detail1 : Nat := 0
  result : Nat := 0
  deriving DecidableEq, Repr

/-- The command header (R46). `deps` holds the node indices of the VALID dependence entries. -/
structure Header where
  opcode : Nat := 0
  gnode : Bool := false
  irq : Bool := false
  silent : Bool := false
  anyway : Bool := false
  tag : Nat := 0
  epoch : Nat := 0
  node : Nat := 0
  deps : List Nat := []
  deriving DecidableEq, Repr

/-- Bytes 16 to 63 of an APPEND (R50, layouts). -/
structure AppendCmd where
  seq : Nat
  layer : Nat
  ntok : Nat
  kFmt : Nat
  vFmt : Nat
  flushAfter : Bool
  pos0 : Nat
  kRef : Nat
  vRef : Nat
  deriving DecidableEq, Repr

/-- Bytes 16 to 63 of an ATTEND. -/
structure AttendCmd where
  seq : Nat
  layer : Nat
  qrows : Nat
  gqa : Nat
  maskKind : Nat
  outFp32 : Bool
  softcapEn : Bool
  dlp : Nat
  qFmt : Nat
  deadlineUs : Nat
  kvhFirst : Nat
  kvhCount : Nat
  scale : Nat
  softcap : Nat
  qpos0 : Nat
  qRef : Nat
  outRef : Nat
  mask : Nat
  deriving DecidableEq, Repr

/-- Bytes 16 to 63 of a HEAD_GATHER or SPAN_MERGE. -/
structure CollCmd where
  group : Nat
  collector : Nat
  isCollector : Bool
  ndev : Nat
  deadlineUs : Nat
  opId : Nat
  len : Nat
  srcRef : Nat
  dstRef : Nat
  deriving DecidableEq, Repr

/-- Bytes 16 to 63 of a PAGE_XFER. -/
structure XferCmd where
  device : Nat
  qpn : Nat
  localCpn : Nat
  remoteCpn : Nat
  key : Nat
  deriving DecidableEq, Repr

/-- A command's opcode-specific part (R50). -/
inductive Cmd where
  | nop
  | profileCreate (id recRef : Nat)
  | seqOpen (seq layers profile : Nat) (warmTarget : Bool) (tierHint : Nat)
  | seqFork (child : Nat) (ofHandle : Bool) (parent forkLen : Nat)
  | seqClose (seq : Nat) (zero : Bool)
  | append (a : AppendCmd)
  | flush (seq layer : Nat)
  | attend (a : AttendCmd)
  | headGather (c : CollCmd)
  | spanMerge (c : CollCmd)
  | prefixLookup (profile nblocks : Nat) (pin : Bool) (tokensRef outRef : Nat)
  | prefixPublish (seq nblocks : Nat) (pool pin : Bool) (region tokensRef : Nat)
  | prefixRef (handle op : Nat)
  | warm (seq tiles ntok imageRef tokensRef : Nat)
  | hint (seq layerFirst layerCount kind tier : Nat)
  | putPage (x : XferCmd)
  | getPage (x : XferCmd)
  | send (qpn len bufRef : Nat)
  | postRecv (qpn len bufRef : Nat)
  | region (op id version srcRef : Nat)
  | epochCommit (scope stageRef : Nat)
  | fence (arrive : Bool)
  | graphBegin (nnodes graphId : Nat) (cmode : Bool)
  deriving DecidableEq, Repr

/-- A node of the node store (R60): an accepted command until it completes. -/
structure Node where
  /-- the acceptance number (R520) -/
  acc : Nat
  /-- the global number of the submitting ring -/
  ring : Nat
  hdr : Header
  cmd : Cmd
  /-- the acceptance number of the GRAPH_BEGIN, for a graph node -/
  graph : Option Nat := none
  /-- acceptance numbers that must have completed first: ORD (R66) and FENCE (R67) -/
  waits : List Nat := []
  issued : Bool := false
  /-- it has been held under R75, and counted (EPOCH_HELD) -/
  epochHeld : Bool := false
  /-- the tile whose operation slot the node holds (R61) -/
  tile : Option Nat := none
  /-- time base at acceptance: the ATTEND deadline starts here -/
  accTime : Nat := 0
  /-- the seed latched at acceptance (R172) -/
  seed : Nat := 0
  /-- set when the command has ended and waits for NODE_COMPLETE -/
  outcome : Option Comp := none
  deriving DecidableEq, Repr

/-- A graph from its acceptance to its last node's completion (R64). -/
structure Graph where
  acc : Nat
  ring : Nat
  hdr : Header
  nnodes : Nat
  graphId : Nat
  cmode : Bool
  /-- node index and status of each completed node -/
  done : List (Nat × Status) := []
  deriving DecidableEq, Repr

/-- A fetched graph node: its header, its command or the outcome of its own failed checks, and its 64 bytes. -/
structure FetchedNode where
  hdr : Header
  cmd : Option Cmd
  bad : Comp
  raw : List Byte
  deriving DecidableEq, Repr

/-- What stands fetched and checked in a ring, not yet accepted: a command that may be accepted; a command or graph
that failed R56's checks has completed already and stands here no longer. `raw`: the command's 64 bytes. -/
inductive Fetched where
  | single (hdr : Header) (cmd : Cmd) (raw : List Byte)
  /-- GRAPH_BEGIN with the nodes that follow it, before and after the framing check (R57) -/
  | graph (hdr : Header) (nnodes graphId : Nat) (cmode checked : Bool) (raw : List Byte) (nodes : List FetchedNode)
  /-- it has completed without acceptance; its slots wait for the slots before them to be released -/
  | done
  deriving DecidableEq, Repr

/-- A submission ring (R36, R44). -/
structure SubRing where
  baseLo : Word := 0
  baseHi : Word := 0
  en : Bool := false
  sizeLog2 : Nat := 4
  ord : Bool := false
  mgr : Bool := false
  port : Nat := 0
  cq : Nat := 0
  halted : Bool := false
  coal : Word := 1
  /-- the doorbell's tail, the next slot to fetch and the released head (R37, R38) -/
  tail : Nat := 0
  next : Nat := 0
  head : Nat := 0
  /-- fetched items not yet accepted, each with the number of slots it occupies -/
  buf : List (Nat × Fetched) := []
  /-- the tag of an outstanding fetch from host memory and the number of slots it asks for -/
  fetch : Option (Nat × Nat) := none
  /-- the last accepted standalone command or graph of the ring -/
  lastAcc : Option Nat := none
  deriving DecidableEq, Repr

/-- A completion ring (R39, R42, R44). -/
structure CplRing where
  baseLo : Word := 0
  baseHi : Word := 0
  en : Bool := false
  sizeLog2 : Nat := 4
  port : Nat := 0
  /-- the SQ-only bits of DEP_RING_CFG as written: ORD, MGR and CQ -/
  ord : Bool := false
  mgr : Bool := false
  cqField : Nat := 0
  coal : Word := 1
  halted : Bool := false
  next : Nat := 0
  phase : Bool := true
  head : Nat := 0
  /-- entries written since the last interrupt message, and the time of the first of them -/
  unsignalled : Nat := 0
  firstAt : Nat := 0
  deriving DecidableEq, Repr

/-- A completion that waits in a partition's completion buffer (R40). SQ_HEAD and PHASE are set when it is written. -/
structure CplEntry where
  cq : Nat
  tag : Nat
  status : Status
  opcode : Nat
  epoch : Nat
  node : Nat
  graphId : Nat
  ring : Nat
  detail0 : Nat
  detail1 : Nat
  result : Nat
  time : Nat
  irq : Bool
  deriving DecidableEq, Repr

/-- An EPOCH_COMMIT held under R73: its node, its scope, and the tables it will make current. -/
structure HeldCommit where
  acc : Nat
  epoch : Nat
  scope : Nat
  cfg : EpochCfg
  /-- the staged sections that SCOPE names, in bit order, as read -/
  secs : List (List Byte)
  deriving DecidableEq, Repr

/-- The dependency tracker and the conductor cores. -/
structure Dep where
  /-- submission rings by global number, completion rings by partition × 64 + number; an unlisted ring is at reset -/
  sq : Tbl SubRing := []
  cq : Tbl CplRing := []
  /-- R43's pointer of each conductor core, 0 to 3 -/
  turn : List Nat := [0, 0, 0, 0]
  /-- accepted nodes by acceptance number -/
  nodes : Tbl Node := []
  graphs : Tbl Graph := []
  /-- the next acceptance number (R520) -/
  accNext : Nat := 1
  /-- DEP_PT_QUOTA -/
  quota : List Nat := List.replicate 8 8192
  /-- R40's buffer, oldest first -/
  cbuf : List (List CplEntry) := List.replicate 8 []
  /-- since when a partition's buffer has been full (CBUF_FULL_US of R508) -/
  cbufFull : List (Option Nat) := List.replicate 8 none
  epoch : Nat := 0
  prev : Nat := 0xFFFF
  /-- DEP_EPOCH_LAG -/
  lag : Nat := 0
  cfg : EpochCfg := {}
  cfgPrev : EpochCfg := {}
  held : Option HeldCommit := none
  /-- a made commit that has not completed: its node and the time it was made (R77) -/
  made : Option (Nat × Nat) := none
  /-- profiles staged since the last commit with SCOPE bit 0 (R82) -/
  staged : Tbl Profile := []
  deriving DecidableEq, Repr

/-! ### The prefix store and the Chanter -/

/-- STATE of a directory slot (R131). -/
inductive SlotState where
  | empty | live | tomb
  deriving DecidableEq, Repr

/-- A directory slot (R131). `cpns` is the CPN list, one CPN per layer. -/
structure DirSlot where
  hash : Nat := 0
  depth : Nat := 0
  pt : Nat := 0
  state : SlotState := .empty
  pinned : Bool := false
  inCam : Bool := false
  spoiled : Bool := false
  gen : Nat := 0
  refs : Nat := 0
  children : Nat := 0
  parent : Nat := 0x3FFFFFF
  profile : Nat := 0
  cpns : List Nat := []
  version : Nat := 0
  lastUse : Nat := 0
  region : Nat := 0
  deriving DecidableEq, Repr

/-- A VALID CAM word with its side word (R133). -/
structure CamWord where
  hash : Nat
  anchor : Nat
  depth : Nat
  pt : Nat
  slot : Nat
  ref : Bool := true
  pinned : Bool := false
  deriving DecidableEq, Repr

/-- A queued insertion pass: the words one publication or pin inserts (R136). `pinAcc`: the slot whose pin the pass
places, if any, with the command that waits for it. -/
structure CamPass where
  pt : Nat
  words : List CamWord
  pinSlot : Option Nat := none
  /-- GEN of that slot, which names the entry to be pinned -/
  pinGen : Nat := 0
  pinAcc : Option Nat := none
  deriving DecidableEq, Repr

/-- A CAM bank: words by position; a position with no word is a hole (R135). `cfg` is the CHN_BANK_CFG in effect,
`cfgNext` the written one that waits for the pass to end (R151). -/
structure Bank where
  words : Tbl CamWord := []
  hand : Nat := 0
  /-- the pass that runs, and those queued behind it, at most 16 -/
  running : Option CamPass := none
  queue : List CamPass := []
  cfg : Word := 4
  cfgNext : Option Word := none
  deriving DecidableEq, Repr

/-- The Chanter. -/
structure Chn where
  /-- directory slots by number -/
  dir : Tbl DirSlot := []
  banks : List Bank := List.replicate 8 {}
  /-- the 32-byte salt of each partition and whether software wrote it (R126) -/
  salt : List (List Byte) := List.replicate 8 (List.replicate 32 0)
  saltSrc : List Bool := List.replicate 8 false
  deriving DecidableEq, Repr

/-! ### Prefix warming -/

/-- An image header (R230); `lastNk` is LAST_NKERN in effect. -/
structure WImg where
  ntiles : Nat
  window : Nat
  prof : List Byte
  layers : Nat
  lastNk : Nat
  nkern : Nat
  nmat : Nat
  nten : Nat
  maxTok : Nat
  spadBytes : Nat
  winBytes : Nat
  embOut : Nat
  tenOff : Nat
  kernOff : Nat
  matOff : Nat
  imgLen : Nat
  deriving DecidableEq, Repr

/-- A tensor entry (R231); `stride` is the stride in effect. -/
structure WTen where
  fmt : Nat
  rmul : Nat
  radd : Nat
  cols : Nat
  off : Nat
  stride : Nat
  deriving DecidableEq, Repr

/-- A matrix entry (R232). -/
structure WMat where
  fmt : Nat
  atUse : Bool
  inArea : Bool
  rows : Nat
  cols : Nat
  nblk : Nat
  idxOff : Nat
  dataOff : Nat
  deriving DecidableEq, Repr

/-- A kernel descriptor (R240): the common fields, and all its 64 bytes for its parameters. -/
structure WKern where
  kop : Nat
  sr : Bool
  in0 : Nat
  in1 : Nat
  in2 : Nat
  out : Nat
  out2 : Nat
  wmat : Nat
  bmat : Nat
  raw : List Byte
  deriving DecidableEq, Repr

/-- A validated image with its tables (R234). -/
structure WImage where
  hdr : WImg
  tens : List WTen
  mats : List WMat
  kerns : List WKern
  deriving DecidableEq, Repr

/-- An issued WARM (R225 to R251). `image` is none until the image is validated; kernels run in table order with a barrier
between them (R236). -/
structure WarmOp where
  acc : Nat
  pt : Nat
  seq : Nat
  ntok : Nat
  imageRef : Nat
  tokensRef : Nat
  /-- the tiles of the image, in logical tile order (R226), and the scratchpad units reserved on each (R227) -/
  tiles : List Nat
  spadUnits : Nat
  image : Option WImage := none
  /-- the number of layers loaded into the window so far (R237), and the blocks held there: the stored bytes of block b of
  matrix entry m by m × 2^32 + b, expanded where MODE = 0 (R238) -/
  loaded : Nat := 0
  win : Tbl (List Byte) := []
  /-- the embedding has been gathered; the layer and the kernel that runs, and the tiles that have finished it -/
  embedded : Bool := false
  layer : Nat := 0
  kernel : Nat := 0
  finished : List Nat := []
  /-- since when the layer's first kernel has waited for the window (R237) -/
  waitFrom : Option Nat := none
  /-- pages written so far, with their layer, which a failure drops (R250) -/
  pages : List (Nat × Pte) := []
  deriving DecidableEq, Repr

/-- A tile: its clock, its slots, its WARM registers and its counters. -/
structure Tile where
  /-- the commands that hold the operation slots 0 to 15 (R31, R61), by acceptance number, and R228's pointer over the slots -/
  slots : List (Option Nat) := List.replicate 16 none
  slotPtr : Nat := 0
  /-- scratchpad units of 64 KiB reserved by WARMs (R227) -/
  reserved : Nat := 0
  stall : Nat := 0
  /-- the CLK step the tile runs at, its ceiling and its NBR bit (R357, R358) -/
  step : Nat := 24
  limit : Nat := 28
  nbr : Bool := false
  pinned : Bool := false
  /-- steps the temperature-difference rule holds the tile down by (R537) -/
  diffHold : Nat := 0
  /-- the fixed 64-bit counters TIL_CYCLES and after it (R508, R509), and the programmable counters (R510) -/
  cycles : Nat := 0
  cycAcc : Nat := 0
  pmc : List Nat := List.replicate 8 0
  deriving DecidableEq, Repr

/-- Warming. -/
structure Warm where
  ops : List WarmOp := []
  deriving DecidableEq, Repr

/-! ### The shared CXL pool -/

/-- An accepted extent (R299): its tag and the tag's fields, its host address in the port's window and its size in 64 MiB units.
`rbase` is BASE of a region extent and the index of a spill extent (R300). `valid = false`: given back. -/
structure Extent where
  /-- the port's DC region that it lies in (R296) -/
  dc : Nat := 0
  tag : List Byte
  kind : Nat
  pt : Nat
  region : Nat
  rbase : Nat
  base : Nat
  size : Nat
  draining : Bool := false
  drainAt : Nat := 0
  /-- its pages are being moved out (R315) -/
  evac : Bool := false
  valid : Bool := true
  deriving DecidableEq, Repr

/-- A version a partition holds open (R306), with the directory slots its import made (R308, R310). -/
structure OpenVersion where
  pt : Nat
  region : Nat
  version : Nat
  slot : Nat
  imported : List Nat
  deriving DecidableEq, Repr

/-- One update of a control line (R305): `claim` and `clear` set and clear bitmap bits of frames that share a line; the others name a version
record: `stage` writes it as STAGED, `live` makes it LIVE, `drop` FREE and `retire` RELEASING, `join` and `leave` add 1 to and subtract 1 from
READERS. `head` is the compare and swap of the head line. -/
inductive LineOp where
  | claim (frames : List Nat)
  | clear (frames : List Nat)
  | stage (slot : Nat)
  | head (slot : Nat)
  | live (slot : Nat)
  | drop (slot : Nat)
  | join (slot : Nat)
  | leave (slot : Nat)
  | retire (slot : Nat)
  deriving DecidableEq, Repr

/-- A publication at work (R309): the frames of its pages, the first frame of its table and how many, the frames whose bits it has set, the
directory slots of its delta, shallowest first, and the deepest one named. -/
structure PubJob where
  pages : List Nat
  table : Nat
  tableFrames : Nat
  taken : List Nat := []
  /-- the version record that the head line names, after step 6 -/
  slot : Nat := 0
  delta : List Nat
  top : Nat
  deriving DecidableEq, Repr

/-- What a row of line updates is for: a REGION command or publication by its acceptance number; `back` returns what a publication or an OPEN
took, and then ends it with a completion, or with none lets it try again; `reopen` opens a version after a restore (R318); `tidy` serves no command. -/
inductive LineUse where
  | openRec (acc slot : Nat)
  | publish (acc : Nat) (job : PubJob)
  | closeRec (acc slot : Nat)
  | releaseRec (acc slot : Nat)
  | back (acc top : Nat) (comp : Option Comp)
  | reopen (slot : Nat)
  | tidy
  deriving DecidableEq, Repr

/-- An outstanding ownership read: its id, its port, its region, the update that it is for and those that follow it. -/
structure LineReq where
  id : Nat
  port : Nat
  region : Nat
  pt : Nat
  use : LineUse
  op : LineOp
  rest : List LineOp := []
  deriving DecidableEq, Repr

/-- An outstanding CXL.mem request of a move (R315): the page whose source it reads or destination it writes. -/
structure CxlReq where
  id : Nat
  port : Nat
  /-- the extent's index on the port -/
  ext : Nat
  cpn : Nat
  write : Bool
  deriving DecidableEq, Repr

/-- A checkpoint's sections as stored (R317). -/
structure Checkpoint where
  gen : Nat
  pt : Nat
  dev : Nat
  epoch : Nat
  time : Nat
  seqBase : Nat
  seqCount : Nat
  profiles : Tbl Profile
  ctxs : Tbl Ctx
  rows : Tbl LayerRow
  locs : Tbl Loc
  dir : Tbl DirSlot
  opens : List (Nat × Nat)
  tags : List (List Byte)
  deriving DecidableEq, Repr

/-- The checkpoint engine's state of one partition (CXH_CKPT_STAT). -/
structure Ckpt where
  state : Nat := 0
  gen : Nat := 0
  /-- the last period's start, and the start of the running checkpoint's wait -/
  last : Nat := 0
  waitFrom : Nat := 0
  deriving DecidableEq, Repr

/-- A CXL port. -/
structure CxlPort where
  up : Bool := false
  width : Nat := 0
  lopt : Bool := false
  failed : Bool := false
  /-- accepted extents by index, in order of acceptance -/
  exts : List Extent := []
  /-- snoops that wait for an update of their lines: region, first line, number of lines. The first 64 are outstanding, the others
  are still in the link -/
  snoops : List (Nat × Nat × Nat) := []
  deriving DecidableEq, Repr

/-- The CXL host. What a region holds stands in the pool's memory; `failed` lists the regions failed on this device (R316). -/
structure Cxh where
  ports : List CxlPort := [{}, {}]
  failed : List Nat := []
  opens : List OpenVersion := []
  lines : List LineReq := []
  /-- the directory slots that a publication whose pool step waits has made, by its acceptance number -/
  news : Tbl (List Nat) := []
  reqs : List CxlReq := []
  idNext : Nat := 0
  ckpt : List Ckpt := List.replicate 8 {}
  deriving DecidableEq, Repr

/-! ### The flash tier -/

/-- STATE of a drive (R337). -/
inductive DriveState where
  | absent | training | initialising | ready | failed | refused
  deriving DecidableEq, Repr

/-- An admin command of bring-up and of a drive's events (R321, R323). -/
inductive AdminOp where
  | identifyController | identifyNamespace | setQueueCount | createCompletionQueue (n : Nat) | createSubmissionQueue (n : Nat)
  | setWriteCache | getWriteCache | asyncEvent | getLogPage
  deriving DecidableEq, Repr

/-- A drive command: of a page transfer (R330, R331), Deallocate (R329), the label's Write (R327), and admin commands. -/
inductive NvmeKind where
  | dataRead | macRead | dataWrite | macReadForWrite | macWrite | trim | label | admin (op : AdminOp) | abort (cid : Nat)
  deriving DecidableEq, Repr

/-- A drive command: its queue pair (R324; 4 is the admin queue pair), its page and slot, the first LBA and the number of sectors of NSID 1 that it
reads, writes or deallocates (R327), whether it carries FUA (R323), the page buffer that its PRP list names (R325), and the time it was submitted. -/
structure NvmeCmd where
  cid : Nat
  queue : Nat
  kind : NvmeKind
  cpn : Nat
  slot : Nat
  lba : Nat := 0
  sectors : Nat := 0
  fua : Bool := false
  buf : Nat := 0
  at_ : Nat
  timedOut : Bool := false
  deriving DecidableEq, Repr

/-- A page transfer of a drive (R325): its page buffer, the queue of its slice, whether its commands have been submitted, what of it still runs, and
how it has ended so far. -/
structure Xfer where
  cpn : Nat
  slot : Nat
  write : Bool
  buf : Nat := 0
  queue : Nat := 0
  sent : Bool := true
  left : Nat
  bad : Bool := false
  media : Bool := false
  deriving DecidableEq, Repr

/-- A drive. Slot states by local slot (R328): 1 in use, 2 lost, 3 retired; an unlisted slot is free. -/
structure Drive where
  state : DriveState := .absent
  cause : Nat := 0
  width : Nat := 0
  gen5 : Bool := false
  fua : Bool := false
  detaching : Bool := false
  sectors : Nat := 0
  groups : Nat := 0
  slots : Nat := 0
  slot : Tbl Nat := []
  cursor : List Nat := List.replicate 8 0
  /-- what the drive reports, once its link has trained, and the admin commands of bring-up that are still to come -/
  info : Option DriveInfo := none
  steps : List AdminOp := []
  cmds : List NvmeCmd := []
  /-- commands that wait for room in their queue pair (R324) -/
  sqWait : List NvmeCmd := []
  xfers : List Xfer := []
  /-- moves out of T3 that wait for a page buffer (R325), oldest first -/
  bufWait : List Nat := []
  cidNext : Nat := 0
  /-- the groups whose lock is held, with the page that holds it, and those waiting (R330) -/
  locks : List (Nat × Nat) := []
  lockWait : List (Nat × Nat) := []
  /-- slots that wait for TRIM or for their commands before they become free, with the queue of the slice that released each -/
  freeing : List (Nat × Nat) := []
  /-- nanoseconds of the last 256 completed data reads and writes (R336), newest first -/
  readNs : List Nat := []
  writeNs : List Nat := []
  deriving DecidableEq, Repr

/-- The NVMe host controller. -/
structure Nvh where
  drives : List Drive := List.replicate 16 {}
  deriving DecidableEq, Repr

/-! ### The DMA engine -/

/-- STATE of a DMA channel (R378). -/
inductive ChState where
  | idle | running | waiting | stopping | stopped | error | fencing
  deriving DecidableEq, Repr

/-- A DMA descriptor (R364). -/
structure Desc where
  op : Nat
  swrap : Nat
  dwrap : Nat
  scont : Bool
  dcont : Bool
  len : Nat
  src : Nat
  dst : Nat
  /-- where it was fetched from, and the error (R377) that it ends the channel with, 0 for none -/
  addr : Nat
  err : Nat
  deriving DecidableEq, Repr

/-- A DMA channel (R360 to R378). -/
structure DmaCh where
  state : ChState := .idle
  err : Nat := 0
  pend : Nat := 0
  ovr : Bool := false
  count : Nat := 0
  dpos : Nat := 0
  /-- address of the next descriptor to fetch, and the fetched ones that have not run, oldest first (R366) -/
  fetchAt : Nat := 0
  fetched : List Desc := []
  /-- the running descriptor's start addresses and bytes read and written -/
  srcBase : Nat := 0
  dstBase : Nat := 0
  rd : Nat := 0
  wr : Nat := 0
  started : Bool := false
  /-- beats read and not yet written (R372) -/
  buf : List (List Byte) := []
  /-- bytes asked of host memory for the next beats, and those that have come (R405) -/
  want : Nat := 0
  part : List Byte := []
  /-- beats left of the current burst (R368) -/
  burst : Nat := 0
  credits : Nat := 0
  mover : Bool := false
  /-- the mover it holds, 0 to 3 -/
  moverNo : Nat := 0
  stopReq : Bool := false
  /-- where the previous transfer ended, for SCONT and DCONT (R367) -/
  srcEnd : Option Nat := none
  dstEnd : Option Nat := none
  /-- a write that has left failed: the next FENCE reports it (R377) -/
  writeFailed : Bool := false
  /-- pre-empted with beats in its buffer, which it writes before it reads further (R372) -/
  drain : Bool := false
  irq : Bool := false
  deriving DecidableEq, Repr

/-- The DMA engine: its channels and R371's pointer. -/
structure Dma where
  chs : List DmaCh := List.replicate 64 {}
  ptr : Nat := 0
  deriving DecidableEq, Repr

/-! ### The Jurola link -/

/-- The training state of a port (R387). -/
inductive LinkState where
  | disabled | detect | eq | align | config | active | recover | down
  deriving DecidableEq, Repr

/-- What an outstanding MEM_RD is for (R407). -/
inductive ReadUse where
  | ringFetch (ring : Nat)
  | movePage (cpn : Nat)
  | dmaBeats (ch : Nat)
  deriving DecidableEq, Repr

/-- An outstanding MEM_RD (R405). -/
structure MemRd where
  tag : Nat
  addr : Nat
  bytes : Nat
  got : List Byte
  at_ : Nat
  use : ReadUse
  deriving DecidableEq, Repr

/-- A frame held for replay (R393), with the key generation under which it was first sent. -/
structure HeldFrame where
  fseq : Nat
  frame : Frame
  deriving DecidableEq, Repr

/-- A control frame to send (R391). -/
inductive CtlFrame where
  | ack (next : Nat)
  | nak (next : Nat)
  | credit
  | key (kgen fromSeq : Nat)
  deriving DecidableEq, Repr

/-- The SPDM session state of a port's management channel (R410 to R412). -/
inductive SpdmState where
  | none | versioned | capable | negotiated | handshake | established
  deriving DecidableEq, Repr

/-- A management message part: its type and data (R409). -/
structure MgmtMsg where
  mtype : Nat
  data : List Byte
  deriving DecidableEq, Repr

/-- A Jurola port. Ports 0 to 3 are HP0 to HP3, 4 to 11 are XP0 to XP7. [DEDUCED, log 95] -/
structure Jlk where
  state : LinkState := .disabled
  /-- WIDTH code: 0 = ×8, 1 = ×4, 2 = ×2 -/
  width : Nat := 0
  lanes : Nat := 0
  passed : Nat := 0
  /-- the first lane and the width code of the group being aligned -/
  group : Nat := 0
  groupWidth : Nat := 0
  master : Bool := false
  cause : Nat := 0
  /-- when the port entered its state, and whether a RECOVER equalises again -/
  stateAt : Nat := 0
  retraining : Bool := false
  nonce : Nat := 0
  /-- the configuration block last sent (R386) -/
  sent : Option CfgBlock := none
  /-- the sender: next FSEQ, frames held for replay, replay point, replays without an advance (R393, R394) -/
  txSeq : Nat := 0
  held : List HeldFrame := []
  replayFrom : Option Nat := none
  replays : Nat := 0
  advanceAt : Nat := 0
  /-- the receiver: NEXT, bytes accepted since the last ACK, and whether it waits for a SYNC row -/
  rxNext : Nat := 0
  rxSince : Nat := 0
  ackAt : Option Nat := none
  discarding : Bool := false
  tagFails : Nat × Nat := (0, 0)
  /-- credits per channel (VC0 to VC3, VCM; R396): to send, the limit, the far end's last cumulative count, and those used; to receive,
  those used, those of frames that have left the buffer, and those reported; since when one is owed, and the last CREDIT frame -/
  txLimit : List Nat := [0, 0, 0, 0, 0]
  txCount : List Nat := [0, 0, 0, 0, 0]
  txUsed : List Nat := [0, 0, 0, 0, 0]
  rxUsed : List Nat := [0, 0, 0, 0, 0]
  rxReturned : List Nat := [0, 0, 0, 0, 0]
  rxSent : List Nat := [0, 0, 0, 0, 0]
  owedAt : Option Nat := none
  creditAt : Nat := 0
  /-- received frames that stand in the buffer, per channel, oldest first -/
  rxBuf : List (List Frame) := [[], [], [], [], []]
  /-- control frames and management messages to send -/
  ctl : List CtlFrame := []
  mgmt : List MgmtMsg := []
  txCtr : Nat := 0
  rxCtr : Nat := 0
  /-- while the port's strict owner is scrubbed: the microsecond, and the frames sent in it (R491) -/
  scrubAt : Nat × Nat := (0, 0)
  /-- keys: installed, generations, a receive generation to come with its first FSEQ, and frames sent under the present one (R400) -/
  keyed : Bool := false
  kgenTx : Nat := 0
  kgenRx : Nat := 0
  nextRxGen : Option (Nat × Nat) := none
  kgenSince : Nat := 0
  spdm : SpdmState := .none
  session : Bool := false
  heartbeatAt : Nat := 0
  /-- the part of a management message received so far -/
  mgmtIn : List Byte := []
  /-- outstanding host reads (R405), the next tag, the next write number, and the writes sent and not yet acknowledged, oldest
  first, each with its number and its origin -/
  reads : List MemRd := []
  readTag : Nat := 0
  wrNum : Nat := 0
  unacked : List (Nat × Nat) := []
  /-- counters of R413 -/
  fecCorr : Nat := 0
  fecUncorr : Nat := 0
  replayCnt : Nat := 0
  recoverCnt : Nat := 0
  authFail : Nat := 0
  /-- per logical lane: uncorrectable codewords in the current 1 ms window, the window's start, SNR and polarity -/
  laneUcw : List Nat := List.replicate 8 0
  laneAt : List Nat := List.replicate 8 0
  lanePhys : List Nat := [0, 1, 2, 3, 4, 5, 6, 7]
  laneInv : List Bool := List.replicate 8 false
  laneSnr : List Nat := List.replicate 8 0
  deriving DecidableEq, Repr

/-! ### The fabric and remote access -/

/-- STATE of a queue pair (R450, R451). -/
inductive QpState where
  | reset | ready | error
  deriving DecidableEq, Repr

/-- A request that the initiator keeps until its answer (R452): its command and its current PSN. -/
structure QpReq where
  acc : Nat
  psn : Nat
  /-- its packets have been sent -/
  sent : Bool := false
  deriving DecidableEq, Repr

/-- A posted receive (R463): the POST_RECV's node, its buffer, its length. -/
structure PostedRecv where
  acc : Nat
  bufRef : Nat
  len : Nat
  deriving DecidableEq, Repr

/-- A queue-pair context (R450). `ansLog` holds, for each PSN below EXP_PSN, newest first, its answer or 15. -/
structure Qpc where
  state : QpState := .reset
  pt : Nat := 0
  pd : Nat := 0
  peerDev : Nat := 0
  peerPt : Nat := 0
  peerQpn : Nat := 0
  sndPsn : Nat := 0
  reqs : List QpReq := []
  unaAt : Nat := 0
  retries : Nat := 0
  expPsn : Nat := 0
  ansLog : List Nat := []
  rq : List PostedRecv := []
  pktsTx : Nat := 0
  pktsRx : Nat := 0
  busyRx : Nat := 0
  deriving DecidableEq, Repr

/-- STATE of a key (R469). -/
inductive KeyState where
  | free | valid | revoking
  deriving DecidableEq, Repr

/-- A memory key (R457). [DESIGN CHOICE, log 96] -/
structure Key where
  state : KeyState := .free
  owner : Nat := 0
  pd : Nat := 0
  write : Bool := false
  layerFirst : Nat := 0
  layers : Nat := 0
  cpn : Nat := 0
  span : Nat := 0
  seq : Nat := 0
  gen : Nat := 0
  check : Nat := 0
  err : Nat := 0
  inflight : Nat := 0
  /-- window CPNs on which a page has landed -/
  landed : List Nat := []
  /-- the key's rotating pointer (R468) -/
  ptr : Nat := 0
  deriving DecidableEq, Repr

/-- A transfer or message that assembles at the target (R461, R466): by (QPN, PSN). `ok = false`: refused, the rest of its
packets is discarded. -/
structure Assembly where
  qpn : Nat
  psn : Nat
  isPut : Bool
  ok : Bool
  key : Nat
  cpn : Nat
  frame : Nat
  nextSeg : Nat
  data : List Byte
  complete : Bool := false
  deriving DecidableEq, Repr

/-- A GET_DATA transfer that arrives at the initiator for a GET_PAGE (R460), with the landing CPN's key. -/
structure GetIn where
  acc : Nat
  qpn : Nat
  psn : Nat
  frame : Nat
  data : List Byte
  /-- all its packets have come, its page has landed, and its ACK has come -/
  whole : Bool := false
  landed : Bool := false
  acked : Bool := false
  deriving DecidableEq, Repr

/-- A GET_REQ in an on-demand hold (R462). -/
structure OdpHold where
  qpn : Nat
  psn : Nat
  cpn : Nat
  key : Nat
  until_ : Nat
  pkt : Packet
  deriving DecidableEq, Repr

/-- Discovery as this device sees it (R443 to R445). -/
structure Disc where
  state : Nat := 0
  dgen : Nat := 0
  seenDgen : Option Nat := none
  level : Option Nat := none
  parent : Option Nat := none
  startedAt : Nat := 0
  reportAt : Option Nat := none
  lastReport : Nat := 0
  /-- per port: the neighbour's serial, port and ID as its PROBE showed them -/
  neigh : Tbl Probe := []
  /-- the root's last report of each device, and the IDs it has given, by serial -/
  reports : List Report := []
  ids : List (Nat × Nat) := []
  levels : Nat := 0
  unassigned : Nat := 0
  deriving DecidableEq, Repr

/-- The fabric router. -/
structure Fab where
  devId : Nat := 0xFFF
  idValid : Bool := false
  disc : Disc := {}
  /-- entries dead until the next route commit because their port went DOWN (R449) -/
  deadPorts : List Nat := []
  qps : Tbl Qpc := []
  cached : List Nat := []
  fetching : List Nat := []
  miss : List (Nat × Packet) := []
  keys : Tbl Key := []
  asms : List Assembly := []
  gets : List GetIn := []
  holds : List OdpHold := []
  drop : Nat := 0
  /-- packets that this device addressed to itself and that have not been delivered (R448) -/
  loop : List Packet := []
  deriving DecidableEq, Repr


/-! ### Errors, counters, snapshots, the recorder -/

/-- An error entry before it is posted (R501, R502). -/
structure ErrEntry where
  code : Nat
  cls : Nat
  page : Nat
  epoch : Nat
  kind : Nat
  layer : Nat
  detail1 : Nat
  object : Nat
  time : Nat
  deriving DecidableEq, Repr

/-- An error ring's buffer (R503): ring 0 to 7 a partition's, 8 the secure world's. `lost`: drops since the last entry. -/
structure ErrBuf where
  entries : List ErrEntry := []
  lost : Nat := 0
  deriving DecidableEq, Repr

/-- The counter gatherer, the values its comparators saw last (R513), and the counters of the blocks. -/
structure Cnt where
  bufs : List ErrBuf := List.replicate 9 {}
  errLost : Nat := 0
  /-- the pointer over page numbers (R503) -/
  ptr : Nat := 0
  gatherNo : Nat := 0
  gatherAt : Nat := 0
  /-- counters by (page × 256 + index) × 16 + partition, 15 for events that no partition caused (R507) -/
  vals : Tbl Nat := []
  thrLast : List Nat := List.replicate 8 0
  deriving DecidableEq, Repr

/-- The snapshot area of a page (R351). -/
structure Snap where
  id : Nat
  src : Nat
  time : Nat
  skew : Nat
  words : List Nat
  deriving DecidableEq, Repr

/-- A page's error log (R348). -/
structure ErrLog where
  code : Nat
  fieldLsb : Nat := 0
  more : Nat := 0
  offset : Nat := 0
  detail : Nat := 0
  secure : Bool := false
  pt : Nat := 0
  src : Nat := 5
  time : Nat := 0
  deriving DecidableEq, Repr

/-- The common header of a page (R346). -/
structure Page where
  irqStat : Nat := 0
  irqEn : Nat := 0
  log : Option ErrLog := none
  secure : Bool := false
  lock : Bool := false
  snap : Option Snap := none
  /-- R343's pointer and R348's -/
  ptr : Nat := 0
  /-- high words latched by low-word reads and not read since (R15), by the high word's offset -/
  latch : Tbl Nat := []
  deriving DecidableEq, Repr

/-- The snapshot controller (R352 to R354). -/
structure Snp where
  nextId : Nat := 0
  lastId : Nat := 0
  lastSrc : Nat := 0
  lastTime : Nat := 0
  missed : Nat := 0
  deriving DecidableEq, Repr

/-- A record of the input recorder (R519, R520): its type, partition and world, REF, time and body. -/
structure Record where
  rtype : Nat
  pt : Nat
  secure : Bool := false
  ref : Nat
  time : Nat
  body : List Byte
  deriving DecidableEq, Repr

/-- The input recorder and the replay engine. `buf`: records in the on-die buffer, oldest first; `seg`: bytes used and
records of the segment being written; `pts`: recorded partitions whose recording runs. -/
structure Rec where
  state : Nat := 0
  running : List Nat := []
  replayable : List Nat := []
  buf : List Record := []
  segNo : Nat := 0
  used : Nat := 0
  count : Nat := 0
  segTime : Nat := 0
  lost : Nat := 0
  /-- per partition: records dropped since its last LOSS record -/
  lostPending : List Nat := List.replicate 8 0
  issues : List Nat := List.replicate 8 0
  /-- replay: state, position in the recording, ISSUE records taken, and the first divergence -/
  replay : Nat := 0
  pos : Nat := 0
  replayIssues : Nat := 0
  late : Tbl (List (Nat × Bool)) := []
  div : Option (Nat × Nat) := none
  /-- replay: its own completions by acceptance number, with their OUT_HASH; addresses of the recorded reads of host memory by port × 2^16
  + tag; and the graph whose nodes are being taken, with its ring and acceptance number -/
  own : Tbl (List Byte) := []
  readAddr : Tbl Nat := []
  graph : Option (Nat × Nat × List (List Byte)) := none
  /-- OUT_HASH input of each running command: the bytes it wrote outside, in order (R521) -/
  outBytes : Tbl (List Byte) := []
  deriving DecidableEq, Repr

/-! ### Power, thermal, clocks -/

/-- The power manager (R549 to R555). -/
structure Pwr where
  ceil : Nat := 28
  stage : Nat := 0
  hold : Nat := 0
  reedHold : Bool := false
  /-- the last 10 and the last 1,000 package samples in watts, newest first -/
  fast : List Nat := []
  slow : List Nat := []
  railMv : List Nat := List.replicate 10 0
  railAmps : List Nat := List.replicate 10 0
  uv : List Bool := List.replicate 10 false
  ov : List Bool := List.replicate 10 false
  /-- consecutive samples below 90 % and above 110 % of nominal -/
  low : List Nat := List.replicate 10 0
  high : List Nat := List.replicate 10 0
  recoverAt : Nat := 0
  temps : List Nat := List.replicate 64 0
  level : Nat := 0
  /-- since when the condition of a lower level has held -/
  lowSince : Option Nat := none
  prochot : Bool := false
  /-- die tiles' LIMIT reductions by level 2 and by R537 -/
  thermDrop : List Nat := List.replicate 48 0
  thermtrip : Bool := false
  /-- every tile is held at step 0 since level 3 (R554) -/
  heldCold : Bool := false
  energyUj : Nat := 0
  deriving DecidableEq, Repr

/-! ### Reset, boot and pins -/

/-- Boot and the low-speed pins (R560, R567 to R578). -/
structure Boot where
  stage : Nat := 0
  code : Nat := 0
  halted : Bool := false
  fatal : Bool := false
  cause : Nat := 1
  prevStage : Nat := 0
  prevCode : Nat := 0
  stageAt : Nat := 0
  startAt : Nat := 0
  /-- when the Jurola ports began to train -/
  trainAt : Nat := 0
  bootUs : Nat := 0
  excl : Nat := 0
  pwrOk : Bool := false
  rstN : Bool := false
  warmRunning : Bool := false
  romOk : Bool := false
  attReady : Bool := false
  /-- PERST_N of NP0 to NP15 and CP0, CP1: true = high -/
  perst : List Bool := List.replicate 18 false
  /-- ports in a port reset, by R502's code, with the end of the PERST hold -/
  portReset : Tbl Nat := []
  deriving DecidableEq, Repr

/-- The clock block (R357, R557). -/
structure Clk where
  lock : Bool := false
  refOk : Bool := false
  /-- the spread in effect and since when a written one waits (R357) -/
  ssc : Nat := 0
  deriving DecidableEq, Repr


/-! ### The whole state -/

/-- Memory: bytes by address in one canonical form, keys rising and no zero byte listed. -/
abbrev Memory := List Host.Cell

/-- The memories the device reaches. HBM by R258's address; host memory by port × 2^64 + bus address; pool memory by port
× 2^48 + window address; flash by drive × 2^48 + byte address; scratchpads by tile × 2^24 + offset. -/
structure Mems where
  hbm : Memory := []
  host : Memory := []
  pool : Memory := []
  flash : Memory := []
  spad : Memory := []
  /-- 256-byte units that read as poison: HBM address / 256 -/
  badUnits : List Nat := []
  /-- pool lines that read as poison: (port × 2^48 + address) / 64 -/
  badLines : List Nat := []
  /-- host-memory lines whose read fails for a command (R407): (port × 2^64 + address) / 64 -/
  badHost : List Nat := []
  /-- the sections of the checkpoints that lie in the pool, by the pool place of their header -/
  ckpts : Tbl Checkpoint := []
  deriving DecidableEq, Repr

/-- The state of the block. -/
structure State where
  /-- commands that wait, first in, first out -/
  pending : List Instr := []
  /-- the device time base in ns, the phase of R356's five-cycle pattern, and the counter behind every free value -/
  time : Nat := 0
  phase : Nat := 0
  fresh : Nat := 0
  /-- RW registers without unit state of their own: by (page × 65536 + offset) × 2^20 + bank; an unlisted one holds its
  reset value -/
  regs : Tbl Word := []
  pages : Tbl Page := []
  /-- rotating pointers that no unit record holds (R69, R531), by point -/
  ptrs : Tbl Nat := []
  mems : Mems := {}
  boot : Boot := {}
  clk : Clk := {}
  pwr : Pwr := {}
  sec : Sec := {}
  dep : Dep := {}
  seq : Seq := {}
  chn : Chn := {}
  att : Att := {}
  warm : Warm := {}
  tiles : List Tile := List.replicate 48 {}
  blw : Blw := {}
  hbc : List Hbc := List.replicate 12 {}
  nvh : Nvh := {}
  cxh : Cxh := {}
  fab : Fab := {}
  dma : Dma := {}
  cnt : Cnt := {}
  snp : Snp := {}
  rec_ : Rec := {}
  jlk : List Jlk := List.replicate 12 {}
  tsc : List Tsc := List.replicate 12 {}
  deriving DecidableEq, Repr

/-- The machine right after reset: every field at its reset value (R567 to R578), no command waiting. [DESIGN CHOICE, log 3; DESIGN CHOICE, log 7; DEDUCED, log 9] -/
def State.reset : State := {}

/-- The reasons a step can fault. No command of this block faults: an error of the device is an error log entry, an error
event or a completion status, all of them next states. -/
inductive Fault where
  /-- Raised by no meaning: the type is kept for the host's interface. Safe: a step never ends here. -/
  | none
  deriving DecidableEq, Repr

/-- The reasons a step can be refused. -/
inductive Refusal where
  /-- Raised by `exec` alone, for a command that has no meaning yet. Safe: the machine stops. -/
  | notModelled (mnemonic : String)
  deriving DecidableEq, Repr

end Sys2Proof.Machine
end

