-- ==== Sys2Proof/Machine/Ops.lean ====
section
/-!
DEFINITION. The operations everything else is written with: bit fields, sparse tables, memories, little-endian bytes,
rotating pointers, free values, and the accessors of lists of units.
-/

namespace Sys2Proof.Machine

/-! ### Numbers -/

/-- Bits lo to lo + w − 1 of n. -/
def bits (n lo w : Nat) : Nat := n / 2 ^ lo % 2 ^ w
/-- Bit i of n. -/
def bit (n i : Nat) : Bool := n / 2 ^ i % 2 == 1
/-- n with bits lo to lo + w − 1 replaced by v. -/
def setBits (n lo w v : Nat) : Nat := n - bits n lo w * 2 ^ lo + v % 2 ^ w * 2 ^ lo
/-- 1 for true. -/
def b2n (b : Bool) : Nat := if b then 1 else 0
/-- a / b rounded up. -/
def ceilDiv (a b : Nat) : Nat := (a + b - 1) / b
/-- a rounded up to a multiple of b. -/
def roundUp (a b : Nat) : Nat := ceilDiv a b * b
/-- (a − b) modulo 2^w. -/
def subMod (a b w : Nat) : Nat := (a + 2 ^ w - b % 2 ^ w) % 2 ^ w
/-- Do the n-byte ranges at a and b with lengths la and lb meet? -/
def overlaps (a la b lb : Nat) : Bool := decide (a < b + lb ∧ b < a + la)
/-- The numbers of the set bits among the low w bits of n, ascending. -/
def bitList (n w : Nat) : List Nat := (List.range w).filter (bit n)

/-! ### Lists of units -/

/-- Element i, or d past the end. -/
def lget {α : Type} (l : List α) (i : Nat) (d : α) : α := (l[i]?).getD d
/-- l with element i replaced. -/
def lset {α : Type} (l : List α) (i : Nat) (v : α) : List α := l.set i v
/-- l with element i changed by f. -/
def lmod {α : Type} (l : List α) (i : Nat) (f : α → α) : List α := l.modify i f
/-- The first index whose element satisfies p. -/
def lfind {α : Type} (l : List α) (p : α → Bool) : Option Nat := l.findIdx? p
/-- The element of l with the least measure; the first of equal ones. -/
def minBy {α : Type} (m : α → Nat) : List α → Option α
  | [] => none
  | a :: l => some (l.foldl (fun b c => if m c < m b then c else b) a)

/-- a put before the first element that it may stand before. -/
def insertBy {α : Type} (le : α → α → Bool) (a : α) : List α → List α
  | [] => [a]
  | b :: l => if le a b then a :: b :: l else b :: insertBy le a l
/-- The list in order, equal elements as they stood. -/
def sortBy {α : Type} (l : List α) (le : α → α → Bool) : List α := l.foldr (insertBy le) []

/-! ### Sparse tables -/

/-- The value at key a. -/
def tget {V : Type} : Tbl V → Nat → Option V
  | [], _ => none
  | (k, v) :: t, a => if k = a then some v else tget t a
/-- The table with v at key a, keys rising. -/
def tset {V : Type} : Tbl V → Nat → V → Tbl V
  | [], a, v => [(a, v)]
  | (k, w) :: t, a, v =>
    if a < k then (a, v) :: (k, w) :: t else if a = k then (a, v) :: t else (k, w) :: tset t a v
/-- The table without key a. -/
def tdel {V : Type} (t : Tbl V) (a : Nat) : Tbl V := t.filter (fun e => decide (e.1 ≠ a))
/-- The value at key a, or d. -/
def tgetD {V : Type} (t : Tbl V) (a : Nat) (d : V) : V := (tget t a).getD d
/-- The table with f applied at key a, from d where there is none. -/
def tmod {V : Type} (t : Tbl V) (a : Nat) (d : V) (f : V → V) : Tbl V := tset t a (f (tgetD t a d))
/-- The table with v at key a, the default d being left unlisted. -/
def tput {V : Type} [DecidableEq V] (d : V) (t : Tbl V) (a : Nat) (v : V) : Tbl V :=
  if v = d then tdel t a else tset t a v
/-- Is key a listed? -/
def tmem {V : Type} (t : Tbl V) (a : Nat) : Bool := (tget t a).isSome

/-! ### Memories -/

/-- The canonical form above a bound: addresses rising strictly, no zero byte listed. -/
def Memory.wfFrom : Nat → Memory → Bool
  | _, [] => true
  | lo, (a, b) :: m => decide (lo ≤ a) && decide (b ≠ 0) && Memory.wfFrom (a + 1) m
/-- The memory is in its canonical form. [DESIGN CHOICE, log 3] -/
def Memory.wf (m : Memory) : Bool := Memory.wfFrom 0 m
/-- The byte at address a: what nothing has written reads as 0 (log entry 3). [DESIGN CHOICE, log 3] -/
def mread (m : Memory) (a : Nat) : Byte := tgetD m a 0
/-- The memory with byte b at address a. -/
def mwrite (m : Memory) (a : Nat) (b : Byte) : Memory := if b = 0 then tdel m a else tset m a b
/-- n bytes from address a. -/
def mreads (m : Memory) (a n : Nat) : List Byte := (List.range n).map fun i => mread m (a + i)
/-- The bytes bs written from address a on. -/
def mwrites (m : Memory) (a : Nat) : List Byte → Memory
  | [] => m
  | b :: bs => mwrites (mwrite m a b) (a + 1) bs
/-- Zero the n bytes from address a. -/
def mclear (m : Memory) (a n : Nat) : Memory := m.filter (fun c => decide (c.1 < a ∨ a + n ≤ c.1))
/-- Keep only the n bytes from address a. -/
def mkeep (m : Memory) (a n : Nat) : Memory := m.filter (fun c => decide (a ≤ c.1 ∧ c.1 < a + n))
/-- Write the listed cells, moved by adding d and subtracting e. -/
def mputCells (m : Memory) (d e : Nat) : List Host.Cell → Memory
  | [] => m
  | c :: cs => mputCells (mwrite m (c.1 + d - e) c.2) d e cs
/-- The n bytes at address a of src copied to address b of dst. -/
def mcopy (src : Memory) (a n : Nat) (dst : Memory) (b : Nat) : Memory :=
  mputCells (mclear dst b n) b a (mkeep src a n)

/-! ### Bytes -/

/-- The little-endian number of a list of bytes. -/
def leNat : List Byte → Nat
  | [] => 0
  | b :: bs => b.toNat + 256 * leNat bs
/-- The low n bytes of v, little-endian. -/
def toLe : Nat → Nat → List Byte
  | 0, _ => []
  | n + 1, v => BitVec.ofNat 8 v :: toLe n (v / 256)
/-- The low n bytes of v, big-endian. -/
def toBe (n v : Nat) : List Byte := (toLe n v).reverse
/-- The big-endian number of a list of bytes. -/
def beNat (bs : List Byte) : Nat := leNat bs.reverse
/-- n zero bytes. -/
def zeros (n : Nat) : List Byte := List.replicate n 0
/-- Bytes i to i + n − 1 of a list as a little-endian number, bytes past the end being 0. -/
def field (bs : List Byte) (i n : Nat) : Nat := leNat ((bs.drop i).take n)
/-- Are bytes i to i + n − 1 all 0? -/
def allZero (bs : List Byte) (i n : Nat) : Bool := ((bs.drop i).take n).all (· == 0)
/-- The list cut or padded with zeros to n bytes. -/
def padTo (n : Nat) (bs : List Byte) : List Byte := bs.take n ++ zeros (n - bs.length)
/-- Pad to a multiple of n bytes. -/
def padMul (n : Nat) (bs : List Byte) : List Byte := padTo (roundUp bs.length n) bs
/-- Write the bytes vs into bs at index i. -/
def poke (bs : List Byte) (i : Nat) (vs : List Byte) : List Byte :=
  bs.take i ++ vs ++ bs.drop (i + vs.length)
/-- Cut a list into pieces of n. -/
def chunks {α : Type} (n : Nat) (fuel : Nat) (l : List α) : List (List α) :=
  match fuel, l with
  | 0, _ => []
  | _, [] => []
  | k + 1, l => l.take n :: chunks n k (l.drop n)

/-! ### Rotating pointers (R69) -/

/-- How far requester r lies at or after the pointer, among n requesters. -/
def ptrDist (n ptr r : Nat) : Nat := (r + n - ptr % n) % n
/-- R69: the requester at or after the pointer wins. [DESIGN CHOICE, log 96] -/
def ptrPick (n ptr : Nat) (reqs : List Nat) : Option Nat := minBy (ptrDist n ptr) reqs
/-- R69: the pointer moves to one past the winner. -/
def ptrNext (n winner : Nat) : Nat := (winner + 1) % n

/-! ### Free values -/

/-- The next free value, and the state in which it is used up. [DESIGN CHOICE, log 4] -/
def draw (s : State) : Nat × State :=
  ((Config.freeValue s.fresh).toNat, { s with fresh := s.fresh + 1 })

/-! ### Unit accessors -/

/-- The port page's link block. -/
def State.link (s : State) (p : Nat) : Jlk := lget s.jlk p {}
def State.setLink (s : State) (p : Nat) (f : Jlk → Jlk) : State := { s with jlk := lmod s.jlk p f }
def State.sched (s : State) (p : Nat) : Tsc := lget s.tsc p {}
def State.setSched (s : State) (p : Nat) (f : Tsc → Tsc) : State := { s with tsc := lmod s.tsc p f }
def State.tile (s : State) (t : Nat) : Tile := lget s.tiles t {}
def State.setTile (s : State) (t : Nat) (f : Tile → Tile) : State := { s with tiles := lmod s.tiles t f }
def State.part (s : State) (p : Nat) : Part := lget s.sec.pts p {}
def State.setPart (s : State) (p : Nat) (f : Part → Part) : State :=
  { s with sec := { s.sec with pts := lmod s.sec.pts p f } }
def State.hb (s : State) (m : Nat) : Hbc := lget s.hbc m {}
def State.setHb (s : State) (m : Nat) (f : Hbc → Hbc) : State := { s with hbc := lmod s.hbc m f }
def State.chan (s : State) (c : Nat) : DmaCh := lget s.dma.chs c {}
def State.setChan (s : State) (c : Nat) (f : DmaCh → DmaCh) : State :=
  { s with dma := { s.dma with chs := lmod s.dma.chs c f } }
def State.cport (s : State) (c : Nat) : CxlPort := lget s.cxh.ports c {}
def State.setCport (s : State) (c : Nat) (f : CxlPort → CxlPort) : State :=
  { s with cxh := { s.cxh with ports := lmod s.cxh.ports c f } }
def State.drive (s : State) (n : Nat) : Drive := lget s.nvh.drives n {}
def State.setDrive (s : State) (n : Nat) (f : Drive → Drive) : State :=
  { s with nvh := { s.nvh with drives := lmod s.nvh.drives n f } }
def State.loc (s : State) (cpn : Nat) : Loc := tgetD s.seq.locs cpn {}
/-- The key of a leaf's move among the moves of pages, whose keys are CPNs. -/
def leafKey (n : Nat) : Nat := 2 ^ 40 + n
/-- The partition of a leaf's CPNs, and the spill frames it holds in T2 from an ADDR on: 1 MiB. -/
def leafPt (n : Nat) : Nat := n / 2 ^ 21
/-- The partition whose move stands under a key: a page's CPN or a leaf's key. -/
def movePt (key : Nat) : Nat := if key < 2 ^ 40 then key / 2 ^ 37 % 8 else leafPt (key - 2 ^ 40)
def leafFrames (n a : Nat) : List Nat := (List.range 16).map fun k => leafPt n * 2 ^ 48 + a + k

/-- An entry of a location leaf changes. A leaf in T2 or moving stands in T1 again first: its return is over (R261). Rows whose work may wait
for the return go through leafGate. [DEDUCED, log 59] -/
def leafChange (s : State) (n : Nat) : State :=
  let f := tgetD s.blw.leaves n {}
  let held := s.blw.t2.filter fun e => !(e.2 == .leaf n)
  { s with blw := { s.blw with
    t2 := if f.inT2 || f.moving then held else s.blw.t2,
    moves := if f.moving then tdel s.blw.moves (leafKey n) else s.blw.moves,
    leaves := tset s.blw.leaves n { f with inT2 := false, moving := false, changed := s.time } } }
def State.setLoc (s : State) (cpn : Nat) (f : Loc → Loc) : State :=
  { leafChange s (cpn / 65536) with seq := { s.seq with locs := tput {} s.seq.locs cpn (f (s.loc cpn)) } }
def State.ctx (s : State) (q : Nat) : Ctx := tgetD s.seq.ctxs q {}
def State.setCtx (s : State) (q : Nat) (f : Ctx → Ctx) : State :=
  { s with seq := { s.seq with ctxs := tput {} s.seq.ctxs q (f (s.ctx q)) } }
/-- The layer row of layer l of sequence q. -/
def State.row (s : State) (q l : Nat) : LayerRow := tgetD s.seq.rows (q * 256 + l) {}
def State.setRow (s : State) (q l : Nat) (f : LayerRow → LayerRow) : State :=
  { s with seq := { s.seq with rows := tput {} s.seq.rows (q * 256 + l) (f (s.row q l)) } }
def State.node (s : State) (acc : Nat) : Option Node := tget s.dep.nodes acc
def State.setNode (s : State) (acc : Nat) (f : Node → Node) : State :=
  match tget s.dep.nodes acc with
  | some n => { s with dep := { s.dep with nodes := tset s.dep.nodes acc (f n) } }
  | none => s
def State.subRing (s : State) (r : Nat) : SubRing := tgetD s.dep.sq r {}
def State.setSubRing (s : State) (r : Nat) (f : SubRing → SubRing) : State :=
  { s with dep := { s.dep with sq := tput {} s.dep.sq r (f (s.subRing r)) } }
/-- Completion ring cq of partition pt. -/
def State.cplRing (s : State) (pt cq : Nat) : CplRing := tgetD s.dep.cq (pt * 64 + cq) {}
def State.setCplRing (s : State) (pt cq : Nat) (f : CplRing → CplRing) : State :=
  { s with dep := { s.dep with cq := tput {} s.dep.cq (pt * 64 + cq) (f (s.cplRing pt cq)) } }
def State.slot (s : State) (i : Nat) : DirSlot := tgetD s.chn.dir i {}
def State.setSlot (s : State) (i : Nat) (f : DirSlot → DirSlot) : State :=
  { s with chn := { s.chn with dir := tput {} s.chn.dir i (f (s.slot i)) } }
def State.bank (s : State) (b : Nat) : Bank := lget s.chn.banks b {}
def State.setBank (s : State) (b : Nat) (f : Bank → Bank) : State :=
  { s with chn := { s.chn with banks := lmod s.chn.banks b f } }
def State.qp (s : State) (q : Nat) : Qpc := tgetD s.fab.qps q {}
def State.setQp (s : State) (q : Nat) (f : Qpc → Qpc) : State :=
  { s with fab := { s.fab with qps := tput {} s.fab.qps q (f (s.qp q)) } }
def State.key (s : State) (k : Nat) : Key := tgetD s.fab.keys k {}
def State.setKey (s : State) (k : Nat) (f : Key → Key) : State :=
  { s with fab := { s.fab with keys := tput {} s.fab.keys k (f (s.key k)) } }
def State.setHbm (s : State) (m : Memory) : State := { s with mems := { s.mems with hbm := m } }
def State.setSpad (s : State) (m : Memory) : State := { s with mems := { s.mems with spad := m } }
def State.setPool (s : State) (m : Memory) : State := { s with mems := { s.mems with pool := m } }
def State.setFlash (s : State) (m : Memory) : State := { s with mems := { s.mems with flash := m } }
def State.setHost (s : State) (m : Memory) : State := { s with mems := { s.mems with host := m } }
/-- The pointer of a point that no unit record holds. [DESIGN CHOICE, log 96] -/
def State.ptr (s : State) (k : Nat) : Nat := tgetD s.ptrs k 0
def State.setPtr (s : State) (k v : Nat) : State := { s with ptrs := tput 0 s.ptrs k v }

/-- The nanoseconds of a reference cycle in R356's five-cycle pattern 6, 7, 6, 7, 6. -/
def refNs (phase : Nat) : Nat := if phase % 5 = 1 ∨ phase % 5 = 3 then 7 else 6

/-- The time base and the phase of the pattern after reference cycles that pass, k at most, until an instant has come. -/
def clockRun : Nat → Nat × Nat → Nat → Nat × Nat
  | 0, c, _ => c
  | k + 1, c, t => if t ≤ c.1 then c else clockRun k (c.1 + refNs c.2, (c.2 + 1) % 5) t

/-- The first time base and phase of R356's pattern at or after an instant: whole patterns of 32 ns, then at most five cycles. -/
def clockTo (time phase t : Nat) : Nat × Nat := clockRun 5 (time + 32 * ((t - time) / 32), phase) t

/-- A deadline or timer instant has come: the time base stands at it, or at its next value after it (R356). [DEDUCED, log 8] -/
def State.reach (s : State) (t : Nat) : State :=
  let c := clockTo s.time s.phase t
  { s with time := c.1, phase := c.2 }

end Sys2Proof.Machine
end

