-- ==== Sys2Proof/Machine/RegTable.lean ====
section
/-!
DEFINITION. The register tables of the spec, row by row: name, offset, count (consecutive registers, 4 bytes apart), and
the fields that are not RSV with their lowest bit, width, access and reset value (R16). The common header of every page
(R346, R351) is not listed here: Machine/Header.lean computes it. A reset value that the spec gives as fused, random or per
reset stands as 0 and is computed where the register is read.
-/

namespace Sys2Proof.Machine

/-- Access of a field (R16). -/
inductive Acc where
  | rw | ro | w1c | w1s | wo
  deriving DecidableEq, Repr

/-- A register field. -/
structure FieldDef where
  lsb : Nat
  width : Nat
  acc : Acc
  reset : Nat
  deriving DecidableEq, Repr

/-- A register, or a run of equal registers. -/
structure RegDef where
  name : String
  off : Nat
  count : Nat
  fields : List FieldDef
  deriving DecidableEq, Repr

/-- The registers of the GLB page (R355, R578). -/
def regsGlb : List RegDef := [
  ⟨"GLB_ROM_VER", 0x0200, 1, [⟨0, 16, .ro, 0x100⟩, ⟨16, 8, .ro, 0x41⟩, ⟨24, 8, .ro, 1⟩]⟩,
  ⟨"GLB_DEV_ID", 0x0204, 1, [⟨0, 12, .ro, 0xFFF⟩, ⟨12, 1, .ro, 0⟩]⟩,
  ⟨"GLB_BOOT_STAT", 0x0208, 1, [⟨0, 4, .ro, 0⟩, ⟨8, 8, .ro, 0⟩]⟩,
  ⟨"GLB_TIME_LO", 0x020C, 1, [⟨0, 32, .ro, 0⟩]⟩,
  ⟨"GLB_TIME_HI", 0x0210, 1, [⟨0, 32, .ro, 0⟩]⟩,
  ⟨"GLB_PERF_USER", 0x0214, 1, [⟨0, 8, .rw, 0⟩]⟩,
  ⟨"GLB_IRQ_SUM0", 0x0218, 4, [⟨0, 32, .ro, 0⟩]⟩,
  ⟨"GLB_RST_CTRL", 0x0228, 1, [⟨0, 1, .wo, 0⟩, ⟨1, 1, .wo, 0⟩]⟩,
  ⟨"GLB_PORT_RST", 0x022C, 1, [⟨0, 6, .wo, 0⟩]⟩,
  ⟨"GLB_RST_CAUSE", 0x0230, 1, [⟨0, 3, .ro, 0⟩, ⟨8, 8, .ro, 0⟩, ⟨16, 8, .ro, 0⟩]⟩,
  ⟨"GLB_BOOT_HBM", 0x0234, 1, [⟨0, 12, .ro, 0⟩]⟩,
  ⟨"GLB_BOOT_TIME", 0x0238, 1, [⟨0, 32, .ro, 0⟩]⟩]

/-- The registers of the CLK page (R357). -/
def regsClk : List RegDef := [
  ⟨"CLK_REF_STAT", 0x0200, 1, [⟨0, 1, .ro, 0⟩, ⟨1, 1, .ro, 0⟩]⟩,
  ⟨"CLK_SSC", 0x0204, 1, [⟨0, 2, .rw, 0⟩]⟩,
  ⟨"CLK_TILE_SEL", 0x0208, 1, [⟨0, 6, .rw, 0⟩]⟩,
  ⟨"CLK_TILE_REQ", 0x020C, 1, [⟨0, 5, .rw, 0x18⟩]⟩,
  ⟨"CLK_TILE_CUR", 0x0210, 1, [⟨0, 5, .ro, 0x18⟩, ⟨8, 5, .ro, 0x1C⟩, ⟨16, 1, .ro, 0⟩, ⟨17, 1, .ro, 0⟩]⟩,
  ⟨"CLK_TILE_ALL", 0x0214, 1, [⟨0, 5, .wo, 0⟩]⟩]

/-- The registers of the PWR page (R564). -/
def regsPwr : List RegDef := [
  ⟨"PWR_LIMIT", 0x0200, 1, [⟨0, 11, .rw, 0x5DC⟩, ⟨16, 7, .rw, 0x1E⟩]⟩,
  ⟨"PWR_STAT", 0x0204, 1, [⟨0, 11, .ro, 0⟩, ⟨11, 11, .ro, 0⟩, ⟨22, 5, .ro, 0x1C⟩, ⟨27, 2, .ro, 0⟩, ⟨29, 1, .ro, 0⟩, ⟨30, 2, .ro, 0⟩]⟩,
  ⟨"PWR_HOLD", 0x0208, 1, [⟨0, 4, .ro, 0⟩]⟩,
  ⟨"PWR_PT_SEL", 0x020C, 1, [⟨0, 3, .rw, 0⟩]⟩,
  ⟨"PWR_PT_CEIL", 0x0210, 1, [⟨0, 5, .rw, 0x10⟩]⟩,
  ⟨"PWR_PROCHOT", 0x0214, 1, [⟨0, 5, .rw, 8⟩, ⟨5, 1, .rw, 1⟩]⟩,
  ⟨"PWR_RAIL_SEL", 0x0218, 1, [⟨0, 4, .rw, 0⟩]⟩,
  ⟨"PWR_RAIL_STAT", 0x021C, 1, [⟨0, 12, .ro, 0⟩, ⟨12, 10, .ro, 0⟩, ⟨22, 1, .w1c, 0⟩, ⟨23, 1, .w1c, 0⟩]⟩,
  ⟨"PWR_TEMP_SEL", 0x0220, 1, [⟨0, 6, .rw, 0⟩]⟩,
  ⟨"PWR_TEMP", 0x0224, 1, [⟨0, 10, .ro, 0⟩]⟩,
  ⟨"PWR_THERM", 0x0228, 1, [⟨0, 8, .rw, 0x5F⟩, ⟨8, 8, .rw, 0x69⟩, ⟨16, 8, .rw, 0x55⟩, ⟨24, 8, .rw, 0x5F⟩]⟩,
  ⟨"PWR_IO", 0x022C, 1, [⟨0, 1, .rw, 1⟩]⟩]

/-- The registers of the SEC page (R498). -/
def regsSec : List RegDef := [
  ⟨"SEC_PT_SEL", 0x0200, 1, [⟨0, 3, .rw, 0⟩]⟩,
  ⟨"SEC_PT_STAT", 0x0204, 1, [⟨0, 3, .ro, 0⟩, ⟨3, 1, .ro, 0⟩, ⟨4, 1, .ro, 0⟩, ⟨5, 4, .ro, 0⟩]⟩,
  ⟨"SEC_PT_PEPOCH_LO", 0x0208, 1, [⟨0, 32, .ro, 0⟩]⟩,
  ⟨"SEC_PT_PEPOCH_HI", 0x020C, 1, [⟨0, 32, .ro, 0⟩]⟩,
  ⟨"SEC_PT_CTRL", 0x0210, 1, [⟨0, 1, .wo, 0⟩, ⟨1, 1, .wo, 0⟩]⟩,
  ⟨"SEC_PT_SCRUB_US", 0x0214, 1, [⟨0, 16, .ro, 0⟩]⟩,
  ⟨"SEC_PT_THERM", 0x0218, 1, [⟨0, 2, .ro, 0⟩]⟩,
  ⟨"SEC_RGN_SEL", 0x0220, 1, [⟨0, 4, .rw, 0⟩]⟩,
  ⟨"SEC_RGN_CFG", 0x0224, 1, [⟨0, 4, .rw, 0⟩, ⟨4, 1, .rw, 0⟩, ⟨5, 1, .rw, 0⟩]⟩,
  ⟨"SEC_RGN_FIRST", 0x0228, 1, [⟨0, 20, .rw, 0⟩]⟩,
  ⟨"SEC_RGN_LAST", 0x022C, 1, [⟨0, 20, .rw, 0⟩]⟩,
  ⟨"SEC_MEAS_SEL", 0x0230, 1, [⟨0, 8, .rw, 1⟩]⟩,
  ⟨"SEC_FUSE_STAT", 0x0234, 1, [⟨0, 1, .ro, 0⟩, ⟨1, 1, .ro, 0⟩, ⟨2, 1, .ro, 0⟩]⟩,
  ⟨"SEC_MEAS0", 0x0240, 8, [⟨0, 32, .ro, 0⟩]⟩]

/-- The registers of the DEP page (R44, R81, R359). -/
def regsDep : List RegDef := [
  ⟨"DEP_RING_SEL", 0x0200, 1, [⟨0, 8, .rw, 0⟩, ⟨8, 3, .rw, 0⟩, ⟨11, 1, .rw, 0⟩]⟩,
  ⟨"DEP_RING_BASE_LO", 0x0204, 1, [⟨0, 32, .rw, 0⟩]⟩,
  ⟨"DEP_RING_BASE_HI", 0x0208, 1, [⟨0, 32, .rw, 0⟩]⟩,
  ⟨"DEP_RING_CFG", 0x020C, 1, [⟨0, 1, .rw, 0⟩, ⟨1, 5, .rw, 4⟩, ⟨6, 1, .rw, 0⟩, ⟨7, 1, .rw, 0⟩, ⟨8, 2, .rw, 0⟩, ⟨10, 6, .rw, 0⟩]⟩,
  ⟨"DEP_RING_COAL", 0x0210, 1, [⟨0, 8, .rw, 1⟩, ⟨8, 16, .rw, 0⟩, ⟨24, 8, .rw, 0⟩]⟩,
  ⟨"DEP_RING_STAT", 0x0214, 1, [⟨0, 16, .ro, 0⟩, ⟨16, 2, .ro, 0⟩]⟩,
  ⟨"DEP_PT_QUOTA", 0x0218, 1, [⟨0, 17, .rw, 0x2000⟩]⟩,
  ⟨"DEP_EPOCH_CUR", 0x021C, 1, [⟨0, 16, .ro, 0⟩, ⟨16, 16, .ro, 0xFFFF⟩]⟩,
  ⟨"DEP_EPOCH_LAG", 0x0220, 1, [⟨0, 32, .ro, 0⟩]⟩,
  ⟨"DEP_STAGE_BASE_LO", 0x0234, 1, [⟨0, 32, .rw, 0⟩]⟩,
  ⟨"DEP_STAGE_BASE_HI", 0x0238, 1, [⟨0, 8, .rw, 0⟩]⟩,
  ⟨"DEP_STAGE_LEN", 0x023C, 1, [⟨0, 32, .rw, 0⟩]⟩,
  ⟨"DEP_NODES", 0x0224, 1, [⟨0, 17, .ro, 0⟩]⟩,
  ⟨"DEP_PT_USE", 0x0228, 1, [⟨0, 17, .ro, 0⟩]⟩,
  ⟨"DEP_INFLIGHT", 0x022C, 1, [⟨0, 10, .ro, 0⟩]⟩,
  ⟨"DEP_CBUF", 0x0230, 1, [⟨0, 9, .ro, 0⟩]⟩]

/-- The registers of the SEQ page (R122, R174). -/
def regsSeq : List RegDef := [
  ⟨"SEQ_CTX_BASE_LO", 0x0200, 1, [⟨0, 32, .rw, 0⟩]⟩,
  ⟨"SEQ_CTX_BASE_HI", 0x0204, 1, [⟨0, 8, .rw, 0⟩]⟩,
  ⟨"SEQ_LOC_BASE_LO", 0x0208, 1, [⟨0, 32, .rw, 0⟩]⟩,
  ⟨"SEQ_LOC_BASE_HI", 0x020C, 1, [⟨0, 8, .rw, 0⟩]⟩,
  ⟨"SEQ_PROF_BASE_LO", 0x0210, 1, [⟨0, 32, .rw, 0⟩]⟩,
  ⟨"SEQ_PROF_BASE_HI", 0x0214, 1, [⟨0, 8, .rw, 0⟩]⟩,
  ⟨"SEQ_PT_SEL", 0x0218, 1, [⟨0, 3, .rw, 0⟩]⟩,
  ⟨"SEQ_PT_BASE", 0x021C, 1, [⟨0, 20, .ro, 0⟩]⟩,
  ⟨"SEQ_PT_COUNT", 0x0220, 1, [⟨0, 21, .ro, 0⟩]⟩,
  ⟨"SEQ_PT_ALLOC", 0x0224, 1, [⟨0, 20, .ro, 0⟩]⟩,
  ⟨"SEQ_PT_OPEN", 0x0228, 1, [⟨0, 21, .ro, 0⟩]⟩,
  ⟨"SEQ_STAGE_CFG", 0x022C, 1, [⟨0, 16, .rw, 0⟩, ⟨16, 9, .rw, 0x10⟩]⟩,
  ⟨"SEQ_STAGE_SEL", 0x0230, 1, [⟨0, 6, .rw, 0⟩]⟩,
  ⟨"SEQ_STAGE_STAT", 0x0234, 1, [⟨0, 10, .ro, 0x200⟩, ⟨10, 10, .ro, 0⟩]⟩,
  ⟨"SEQ_CTX_SEL", 0x0238, 1, [⟨0, 20, .rw, 0⟩]⟩,
  ⟨"SEQ_CTX_WIN0", 0x0300, 64, [⟨0, 32, .ro, 0⟩]⟩,
  ⟨"SEQ_SR_SEED_LO", 0x0240, 1, [⟨0, 32, .rw, 0⟩]⟩,
  ⟨"SEQ_SR_SEED_HI", 0x0244, 1, [⟨0, 32, .rw, 0⟩]⟩]

/-- The registers of the CHN page (R151). -/
def regsChn : List RegDef := [
  ⟨"CHN_DIR_BASE_LO", 0x0200, 1, [⟨0, 32, .rw, 0⟩]⟩,
  ⟨"CHN_DIR_BASE_HI", 0x0204, 1, [⟨0, 8, .rw, 0⟩]⟩,
  ⟨"CHN_DIR_CFG", 0x0208, 1, [⟨0, 1, .rw, 0⟩, ⟨1, 5, .rw, 0x10⟩]⟩,
  ⟨"CHN_PT_SEL", 0x020C, 1, [⟨0, 3, .rw, 0⟩]⟩,
  ⟨"CHN_PT_CAMQ", 0x0210, 1, [⟨0, 19, .rw, 0⟩]⟩,
  ⟨"CHN_PT_DIRQ", 0x0214, 1, [⟨0, 27, .rw, 0⟩]⟩,
  ⟨"CHN_PT_CFG", 0x0218, 1, [⟨0, 4, .rw, 4⟩, ⟨4, 8, .rw, 0x20⟩, ⟨12, 1, .ro, 0⟩]⟩,
  ⟨"CHN_PT_USE", 0x021C, 1, [⟨0, 27, .ro, 0⟩]⟩,
  ⟨"CHN_SALT0", 0x0220, 8, [⟨0, 32, .wo, 0⟩]⟩,
  ⟨"CHN_BANK_SEL", 0x0240, 1, [⟨0, 3, .rw, 0⟩]⟩,
  ⟨"CHN_BANK_CFG", 0x0244, 1, [⟨0, 1, .rw, 0⟩, ⟨1, 4, .rw, 2⟩, ⟨5, 3, .rw, 0⟩, ⟨8, 1, .rw, 0⟩]⟩,
  ⟨"CHN_BANK_STAT", 0x0248, 1, [⟨0, 16, .ro, 0⟩, ⟨16, 1, .ro, 0⟩, ⟨17, 5, .ro, 0⟩]⟩]

/-- The registers of the BLW page (R294). -/
def regsBlw : List RegDef := [
  ⟨"BLW_T1_SEL", 0x0200, 1, [⟨0, 4, .rw, 0⟩]⟩,
  ⟨"BLW_T1_FIRST", 0x0204, 1, [⟨0, 20, .rw, 0⟩]⟩,
  ⟨"BLW_T1_LAST", 0x0208, 1, [⟨0, 20, .rw, 0⟩]⟩,
  ⟨"BLW_T1_CFG", 0x020C, 1, [⟨0, 1, .rw, 0⟩]⟩,
  ⟨"BLW_T1_FREE", 0x0210, 1, [⟨0, 20, .ro, 0⟩]⟩,
  ⟨"BLW_PT_SEL", 0x0214, 1, [⟨0, 3, .rw, 0⟩]⟩,
  ⟨"BLW_PT_T1FREE", 0x0218, 1, [⟨0, 24, .ro, 0⟩]⟩,
  ⟨"BLW_PT_KEPT", 0x021C, 1, [⟨0, 24, .ro, 0⟩]⟩,
  ⟨"BLW_TH_BASE_LO", 0x0220, 1, [⟨0, 32, .rw, 0⟩]⟩,
  ⟨"BLW_TH_BASE_HI", 0x0224, 1, [⟨0, 32, .rw, 0⟩]⟩,
  ⟨"BLW_TH_CFG", 0x0228, 1, [⟨0, 24, .rw, 0⟩, ⟨24, 2, .rw, 0⟩]⟩,
  ⟨"BLW_MOVE_STAT", 0x022C, 1, [⟨0, 11, .ro, 0⟩]⟩,
  ⟨"BLW_PREF_PEND", 0x0230, 1, [⟨0, 19, .ro, 0⟩]⟩,
  ⟨"BLW_SK_CPN_LO", 0x0234, 1, [⟨0, 32, .rw, 0⟩]⟩,
  ⟨"BLW_SK_CPN_HI", 0x0238, 1, [⟨0, 8, .rw, 0⟩]⟩,
  ⟨"BLW_SK_EST", 0x023C, 1, [⟨0, 16, .ro, 0⟩]⟩,
  ⟨"BLW_HAND", 0x0240, 1, [⟨0, 20, .ro, 0⟩]⟩]

/-- The registers of the NVH page (R337). -/
def regsNvh : List RegDef := [
  ⟨"NVH_CFG", 0x0200, 1, [⟨0, 1, .rw, 0⟩, ⟨1, 1, .rw, 1⟩, ⟨2, 5, .rw, 0x1D⟩]⟩,
  ⟨"NVH_TIMEOUT", 0x0204, 1, [⟨0, 16, .rw, 0x64⟩]⟩,
  ⟨"NVH_SLOT_BASE_LO", 0x0208, 1, [⟨0, 32, .rw, 0⟩]⟩,
  ⟨"NVH_SLOT_BASE_HI", 0x020C, 1, [⟨0, 8, .rw, 0⟩]⟩,
  ⟨"NVH_DRV_SEL", 0x0210, 1, [⟨0, 4, .rw, 0⟩]⟩,
  ⟨"NVH_DRV_STAT", 0x0214, 1, [⟨0, 3, .ro, 0⟩, ⟨3, 3, .ro, 0⟩, ⟨6, 2, .ro, 0⟩, ⟨8, 1, .ro, 0⟩, ⟨9, 1, .ro, 0⟩, ⟨10, 6, .ro, 0⟩]⟩,
  ⟨"NVH_DRV_SLOTS", 0x0218, 1, [⟨0, 32, .ro, 0⟩]⟩,
  ⟨"NVH_DRV_FREE", 0x021C, 1, [⟨0, 32, .ro, 0⟩]⟩,
  ⟨"NVH_DRV_LOST", 0x0220, 1, [⟨0, 32, .ro, 0⟩]⟩,
  ⟨"NVH_DRV_LAT", 0x0224, 1, [⟨0, 16, .ro, 0⟩, ⟨16, 16, .ro, 0⟩]⟩,
  ⟨"NVH_DRV_CTRL", 0x0228, 1, [⟨0, 1, .wo, 0⟩, ⟨1, 1, .wo, 0⟩]⟩,
  ⟨"NVH_SHARE_SEL", 0x022C, 1, [⟨0, 4, .rw, 0⟩, ⟨4, 3, .rw, 0⟩]⟩,
  ⟨"NVH_SHARE_FIRST", 0x0230, 1, [⟨0, 31, .rw, 0⟩]⟩,
  ⟨"NVH_SHARE_COUNT", 0x0234, 1, [⟨0, 32, .rw, 0⟩]⟩,
  ⟨"NVH_SHARE_USED", 0x0238, 1, [⟨0, 32, .ro, 0⟩]⟩]

/-- The registers of the CXH page (R319). -/
def regsCxh : List RegDef := [
  ⟨"CXH_PORT_SEL", 0x0200, 1, [⟨0, 1, .rw, 0⟩]⟩,
  ⟨"CXH_PORT_STAT", 0x0204, 1, [⟨0, 1, .ro, 0⟩, ⟨1, 2, .ro, 0⟩, ⟨3, 1, .ro, 0⟩, ⟨4, 1, .ro, 0⟩, ⟨5, 7, .ro, 0⟩]⟩,
  ⟨"CXH_PORT_EXTS", 0x0208, 1, [⟨0, 13, .ro, 0⟩]⟩,
  ⟨"CXH_DRAIN", 0x020C, 1, [⟨0, 16, .rw, 0x1F4⟩]⟩,
  ⟨"CXH_EXT_SEL", 0x0210, 1, [⟨0, 12, .rw, 0⟩]⟩,
  ⟨"CXH_EXT_STAT", 0x0214, 1, [⟨0, 1, .ro, 0⟩, ⟨1, 2, .ro, 0⟩, ⟨3, 3, .ro, 0⟩, ⟨6, 20, .ro, 0⟩, ⟨26, 1, .ro, 0⟩]⟩,
  ⟨"CXH_EXT_SIZE", 0x0218, 1, [⟨0, 32, .ro, 0⟩]⟩,
  ⟨"CXH_EXT_CTRL", 0x021C, 1, [⟨0, 1, .wo, 0⟩, ⟨1, 1, .wo, 0⟩]⟩,
  ⟨"CXH_RGN_SEL", 0x0220, 1, [⟨0, 8, .rw, 0⟩]⟩,
  ⟨"CXH_RGN_CFG", 0x0224, 1, [⟨0, 20, .rw, 0⟩, ⟨20, 1, .rw, 0⟩, ⟨21, 1, .rw, 0⟩, ⟨22, 8, .rw, 0⟩]⟩,
  ⟨"CXH_RGN_CTRL", 0x0228, 1, [⟨0, 27, .wo, 0⟩]⟩,
  ⟨"CXH_RGN_STAT", 0x022C, 1, [⟨0, 1, .ro, 0⟩, ⟨1, 8, .ro, 0⟩, ⟨9, 23, .ro, 0⟩]⟩,
  ⟨"CXH_CKPT_SEL", 0x0230, 1, [⟨0, 3, .rw, 0⟩]⟩,
  ⟨"CXH_CKPT_CFG", 0x0234, 1, [⟨0, 16, .rw, 0⟩, ⟨16, 16, .rw, 0x7D0⟩]⟩,
  ⟨"CXH_CKPT_CTRL", 0x0238, 1, [⟨0, 1, .wo, 0⟩, ⟨1, 1, .wo, 0⟩]⟩,
  ⟨"CXH_CKPT_STAT", 0x023C, 1, [⟨0, 3, .ro, 0⟩, ⟨3, 29, .ro, 0⟩]⟩]

/-- The registers of the FAB page (R469). -/
def regsFab : List RegDef := [
  ⟨"FAB_CFG", 0x0200, 1, [⟨0, 1, .rw, 0⟩]⟩,
  ⟨"FAB_DISC_CTRL", 0x0204, 1, [⟨0, 1, .wo, 0⟩]⟩,
  ⟨"FAB_DISC_STAT", 0x0208, 1, [⟨0, 2, .ro, 0⟩, ⟨4, 4, .ro, 0⟩, ⟨8, 13, .ro, 0⟩, ⟨21, 11, .ro, 0⟩]⟩,
  ⟨"FAB_SERIAL_LO", 0x020C, 1, [⟨0, 32, .ro, 0⟩]⟩,
  ⟨"FAB_SERIAL_HI", 0x0210, 1, [⟨0, 32, .ro, 0⟩]⟩,
  ⟨"FAB_TOPO_BASE_LO", 0x0214, 1, [⟨0, 32, .rw, 0⟩]⟩,
  ⟨"FAB_TOPO_BASE_HI", 0x0218, 1, [⟨0, 8, .rw, 0⟩]⟩,
  ⟨"FAB_PORT_SEL", 0x021C, 1, [⟨0, 3, .rw, 0⟩]⟩,
  ⟨"FAB_PORT_STAT", 0x0220, 1, [⟨0, 1, .ro, 0⟩, ⟨1, 1, .ro, 0⟩, ⟨2, 12, .ro, 0⟩, ⟨14, 1, .ro, 0⟩, ⟨15, 3, .ro, 0⟩]⟩,
  ⟨"FAB_PT_SEL", 0x0224, 1, [⟨0, 3, .rw, 0⟩]⟩,
  ⟨"FAB_PT_QP", 0x0228, 1, [⟨0, 16, .rw, 0⟩, ⟨16, 16, .rw, 0⟩]⟩,
  ⟨"FAB_PT_XPORT", 0x022C, 1, [⟨0, 16, .rw, 0x32⟩, ⟨16, 8, .rw, 0x64⟩, ⟨24, 3, .rw, 7⟩]⟩,
  ⟨"FAB_QPC_BASE_LO", 0x0230, 1, [⟨0, 32, .rw, 0⟩]⟩,
  ⟨"FAB_QPC_BASE_HI", 0x0234, 1, [⟨0, 8, .rw, 0⟩]⟩,
  ⟨"FAB_QP_SEL", 0x0238, 1, [⟨0, 16, .rw, 0⟩]⟩,
  ⟨"FAB_QP_CFG", 0x023C, 1, [⟨0, 8, .rw, 0⟩, ⟨8, 12, .rw, 0⟩, ⟨20, 3, .rw, 0⟩]⟩,
  ⟨"FAB_QP_PEER", 0x0240, 1, [⟨0, 16, .rw, 0⟩]⟩,
  ⟨"FAB_QP_CTRL", 0x0244, 1, [⟨0, 1, .wo, 0⟩, ⟨1, 1, .wo, 0⟩]⟩,
  ⟨"FAB_QP_STAT", 0x0248, 1, [⟨0, 2, .ro, 0⟩, ⟨2, 1, .ro, 0⟩, ⟨3, 5, .ro, 0⟩, ⟨8, 7, .ro, 0⟩]⟩,
  ⟨"FAB_PD_SEL", 0x024C, 1, [⟨0, 8, .rw, 0⟩]⟩,
  ⟨"FAB_PD_CFG", 0x0250, 1, [⟨0, 3, .rw, 0⟩, ⟨3, 1, .rw, 0⟩]⟩,
  ⟨"FAB_PD_BUF_LO", 0x0254, 1, [⟨0, 32, .rw, 0⟩]⟩,
  ⟨"FAB_PD_BUF_HI", 0x0258, 1, [⟨0, 8, .rw, 0⟩]⟩,
  ⟨"FAB_PD_BUF_LEN", 0x025C, 1, [⟨0, 32, .rw, 0⟩]⟩,
  ⟨"FAB_KEY_SEL", 0x0260, 1, [⟨0, 12, .rw, 0⟩]⟩,
  ⟨"FAB_KEY_CFG", 0x0264, 1, [⟨0, 8, .rw, 0⟩, ⟨8, 1, .rw, 0⟩, ⟨9, 8, .rw, 0⟩, ⟨17, 8, .rw, 0⟩]⟩,
  ⟨"FAB_KEY_CPN_LO", 0x0268, 1, [⟨0, 32, .rw, 0⟩]⟩,
  ⟨"FAB_KEY_CPN_HI", 0x026C, 1, [⟨0, 8, .rw, 0⟩]⟩,
  ⟨"FAB_KEY_SPAN", 0x0270, 1, [⟨0, 24, .rw, 0⟩]⟩,
  ⟨"FAB_KEY_SEQ", 0x0274, 1, [⟨0, 20, .rw, 0⟩]⟩,
  ⟨"FAB_KEY_CTRL", 0x0278, 1, [⟨0, 1, .wo, 0⟩, ⟨1, 1, .wo, 0⟩]⟩,
  ⟨"FAB_KEY_STAT", 0x027C, 1, [⟨0, 2, .ro, 0⟩, ⟨2, 3, .ro, 0⟩, ⟨5, 11, .ro, 0⟩, ⟨16, 8, .ro, 0⟩]⟩,
  ⟨"FAB_KEY_VALUE", 0x0280, 1, [⟨0, 32, .ro, 0⟩]⟩,
  ⟨"FAB_MISS_STAT", 0x0284, 1, [⟨0, 10, .ro, 0⟩]⟩,
  ⟨"FAB_DROP", 0x0288, 1, [⟨0, 32, .ro, 0⟩]⟩]

/-- The registers of the DMA page (R378). -/
def regsDma : List RegDef := [
  ⟨"DMA_CH_SEL", 0x0200, 1, [⟨0, 6, .rw, 0⟩]⟩,
  ⟨"DMA_CH_CFG", 0x0204, 1, [⟨0, 3, .rw, 0⟩, ⟨3, 1, .rw, 1⟩, ⟨4, 2, .rw, 0⟩, ⟨6, 6, .rw, 0⟩, ⟨12, 5, .rw, 4⟩, ⟨17, 2, .rw, 0⟩, ⟨19, 1, .rw, 0⟩, ⟨20, 8, .rw, 0⟩]⟩,
  ⟨"DMA_CH_DESC_LO", 0x0208, 1, [⟨0, 32, .rw, 0⟩]⟩,
  ⟨"DMA_CH_DESC_HI", 0x020C, 1, [⟨0, 32, .rw, 0⟩]⟩,
  ⟨"DMA_CH_COUNT", 0x0210, 1, [⟨0, 24, .rw, 0⟩]⟩,
  ⟨"DMA_CH_CTRL", 0x0214, 1, [⟨0, 1, .wo, 0⟩, ⟨1, 1, .wo, 0⟩, ⟨2, 1, .wo, 0⟩]⟩,
  ⟨"DMA_CH_STAT", 0x0218, 1, [⟨0, 3, .ro, 0⟩, ⟨3, 3, .ro, 0⟩, ⟨6, 8, .ro, 0⟩, ⟨14, 1, .w1c, 0⟩]⟩,
  ⟨"DMA_CH_SWREQ", 0x021C, 1, [⟨0, 8, .wo, 0⟩]⟩,
  ⟨"DMA_CH_LIMIT", 0x0220, 1, [⟨0, 8, .rw, 0x40⟩, ⟨8, 8, .rw, 0x40⟩]⟩,
  ⟨"DMA_CH_DPOS", 0x0224, 1, [⟨0, 24, .ro, 0⟩]⟩,
  ⟨"DMA_CH_BUF", 0x0228, 1, [⟨0, 7, .ro, 0⟩]⟩,
  ⟨"DMA_IRQ_STAT_LO", 0x0230, 1, [⟨0, 32, .w1c, 0⟩]⟩,
  ⟨"DMA_IRQ_STAT_HI", 0x0234, 1, [⟨0, 32, .w1c, 0⟩]⟩]

/-- The registers of the CNT page (R514). -/
def regsCnt : List RegDef := [
  ⟨"CNT_CFG", 0x0200, 1, [⟨0, 16, .rw, 0⟩]⟩,
  ⟨"CNT_SEC_BASE_LO", 0x0204, 1, [⟨0, 32, .rw, 0⟩]⟩,
  ⟨"CNT_SEC_BASE_HI", 0x0208, 1, [⟨0, 8, .rw, 0⟩, ⟨8, 16, .rw, 0x10⟩]⟩,
  ⟨"CNT_SEC_ERR", 0x020C, 1, [⟨0, 3, .rw, 0⟩, ⟨3, 6, .rw, 0⟩, ⟨9, 1, .rw, 0⟩, ⟨16, 8, .rw, 0xFF⟩]⟩,
  ⟨"CNT_IRQ_ROUTE", 0x0210, 1, [⟨0, 2, .rw, 0⟩, ⟨2, 8, .rw, 0⟩, ⟨10, 1, .rw, 0⟩]⟩,
  ⟨"CNT_PT_SEL", 0x0214, 1, [⟨0, 3, .rw, 0⟩]⟩,
  ⟨"CNT_PT_BUF_LO", 0x0218, 1, [⟨0, 32, .rw, 0⟩]⟩,
  ⟨"CNT_PT_BUF_HI", 0x021C, 1, [⟨0, 8, .rw, 0⟩, ⟨8, 16, .rw, 0x10⟩, ⟨24, 1, .rw, 0⟩]⟩,
  ⟨"CNT_PT_ERR", 0x0220, 1, [⟨0, 6, .rw, 0⟩, ⟨6, 1, .rw, 0⟩, ⟨8, 8, .rw, 0xFF⟩]⟩,
  ⟨"CNT_ERR_LOST", 0x0224, 1, [⟨0, 32, .ro, 0⟩]⟩,
  ⟨"CNT_THR_SEL", 0x0228, 1, [⟨0, 3, .rw, 0⟩]⟩,
  ⟨"CNT_THR_SRC", 0x022C, 1, [⟨0, 12, .rw, 0⟩, ⟨12, 8, .rw, 0⟩, ⟨20, 3, .rw, 0⟩, ⟨23, 1, .rw, 0⟩, ⟨24, 1, .rw, 0⟩]⟩,
  ⟨"CNT_THR_VAL_LO", 0x0230, 1, [⟨0, 32, .rw, 0⟩]⟩,
  ⟨"CNT_THR_VAL_HI", 0x0234, 1, [⟨0, 32, .rw, 0⟩]⟩]

/-- The registers of the SNP page (R354). -/
def regsSnp : List RegDef := [
  ⟨"SNP_CFG", 0x0200, 1, [⟨0, 1, .rw, 1⟩, ⟨1, 1, .rw, 0⟩, ⟨2, 1, .rw, 0⟩, ⟨3, 1, .rw, 0⟩, ⟨8, 8, .rw, 0⟩]⟩,
  ⟨"SNP_TRIG", 0x0204, 1, [⟨0, 1, .wo, 0⟩]⟩,
  ⟨"SNP_RELEASE", 0x0208, 1, [⟨0, 1, .wo, 0⟩]⟩,
  ⟨"SNP_LAST", 0x020C, 1, [⟨0, 8, .ro, 0⟩, ⟨8, 4, .ro, 0⟩]⟩,
  ⟨"SNP_LAST_TIME_LO", 0x0210, 1, [⟨0, 32, .ro, 0⟩]⟩,
  ⟨"SNP_LAST_TIME_HI", 0x0214, 1, [⟨0, 32, .ro, 0⟩]⟩,
  ⟨"SNP_HELD", 0x0218, 1, [⟨0, 8, .ro, 0⟩]⟩,
  ⟨"SNP_MISSED", 0x021C, 1, [⟨0, 32, .ro, 0⟩]⟩]

/-- The registers of the REC page (R526). -/
def regsRec : List RegDef := [
  ⟨"REC_CFG", 0x0200, 1, [⟨0, 1, .rw, 0⟩, ⟨1, 1, .rw, 0⟩, ⟨2, 1, .rw, 1⟩, ⟨3, 5, .rw, 0x10⟩, ⟨8, 2, .rw, 0⟩, ⟨10, 16, .rw, 0x100⟩]⟩,
  ⟨"REC_BASE_LO", 0x0204, 1, [⟨0, 32, .rw, 0⟩]⟩,
  ⟨"REC_BASE_HI", 0x0208, 1, [⟨0, 32, .rw, 0⟩]⟩,
  ⟨"REC_PT", 0x020C, 1, [⟨0, 8, .rw, 0⟩, ⟨8, 8, .rw, 0⟩, ⟨16, 8, .rw, 0⟩]⟩,
  ⟨"REC_CONTENT", 0x0210, 1, [⟨0, 24, .rw, 0⟩]⟩,
  ⟨"REC_STAT", 0x0214, 1, [⟨0, 2, .ro, 0⟩]⟩,
  ⟨"REC_SEGNO", 0x0218, 1, [⟨0, 32, .ro, 0⟩]⟩,
  ⟨"REC_LOST", 0x021C, 1, [⟨0, 32, .ro, 0⟩]⟩,
  ⟨"REC_MARK", 0x0220, 1, [⟨0, 32, .wo, 0⟩]⟩,
  ⟨"REC_REPLAY", 0x0224, 1, [⟨0, 1, .rw, 0⟩, ⟨1, 3, .rw, 0⟩, ⟨4, 5, .rw, 0x10⟩, ⟨9, 1, .rw, 0⟩, ⟨10, 1, .rw, 1⟩]⟩,
  ⟨"REC_REPLAY_STAT", 0x0228, 1, [⟨0, 3, .ro, 0⟩]⟩,
  ⟨"REC_DIV_SEG", 0x022C, 1, [⟨0, 32, .ro, 0⟩]⟩,
  ⟨"REC_DIV_OFF", 0x0230, 1, [⟨0, 32, .ro, 0⟩]⟩]

/-- The registers of the HBC pages (R295). -/
def regsHbc : List RegDef := [
  ⟨"HBC_PATROL", 0x0200, 1, [⟨0, 8, .rw, 0x18⟩]⟩,
  ⟨"HBC_CE_RETIRE", 0x0204, 1, [⟨0, 8, .rw, 4⟩]⟩,
  ⟨"HBC_ERR_BASE_LO", 0x0208, 1, [⟨0, 32, .rw, 0⟩]⟩,
  ⟨"HBC_ERR_BASE_HI", 0x020C, 1, [⟨0, 8, .rw, 0⟩]⟩,
  ⟨"HBC_FRAMES", 0x0210, 1, [⟨0, 20, .ro, 0⟩]⟩,
  ⟨"HBC_CE_OUTER", 0x0214, 1, [⟨0, 32, .ro, 0⟩]⟩,
  ⟨"HBC_CE_INNER", 0x0218, 1, [⟨0, 32, .ro, 0⟩]⟩,
  ⟨"HBC_UE", 0x021C, 1, [⟨0, 32, .ro, 0⟩]⟩,
  ⟨"HBC_RET_CNT", 0x0220, 1, [⟨0, 15, .ro, 0⟩, ⟨15, 1, .w1c, 0⟩]⟩,
  ⟨"HBC_RET_SEL", 0x0224, 1, [⟨0, 14, .rw, 0⟩]⟩,
  ⟨"HBC_RET_DATA", 0x0228, 1, [⟨0, 20, .ro, 0⟩, ⟨20, 2, .ro, 0⟩]⟩,
  ⟨"HBC_RET_ADD", 0x022C, 1, [⟨0, 20, .wo, 0⟩]⟩]

/-- The registers of the JLK pages (R413). -/
def regsJlk : List RegDef := [
  ⟨"JLK_CFG", 0x0200, 1, [⟨0, 1, .rw, 1⟩, ⟨1, 2, .rw, 0⟩, ⟨3, 1, .rw, 1⟩, ⟨4, 1, .rw, 1⟩, ⟨5, 1, .rw, 1⟩, ⟨8, 8, .rw, 0x10⟩, ⟨16, 4, .rw, 4⟩]⟩,
  ⟨"JLK_CTRL", 0x0204, 1, [⟨0, 1, .wo, 0⟩, ⟨1, 1, .wo, 0⟩, ⟨2, 1, .wo, 0⟩]⟩,
  ⟨"JLK_STAT", 0x0208, 1, [⟨0, 3, .ro, 0⟩, ⟨3, 2, .ro, 0⟩, ⟨5, 1, .ro, 0⟩, ⟨6, 1, .ro, 0⟩, ⟨7, 1, .ro, 0⟩, ⟨8, 8, .ro, 0⟩, ⟨16, 8, .ro, 0⟩, ⟨24, 4, .ro, 0⟩]⟩,
  ⟨"JLK_KGEN_RX", 0x020C, 1, [⟨0, 8, .ro, 0⟩]⟩,
  ⟨"JLK_LANE_SEL", 0x0210, 1, [⟨0, 3, .rw, 0⟩]⟩,
  ⟨"JLK_LANE_STAT", 0x0214, 1, [⟨0, 3, .ro, 0⟩, ⟨3, 1, .ro, 0⟩, ⟨4, 1, .ro, 0⟩, ⟨8, 8, .ro, 0⟩, ⟨16, 16, .ro, 0⟩]⟩,
  ⟨"JLK_FEC_CORR", 0x0218, 1, [⟨0, 32, .ro, 0⟩]⟩,
  ⟨"JLK_FEC_UNCORR", 0x021C, 1, [⟨0, 32, .ro, 0⟩]⟩,
  ⟨"JLK_REPLAY", 0x0220, 1, [⟨0, 16, .ro, 0⟩, ⟨16, 16, .ro, 0⟩]⟩,
  ⟨"JLK_AUTH_FAIL", 0x0224, 1, [⟨0, 32, .ro, 0⟩]⟩,
  ⟨"JLK_VC_SEL", 0x0228, 1, [⟨0, 3, .rw, 0⟩]⟩,
  ⟨"JLK_VC_STAT", 0x022C, 1, [⟨0, 16, .ro, 0⟩, ⟨16, 16, .ro, 0⟩]⟩,
  ⟨"JLK_CPL_TO", 0x0230, 1, [⟨0, 16, .rw, 0x3E8⟩]⟩]

/-- The registers of the TSC pages (R437). -/
def regsTsc : List RegDef := [
  ⟨"TSC_Q_SEL", 0x0200, 1, [⟨0, 6, .rw, 0⟩]⟩,
  ⟨"TSC_Q_STAT", 0x0204, 1, [⟨0, 9, .ro, 0⟩, ⟨9, 2, .ro, 3⟩, ⟨11, 2, .ro, 0⟩, ⟨13, 1, .ro, 0⟩, ⟨14, 1, .ro, 0⟩, ⟨15, 1, .ro, 0⟩, ⟨16, 1, .ro, 0⟩, ⟨17, 1, .ro, 0⟩, ⟨18, 1, .ro, 0⟩]⟩,
  ⟨"TSC_Q_BYTES", 0x0208, 1, [⟨0, 32, .ro, 0⟩]⟩,
  ⟨"TSC_Q_DEF", 0x020C, 1, [⟨0, 19, .ro, 0⟩]⟩,
  ⟨"TSC_Q_CREDIT", 0x0210, 1, [⟨0, 32, .ro, 0⟩]⟩,
  ⟨"TSC_Q_TC", 0x0214, 1, [⟨0, 24, .ro, 0⟩]⟩,
  ⟨"TSC_Q_TX", 0x0218, 1, [⟨0, 24, .ro, 0⟩]⟩,
  ⟨"TSC_GATE_STAT", 0x021C, 1, [⟨0, 8, .ro, 0⟩, ⟨8, 1, .ro, 0⟩, ⟨9, 1, .ro, 0⟩]⟩,
  ⟨"TSC_GATE_TAKE_LO", 0x0220, 1, [⟨0, 32, .ro, 0⟩]⟩,
  ⟨"TSC_GATE_TAKE_HI", 0x0224, 1, [⟨0, 32, .ro, 0⟩]⟩,
  ⟨"TSC_GATE_OPEN_LO", 0x0228, 1, [⟨0, 32, .ro, 0xFFFFFFFF⟩]⟩,
  ⟨"TSC_GATE_OPEN_HI", 0x022C, 1, [⟨0, 32, .ro, 0xFFFFFFFF⟩]⟩,
  ⟨"TSC_MODE", 0x0230, 1, [⟨0, 1, .ro, 0⟩, ⟨8, 8, .ro, 0⟩]⟩]

/-- The registers of the TIL pages (R255, R510). -/
def regsTil : List RegDef := [
  ⟨"TIL_WARM_SPAD_MAX", 0x0600, 1, [⟨0, 8, .rw, 0xE0⟩]⟩,
  ⟨"TIL_WARM_STAT", 0x0604, 1, [⟨0, 1, .ro, 0⟩, ⟨1, 8, .ro, 0⟩, ⟨9, 8, .ro, 0⟩, ⟨17, 4, .ro, 0⟩]⟩,
  ⟨"TIL_WARM_STALL", 0x0608, 1, [⟨0, 32, .ro, 0⟩]⟩,
  ⟨"TIL_PMC_CFG0", 0x0610, 8, [⟨0, 8, .rw, 0⟩, ⟨8, 1, .rw, 0⟩, ⟨9, 1, .wo, 0⟩, ⟨10, 5, .rw, 0⟩, ⟨15, 1, .rw, 0⟩]⟩]

/-- The registers of the doorbell pages (R344). -/
def regsDb : List RegDef := [
  ⟨"DEP_SQ_DB0", 0x1000, 256, [⟨0, 16, .wo, 0⟩]⟩,
  ⟨"DEP_CQ_DB0", 0x2000, 64, [⟨0, 16, .wo, 0⟩]⟩]

/-- The registers of a block by its type code (R347). -/
def blockRegs : Nat → List RegDef
  | 1 => regsGlb
  | 2 => regsClk
  | 3 => regsPwr
  | 4 => regsSec
  | 5 => regsDep
  | 6 => regsSeq
  | 7 => regsChn
  | 8 => regsBlw
  | 9 => regsNvh
  | 10 => regsCxh
  | 11 => regsFab
  | 12 => regsDma
  | 13 => regsCnt
  | 14 => regsSnp
  | 15 => regsRec
  | 16 => regsHbc
  | 17 => regsJlk
  | 18 => regsTsc
  | 19 => regsTil
  | 20 => regsDb
  | _ => []

/-- The register at an offset of a block. -/
def findReg (type off : Nat) : Option RegDef :=
  (blockRegs type).find? fun r => decide (r.off ≤ off ∧ off < r.off + 4 * r.count ∧ off % 4 = 0)

/-- The reset value of a register. -/
def RegDef.reset (r : RegDef) : Nat := r.fields.foldl (fun v f => v + f.reset * 2 ^ f.lsb) 0
/-- The bits of fields of one access. -/
def RegDef.mask (r : RegDef) (a : Acc) : Nat :=
  r.fields.foldl (fun v f => if f.acc = a then v + (2 ^ f.width - 1) * 2 ^ f.lsb else v) 0

end Sys2Proof.Machine
end

