-- ==== Sys2Proof/Machine/Shaper.lean ====
section
/-!
DEFINITION. What passes in a traffic scheduler with time: gate lists (R430 to R432), shaper credits (R423) and meter buckets (R425 to
R427). Credits and buckets count thousandths of a byte, so that r MB/s adds r per ns.
-/

namespace Sys2Proof.Machine

/-- The configuration of a queue. -/
def queueCfg (t : Tsc) (q : Nat) : QueueCfg := lget t.cfg.queues q { pt := 0, en := false, vc := 0, band := 0, yband := 0 }

/-! ### Gates -/

/-- The entry that runs at a position of the cycle: its index, its gates, and where it ends; the last entry holds to the cycle's end. -/
def entryAt (cycle pos : Nat) : Nat → Nat → List (Nat × Nat) → Option (Nat × Nat × Nat)
  | _, _, [] => none
  | i, _, [(g, _)] => some (i, g, cycle)
  | i, at_, (g, d) :: rest => if pos < at_ + d then some (i, g, min (at_ + d) cycle) else entryAt cycle pos (i + 1) (at_ + d) rest

/-- The running entry of a list started at `start`, its gates, and the time at which it ends; none where there is no list. -/
def gateSegment (g : GateList) (start t : Nat) : Option (Nat × Nat × Nat) :=
  let pos := (t - start) % g.cycle
  (entryAt g.cycle pos 0 0 g.entries).map fun e => (e.1, e.2.1, t - pos + e.2.2)

/-- The gates open at a time. -/
def gatesOpen (t : Tsc) (now : Nat) : Nat :=
  match gateSegment t.gates t.gateStart now with
  | some e => e.2.1
  | none => 2 ^ 64 - 1

/-- Nanoseconds for which the gate of queue q is open in the first `pos` of a cycle. -/
def openWithin (cycle q pos : Nat) : Nat → List (Nat × Nat) → Nat
  | _, [] => 0
  | at_, [(g, _)] => if bit g q then min pos cycle - at_ else 0
  | at_, (g, d) :: rest =>
    (if bit g q then min (min pos cycle) (at_ + d) - at_ else 0) + openWithin cycle q pos (at_ + d) rest

/-- Nanoseconds for which the gate of queue q has been open from a list's start to time t. -/
def openSince (g : GateList) (start q t : Nat) : Nat :=
  (t - start) / g.cycle * openWithin g.cycle q g.cycle 0 g.entries + openWithin g.cycle q ((t - start) % g.cycle) 0 g.entries

/-- Nanoseconds from a to b for which the gate of queue q is open. -/
def openTime (g : GateList) (start q a b : Nat) : Nat :=
  if g.entries.isEmpty then b - a else openSince g start q b - openSince g start q a

/-- R432: does the queue's gate stay open from now until a frame of `len` bytes at `rate` bytes per ns would end? -/
def gateFits (t : Tsc) (q now len rate : Nat) : Nat → Nat → Bool
  | 0, _ => false
  | fuel + 1, at_ =>
    let seg := match t.pending with
      | some (p, take) =>
        if take ≤ at_ then gateSegment p take at_
        else
          match gateSegment t.gates t.gateStart at_ with
          | some (i, g, e) => some (i, g, min e take)
          | none => some (0, 2 ^ 64 - 1, take)
      | none => gateSegment t.gates t.gateStart at_
    match seg with
    | none => true
    | some (_, g, e) => bit g q && (decide (len ≤ (e - now) * rate) || gateFits t q now len rate fuel e)

/-- The take-over time of a list that is applied now (R431). -/
def takeOver (g : GateList) (now : Nat) : Nat :=
  if now < g.baseTime then g.baseTime
  else if g.cycle = 0 then now
  else g.baseTime + ((now - g.baseTime) / g.cycle + 1) * g.cycle

/-! ### Credits and buckets -/

/-- R423: the credit after `open` ns with the gate open. -/
def creditAfter (c : QueueCfg) (e : EgQueue) (open_ : Nat) : Int :=
  if ¬ c.shapeEn then e.credit
  else if e.frames.isEmpty then (if 0 < e.credit then 0 else min 0 (e.credit + c.idleRate * open_))
  else min (c.hiCredit * 1000) (e.credit + c.idleRate * open_)

/-- R425, R426: the buckets after dt ns. -/
def bucketsAfter (c : QueueCfg) (e : EgQueue) (dt : Nat) : Nat × Nat :=
  let full := e.tc + c.cir * dt
  match c.mtype with
  | 1 => (min (c.cbs * 1000) full, min (c.ebsPbs * 1000) (e.tx + (full - c.cbs * 1000)))
  | 2 => (min (c.cbs * 1000) full, min (c.ebsPbs * 1000) (e.tx + c.pir * dt))
  | _ => (e.tc, e.tx)

/-- Bring one queue from time a to time b. -/
def accrueQueue (t : Tsc) (a b : Nat) (q : Nat) (e : EgQueue) : EgQueue :=
  let c := queueCfg t q
  let k := bucketsAfter c e (b - a)
  { e with credit := creditAfter c e (openTime t.gates t.gateStart q a b), tc := k.1, tx := k.2 }

/-- Bring every queue to a time. -/
def accrue (t : Tsc) (now : Nat) : Tsc :=
  if now ≤ t.at_ then t
  else { t with qs := t.qs.zipIdx.map fun e => accrueQueue t t.at_ now e.2 e.1, at_ := now }

/-- The pending list takes over if its time has come (R431). -/
def takePending (t : Tsc) (now : Nat) : Tsc :=
  match t.pending with
  | some (g, take) => if take ≤ now then { accrue t take with gates := g, gateStart := take, pending := none, entry := 0 } else t
  | none => t

/-- The scheduler as it stands at a time. -/
def schedSync (t : Tsc) (now : Nat) : Tsc :=
  let t := accrue (takePending t now) now
  { t with entry := ((gateSegment t.gates t.gateStart now).map (·.1)).getD 0 }

end Sys2Proof.Machine
end

