-- ==== Sys2Proof/Machine/Frames.lean ====
section
/-!
DEFINITION. Frames on their way out: their lengths (R390, R391, R403, R438), the egress queue a frame enters (R416, R417,
R435, R440), and the host transactions the device sends (R404, R405).
-/

namespace Sys2Proof.Machine

/-- LEN of a frame (R391, R403, R409, R438): the headers, the data padded to 16 bytes, and the tag of a protected frame. -/
def frameLen (f : Frame) : Nat :=
  let tag := if f.enc then 16 else 0
  match f.body with
  | .idle | .reserved _ => 16
  | .credit _ | .ack _ | .nak _ | .key _ _ => 32 + tag
  | .txn t => 32 + roundUp t.data.length 16 + tag
  | .pkt p => 48 + roundUp p.data.length 16 + 16
  | .mgmt _ _ _ d => 16 + roundUp (4 + d.length) 16 + tag

/-- Credits a DATA or MGMT frame takes (R396). -/
def frameCredits (f : Frame) : Nat := ceilDiv (frameLen f) 64

/-- Is the Jurola port a host port? -/
def isHostPort (p : Nat) : Bool := decide (p < 4)

/-- The queue that a key's frames enter: the one that still holds frames of the key, else the mapped one (R435). -/
def queueOf (t : Tsc) (key : Nat) : Option Nat :=
  match lfind t.qs (fun q => q.frames.any (fun f => f.key == key)) with
  | some q => some q
  | none => lget t.cfg.map key none

/-- Put a frame into its queue. It stays with its origin while the queue is full, was disabled by a commit (R435), or an earlier frame
of its key waits there (R416). A partition being scrubbed has no frame taken but those the secure world answers with (R436, R490, R494). -/
def pushFrame (t : Tsc) (f : QFrame) : Tsc :=
  if t.scrubbing.contains (f.key / 16) ∧ ¬ f.frame.secure then t
  else
    match queueOf t f.key with
    | none => { t with stalled := t.stalled ++ [f] }
    | some q =>
      if (lget t.qs q {}).frames.length ≥ 256 ∨ ¬ (queueCfg t q).en ∨ t.stalled.any (fun g => g.key == f.key) then
        { t with stalled := t.stalled ++ [f] }
      else { t with qs := lmod t.qs q fun e => { e with frames := e.frames ++ [f] } }

/-- The stalled frames that find room now enter their queues, oldest first. -/
def refill (t : Tsc) : Tsc :=
  t.stalled.foldl (fun u f => pushFrame u f) { t with stalled := [] }

/-- Hand a DATA frame of traffic class tc to a port's scheduler, whose credits stand as they are now. A frame is protected when the port
is keyed (R402). -/
def enqueue (s : State) (port tc : Nat) (f : Frame) (origin : Nat := 0) : State :=
  s.setSched port fun t =>
    pushFrame (schedSync t s.time) { key := f.pt * 16 + f.vc * 4 + tc, frame := { f with enc := (s.link port).keyed }, origin := origin }

/-- The virtual channel of a host transaction the device sends (R397). -/
def txnVc (op : TxnOp) : Nat :=
  match op with
  | .memRd | .mmioRd | .mmioWr => 0
  | .memWr | .irqMsg => 1
  | .mmioRsp | .memCpl | .wrAck => 2

/-- Send a host transaction on a host port for a partition and world. -/
def sendTxn (s : State) (port tc pt : Nat) (secure : Bool) (t : Txn) (origin : Nat := 0) : State :=
  enqueue s port tc { vc := txnVc t.op, pt := pt, secure := secure, body := .txn t } origin

/-- Cut a range of bytes at the 4 KiB boundaries of addresses (R405). -/
def split4k (fuel addr : Nat) (bs : List Byte) : List (Nat × List Byte) :=
  match fuel with
  | 0 => []
  | k + 1 =>
    if bs.isEmpty then []
    else
      let n := 4096 - addr % 4096
      (addr, bs.take n) :: split4k k (addr + n) (bs.drop n)

/-- Write bytes to host memory: MEM_WR frames, none of which crosses a 4 KiB boundary (R405). They reach host memory when
the scheduler sends them (R406). [DEDUCED, log 6] -/
def hostWrite (s : State) (port tc pt : Nat) (secure : Bool) (addr : Nat) (bs : List Byte) (origin : Nat := 0) : State :=
  (split4k (bs.length / 4096 + 2) addr bs).foldl
    (fun s w => sendTxn s port tc pt secure { op := .memWr, bytes := w.2.length, addr := w.1, data := w.2 } origin) s

/-- An interrupt message (R404). -/
def hostIrq (s : State) (port tc pt : Nat) (secure : Bool) (vec : Nat) : State :=
  sendTxn s port tc pt secure { op := .irqMsg, addr := vec % 256 }

/-- Is the port up? -/
def portActive (s : State) (p : Nat) : Bool := (s.link p).state == .active

/-- A MEM_RD of at most one 4 KiB page (R405): the frame, and the record of the outstanding read. With 1,024 outstanding, or
a port that is not ACTIVE, none is sent. [DEDUCED, log 6] -/
def hostRead (s : State) (port tc pt : Nat) (secure : Bool) (addr n : Nat) (use : ReadUse) : State :=
  let l := s.link port
  if l.reads.length ≥ 1024 ∨ ¬ portActive s port then s
  else
    let tag := ((List.range 1024).find? fun i => ¬ l.reads.any (fun r => r.tag == (l.readTag + i) % 1024)).getD 0
    let tag := (l.readTag + tag) % 1024
    let s := s.setLink port fun l =>
      { l with reads := l.reads ++ [{ tag := tag, addr := addr, bytes := n, got := [], at_ := s.time, use := use }],
               readTag := (tag + 1) % 1024 }
    sendTxn s port tc pt secure { op := .memRd, tag := tag, bytes := n, addr := addr }

/-- Host memory as the device reads it: what the frames sent so far have written (R406). [DEDUCED, log 6] -/
def hostBytes (s : State) (port addr n : Nat) : List Byte := mreads s.mems.host (port * 2 ^ 64 + addr) n

/-- Send a fabric packet from this device (R438, R440). -/
def sendPkt (s : State) (port tc vc pt : Nat) (secure : Bool) (p : Packet) : State :=
  enqueue s port tc { vc := vc, pt := pt, secure := secure, body := .pkt p }

end Sys2Proof.Machine
end

