-- ==== Sys2Proof/Machine/Header.lean ====
section
/-!
DEFINITION. Register pages: where each block's page lies (R339, R347), registers by page, offset and bank, the common header
(R346), interrupt causes and their summary (R504), the error log (R348, R349), and the counters (R507, R508).
-/

namespace Sys2Proof.Machine

/-! ### Pages -/

def pgGlb : Nat := 0
def pgClk : Nat := 1
def pgPwr : Nat := 2
def pgSec : Nat := 3
def pgDep : Nat := 4
def pgSeq : Nat := 5
def pgChn : Nat := 6
def pgBlw : Nat := 7
def pgNvh : Nat := 8
def pgCxh : Nat := 9
def pgFab : Nat := 10
def pgDma : Nat := 11
def pgCnt : Nat := 12
def pgSnp : Nat := 13
def pgRec : Nat := 14
def pgHbc (m : Nat) : Nat := 0x10 + m
def pgJlk (p : Nat) : Nat := 0x20 + p
def pgTsc (p : Nat) : Nat := 0x30 + p
def pgTil (t : Nat) : Nat := 0x40 + t

/-- The block type code of a page (R339, R347); 0 for an unmapped page. -/
def pageType (n : Nat) : Nat :=
  if n < 15 then n + 1
  else if 0x10 ≤ n ∧ n < 0x1C then 0x10
  else if 0x20 ≤ n ∧ n < 0x2C then 0x11
  else if 0x30 ≤ n ∧ n < 0x3C then 0x12
  else if 0x40 ≤ n ∧ n < 0x70 then 0x13
  else if 0x100 ≤ n ∧ n < 0x108 then 0x14
  else 0

/-- The instance number of a page (R347). -/
def pageInst (n : Nat) : Nat :=
  if n < 0x10 then 0
  else if n < 0x20 then n - 0x10
  else if n < 0x30 then n - 0x20
  else if n < 0x40 then n - 0x30
  else if n < 0x70 then n - 0x40
  else n - 0x100

/-- The block pages that can hold a snapshot: every mapped page but the doorbell pages (R354). -/
def snapPages : List Nat :=
  List.range 15 ++ (List.range 12).map (0x10 + ·) ++ (List.range 12).map (0x20 + ·) ++ (List.range 12).map (0x30 + ·)
    ++ (List.range 48).map (0x40 + ·)

/-- A page's header at reset: GLB, CLK, PWR and SEC are secure and locked (R350). -/
def pageReset (n : Nat) : Page := if n < 4 then { secure := true, lock := true } else {}

def State.page (s : State) (n : Nat) : Page := tgetD s.pages n (pageReset n)
def State.setPage (s : State) (n : Nat) (f : Page → Page) : State :=
  { s with pages := tput (pageReset n) s.pages n (f (s.page n)) }

/-! ### Registers -/

/-- The key of a register's storage. -/
def regKey (page off bank : Nat) : Nat := (page * 65536 + off) * 2 ^ 20 + bank

/-- The reset value of a register. -/
def regReset (page off : Nat) : Nat :=
  match findReg (pageType page) off with
  | some r => r.reset
  | none => 0

/-- A stored register's value. -/
def State.reg (s : State) (page off : Nat) (bank : Nat := 0) : Nat :=
  match tget s.regs (regKey page off bank) with
  | some w => w.toNat
  | none => regReset page off

def State.setReg (s : State) (page off bank v : Nat) : State :=
  { s with regs := tput (BitVec.ofNat 32 (regReset page off)) s.regs (regKey page off bank) (BitVec.ofNat 32 v) }

/-- Two registers as one 64-bit value, LO at off and HI at off + 4. -/
def State.reg64 (s : State) (page off : Nat) (bank : Nat := 0) : Nat :=
  s.reg page off bank + s.reg page (off + 4) bank * 2 ^ 32

/-! ### Who asks -/

/-- The device itself, in the secure world: BLK_ERR_LOG2.SRC 5. -/
def deviceReq : Requester := { secure := true, pt := 0, src := 5 }

/-! ### Interrupt causes -/

/-- Does the page have an enabled cause (R504)? -/
def pageSum (p : Page) : Bool := (p.irqStat &&& p.irqEn) != 0

/-- Change a page's header; when its summary bit rises and CNT_IRQ_ROUTE.EN = 1, the summary message is sent (R504). -/
def irqMod (s : State) (n : Nat) (f : Page → Page) : State :=
  let before := pageSum (s.page n)
  let s := s.setPage n f
  let r := s.reg pgCnt 0x210
  if ¬ before ∧ pageSum (s.page n) ∧ bit r 10 then hostIrq s (bits r 0 2) 1 0 true (bits r 2 8) else s

/-- Set bit i of a page's BLK_IRQ_STAT. -/
def setIrq (s : State) (n i : Nat) : State :=
  irqMod s n fun p => { p with irqStat := p.irqStat ||| 2 ^ i }

/-! ### Counters -/

/-- The key of a counter's value; partition 15 stands for events that no partition caused. -/
def cntKey (page idx pt : Nat) : Nat := (page * 256 + idx) * 16 + pt

/-- Add n to counter idx of a page for a partition, modulo 2^64 (R507). -/
def count (s : State) (page idx pt : Nat) (n : Nat := 1) : State :=
  let v := (tgetD s.cnt.vals (cntKey page idx pt) 0 + n) % 2 ^ 64
  { s with cnt := { s.cnt with vals := tput 0 s.cnt.vals (cntKey page idx pt) v } }

/-- The value of a counter for one partition. -/
def counterOf (s : State) (page idx pt : Nat) : Nat := tgetD s.cnt.vals (cntKey page idx pt) 0

/-- The counter area's value: the sum of the partitions' values (R507). -/
def counterSum (s : State) (page idx : Nat) : Nat :=
  ((List.range 16).foldl (fun v p => v + counterOf s page idx p) 0) % 2 ^ 64

/-- BLK_CAP0.COUNTERS by type code: one more than the highest index of R508 and R566. -/
def numCounters (type : Nat) : Nat :=
  match type with
  | 0x13 => 26 | 0x06 => 8 | 0x05 => 5 | 0x07 => 7 | 0x08 => 9 | 0x10 => 7 | 0x09 => 5 | 0x0A => 6 | 0x11 => 6
  | 0x12 => 7 | 0x0B => 7 | 0x0C => 3 | 0x04 => 3 | 0x0F => 4 | 0x03 => 5
  | _ => 0

/-- The partition that owns a tile under the latest map it has applied (R342, R476); 15 for none. [DEDUCED, log 92] -/
def tileOwner (m : PtMap) (t : Nat) : Nat :=
  ((List.range 8).find? fun p => let e := lget m.pts p {}; e.valid && bit e.tiles t).getD 15

/-- The partition map the tiles, link blocks and HBM controllers have applied (R71, R75). -/
def State.appliedMap (s : State) : PtMap := if bit s.dep.lag 3 then s.dep.cfgPrev.pmap else s.dep.cfg.pmap

/-- The applied map entry of a partition. -/
def State.mapOf (s : State) (p : Nat) : MapEntry := lget s.appliedMap.pts p {}

/-- Does a programmable counter of a tile count event ev, and cross its threshold (R509)? Answer the tile's new counters
and whether one crossed. -/
def pmcBump (s : State) (t ev n : Nat) : List Nat × Bool :=
  let tl := s.tile t
  (List.range 8).foldl (fun acc i =>
    let c := s.reg (pgTil t) (0x610 + 4 * i)
    if bit c 8 ∧ bits c 0 8 = ev then
      let old := lget acc.1 i 0
      let new := (old + n) % 2 ^ 48
      (lset acc.1 i new, acc.2 || (bit c 15 && decide (old / 2 ^ bits c 10 5 ≠ (old + n) / 2 ^ bits c 10 5)))
    else acc) (tl.pmc, false)

/-! ### The error log -/

/-- The log entry a first error makes (R348). DETAIL of the common codes is open. -/
def newLog (s : State) (code lsb off detail : Nat) (rq : Requester) : ErrLog :=
  { code := code, fieldLsb := lsb, offset := off,
    detail := if code < 0x40 then (Config.errDetail code off).toNat else detail % 65536,
    secure := rq.secure, pt := rq.pt, src := rq.src, time := s.time / 1024 % 2 ^ 32 }

/-- Record an error in a page's log: the first fills it, later ones count in MORE, each sets BLK_IRQ_STAT.ERR (R348). -/
def logOnly (s : State) (page code lsb off detail : Nat) (rq : Requester) : State :=
  let s := s.setPage page fun p =>
    match p.log with
    | none => { p with log := some (newLog s code lsb off detail rq) }
    | some l => { p with log := some { l with more := min (l.more + 1) 0x3FFF } }
  setIrq s page 0

/-- BLK_ERR_LOG0 of a page. -/
def errLog0 (p : Page) : Nat :=
  match p.log with
  | none => 0
  | some l => l.code + l.fieldLsb * 2 ^ 8 + l.more * 2 ^ 16 + 2 ^ 31

end Sys2Proof.Machine
end

