-- ==== Sys2Proof/Machine/Places.lean ====
section
/-!
DEFINITION. Places in memory: T1 frames and pseudo-channels (R258), a partition's working area (R479), the region table
(R472), extents and region frames in pool windows (R299 to R301), and buffer references (R49).
-/

namespace Sys2Proof.Machine

/-- Bytes of a frame. -/
def frameBytes : Nat := 65536
/-- HBC_FRAMES: the data frames of a stack (R483). -/
def hbcFrames : Nat := 574112

/-- The frames of a stack, the carve-out with them (R258). -/
def stackFrames : Nat := 589824
/-- The HBM address of byte off of stack m (R258). -/
def hbmAddr (m off : Nat) : Nat := m * 2 ^ 36 + off
/-- The HBM address of a frame of a stack. -/
def hbmFrame (m f : Nat) : Nat := hbmAddr m (f * frameBytes)

/-- Frames below n whose pseudo-channel is c (R258). -/
def framesBelow (n c : Nat) : Nat := (n + 31 - c) / 32
/-- Frames from a to b − 1 whose pseudo-channel is among mask's. -/
def ownedIn (mask a b : Nat) : Nat :=
  (bitList mask 32).foldl (fun v c => v + (framesBelow b c - framesBelow a c)) 0
/-- The n-th frame at or above f whose pseudo-channel is among mask's: every 32 frames hold as many as mask has bits. -/
def nthOwned (mask f n : Nat) : Option Nat :=
  let k := (bitList mask 32).length
  if k = 0 then none
  else
    let g := f + 32 * (n / k)
    ((List.range 32).find? fun d => bit mask ((g + d) % 32) && ownedIn mask g (g + d) == n % k).map (g + ·)

/-- The frame n of a working area, as an HBM address, counted through the stacks from stack s on (R479). -/
def waFrameFrom (m : PtMap) (pt : Nat) : List Nat → Nat → Option Nat
  | [], _ => none
  | s :: ss, n =>
    match lget m.wa s none with
    | none => waFrameFrom m pt ss n
    | some (f, l) =>
      let mask := lget (lget m.pts pt {}).pc s 0
      let k := ownedIn mask f (l + 1)
      if n < k then (nthOwned mask f n).map (hbmFrame s) else waFrameFrom m pt ss (n - k)

/-- Frame n of the working area of a partition. -/
def waFrame (m : PtMap) (pt n : Nat) : Option Nat := waFrameFrom m pt (List.range 12) n

/-- The size of a partition's working area in bytes (R479). -/
def waSize (m : PtMap) (pt : Nat) : Nat :=
  frameBytes * (List.range 12).foldl (fun v s =>
    match lget m.wa s none with
    | none => v
    | some (f, l) => v + ownedIn (lget (lget m.pts pt {}).pc s 0) f (l + 1)) 0

/-- The pieces of n bytes from offset off of something made of 64 KiB frames: (frame index, offset in it, bytes). -/
def pieces (fuel off n : Nat) : List (Nat × Nat × Nat) :=
  match fuel with
  | 0 => []
  | k + 1 =>
    if n = 0 then []
    else
      let here := min n (frameBytes - off % frameBytes)
      (off / frameBytes, off % frameBytes, here) :: pieces k (off + here) (n - here)

/-- Read n bytes of a working area. [DEDUCED, log 10] -/
def waRead (s : State) (m : PtMap) (pt off n : Nat) : List Byte :=
  (pieces (n / frameBytes + 2) off n).flatMap fun p =>
    match waFrame m pt p.1 with
    | some a => mreads s.mems.hbm (a + p.2.1) p.2.2
    | none => zeros p.2.2

/-- Does a read of n bytes at an HBM address meet poison: a bad unit, or one whose keys are gone (R286, R490)? [DEDUCED, log 10] -/
def hbmBad (s : State) (a n : Nat) : Bool :=
  decide (n ≠ 0) && s.mems.badUnits.any fun u => decide (a / 256 ≤ u ∧ u ≤ (a + n - 1) / 256)

/-- Write bytes to HBM: the units they cover can be read again. -/
def hbmWrite (s : State) (a : Nat) (bs : List Byte) : State :=
  let first := ceilDiv a 256
  let last := (a + bs.length) / 256
  { s with
    mems := { s.mems with
      hbm := mwrites s.mems.hbm a bs,
      badUnits := s.mems.badUnits.filter fun u => ¬ (first ≤ u ∧ u < last) } }

/-- Zero n bytes of HBM from an address. -/
def hbmZero (s : State) (a n : Nat) : State :=
  { s with
    mems := { s.mems with
      hbm := mclear s.mems.hbm a n,
      badUnits := s.mems.badUnits.filter fun u => ¬ (ceilDiv a 256 ≤ u ∧ u < (a + n) / 256) } }

/-- Write bytes into a working area. -/
def waWrite (s : State) (m : PtMap) (pt off : Nat) (bs : List Byte) : State :=
  (pieces (bs.length / frameBytes + 2) off bs.length).foldl (fun (acc : State × List Byte) p =>
    let s := match waFrame m pt p.1 with
      | some a => hbmWrite acc.1 (a + p.2.1) (acc.2.take p.2.2)
      | none => acc.1
    (s, acc.2.drop p.2.2)) (s, bs) |>.1

/-- Does a working-area read meet poison? -/
def waBad (s : State) (m : PtMap) (pt off n : Nat) : Bool :=
  (pieces (n / frameBytes + 2) off n).any fun p =>
    match waFrame m pt p.1 with
    | some a => hbmBad s (a + p.2.1) p.2.2
    | none => false

/-! ### The region table (R472) -/

/-- The SEC registers of a region-table entry: CFG, FIRST, LAST. -/
def rgnEntry (s : State) (i : Nat) : Nat × Nat × Nat :=
  (s.reg pgSec 0x224 i, s.reg pgSec 0x228 i, s.reg pgSec 0x22C i)

/-- Do n bytes at an HBM address lie wholly in one VALID entry of a class? -/
def inClass (s : State) (cls a n : Nat) : Bool :=
  (List.range 16).any fun i =>
    let e := rgnEntry s i
    bit e.1 5 && b2n (bit e.1 4) == cls && decide (hbmFrame (bits e.1 0 4) e.2.1 ≤ a
      ∧ a + n ≤ hbmFrame (bits e.1 0 4) (e.2.2 + 1))

/-- Does a frame of a stack lie in a VALID entry of a class? -/
def frameInClass (s : State) (cls m f : Nat) : Bool :=
  (List.range 16).any fun i =>
    let e := rgnEntry s i
    bit e.1 5 && b2n (bit e.1 4) == cls && bits e.1 0 4 == m && decide (e.2.1 ≤ f ∧ f ≤ e.2.2)

/-! ### Extents and region frames -/

/-- Bytes of a 64 MiB unit. -/
def unitBytes : Nat := 2 ^ 26

/-- The key of a pool byte in `Mems.pool`. -/
def poolKey (port a : Nat) : Nat := port * 2 ^ 48 + a

/-- The extents of the device, with their ports and indices. -/
def allExts (s : State) : List (Nat × Nat × Extent) :=
  ([0, 1] : List Nat).flatMap fun p =>
    ((s.cport p).exts.zipIdx).map fun e => (p, e.2, e.1)

/-- Where byte off of region r lies: the extent that holds it, and the pool key. [DEDUCED, log 70] -/
def regionPlace (s : State) (r off : Nat) : Option (Nat × Nat × Nat) :=
  (allExts s).findSome? fun e =>
    if e.2.2.valid ∧ e.2.2.kind = 2 ∧ e.2.2.region = r ∧ e.2.2.rbase ≤ off / unitBytes
      ∧ off / unitBytes < e.2.2.rbase + e.2.2.size then
      some (e.1, e.2.1, poolKey e.1 (e.2.2.base * unitBytes + (off - e.2.2.rbase * unitBytes)))
    else none

/-- The index a partition's spill extent has in ADDR (R300) is kept in its `rbase`. Where byte b of spill frame f of the
partition's extent i lies; its MACs take 28 of every 1,024 frames (R483). -/
def spillPlace (s : State) (pt i f : Nat) : Option (Nat × Nat × Nat) :=
  (allExts s).findSome? fun e =>
    if e.2.2.valid ∧ e.2.2.kind = 1 ∧ e.2.2.pt = pt ∧ e.2.2.rbase = i ∧ f < e.2.2.size * 996 then
      some (e.1, e.2.1, poolKey e.1 (e.2.2.base * unitBytes + f / 996 * unitBytes + f % 996 * frameBytes))
    else none

/-- The version a partition holds open in a region. -/
def openVersion (s : State) (pt r : Nat) : Option OpenVersion :=
  s.cxh.opens.find? fun o => o.pt == pt && o.region == r

/-- Does the place's extent take requests (R315)? -/
def extTakes (s : State) (port ext : Nat) : Bool := !(((s.cport port).exts[ext]?).any fun e => e.draining)

/-- Read n bytes of a region from an offset; none where no extent that takes requests holds a byte of it. -/
def regionRead (s : State) (r off n : Nat) : Option (List Byte) :=
  (pieces (n / frameBytes + 2) off n).foldr (fun p acc =>
    match regionPlace s r (p.1 * frameBytes + p.2.1), acc with
    | some k, some bs => if extTakes s k.1 k.2.1 then some (mreads s.mems.pool k.2.2 p.2.2 ++ bs) else none
    | _, _ => none) (some [])

/-- Does a region read meet poison: a poisoned line, or a failed port (R316)? -/
def regionBad (s : State) (r off n : Nat) : Bool :=
  (pieces (n / frameBytes + 2) off n).any fun p =>
    match regionPlace s r (p.1 * frameBytes + p.2.1) with
    | some k =>
      (s.cport k.1).failed || s.mems.badLines.any fun l => decide (k.2.2 / 64 ≤ l ∧ l ≤ (k.2.2 + p.2.2 - 1) / 64)
    | none => false

/-- Write bytes into a region: the whole lines they cover can be read again. Bytes that no extent holds, or one that takes no
requests (R315), are dropped. -/
def regionWrite (s : State) (r off : Nat) (bs : List Byte) : State :=
  (pieces (bs.length / frameBytes + 2) off bs.length).foldl (fun (acc : State × List Byte) p =>
    let s := match (regionPlace acc.1 r (p.1 * frameBytes + p.2.1)).filter fun k => extTakes acc.1 k.1 k.2.1 with
      | some k =>
        { acc.1 with mems := { acc.1.mems with
          pool := mwrites acc.1.mems.pool k.2.2 (acc.2.take p.2.2),
          badLines := acc.1.mems.badLines.filter fun l => ¬ (ceilDiv k.2.2 64 ≤ l ∧ l < (k.2.2 + p.2.2) / 64) } }
      | none => acc.1
    (s, acc.2.drop p.2.2)) (s, bs) |>.1

/-! ### Buffer references (R49) -/

def refSpace (r : Nat) : Nat := r / 2 ^ 60
def refAddr (r : Nat) : Nat := r % 2 ^ 60
/-- The region of a SPACE 0x3 reference, and its offset. -/
def refRegion (r : Nat) : Nat := bits r 40 20
def refOff (r : Nat) : Nat := bits r 0 40

/-- The host port, partition and world of a submission ring. -/
def ringPort (s : State) (ring : Nat) : Nat := (s.subRing ring).port
def ringPt (ring : Nat) : Nat := ring / 256
def ringSecure (s : State) (ring : Nat) : Bool := (s.subRing ring).mgr

/-- The partition map of the epoch a command carries (R71, R75). -/
def mapAt (s : State) (epoch : Nat) : PtMap := if epoch = s.dep.epoch then s.dep.cfg.pmap else s.dep.cfgPrev.pmap

/-- What a read through a reference answers. -/
inductive ReadRes where
  | data (bs : List Byte)
  | poison
  | revoked
  | hostFail
  deriving DecidableEq, Repr

/-- Does a read of host memory meet a line whose read fails (R407)? -/
def hostBad (s : State) (port addr n : Nat) : Bool :=
  s.mems.badHost.any fun l => decide ((port * 2 ^ 64 + addr) / 64 ≤ l ∧ l * 64 < port * 2 ^ 64 + addr + n)

/-- Read n bytes through a reference for a command of a ring. A host read answers from host memory while the port is ACTIVE
(log entry 6). -/
def refRead (s : State) (ring epoch r n : Nat) : ReadRes :=
  match refSpace r with
  | 0 =>
    if ¬ portActive s (ringPort s ring) then .hostFail
    else if hostBad s (ringPort s ring) (refAddr r) n then .poison
    else .data (hostBytes s (ringPort s ring) (refAddr r) n)
  | 1 =>
    if waBad s (mapAt s epoch) (ringPt ring) (refAddr r) n then .poison
    else .data (waRead s (mapAt s epoch) (ringPt ring) (refAddr r) n)
  | 3 =>
    match regionRead s (refRegion r) (refOff r) n with
    | none => .revoked
    | some bs => if regionBad s (refRegion r) (refOff r) n then .poison else .data bs
  | _ => .data []

/-- Write bytes through a reference for a command: into the working area, or as host writes on the ring's port, in the
ring's world, counted for FENCE (R41, R67). The bytes sent outside are kept for OUT_HASH (R521). -/
def refWrite (s : State) (acc ring epoch r : Nat) (bs : List Byte) : State :=
  match refSpace r with
  | 0 =>
    let s := hostWrite s (ringPort s ring) 1 (ringPt ring) (ringSecure s ring) (refAddr r) bs (1 + ring)
    { s with rec_ := { s.rec_ with outBytes := tmod s.rec_.outBytes acc [] (· ++ bs) } }
  | 1 => waWrite s (mapAt s epoch) (ringPt ring) (refAddr r) bs
  | _ => s

/-- Does an HBM address lie in its stack's carve-out (R483)? [DEDUCED, log 10] -/
def inCarve (a : Nat) : Bool := decide (hbcFrames ≤ a % 2 ^ 36 / frameBytes)

/-- The number of the 256-byte unit whose MAC holds a byte of the carve-out (R483). [DEDUCED, log 10] -/
def macUnit (a : Nat) : Nat :=
  let f := a % 2 ^ 36 / frameBytes - hbcFrames
  let b := f / 32 * frameBytes + a % frameBytes
  (a / 2 ^ 36 * 2 ^ 36 + (b / 1792 * 32 + f % 32) * frameBytes + b % 1792 / 7 * 256) / 256

end Sys2Proof.Machine
end

