-- ==== Sys2Proof/Machine/Events.lean ====
section
/-!
DEFINITION. What the device reports about itself: the values of composite status registers, the snapshot words (R515) and
the snapshot trigger (R352, R353), records of the input recorder (R516 to R520), error events (R501 to R503), and
partition and device failures (R505, R506).
-/

namespace Sys2Proof.Machine

/-! ### Composite registers -/

/-- STATE of R387 as a number. -/
def linkCode : LinkState → Nat
  | .disabled => 0 | .detect => 1 | .eq => 2 | .align => 3 | .config => 4 | .active => 5 | .recover => 6 | .down => 7

/-- JLK_STAT (R413). -/
def jlkStat (l : Jlk) : Nat :=
  linkCode l.state + l.width * 2 ^ 3 + b2n l.master * 2 ^ 5 + b2n l.keyed * 2 ^ 6 + b2n l.session * 2 ^ 7
    + l.lanes % 256 * 2 ^ 8 + l.kgenTx % 256 * 2 ^ 16 + l.cause % 16 * 2 ^ 24

/-- TSC_GATE_STAT (R437). -/
def gateStat (t : Tsc) : Nat :=
  t.entry % 256 + b2n (!t.gates.entries.isEmpty) * 2 ^ 8 + b2n t.pending.isSome * 2 ^ 9

/-- CXH_PORT_STAT (R319). -/
def cxhPortStat (c : CxlPort) : Nat :=
  b2n c.up + c.width % 4 * 2 + b2n c.lopt * 2 ^ 3 + b2n c.failed * 2 ^ 4 + min c.snoops.length 64 * 2 ^ 5

/-- CHN_BANK_STAT (R151). -/
def bankStat (b : Bank) : Nat :=
  b.words.length + b2n b.running.isSome * 2 ^ 16 + b.queue.length * 2 ^ 17

/-- DEP_EPOCH_CUR (R44). -/
def epochCur (s : State) : Nat := s.dep.epoch + s.dep.prev * 2 ^ 16

/-- Accepted nodes of a partition (DEP_PT_USE) and operations in flight (DEP_INFLIGHT). -/
def ptUse (s : State) (pt : Nat) : Nat :=
  (s.dep.nodes.filter fun n => ringPt n.2.ring == pt).length
def inflight (s : State) : Nat := (s.tiles.map fun t => (t.slots.filter (·.isSome)).length).sum

/-- The enabled page pool of a stack: its first and last frame. -/
def t1Pool (s : State) (m : Nat) : Option (Nat × Nat) :=
  if bit (s.reg pgBlw 0x20C m) 0 then some (s.reg pgBlw 0x204 m, s.reg pgBlw 0x208 m) else none

/-- Is a T1 frame (R258's ADDR) unavailable: in use, retired, or condemned? -/
def t1Taken (s : State) (addr : Nat) : Bool :=
  tmem s.blw.t1 addr || (s.hb (addr / 2 ^ 20)).retired.contains (addr % 2 ^ 20) || s.blw.condemned.contains addr

/-- Frames of a stack that a pseudo-channel mask covers, in its pool, that may not be allocated. -/
def t1TakenIn (s : State) (m mask f l : Nat) : Nat :=
  let hit := fun (x : Nat) => decide (f ≤ x ∧ x ≤ l) && bit mask (x % 32)
  let used := (s.blw.t1.filter fun e => e.1 / 2 ^ 20 == m && hit (e.1 % 2 ^ 20)).length
  let ret := ((s.hb m).retired.filter fun x => hit x && ¬ tmem s.blw.t1 (m * 2 ^ 20 + x)).length
  let con := (s.blw.condemned.filter fun a => a / 2 ^ 20 == m && hit (a % 2 ^ 20) && ¬ tmem s.blw.t1 a
    && ¬ (s.hb m).retired.contains (a % 2 ^ 20)).length
  used + ret + con

/-- Free T1 frames of a stack within a pseudo-channel mask (R259). -/
def t1Free (s : State) (m mask : Nat) : Nat :=
  if (s.hb m).excluded then 0
  else
    match t1Pool s m with
    | none => 0
    | some (f, l) => ownedIn mask f (l + 1) - t1TakenIn s m mask f l

/-! ### Snapshots -/

/-- Is the context held (R453)? -/
def qpHeld (s : State) (q : Nat) : Bool :=
  !(s.qp q).reqs.isEmpty || !(s.qp q).rq.isEmpty || s.fab.asms.any (fun a => a.qpn == q) || s.fab.holds.any (fun h => h.qpn == q)

def low32 (n : Nat) : Nat := n % 2 ^ 32
def high32 (n : Nat) : Nat := n / 2 ^ 32 % 2 ^ 32
/-- A bitmap of a list of truth values, the first in bit 0. -/
def bitmapOf (l : List Bool) : Nat := l.foldr (fun b v => b2n b + 2 * v) 0

/-- STATE of R474 as a number. -/
def ptStateCode : PtState → Nat
  | .empty => 0 | .keying => 1 | .active => 2 | .scrubbing => 3 | .failed => 4

/-- STATE of a drive (R337) as a number. -/
def driveCode : DriveState → Nat
  | .absent => 0 | .training => 1 | .initialising => 2 | .ready => 3 | .failed => 4 | .refused => 5

/-- The commands in the operation slots of a tile, slot by slot. -/
def slotNodes (s : State) (t : Nat) : List (Option Node) := (s.tile t).slots.map fun a => a.bind s.node

/-- Is one of the running WARMs on the tile? -/
def warmOn (s : State) (t : Nat) : Bool := s.warm.ops.any fun w => w.tiles.contains t

/-- The snapshot words of a TIL page. -/
def snapTil (s : State) (t : Nat) : List Nat :=
  let tl := s.tile t
  [bitmapOf (tl.slots.map (·.isSome)) + tl.step * 2 ^ 16 + b2n (warmOn s t) * 2 ^ 21]
    ++ (slotNodes s t).flatMap (fun n =>
      match n with
      | some h => [h.hdr.opcode + ringPt h.ring * 2 ^ 8, low32 h.acc]
      | none => [0, 0])
    ++ [low32 tl.cycles, high32 tl.cycles]

/-- Does a landing window bind the sequence (R459)? Its append lock then counts as held. -/
def windowBinds (s : State) (q : Nat) : Bool := s.fab.keys.any fun k => k.2.state != .free && k.2.write && k.2.seq == q

/-- The snapshot words of a page (R515). -/
def snapWords (s : State) (page : Nat) : List Nat :=
  let i := pageInst page
  match pageType page with
  | 0x13 => snapTil s i
  | 0x06 => [s.seq.cached.length, (s.seq.ctxs.filter fun c => c.2.lockOwner.isSome || windowBinds s c.1).length]
      ++ (List.range 8).map fun p => (s.seq.ctxs.filter fun c => c.2.state == .open_ && c.2.pt == p).length
  | 0x05 => [s.dep.nodes.length, inflight s, epochCur s, s.dep.lag] ++ (List.range 8).map (ptUse s)
      ++ [low32 s.dep.accNext, high32 s.dep.accNext]
  | 0x08 => [s.blw.moves.length, (s.blw.queue.filter fun r => r.cls == 3).length]
      ++ (List.range 12).map fun m => t1Free s m (2 ^ 32 - 1)
  | 0x10 =>
    let h := s.hb i
    [h.ceOuter, h.ceInner, h.ue, h.log.length + b2n h.ovf * 2 ^ 15, low32 h.lastUe, high32 h.lastUe]
  | 0x11 =>
    let l := s.link i
    [jlkStat l, l.rxNext, l.txSeq, (l.held.head?.map (·.fseq)).getD l.txSeq]
      ++ (List.range 5).map fun c => lget l.txLimit c 0 - lget l.txUsed c 0
  | 0x12 =>
    let t := s.sched i
    let ne := bitmapOf (t.qs.map fun q => !q.frames.isEmpty)
    let el := bitmapOf (t.qs.map (·.elig))
    [low32 ne, high32 ne, gateStat t, low32 el, high32 el]
  | 0x0B => [s.fab.miss.length, (s.fab.cached.filter (qpHeld s)).length, s.fab.holds.length,
      (s.fab.keys.filter fun k => k.2.state == .revoking).length]
  | 0x0A => [cxhPortStat (s.cport 0), cxhPortStat (s.cport 1)]
      ++ ([0, 1] : List Nat).map fun p => (s.cxh.reqs.filter fun r => r.port == p).length
        + (s.cxh.lines.filter fun r => r.port == p).length
  | 0x09 => (List.range 16).map fun n => driveCode (s.drive n).state + (s.drive n).xfers.length % 64 * 2 ^ 3
  | 0x07 => (List.range 8).map fun b => bankStat (s.bank b)
  | 0x0C =>
    let run := bitmapOf (s.dma.chs.map fun c => c.state == .running)
    [low32 run, high32 run] ++ (List.range 4).map fun m =>
      (lfind s.dma.chs fun c => c.mover && c.moverNo == m).getD 0xFF
  | 0x04 => [(List.range 8).foldl (fun v p => v + ptStateCode (s.part p).state * 2 ^ (3 * p)) 0]
  | 0x0F => [low32 s.rec_.segNo, (s.rec_.buf.map fun r => 16 + roundUp r.body.length 16).sum, s.rec_.lost % 2 ^ 32]
  | 0x02 => (List.range 8).map fun w =>
      (List.range 6).foldl (fun v k => v + (s.tile (6 * w + k)).step * 2 ^ (5 * k)) 0
  | 0x03 => [(s.pwr.fast.head?).getD 0, s.pwr.ceil]
  | _ => []

/-- The skew of a block's latch: 0 to 63 ns, which the spec leaves to the block's clock (R352). [DEDUCED, log 92] -/
def latchSkew (s : State) : Nat × State :=
  let d := draw s
  (d.1 % 64, d.2)

/-- One page latches a trigger unless it holds a snapshot; answer whether it did. -/
def latchPage (id src time : Nat) (acc : State × Bool) (page : Nat) : State × Bool :=
  let s := acc.1
  if (s.page page).snap.isSome then (s, true)
  else
    let k := latchSkew s
    let w := snapWords s page
    let s := k.2.setPage page fun p => { p with snap := some { id := id, src := src, time := time, skew := k.1, words := w } }
    (setIrq s page 1, acc.2)

/-! ### Request lines of the DMA engine -/

/-- The request line of a channel: REQ of a request-paced channel, none of a privileged one (R369). -/
def chanLine (s : State) (c : Nat) : Nat := if c < 8 then 0 else bits (s.reg pgDma 0x204 c) 6 6

/-- Requests arrive at a channel: PEND counts them up to 255, and one that finds it full sets OVR (R368). A waiting channel runs on. -/
def addRequests (n : Nat) (c : DmaCh) : DmaCh :=
  { c with pend := min 255 (c.pend + n), ovr := c.ovr || decide (255 < c.pend + n),
           state := if c.state = .waiting ∧ 0 < c.pend + n then .running else c.state }

/-- Does a channel run, so that its request line counts? -/
def chanRuns (c : DmaCh) : Bool := c.state == .running || c.state == .waiting || c.state == .stopping || c.state == .fencing

/-- A request line asserts. -/
def assertLine (s : State) (line : Nat) : State :=
  let hit := fun (c : DmaCh × Nat) => if line ≠ 0 ∧ chanRuns c.1 ∧ chanLine s c.2 = line then addRequests 1 c.1 else c.1
  { s with dma := { s.dma with chs := s.dma.chs.zipIdx.map hit } }

/-! ### The recorder's records -/

/-- Bytes of a record with its header. -/
def recordLen (r : Record) : Nat := 16 + roundUp r.body.length 16

/-- A record's bytes (R519). -/
def recordBytes (r : Record) : List Byte :=
  [BitVec.ofNat 8 r.rtype, BitVec.ofNat 8 (r.pt + b2n r.secure * 8)] ++ toLe 2 (recordLen r) ++ toLe 4 r.ref ++ toLe 8 r.time
    ++ padMul 16 r.body

/-- The ring's segment size, number of segments and base (R526). -/
def recSegBytes (s : State) : Nat := 2 ^ bits (s.reg pgRec 0x200) 3 5
def recNseg (s : State) : Nat := bits (s.reg pgRec 0x200) 10 16
def recBase (s : State) : Nat := s.reg64 pgRec 0x204
/-- The address of a segment of the ring (R517). -/
def recSegAddr (s : State) (n : Nat) : Nat := recBase s + n % recNseg s * recSegBytes s

/-- Write bytes into the recorder's ring: HBM, or host memory through PORT (R517). -/
def recWrite (s : State) (a : Nat) (bs : List Byte) : State :=
  if bit (s.reg pgRec 0x200) 1 then hostWrite s (bits (s.reg pgRec 0x200) 8 2) 1 0 true a bs else hbmWrite s a bs

/-- Does the record fit into the segment being written? [DEDUCED, log 18] -/
def recFits (s : State) (r : Record) : Bool :=
  decide ((if s.rec_.used = 0 then 64 else s.rec_.used) + recordLen r ≤ recSegBytes s)

/-- Put a record into the segment. The segment's header is written when it completes. [DEDUCED, log 18] -/
def recPlace (s : State) (r : Record) : State :=
  let used := if s.rec_.used = 0 then 64 else s.rec_.used
  let s := recWrite s (recSegAddr s s.rec_.segNo + used) (recordBytes r)
  let s := count (count s pgRec 0 15) pgRec 1 15 (recordLen r)
  { s with rec_ := { s.rec_ with used := used + recordLen r, count := s.rec_.count + 1,
                                 segTime := if s.rec_.count = 0 then r.time else s.rec_.segTime } }

/-- GLB_ROM_VER of stepping A1 and GLB_DEV_ID (R355). -/
def romVer : Nat := 0x01410100
def devIdReg (s : State) : Nat := s.fab.devId + b2n s.fab.idValid * 2 ^ 12

/-- The header of the segment being written (R519). [DEDUCED, log 18] -/
def segHeader (s : State) : List Byte :=
  toLe 4 0x31434552 ++ toLe 2 1 ++ toLe 2 (devIdReg s) ++ toLe 8 s.rec_.segNo ++ toLe 8 s.sec.serial ++ toLe 8 s.rec_.segTime
    ++ toLe 4 s.rec_.used ++ toLe 4 s.rec_.count ++ toLe 4 romVer ++ zeros 20

/-- The headers of the PAD records that fill n bytes from an address; what they fill is not written. [DEDUCED, log 18] -/
def padRecords (s : State) : Nat → Nat → Nat → State
  | 0, _, _ => s
  | k + 1, a, n =>
    if n < 16 then s
    else
      let l := min n 65520
      padRecords (recWrite s a ([0x0F, 0] ++ toLe 2 l ++ zeros 12)) k (a + l) (n - l)

/-- The segment completes (R517): its tail is filled, its header written, request line 3 asserts, and the next segment starts, unless the ring
is full with WRAP = 0. -/
def segClose (s : State) : State :=
  let a := recSegAddr s s.rec_.segNo
  let left := recSegBytes s - s.rec_.used
  let s := recWrite (padRecords s 300 (a + s.rec_.used) left) a (segHeader s)
  let full := !bit (s.reg pgRec 0x200) 2 && decide (recNseg s ≤ s.rec_.segNo + 1)
  assertLine { s with rec_ := { s.rec_ with segNo := s.rec_.segNo + 1, used := 0, count := 0, segTime := 0,
                                            state := if full then 2 else s.rec_.state } } 3

/-- Has the on-die buffer of 4 MiB room for n bytes of a partition? A recorded strict partition holds 512 KiB of it (R517, R529). -/
def recRoom (s : State) (pt n : Nat) : Bool :=
  let strict := s.rec_.running.filter fun p => (s.mapOf p).strict
  let held := fun (p : Record → Bool) => ((s.rec_.buf.filter p).map recordLen).sum
  if strict.contains pt then decide (held (fun r => r.pt == pt) + n ≤ 2 ^ 19)
  else decide (held (fun r => !strict.contains r.pt) + n ≤ 2 ^ 22 - strict.length * 2 ^ 19)

/-- Take a record into the on-die buffer; a record that finds it full is dropped and counted (R517). A record goes straight through the
buffer while the segment has room for it. -/
def recPush (s : State) (r : Record) : State :=
  if s.rec_.state ≠ 1 then s
  else if s.rec_.buf.isEmpty ∧ recFits s r then recPlace s r
  else if recRoom s r.pt (recordLen r) then { s with rec_ := { s.rec_ with buf := s.rec_.buf ++ [r] } }
  else
    let s := count s pgRec 2 15
    { s with rec_ := { s.rec_ with lost := (s.rec_.lost + 1) % 2 ^ 32, lostPending := lmod s.rec_.lostPending r.pt (· + 1) } }

/-- Buffered records go to the segment while they fit. -/
def recDrain (s : State) : List Record → State
  | [] => { s with rec_ := { s.rec_ with buf := [] } }
  | r :: rs => if s.rec_.state = 1 ∧ recFits s r then recDrain (recPlace s r) rs else { s with rec_ := { s.rec_ with buf := r :: rs } }

/-- Records go to the ring, whatever segments that completes. -/
def recFlush (s : State) : List Record → State
  | [] => s
  | r :: rs =>
    let s := if recFits s r then s else segClose s
    if s.rec_.state = 1 then recFlush (recPlace s r) rs else s

/-- Is the partition recorded (R516)? -/
def recorded (s : State) (pt : Nat) : Bool := s.rec_.running.contains pt

/-- A record of a recorded partition, with the time base now. -/
def recNow (s : State) (rtype pt ref : Nat) (body : List Byte) (secure : Bool := false) : State :=
  if recorded s pt then recPush s { rtype := rtype, pt := pt, secure := secure, ref := ref % 2 ^ 32, time := s.time, body := body }
  else s

/-- One record for every recorded partition. -/
def recAll (s : State) (rtype ref : Nat) (body : List Byte) : State :=
  s.rec_.running.foldl (fun s pt => recNow s rtype pt ref body) s

/-! ### Snapshot triggers -/

/-- The pages of a SNAP record's body, cut so that one record stays below 64 KiB. -/
def snapBody (s : State) (page : Nat) : List Byte :=
  match (s.page page).snap with
  | none => []
  | some p =>
    toLe 2 page ++ toLe 2 p.words.length ++ toLe 4 (1 + p.id * 2 ^ 8 + p.src * 2 ^ 16) ++ toLe 8 p.time ++ toLe 4 p.skew
      ++ p.words.flatMap (toLe 4)

/-- Fabric ports that are up. -/
def fabPortsUp (s : State) : List Nat := (List.range 8).filter fun x => portActive s (4 + x)

/-- Raise a snapshot trigger (R352, R353): SRC bit 0 software, 1 error, 2 counter, 3 fabric. Every block page without a
snapshot latches; a trigger that a block ignores counts as missed. A trigger without a fabric source is sent on when
FAB_OUT = 1 (R465). -/
def snapTrigger (s : State) (src : Nat) : State :=
  let id := s.snp.nextId
  let time := s.time
  let s := { s with snp := { s.snp with nextId := (id + 1) % 256, lastId := id, lastSrc := src, lastTime := time } }
  let r := snapPages.foldl (latchPage id src time) (s, false)
  let s := r.1
  let s := if r.2 then { s with snp := { s.snp with missed := (s.snp.missed + 1) % 2 ^ 32 } } else s
  let s := assertLine s 2
  let taken := snapPages.filter fun n => (s.page n).snap.any fun p => p.id == id && p.time == time
  let s := s.rec_.running.foldl (fun s pt =>
    (chunks 50 3 taken).foldl (fun s ps =>
      recNow s 0x0B pt id (toLe 8 time ++ toLe 1 src ++ toLe 1 ps.length ++ zeros 6 ++ ps.flatMap (snapBody s))) s) s
  if bit (s.reg pgSnp 0x200) 3 ∧ ¬ bit src 3 then
    (fabPortsUp s).foldl (fun s x => sendPkt s (4 + x) 0 3 0 true
      { ptype := .snap, start := true, last := true, dstDev := 0xFFF, srcDev := s.fab.devId,
        data := toLe 1 id ++ [0] ++ toLe 2 s.fab.devId ++ zeros 4 ++ toLe 8 time, framePt := 0, frameSecure := true }) s
  else s

/-- A counter crossed a threshold: a trigger if CNT_EN = 1. -/
def counterTrigger (s : State) : State := if bit (s.reg pgSnp 0x200) 1 then snapTrigger s 4 else s

/-- Set CNT of a page, and report the crossing (R509, R513). -/
def counterCross (s : State) (page : Nat) : State := counterTrigger (setIrq s page 2)

/-- Count a tile event (R508); where a programmable counter crosses its threshold, CNT of the tile's page is set and the crossing reported (R509). -/
def tileCount (s : State) (t ev : Nat) (n : Nat := 1) : State :=
  if n = 0 then s
  else
    let b := pmcBump s t ev n
    let s := count s (pgTil t) ev (tileOwner s.appliedMap t) n
    let s := s.setTile t fun u => { u with pmc := b.1 }
    if b.2 then counterCross s (pgTil t) else s

/-- The counter events of a block that no row shows (R508, R509): a tile's cycles of Reed work, weight tiles, waits, exponentials and scratchpad
conflicts; a stack's unit writes; the Chanter's STOLEN. [DEDUCED, log 92] -/
def hiddenEvents (type : Nat) : List Nat :=
  match type with
  | 0x13 => [16, 17, 0x40, 0x41, 0x42, 0x43]
  | 0x10 => [1]
  | 0x07 => [5]
  | _ => []

/-- The hidden counters of a page have grown since they were last read, each by a free value. [DEDUCED, log 92] -/
def growHidden (s : State) (page : Nat) : State :=
  if s.boot.fatal then s
  else
    (hiddenEvents (pageType page)).foldl (fun s ev =>
      let d := draw s
      if pageType page = 0x13 then tileCount d.2 (pageInst page) ev d.1 else count d.2 page ev 15 d.1) s

/-! ### Error events -/

/-- The severity of a class (R500, R502). -/
def severity (cls : Nat) : Nat :=
  match cls with
  | 1 | 4 => 1 | 6 => 2 | 7 => 3 | _ => 0

/-- The 32 bytes of an error entry (R502) with the phase and the count of lost entries. -/
def errBytes (e : ErrEntry) (lost : Nat) (phase : Bool) : List Byte :=
  [0, 0] ++ toLe 1 e.code ++ [0xFE] ++ toLe 2 e.epoch ++ toLe 2 0xFFF ++ toLe 2 (e.cls + severity e.cls * 16) ++ toLe 2 e.page
    ++ toLe 4 (e.kind + e.layer * 256) ++ toLe 4 e.detail1 ++ toLe 8 e.object ++ toLe 2 (min lost 0xFFFF)
    ++ toLe 1 (e.time / 1024) ++ toLe 1 (b2n phase)

/-- Put an entry into an error buffer of 64, or drop it (R503). -/
def errPush (s : State) (ring : Nat) (e : ErrEntry) : State :=
  let b := lget s.cnt.bufs ring {}
  if b.entries.length < 64 then
    { s with cnt := { s.cnt with bufs := lset s.cnt.bufs ring { b with entries := b.entries ++ [e] } } }
  else
    { s with cnt := { s.cnt with bufs := lset s.cnt.bufs ring { b with lost := b.lost + 1 },
                                 errLost := (s.cnt.errLost + 1) % 2 ^ 32 } }

/-- Does the error ring of the secure world take a class? Does a partition's? -/
def secTakes (s : State) (cls : Nat) : Bool :=
  bit (s.reg pgCnt 0x20C) 9 && bit (bits (s.reg pgCnt 0x20C) 16 8) cls
def ptTakes (s : State) (pt cls : Nat) : Bool :=
  bit (s.reg pgCnt 0x220 pt) 6 && bit (bits (s.reg pgCnt 0x220 pt) 8 8) cls

/-- An error event (R501): its code, class, reporting page, object kind, layer, DETAIL1, object, and the partitions it reaches.
A recorded partition gets an ERROR record (R520). -/
def errPost (s : State) (code cls page kind layer detail1 object : Nat) (reach : List Nat) : State :=
  let e : ErrEntry := { code := code, cls := cls, page := page, epoch := s.dep.epoch, kind := kind, layer := layer,
                        detail1 := detail1 % 2 ^ 32, object := object % 2 ^ 64, time := s.time }
  let s := if cls ≠ 7 ∧ secTakes s cls then errPush s 8 e else s
  reach.foldl (fun s pt =>
    let s := if ptTakes s pt cls then errPush s pt e else s
    recNow s 0x0E pt code (errBytes e 0 false)) s

/-- A recorded error of a class of ERR_MASK raises a snapshot trigger (R352). -/
def errTrigger (s : State) (cls : Nat) : State := if bit (bits (s.reg pgSnp 0x200) 8 8) cls then snapTrigger s 2 else s

/-- An error event and its trigger. -/
def errEvent (s : State) (code cls page kind layer detail1 object : Nat) (reach : List Nat) : State :=
  errTrigger (errPost s code cls page kind layer detail1 object reach) cls

/-- Post a register error: the page's log, and event 0x50, which reaches the requester if it is not secure (R348, R501). -/
def logPost (s : State) (page code lsb off detail : Nat) (rq : Requester) : State :=
  let s := logOnly s page code lsb off detail rq
  errPost s 0x50 5 page 0 0 (errLog0 (s.page page)) 0 (if rq.secure ∨ rq.src > 3 then [] else [rq.pt])

/-- Record a register error. -/
def logErr (s : State) (page code lsb off detail : Nat) (rq : Requester) : State := errTrigger (logPost s page code lsb off detail rq) 5

/-- May the requester reach a page's block area (R342, R350)? The management channel never; the non-secure world not while
the page is secure. -/
def mayReach (s : State) (rq : Requester) (page : Nat) : Bool :=
  decide (rq.src < 4) && (rq.secure || !(s.page page).secure)

/-- A write that only the secure world makes, and that is still served after a device-fatal error (R506, R568). [DEDUCED, log 91] -/
def secureAlways (s : State) (rq : Requester) (page off : Nat) (f : State → State) : State :=
  if rq.secure ∧ rq.src < 4 then f s else logErr s page 0x03 0 off 0 rq

/-- A write that reaches the page's block area, or is refused with code 0x03. After a device-fatal error only reads are served. [DEDUCED, log 90; DEDUCED, log 91] -/
def guarded (s : State) (rq : Requester) (page off : Nat) (f : State → State) : State :=
  if s.boot.fatal then s else if mayReach s rq page then f s else logErr s page 0x03 0 off 0 rq

/-- A write that only the secure world makes. [DEDUCED, log 91] -/
def secureOnly (s : State) (rq : Requester) (page off : Nat) (f : State → State) : State :=
  if s.boot.fatal then s else secureAlways s rq page off f

/-- The strict owner of a Jurola port under the applied map (R476). -/
def strictPortOwner (s : State) (port : Nat) : List Nat :=
  (List.range 8).filter fun p =>
    let e := s.mapOf p
    e.valid && e.strict && (if isHostPort port then bit e.hp port else bit e.xp (port - 4))

/-- The strict owner of a drive. -/
def strictDriveOwner (s : State) (np : Nat) : List Nat :=
  (List.range 8).filter fun p => let e := s.mapOf p; e.valid && e.strict && bit e.np np

/-- The strict partitions of the applied map. [DEDUCED, log 22] -/
def strictPts (s : State) : List Nat := (List.range 8).filter fun p => (s.mapOf p).valid && (s.mapOf p).strict

/-- Does a partition's request compete in cycle c of a point (R532): PTk alone in the slot c mod 8 = k where PTk is strict, the shared
partitions in every other? -/
def ptCompetes (s : State) (c pt : Nat) : Bool :=
  let strict := strictPts s
  if strict.contains (c % 8) then pt == c % 8 else !strict.contains pt

/-- The cycle, of the point's own clock, in which a point next serves one of the partitions given (R532), and the state that keeps it. How
many cycles have passed since the one before the spec leaves open: a free value; a slot with nothing to serve stays idle. Without a strict
partition the number decides nothing and is not counted. [DESIGN CHOICE, log 97] -/
def serveCycle (s : State) (point : Nat) (pts : List Nat) : Nat × State :=
  if strictPts s = [] then (0, s)
  else
    let d := draw s
    let c0 := s.ptr (point * 16 + 8) + 1 + d.1
    let c := (((List.range 8).map (c0 + ·)).find? fun c => pts.any (ptCompetes s c)).getD c0
    (c, d.2.setPtr (point * 16 + 8) c)

/-- What a point with a rotating pointer serves: the winner, the shared pointer after it, and the state. -/
structure Served where
  winner : Nat
  ptr : Nat
  state : State

/-- The requester of a list that a point serves (R531, R532), with `shared` its shared pointer over numbers below n: in a strict partition's slot
that partition's own pointer decides and moves. -/
def serve (s : State) (point n shared : Nat) (ptOf : Nat → Nat) (reqs : List Nat) : Option Served :=
  if reqs = [] then none
  else
    let v := serveCycle s point (reqs.map ptOf)
    let rs := reqs.filter fun r => ptCompetes s v.1 (ptOf r)
    if (strictPts s).contains (v.1 % 8) then
      (ptrPick n (s.ptr (point * 16 + v.1 % 8)) rs).map fun w =>
        { winner := w, ptr := shared, state := v.2.setPtr (point * 16 + v.1 % 8) (ptrNext n w) }
    else (ptrPick n shared rs).map fun w => { winner := w, ptr := ptrNext n w, state := v.2 }

/-- Has a shared capacity of `total` room for n more of a partition, of which each partition holds `used`? A strict partition holds
exactly one eighth of it; the others share the rest (R477). [DEDUCED, log 22] -/
def capRoom (s : State) (pt total n : Nat) (used : Nat → Nat) : Bool :=
  let strict := strictPts s
  if strict.contains pt then decide (used pt + n ≤ total / 8)
  else decide ((((List.range 8).filter fun p => !strict.contains p).map used).sum + n ≤ total - strict.length * (total / 8))

/-! ### Failures of a partition and of the device -/

/-- Stop a DMA channel of a failed or scrubbed partition at once (R362): STATE is idle and COUNT 0; its buffer and its pending requests are
discarded. -/
def chanHalt (c : DmaCh) : DmaCh :=
  { c with state := .idle, count := 0, buf := [], mover := false, burst := 0, stopReq := false, pend := 0, fetched := [], started := false,
           rd := 0, wr := 0,
           drain := false, want := 0, part := [] }

/-- The owner of a DMA channel: DMA_CH_CFG's PT, and whether it is the secure world's (R361). -/
def chanOwner (s : State) (c : Nat) : Nat × Bool :=
  (bits (s.reg pgDma 0x204 c) 0 3, bit (s.reg pgDma 0x204 c) 3)

/-- The channels that a partition owns halt; answers of host memory to their reads come to nothing (R362). -/
def haltChans (s : State) (pt : Nat) : State :=
  let own := fun (c : Nat) => chanOwner s c == (pt, false)
  let keep := fun (r : MemRd) => match r.use with
    | .dmaBeats c => !own c
    | _ => true
  { s with dma := { s.dma with chs := s.dma.chs.zipIdx.map fun c => if own c.2 then chanHalt c.1 else c.1 },
           jlk := s.jlk.map fun l => { l with reads := l.reads.filter keep } }

/-- R505: a partition enters FAILED. Its issued nodes complete with DEVICE; its channels stop; event 0x60 is posted. The rings
are no longer fetched because the partition is not ACTIVE. -/
def partitionFail (s : State) (pt : Nat) : State :=
  if (s.part pt).state ≠ .active then s
  else
    let s := s.setPart pt fun p => { p with state := .failed }
    let ns := s.dep.nodes.map fun n =>
      if ringPt n.2.ring = pt ∧ n.2.outcome.isNone then (n.1, { n.2 with outcome := some { status := .device } }) else n
    let s := haltChans { s with dep := { s.dep with nodes := ns } } pt
    errEvent s 0x60 6 pgSec 0 0 0 0 [pt]

/-- R506: a device-fatal error with its cause code. All work stops (`boot.fatal` holds it from then on), a snapshot trigger
with the error source is raised, the recorder takes a FATAL record, and GLB_BOOT_STAT reads STAGE 0xF, CODE 0x70. A second
fatal error changes nothing more. [DEDUCED, log 90] -/
def fatal (s : State) (cause object : Nat) : State :=
  if s.boot.fatal then s
  else
    let s := { s with boot := { s.boot with fatal := true } }
    let s := snapTrigger s 2
    let e : ErrEntry := { code := 0x70, cls := 7, page := pgGlb, epoch := s.dep.epoch, kind := if object = 0 then 0 else 3,
                          layer := 0, detail1 := cause, object := object, time := s.time }
    let s := if s.rec_.state = 1 then
        let r : Record := { rtype := 0x10, pt := 0, secure := true, ref := 0x70, time := s.time, body := errBytes e 0 false }
        let s := recFlush s (r :: s.rec_.buf)
        { s with rec_ := { s.rec_ with buf := [] } }
      else s
    { s with boot := { s.boot with stage := 0xF, code := 0x70 } }

end Sys2Proof.Machine
end

