-- ==== Sys2Proof/Machine/Flags.lean ====
section
/-!
DEFINITION. Status codes and their classes (R55), the completion entry (R54) and the flags of commands that decide what is
posted (R40 to R42, R64).
-/

namespace Sys2Proof.Machine

/-- The code of a status (R55). -/
def Status.code : Status → Nat
  | .ok => 0x00 | .muted => 0x01 | .partialOk => 0x02 | .empty => 0x03
  | .poisoned => 0x10 | .timeout => 0x11 | .revoked => 0x12 | .busy => 0x13 | .format => 0x14 | .perm => 0x15
  | .staleEpoch => 0x16 | .conflict => 0x17 | .retry => 0x18 | .invalid => 0x19 | .nospace => 0x1A | .aborted => 0x1B
  | .device => 0x1F

/-- The status of a code, as a replay reads it from a record. -/
def statusOf (c : Nat) : Status :=
  (([.ok, .muted, .partialOk, .empty, .poisoned, .timeout, .revoked, .busy, .format, .perm, .staleEpoch, .conflict, .retry,
    .invalid, .nospace, .aborted] : List Status).find? fun s => s.code == c).getD .device

/-- Success class: 0x00 to 0x0F (R55). -/
def Status.success (s : Status) : Bool := decide (s.code < 0x10)

/-- INVALID with the byte offset of the first rejected field (R54). -/
def invalidAt (d1 : Nat) (d0 : Nat := 0) (res : Nat := 0) : Comp :=
  { status := .invalid, detail0 := d0, detail1 := d1, result := res }
/-- A failure without details. [DEDUCED, log 12] -/
def failWith (st : Status) (d1 : Nat := 0) (d0 : Nat := 0) (res : Nat := 0) : Comp :=
  { status := st, detail0 := d0, detail1 := d1, result := res }

/-- The 32 bytes of a completion entry (R54). -/
def CplEntry.bytes (e : CplEntry) (sqHead : Nat) (phase : Bool) : List Byte :=
  toLe 2 e.tag ++ toLe 1 e.status.code ++ toLe 1 e.opcode ++ toLe 2 e.epoch ++ toLe 2 e.node ++ toLe 2 e.graphId
    ++ toLe 2 e.ring ++ toLe 4 e.detail0 ++ toLe 4 e.detail1 ++ toLe 8 e.result ++ toLe 2 sqHead ++ toLe 1 (e.time / 1024)
    ++ toLe 1 (b2n phase)

/-- Put a completion into its partition's buffer (R40). -/
def pushCpl (s : State) (e : CplEntry) : State :=
  let pt := ringPt e.ring
  let buf := lget s.dep.cbuf pt [] ++ [e]
  let full := if buf.length ≥ 256 ∧ (lget s.dep.cbufFull pt none).isNone then lset s.dep.cbufFull pt (some s.time)
    else s.dep.cbufFull
  { s with dep := { s.dep with cbuf := lset s.dep.cbuf pt buf, cbufFull := full } }

/-- OUT_HASH of a command (R521). -/
def outHash (s : State) (acc : Nat) : List Byte :=
  match tget s.rec_.outBytes acc with
  | none => zeros 8
  | some bs => if bs.isEmpty then zeros 8 else (sha256 bs).take 8

/-- Is the partition replayed: REC_REPLAY names it and the replay runs (R523)? -/
def replaying (s : State) (pt : Nat) : Bool := s.rec_.replay == 1 && bits (s.reg pgRec 0x224) 1 3 == pt

/-- A command's completion: its CPL record (R520), and its entry unless SILENT drops an OK (R46) or a graph's CMODE drops
every OK (R64). A replay compares the completion and writes no entry. [DEDUCED, log 82] -/
def reportNode (s : State) (acc ring : Nat) (h : Header) (graphId : Nat) (cmode : Bool) (node : Nat) (c : Comp) : State :=
  let e : CplEntry :=
    { cq := (s.subRing ring).cq, tag := h.tag, status := c.status, opcode := h.opcode, epoch := h.epoch, node := node,
      graphId := graphId, ring := ring, detail0 := c.detail0, detail1 := c.detail1, result := c.result, time := s.time,
      irq := h.irq }
  let s := recNow s 0x03 (ringPt ring) acc (e.bytes (s.subRing ring).head true ++ outHash s acc ++ zeros 8) (ringSecure s ring)
  let own := if s.rec_.replay = 1 then tset s.rec_.own acc (e.bytes (s.subRing ring).head true ++ outHash s acc) else s.rec_.own
  let s := { s with rec_ := { s.rec_ with outBytes := tdel s.rec_.outBytes acc, own := own } }
  if (c.status = .ok ∧ (h.silent ∨ cmode)) ∨ replaying s (ringPt ring) then s else pushCpl s e

end Sys2Proof.Machine
end

