-- ==== Sys2Proof/Machine/Formats.lean ====
section
/-!
DEFINITION. The fifteen number formats (R153 to R163): exact values, decoding, encoding with rounding, saturation and
stochastic rounding (R164 to R172), packed rows (R155, R83), and the arithmetic of the vector units and the Reed (R175 to
R178, R579).
-/

namespace Sys2Proof.Machine

/-- An exact value: (−1)^neg × m × 2^e, an infinity, or a NaN with its sign. -/
inductive Val where
  | fin (neg : Bool) (m : Nat) (e : Int)
  | inf (neg : Bool)
  | nan (neg : Bool)
  deriving DecidableEq, Repr

def Val.zero : Val := .fin false 0 0
def Val.isNan : Val → Bool
  | .nan _ => true
  | _ => false
def Val.isFin : Val → Bool
  | .fin _ _ _ => true
  | _ => false
def Val.neg : Val → Bool
  | .fin n _ _ => n
  | .inf n => n
  | .nan n => n
/-- The value without its sign. -/
def Val.abs : Val → Val
  | .fin _ m e => .fin false m e
  | .inf _ => .inf false
  | .nan _ => .nan false

/-! ### Exact arithmetic -/

/-- m × 2^e scaled to a common exponent f ≤ e, as an integer with sign. -/
def alignInt (neg : Bool) (m : Nat) (e f : Int) : Int :=
  let v : Int := m * 2 ^ (e - f).toNat
  if neg then -v else v

/-- Exact sum. A sum that is exactly zero is +0 unless both terms are −0. -/
def Val.add : Val → Val → Val
  | .nan _, _ => .nan false
  | _, .nan _ => .nan false
  | .inf a, .inf b => if a = b then .inf a else .nan false
  | .inf a, _ => .inf a
  | _, .inf b => .inf b
  | .fin na ma ea, .fin nb mb eb =>
    let f := min ea eb
    let v := alignInt na ma ea f + alignInt nb mb eb f
    if v = 0 then .fin (na && nb) 0 0 else .fin (decide (v < 0)) v.natAbs f

/-- Exact product. -/
def Val.mul : Val → Val → Val
  | .nan _, _ => .nan false
  | _, .nan _ => .nan false
  | .inf a, .inf b => .inf (a != b)
  | .inf a, .fin b m _ => if m = 0 then .nan false else .inf (a != b)
  | .fin a m _, .inf b => if m = 0 then .nan false else .inf (a != b)
  | .fin a ma ea, .fin b mb eb => .fin (a != b) (ma * mb) (ea + eb)

/-- Multiply by 2^k. -/
def Val.scale (k : Int) : Val → Val
  | .fin n m e => .fin n m (e + k)
  | v => v

/-- The negation. -/
def Val.flip : Val → Val
  | .fin n m e => .fin (!n) m e
  | .inf n => .inf (!n)
  | .nan n => .nan (!n)

/-- a < b for finite or infinite values; false if either is a NaN. -/
def Val.lt : Val → Val → Bool
  | .nan _, _ => false
  | _, .nan _ => false
  | .inf a, .inf b => a && !b
  | .inf a, .fin _ _ _ => a
  | .fin _ _ _, .inf b => !b
  | .fin na ma ea, .fin nb mb eb =>
    let f := min ea eb
    decide (alignInt na ma ea f < alignInt nb mb eb f)

/-- floor(log2 |v|) of a finite non-zero value. -/
def Val.log2 : Val → Int
  | .fin _ m e => (Nat.log2 m : Int) + e
  | _ => 0

/-! ### Formats -/

/-- A floating format: exponent and mantissa widths, bias, the code of the largest finite magnitude, and the magnitude codes of
infinity and of the NaN written, if the format has them (R153, R156). -/
structure Flt where
  eb : Nat
  mb : Nat
  bias : Int
  maxCode : Nat
  infCode : Option Nat
  nanCode : Option Nat
  deriving DecidableEq, Repr

def fp32 : Flt := ⟨8, 23, 127, 0x7F7FFFFF, some 0x7F800000, some 0x7FC00000⟩
def bf16 : Flt := ⟨8, 7, 127, 0x7F7F, some 0x7F80, some 0x7FC0⟩
def fp16 : Flt := ⟨5, 10, 15, 0x7BFF, some 0x7C00, some 0x7E00⟩
def e4m3 : Flt := ⟨4, 3, 7, 0x7E, none, some 0x7F⟩
def e5m2 : Flt := ⟨5, 2, 15, 0x7B, some 0x7C, some 0x7E⟩
def e3m2 : Flt := ⟨3, 2, 3, 0x1F, none, none⟩
def e2m3 : Flt := ⟨2, 3, 1, 0x1F, none, none⟩
def e2m1 : Flt := ⟨2, 1, 1, 0x7, none, none⟩

/-- Width of an element's encoding. -/
def Flt.width (f : Flt) : Nat := 1 + f.eb + f.mb

/-- Decode an encoding (R154). -/
def Flt.decode (f : Flt) (c : Nat) : Val :=
  let s := bit c (f.eb + f.mb)
  let mag := c % 2 ^ (f.eb + f.mb)
  let e := mag / 2 ^ f.mb
  let m := mag % 2 ^ f.mb
  match f.infCode with
  | some ic =>
    if mag = ic then .inf s
    else if mag > ic then .nan s
    else if e = 0 then .fin s m (1 - f.bias - f.mb)
    else .fin s (2 ^ f.mb + m) (e - f.bias - f.mb)
  | none =>
    if f.nanCode = some mag then .nan s
    else if e = 0 then .fin s m (1 - f.bias - f.mb)
    else .fin s (2 ^ f.mb + m) (e - f.bias - f.mb)

/-- A magnitude m × 2^e as a count q of grid units 2^u plus a remainder: (q, remainder, bits of the remainder). -/
def onGrid (m : Nat) (e u : Int) : Nat × Nat × Nat :=
  if u ≤ e then (m * 2 ^ (e - u).toNat, 0, 0)
  else
    let k := (u - e).toNat
    (m / 2 ^ k, m % 2 ^ k, k)

/-- Round to nearest, ties to even (R165), or stochastically with the random number r (R171). -/
def roundUnits (q rem k : Nat) : Option Nat → Nat
  | none => if 2 * rem > 2 ^ k ∨ (2 * rem = 2 ^ k ∧ k ≠ 0 ∧ q % 2 = 1) then q + 1 else q
  | some r => if r < rem * 65536 / 2 ^ k then q + 1 else q

/-- The magnitude code of a finite magnitude before any limit: codes are contiguous, so a carry runs into the exponent. -/
def Flt.magCode (f : Flt) (m : Nat) (e : Int) (rnd : Option Nat) : Nat :=
  if m = 0 then 0
  else
    let emin := 1 - f.bias - f.mb
    let u := max ((Nat.log2 m : Int) + e - f.mb) emin
    let g := onGrid m e u
    (u - emin).toNat * 2 ^ f.mb + roundUnits g.1 g.2.1 g.2.2 rnd

/-- Is the magnitude at or above the format's largest finite value? Then R171 draws nothing. -/
def Flt.atMax (f : Flt) (m : Nat) (e : Int) : Bool :=
  !(Val.lt (.fin false m e) (f.decode f.maxCode))

/-- Convert a value into the format (R165 to R167, R171): rounded, saturating, with the special values of the target. -/
def Flt.encode (f : Flt) (rnd : Option Nat) (v : Val) : Nat :=
  let sgn := fun (n : Bool) (c : Nat) => b2n n * 2 ^ (f.eb + f.mb) + c
  match v with
  | .fin n m e => sgn n (if f.atMax m e then f.maxCode else min (f.magCode m e rnd) f.maxCode)
  | .inf n => sgn n (f.infCode.getD f.maxCode)
  | .nan n =>
    match f.nanCode with
    | some c => sgn n c
    | none => 0

/-- Two's complement of a w-bit integer. -/
def intDecode (w c : Nat) : Val :=
  let c := c % 2 ^ w
  if c < 2 ^ (w - 1) then .fin false c 0 else .fin true (2 ^ w - c) 0

/-- Convert into a w-bit integer in units of 2^u (R165, R166). -/
def intEncode (w : Nat) (u : Int) (rnd : Option Nat) (v : Val) : Nat :=
  let top := 2 ^ (w - 1)
  match v with
  | .nan _ => 0
  | .inf n => if n then top else top - 1
  | .fin n m e =>
    let g := onGrid m e u
    let q := roundUnits g.1 g.2.1 g.2.2 (if g.1 ≥ top - 1 then none else rnd)
    if n then (2 ^ w - min q top) % 2 ^ w else min q (top - 1)

/-! ### Codes -/

/-- The floating format of a code's elements, if it has floating elements. -/
def fltOf : Nat → Option Flt
  | 0 => some fp32 | 1 => some bf16 | 2 => some fp16 | 3 => some e4m3 | 4 => some e5m2 | 5 => some e3m2 | 6 => some e2m3
  | 7 => some e2m1 | 0xA => some e4m3 | 0xB => some e2m3 | 0xC => some e2m1 | 0xE => some e2m1
  | _ => none

/-- Width of a code's elements in bits (R83). -/
def elemBits : Nat → Nat
  | 0 => 32 | 1 => 16 | 2 => 16 | 3 => 8 | 4 => 8 | 5 => 6 | 6 => 6 | 7 => 4 | 8 => 8 | 9 => 4 | 0xA => 8 | 0xB => 6
  | 0xC => 4 | 0xD => 8 | 0xE => 4
  | _ => 8

/-- Is the code one of the MX formats? -/
def isMx (c : Nat) : Bool := decide (0xA ≤ c ∧ c ≤ 0xD)

/-- Bytes of a row of n elements before rounding up (R83). -/
def rowBytes (c n : Nat) : Nat := elemBits c * n / 8 + (if isMx c then n / 32 else 0)
/-- The row stride (R83). -/
def rowStride (c n : Nat) : Nat := roundUp (rowBytes c n) 16

/-- Decode one element without its scale. -/
def decodeElem (c x : Nat) : Val :=
  match fltOf c with
  | some f => f.decode x
  | none => if c = 9 then intDecode 4 x else if c = 0xD then (intDecode 8 x).scale (-6) else intDecode 8 x

/-- Encode one element without a scale. -/
def encodeElem (c : Nat) (rnd : Option Nat) (v : Val) : Nat :=
  match fltOf c with
  | some f => f.encode rnd v
  | none => if c = 9 then intEncode 4 0 rnd v else if c = 0xD then intEncode 8 (-6) rnd v else intEncode 8 0 rnd v

/-- Does converting this value into the code turn a NaN into zero (R167)? -/
def nanZeroed (c : Nat) (v : Val) : Bool :=
  v.isNan && (decide (5 ≤ c ∧ c ≤ 9) || c == 0xE)

/-- Pack elements of w bits (R155). -/
def packElems (w : Nat) (l : List Nat) : List Byte :=
  toLe (ceilDiv (w * l.length) 8) (l.foldr (fun e v => e % 2 ^ w + v * 2 ^ w) 0)
/-- Unpack n elements of w bits. -/
def unpackElems (w n : Nat) (bs : List Byte) : List Nat :=
  let v := leNat (bs.take (ceilDiv (w * n) 8))
  (List.range n).map fun i => bits v (w * i) w

/-- The scale exponent of an MX block (R158): emax is 8, 2, 2 and 0. -/
def mxEmax : Nat → Int
  | 0xA => 8 | 0xB => 2 | 0xC => 2
  | _ => 0
def mxScale (c : Nat) (vs : List Val) : Nat :=
  let fins := vs.filter fun v => match v with | .fin _ m _ => decide (m ≠ 0) | _ => false
  match fins.map Val.abs with
  | [] => 0x7F
  | a :: l =>
    let amax := l.foldl (fun b x => if b.lt x then x else b) a
    (min (max (amax.log2 - mxEmax c + 127) 0) 0xFE).toNat

/-- Encode an MX block (R158, R159): its scale and elements. A NaN in a block whose elements have none makes scale 0xFF and
zero elements. -/
def mxEncode (c : Nat) (rnd : Nat → Option Nat) (vs : List Val) : Nat × List Nat :=
  if c ≠ 0xA ∧ vs.any Val.isNan then (0xFF, vs.map fun _ => 0)
  else
    let x := mxScale c vs
    (x, vs.zipIdx.map fun v => encodeElem c (rnd v.2) (v.1.scale (127 - (x : Int))))

/-- Encode one row of a format other than KC4: elements, then the scales of MX blocks, padded to the stride. `rnd` gives
the random number of each channel, if stochastic rounding applies (R170). -/
def encodeRow (c : Nat) (rnd : Nat → Option Nat) (vs : List Val) : List Byte :=
  let n := vs.length
  if isMx c then
    let blocks := (chunks 32 (n / 32 + 1) vs).zipIdx.map fun b => mxEncode c (fun i => rnd (32 * b.2 + i)) b.1
    padTo (rowStride c n) (packElems (elemBits c) (blocks.flatMap (·.2)) ++ blocks.map fun b => BitVec.ofNat 8 b.1)
  else
    padTo (rowStride c n) (packElems (elemBits c)
      (vs.zipIdx.map fun v => encodeElem c (if c < 3 then none else rnd v.2) v.1))

/-- Decode one row of a format other than KC4 (R154, R157). -/
def decodeRow (c n : Nat) (bs : List Byte) : List Val :=
  let es := unpackElems (elemBits c) n bs
  if isMx c then
    es.zipIdx.map fun e =>
      let x := (lget bs (elemBits c * n / 8 + e.2 / 32) 0).toNat
      if x = 0xFF then .nan false else (decodeElem c e.1).scale ((x : Int) - 127)
  else es.map (decodeElem c)

/-! ### FP32 arithmetic -/

/-- Round an exact value to FP32, to nearest even; overflow gives an infinity, a NaN is 0x7FC00000 (R178). -/
def rn32 (v : Val) : Nat :=
  match v with
  | .fin n m e => b2n n * 2 ^ 31 + min (fp32.magCode m e none) 0x7F800000
  | .inf n => b2n n * 2 ^ 31 + 0x7F800000
  | .nan _ => 0x7FC00000

/-- The value of an FP32 encoding. -/
def v32 (c : Nat) : Val := fp32.decode c

def fadd (a b : Nat) : Nat := rn32 ((v32 a).add (v32 b))
def fsub (a b : Nat) : Nat := rn32 ((v32 a).add (v32 b).flip)
def fmul (a b : Nat) : Nat := rn32 ((v32 a).mul (v32 b))
/-- Fused multiply-add: acc + a × b with one rounding (R579). -/
def ffma (acc a b : Nat) : Nat := rn32 ((v32 acc).add ((v32 a).mul (v32 b)))
def flt (a b : Nat) : Bool := (v32 a).lt (v32 b)
def fneg (a : Nat) : Nat := if a ≥ 2 ^ 31 then a - 2 ^ 31 else a + 2 ^ 31
def f32Zero : Nat := 0
def f32One : Nat := 0x3F800000
def f32NegInf : Nat := 0xFF800000
/-- Is the FP32 a NaN or an infinity? -/
def f32Bad (a : Nat) : Bool := decide (a % 2 ^ 31 ≥ 0x7F800000)

/-- An exact value as FP32 decodes it: beyond the range it is the infinity of its sign (R164). -/
def toF32 (v : Val) : Nat := rn32 v
/-- Rows of elements as they decode: a scaled magnitude beyond the FP32 range is the infinity of its sign (R164). -/
def decoded (rows : List (List Val)) : List (List Val) := rows.map fun r => r.map fun v => v32 (toF32 v)

/-- A value as the page gatherer presents it to the Reed: beyond the BF16 range the infinity of its sign (R191). -/
def reedIn (v : Val) : Val :=
  match v with
  | .fin n m e => if (bf16.decode bf16.maxCode).lt (.fin false m e) then .inf n else v
  | _ => v

/-- The quotient of two finite values, to 64 bits and a sticky one. -/
def quotient (na : Bool) (ma : Nat) (ea : Int) (nb : Bool) (mb : Nat) (eb : Int) : Val :=
  .fin (na != nb) (2 * (ma * 2 ^ 64 / mb) + (if ma * 2 ^ 64 % mb = 0 then 0 else 1)) (ea - eb - 65)

/-- The quotient of two FP32 values, rounded to nearest even: exact division carried far enough for one rounding. -/
def fdiv (a b : Nat) : Nat :=
  match v32 a, v32 b with
  | .nan _, _ => 0x7FC00000
  | _, .nan _ => 0x7FC00000
  | .inf _, .inf _ => 0x7FC00000
  | .inf na, .fin nb _ _ => b2n (na != nb) * 2 ^ 31 + 0x7F800000
  | .fin na _ _, .inf nb => b2n (na != nb) * 2 ^ 31
  | .fin na ma ea, .fin nb mb eb =>
    if mb = 0 then (if ma = 0 then 0x7FC00000 else b2n (na != nb) * 2 ^ 31 + 0x7F800000)
    else
      rn32 (quotient na ma ea nb mb eb)

/-! ### The Reed (R175) -/

/-- The exact sum of the products of a group. -/
def groupSum (ps : List (Val × Val)) : Val :=
  ps.foldl (fun acc p => acc.add (p.1.mul p.2)) .zero

/-- A Reed dot product: groups of 32 pairs, each summed exactly, scaled exactly, added to the FP32 accumulator with one
rounding, in ascending order. `post` is the exact factor of a group's index. -/
def reedDot (acc : Nat) (ps : List (Val × Val)) (post : Nat → Val) : Nat :=
  ((chunks 32 (ps.length / 32 + 1) ps).zipIdx).foldl
    (fun a g => rn32 ((v32 a).add ((groupSum g.1).mul (post g.2)))) acc

/-- The exact value 1. -/
def Val.one : Val := .fin false 1 0

/-- A chain of fused multiply-adds from +0 (R579). -/
def fmaChain (ps : List (Nat × Nat)) : Nat := ps.foldl (fun acc p => ffma acc p.1 p.2) 0

/-! ### Stochastic rounding (R172) -/

/-- The 64-bit mixer of R172. -/
def srMix (z : BitVec 64) : BitVec 64 :=
  let z := (z ^^^ (z >>> 30)) * 0xBF58476D1CE4E5B9
  let z := (z ^^^ (z >>> 27)) * 0x94D049BB133111EB
  z ^^^ (z >>> 31)

/-- SR_RAND of a seed and an identity. -/
def srRand (seed a b : Nat) : Nat :=
  (srMix (srMix (BitVec.ofNat 64 seed ^^^ BitVec.ofNat 64 a) ^^^ BitVec.ofNat 64 b)).toNat % 65536

/-- The identity A of an element of a sequence (R172). -/
def srA (seq layer pos : Nat) : Nat := seq * 2 ^ 40 + layer * 2 ^ 32 + pos
/-- The identity B. -/
def srB (mute val : Bool) (head ch : Nat) : Nat := b2n mute * 2 ^ 13 + b2n val * 2 ^ 12 + head * 2 ^ 8 + ch
/-- The random numbers of a row's channels under SR. -/
def srRow (sr : Bool) (seed seq layer pos : Nat) (mute val : Bool) (head : Nat) (ch : Nat) : Option Nat :=
  if sr then some (srRand seed (srA seq layer pos) (srB mute val head ch)) else none

/-! ### KC4 (R160 to R163) -/

/-- A / 6 in FP32, rounded upward, as an exact value at or above A / 6. -/
def sixthUp (a : Val) : Val :=
  match a with
  | .fin _ m e =>
    if m = 0 then .zero
    else
      let u := max ((Nat.log2 m : Int) + e - 3 - 23) (-149)
      let num := m * 2 ^ (e - u + 400).toNat
      .fin false (ceilDiv num (6 * 2 ^ 400)) u
  | v => v

/-- The smallest E4M3 code whose value is at or above v. -/
def e4m3AtLeast (v : Val) : Nat := ((List.range 0x7F).find? fun c => !((e4m3.decode c).lt v)).getD 0x7E

/-- The channel scale of R161 from the largest finite magnitude A. -/
def kc4Scale (a : Val) : Nat :=
  match a with
  | .fin _ 0 _ => 0x38
  | _ =>
    let s := sixthUp a
    if (Val.fin false 448 0).lt s then 0x7E
    else if s.lt (.fin false 1 (-9)) then 0x01
    else e4m3AtLeast s

/-- The largest finite magnitude of a list; zero if there is none. -/
def maxFin (vs : List Val) : Val :=
  (vs.filter Val.isFin).foldl (fun b v => if b.lt v.abs then v.abs else b) .zero

/-- The bias of a token (R162): the smallest b from −64 to 63 such that every finite |k| ≤ 6 × S × 2^b, else 63. Pairs of a
key and its channel scale. -/
def kc4Bias (ks : List (Val × Nat)) : Int :=
  let fits := fun (b : Int) => ks.all fun k =>
    !k.1.isFin || !((((e4m3.decode k.2).mul (.fin false 6 0)).scale b).lt k.1.abs)
  (((List.range 128).map fun (i : Nat) => (i : Int) - 64).find? fits).getD 63

/-- The bias a byte stands for, clamped to −64 … 63 (R160). -/
def kc4BiasOf (b : Byte) : Int := min (max b.toInt (-64)) 63

/-- Divide a value by S × 2^b and convert to E2M1 (R163). The quotient is kept exact as a fraction of the integers k and S: the
numerator is carried far enough that the rounding, and the stochastic fraction, come out as for the exact quotient. -/
def kc4Elem (rnd : Option Nat) (k : Val) (scale : Nat) (b : Int) : Nat :=
  match k with
  | .nan _ => 0
  | .inf n => if n then 0xF else 0x7
  | .fin n m e =>
    match e4m3.decode scale with
    | .fin _ sm se =>
      if sm = 0 then 0
      else
        let q := m * 2 ^ 80 / sm
        let sticky := if m * 2 ^ 80 % sm = 0 then 0 else 1
        e2m1.encode rnd (.fin n (2 * q + sticky) (e - se - 81 - b))
    | _ => 0

/-- The value of a stored KC4 element (R160). -/
def kc4Val (q scale : Nat) (b : Int) : Val := ((e2m1.decode q).mul (e4m3.decode scale)).scale b

end Sys2Proof.Machine
end

