-- ==== Sys2Proof/Machine/Operands.lean ====
section
/-!
DEFINITION. The operands of the catalogue's commands: the 64-byte command's header (R46), the layouts of bytes 16 to 63 (R50),
reserved bits (R47), and what the checks of R56 need of them: partition ranges, buffer references, profiles.
-/

namespace Sys2Proof.Machine

/-! ### Layout -/

/-- The defined bits of a run of bytes: first byte, number of bytes, mask of the last one (the others are whole). -/
structure Run where
  at_ : Nat
  n : Nat
  last : Nat
  deriving DecidableEq, Repr

/-- The defined bits of the header (R46). -/
def hdrRuns : List Run :=
  [⟨0, 1, 0xFF⟩, ⟨1, 1, 0x0F⟩, ⟨2, 5, 0xFF⟩, ⟨7, 1, 0x0F⟩, ⟨8, 2, 0x8F⟩, ⟨10, 2, 0x8F⟩, ⟨12, 2, 0x8F⟩, ⟨14, 2, 0x8F⟩]

/-- The defined bits of bytes 16 to 63 of a command (the layouts under R50). Fields that are RSV only for some values of
another field are in `condRsv`. -/
def cmdRuns (op : Nat) : List Run :=
  let seq : Run := ⟨16, 3, 0x0F⟩
  match op with
  | 0x01 => [⟨16, 2, 0xFF⟩, ⟨24, 8, 0xFF⟩]
  | 0x02 => [seq, ⟨19, 1, 0xFF⟩, ⟨20, 2, 0xFF⟩, ⟨22, 1, 0x07⟩]
  | 0x03 => [seq, ⟨19, 1, 0x01⟩, ⟨20, 4, 0xFF⟩, ⟨24, 4, 0xFF⟩]
  | 0x04 => [seq, ⟨19, 1, 0x01⟩]
  | 0x05 => [seq, ⟨19, 1, 0xFF⟩, ⟨20, 3, 0xFF⟩, ⟨23, 1, 0x01⟩, ⟨24, 4, 0xFF⟩, ⟨32, 16, 0xFF⟩]
  | 0x06 => [seq, ⟨19, 1, 0xFF⟩]
  | 0x07 => [seq, ⟨19, 1, 0xFF⟩, ⟨20, 1, 0x7F⟩, ⟨21, 1, 0x1F⟩, ⟨22, 1, 0x3F⟩, ⟨23, 1, 0x0F⟩, ⟨24, 40, 0xFF⟩]
  | 0x08 | 0x09 => [⟨16, 2, 0xFF⟩, ⟨18, 2, 0x0F⟩, ⟨20, 1, 0x01⟩, ⟨21, 1, 0xFF⟩, ⟨22, 10, 0xFF⟩, ⟨32, 16, 0xFF⟩]
  | 0x0A => [⟨16, 4, 0xFF⟩, ⟨20, 1, 0x01⟩, ⟨24, 16, 0xFF⟩]
  | 0x0B => [seq, ⟨20, 2, 0xFF⟩, ⟨22, 1, 0x03⟩, ⟨24, 3, 0x0F⟩, ⟨32, 8, 0xFF⟩]
  | 0x0C => [⟨16, 4, 0xFF⟩, ⟨20, 1, 0x03⟩]
  | 0x0D => [seq, ⟨19, 1, 0x3F⟩, ⟨20, 4, 0xFF⟩, ⟨24, 16, 0xFF⟩]
  | 0x0E => [seq, ⟨19, 2, 0xFF⟩, ⟨21, 1, 0x1F⟩]
  | 0x0F => [⟨16, 1, 0x01⟩, ⟨18, 2, 0x0F⟩, ⟨20, 2, 0xFF⟩, ⟨24, 5, 0xFF⟩, ⟨32, 5, 0xFF⟩, ⟨40, 4, 0xFF⟩]
  | 0x10 => [⟨16, 1, 0x01⟩, ⟨20, 2, 0xFF⟩, ⟨24, 4, 0xFF⟩, ⟨32, 8, 0xFF⟩]
  | 0x11 => [⟨16, 1, 0x03⟩, ⟨20, 3, 0x0F⟩, ⟨24, 8, 0xFF⟩, ⟨32, 8, 0xFF⟩]
  | 0x12 => [⟨16, 1, 0xFF⟩, ⟨24, 8, 0xFF⟩]
  | 0x13 => [⟨16, 1, 0x01⟩]
  | 0x14 => [⟨16, 2, 0x1F⟩, ⟨18, 2, 0xFF⟩, ⟨20, 1, 0x01⟩]
  | _ => []

/-- The defined bits of byte i. -/
def definedBits (runs : List Run) (i : Nat) : Nat :=
  runs.foldl (fun m r => if r.at_ ≤ i ∧ i < r.at_ + r.n then m ||| (if i + 1 = r.at_ + r.n then r.last else 0xFF) else m) 0

/-- The first byte that holds a non-zero reserved bit (R47). -/
def reservedByte (runs : List Run) (bs : List Byte) (lo hi : Nat) : Option Nat :=
  ((List.range (hi - lo)).map (· + lo)).find? fun i => (field bs i 1 &&& (0xFF - definedBits runs i)) != 0

/-- Reserved bytes that depend on another field: the parent of a SEQ_FORK of a sequence, and ATTEND's last word. -/
def condRsv (op : Nat) (bs : List Byte) : Option Nat :=
  match op with
  | 0x03 => if field bs 19 1 = 0 ∧ field bs 20 4 / 2 ^ 20 ≠ 0 then some 22 else none
  | 0x07 =>
    let kind := field bs 22 1 % 4
    if kind < 2 ∧ ¬ allZero bs 56 8 then ((List.range 8).map (· + 56)).find? fun i => field bs i 1 ≠ 0 else none
  | _ => none

/-- Is the opcode in the catalogue (R50)? -/
def knownOp (op : Nat) : Bool := decide (op ≤ 0x14)
/-- May the opcode be a graph node (R50)? -/
def graphOp (op : Nat) : Bool := knownOp op && !([0x01, 0x12, 0x13, 0x14].contains op)

/-- The header of a command (R46). -/
def parseHeader (bs : List Byte) : Header :=
  let fl := field bs 1 1
  { opcode := field bs 0 1, gnode := bit fl 0, irq := bit fl 1, silent := bit fl 2, anyway := bit fl 3, tag := field bs 2 2,
    epoch := field bs 4 2, node := field bs 6 2 % 4096,
    deps := (List.range 4).filterMap fun i =>
      let d := field bs (8 + 2 * i) 2
      if bit d 15 then some (d % 4096) else none }

/-- Bytes 16 to 63 by opcode (R50). -/
def parseCmd (bs : List Byte) : Cmd :=
  let seq := field bs 16 3 % 2 ^ 20
  match field bs 0 1 with
  | 0x01 => .profileCreate (field bs 16 2) (field bs 24 8)
  | 0x02 => .seqOpen seq (field bs 19 1) (field bs 20 2) (bit (field bs 22 1) 0) (bits (field bs 22 1) 1 2)
  | 0x03 => .seqFork seq (bit (field bs 19 1) 0) (field bs 20 4) (field bs 24 4)
  | 0x04 => .seqClose seq (bit (field bs 19 1) 0)
  | 0x05 => .append
      { seq := seq, layer := field bs 19 1, ntok := field bs 20 2, kFmt := bits (field bs 22 1) 0 4,
        vFmt := bits (field bs 22 1) 4 4, flushAfter := bit (field bs 23 1) 0, pos0 := field bs 24 4, kRef := field bs 32 8,
        vRef := field bs 40 8 }
  | 0x06 => .flush seq (field bs 19 1)
  | 0x07 => .attend
      { seq := seq, layer := field bs 19 1, qrows := field bs 20 1 % 128, gqa := field bs 21 1 % 32,
        maskKind := bits (field bs 22 1) 0 2, outFp32 := bit (field bs 22 1) 2, softcapEn := bit (field bs 22 1) 3,
        dlp := bits (field bs 22 1) 4 2, qFmt := field bs 23 1 % 16, deadlineUs := field bs 24 2, kvhFirst := field bs 26 1,
        kvhCount := field bs 27 1, scale := field bs 28 4, softcap := field bs 32 4, qpos0 := field bs 36 4,
        qRef := field bs 40 8, outRef := field bs 48 8, mask := field bs 56 8 }
  | 0x08 => .headGather (coll bs)
  | 0x09 => .spanMerge (coll bs)
  | 0x0A => .prefixLookup (field bs 16 2) (field bs 18 2) (bit (field bs 20 1) 0) (field bs 24 8) (field bs 32 8)
  | 0x0B => .prefixPublish seq (field bs 20 2) (bit (field bs 22 1) 0) (bit (field bs 22 1) 1) (field bs 24 4 % 2 ^ 20)
      (field bs 32 8)
  | 0x0C => .prefixRef (field bs 16 4) (field bs 20 1 % 4)
  | 0x0D => .warm seq (field bs 19 1 % 64) (field bs 20 4) (field bs 24 8) (field bs 32 8)
  | 0x0E => .hint seq (field bs 19 1) (field bs 20 1) (bits (field bs 21 1) 0 2) (bits (field bs 21 1) 2 3)
  | 0x0F =>
    let x : XferCmd := { device := field bs 18 2 % 4096, qpn := field bs 20 2, localCpn := field bs 24 5,
                         remoteCpn := field bs 32 5, key := field bs 40 4 }
    if bit (field bs 16 1) 0 then .getPage x else .putPage x
  | 0x10 =>
    if bit (field bs 16 1) 0 then .postRecv (field bs 20 2) (field bs 24 4) (field bs 32 8)
    else .send (field bs 20 2) (field bs 24 4) (field bs 32 8)
  | 0x11 => .region (field bs 16 1 % 4) (field bs 20 3 % 2 ^ 20) (field bs 24 8) (field bs 32 8)
  | 0x12 => .epochCommit (field bs 16 1) (field bs 24 8)
  | 0x13 => .fence (bit (field bs 16 1) 0)
  | 0x14 => .graphBegin (field bs 16 2 % 8192) (field bs 18 2) (bit (field bs 20 1) 0)
  | _ => .nop
where
  coll (bs : List Byte) : CollCmd :=
    { group := field bs 16 2, collector := field bs 18 2 % 4096, isCollector := bit (field bs 20 1) 0, ndev := field bs 21 1,
      deadlineUs := field bs 22 2, opId := field bs 24 4, len := field bs 28 4, srcRef := field bs 32 8,
      dstRef := field bs 40 8 }

/-! ### Profiles and epochs -/

/-- Channels of a head-dimension code (R82). -/
def hdimOf : Nat → Nat
  | 0 => 64 | 1 => 96 | 2 => 128 | 3 => 192
  | _ => 256
def Profile.hdim (p : Profile) : Nat := hdimOf p.hdimCode
def Profile.tpp (p : Profile) : Nat := 2 ^ p.tppLog2
/-- Key and value strides and areas (R83, R84). -/
def Profile.ks (p : Profile) : Nat := rowStride p.kFmt p.hdim
def Profile.vs (p : Profile) : Nat := rowStride p.vFmt p.hdim
def Profile.ka (p : Profile) : Nat := roundUp (p.tpp * p.kvh * p.ks) 4096
def Profile.va (p : Profile) : Nat := roundUp (p.tpp * p.kvh * p.vs) 4096
/-- The geometry of a mute copy: KC4 keys and MXFP4 values (R97). -/
def Profile.mutePart (p : Profile) : Profile := { p with kFmt := 0xE, vFmt := 0xC }

/-- The epoch-scoped tables under which a command of epoch e runs at a unit (R71, R75). -/
def cfgAt (s : State) (e : Nat) : EpochCfg := if e = s.dep.epoch then s.dep.cfg else s.dep.cfgPrev
/-- A profile of the command's epoch. -/
def profileAt (s : State) (e id : Nat) : Option Profile := tget (cfgAt s e).profiles id
/-- The entry of a partition in the map of an epoch. -/
def mapEntryAt (s : State) (e pt : Nat) : MapEntry := lget (mapAt s e).pts pt {}
/-- The tiles of a partition under an epoch's map, lowest first. -/
def tilesAt (s : State) (e pt : Nat) : List Nat := bitList (mapEntryAt s e pt).tiles 48

/-- Is the sequence ID in the partition's range (R119)? -/
def seqInRange (s : State) (e pt q : Nat) : Bool :=
  let m := mapEntryAt s e pt
  decide (m.seqBase ≤ q ∧ q < m.seqBase + m.seqCount ∧ q ≠ 0xFFFFF)

/-- Is the queue pair in the partition's range (R450)? -/
def qpnInRange (s : State) (pt q : Nat) : Bool :=
  let r := s.reg pgFab 0x228 pt
  decide (bits r 0 16 ≤ q ∧ q < bits r 0 16 + bits r 16 16 ∧ q ≠ 0xFFFF)

/-- The region-table slot that allows a partition a region (R306). -/
def regionAllowed (s : State) (pt r : Nat) : Bool :=
  (List.range 256).any fun i =>
    let c := s.reg pgCxh 0x224 i
    bit c 20 && bits c 0 20 == r && bit (bits c 22 8) pt

/-- Is the sequence open? -/
def seqOpen (s : State) (q : Nat) : Bool := (s.ctx q).state == .open_

/-! ### Lengths of what a command's references name -/

/-- Tokens' key or value bytes as APPEND supplies them. -/
def srcBytes (fmt n kvh hdim : Nat) : Nat := n * kvh * hdim * (elemBits fmt / 8)

/-- KVH_COUNT in effect (R179), NQH, and the size of the query block. -/
def attKvh (p : Profile) (a : AttendCmd) : Nat := if a.kvhCount = 0 then p.kvh - a.kvhFirst else a.kvhCount
def attNqh (p : Profile) (a : AttendCmd) : Nat := attKvh p a * a.gqa
def attQBytes (p : Profile) (a : AttendCmd) : Nat := a.qrows * attNqh p a * p.hdim * (elemBits a.qFmt / 8)
/-- OSTRIDE (R182). -/
def attOstride (p : Profile) (a : AttendCmd) : Nat := p.hdim * (if a.outFp32 then 4 else 2)
def attRecords (p : Profile) (a : AttendCmd) : Nat := a.qrows * attNqh p a
/-- The partition's attention table in an epoch (R213). -/
def attnAt (s : State) (e pt : Nat) : AttnTable := lget (cfgAt s e).attn pt {}

/-- The group entry a collective names, of the right kind (R214). -/
def groupAt (s : State) (e pt id : Nat) (span : Bool) : Option Group :=
  (attnAt s e pt).groups.find? fun g => g.id == id && g.span == span
/-- OSTRIDE of a group. -/
def Group.ostride (g : Group) : Nat := hdimOf g.hdimCode * (if g.outFp32 then 4 else 2)
/-- This device's member index in a group for a partition. -/
def memberIndex (s : State) (g : Group) (pt : Nat) : Option Nat := lfind g.members (· == s.fab.devId * 8 + pt)

/-- The references of a command, each with its byte offset in the command and the bytes it covers where the command and the
state tell them: SPACE 0x1 ranges are checked over that length (R49). A length of 1 checks the address alone. [DEDUCED, log 36] -/
def refsOf (s : State) (h : Header) (pt : Nat) (c : Cmd) : List (Nat × Nat × Nat) :=
  let prof := fun (q : Nat) => if seqOpen s q then profileAt s h.epoch (s.ctx q).profile else none
  match c with
  | .profileCreate _ r => [(24, r, 64)]
  | .append a =>
    match prof a.seq with
    | some p => [(32, a.kRef, srcBytes a.kFmt a.ntok p.kvh p.hdim), (40, a.vRef, srcBytes a.vFmt a.ntok p.kvh p.hdim)]
    | none => [(32, a.kRef, 1), (40, a.vRef, 1)]
  | .attend a =>
    let out := match prof a.seq with
      | some p =>
        let n := attRecords p a
        [(40, a.qRef, attQBytes p a), (48, a.outRef, (attnAt s h.epoch pt).statOff + (n - 1) * attOstride p a + 16)]
      | none => [(40, a.qRef, 1), (48, a.outRef, 1)]
    out ++ (if a.maskKind = 3 ∧ refSpace a.mask ≠ 2 then [(56, a.mask, 16)] else [])
  | .headGather c | .spanMerge c =>
    let stat := (attnAt s h.epoch pt).statOff
    (32, c.srcRef, stat + c.len) :: (if c.isCollector then [(40, c.dstRef, stat + c.len)] else [])
  | .prefixLookup p n _ t o =>
    match profileAt s h.epoch p with
    | some pr => [(24, t, n * pr.tpp * 4), (32, o, 1)]
    | none => [(24, t, 1), (32, o, 1)]
  | .prefixPublish q n _ _ _ t =>
    match prof q with
    | some pr => [(32, t, n * pr.tpp * 4)]
    | none => [(32, t, 1)]
  | .warm _ _ n i t => [(24, i, 1), (32, t, n * 4)]
  | .send _ l r => [(32, r, l)]
  | .postRecv _ l r => [(32, r, l)]
  | .region op _ _ r => if op = 1 then [(32, r, 16)] else []
  | _ => []

/-- Does a SPACE 0x1 reference stay inside the working area (R479)? -/
def refInArea (s : State) (h : Header) (pt : Nat) (r n : Nat) : Bool :=
  refSpace r != 1 || decide (refAddr r + max n 1 ≤ waSize (mapAt s h.epoch) pt)

/-- The SPACE values each reference may carry, by command and byte offset (R49, R179, the layouts). Outputs do not lie in a
pool region, whose versions are read only (log entry 14). [DEDUCED, log 14] -/
def spacesAllowed (c : Cmd) (off : Nat) : List Nat :=
  match c, off with
  | .attend _, 56 => [1, 2]
  | .attend _, _ => [0, 1]
  | .warm _ _ _ _ _, 24 => [1, 3]
  | .headGather _, 40 | .spanMerge _, 40 => [0, 1]
  | .prefixLookup _ _ _ _ _, 32 => [0, 1]
  | .postRecv _ _ _, _ => [0, 1, 3]
  | _, _ => [0, 1, 3]

end Sys2Proof.Machine
end

