-- ==== Sys2Proof/Machine/Conductor.lean ====
section
/-!
DEFINITION. The conductor cores: the checks of R56 steps 1 to 6, what a ring turn takes (R43), the framing of graphs (R57, R58),
release of slots (R38), doorbells (R37, R39, R345), ring registers (R36), completion rings (R39 to R42) and halts (R45).
-/

namespace Sys2Proof.Machine

/-! ### The checks of R56 -/

/-- How much older than D an epoch is, modulo 65,536 (R76). -/
def epochAge (s : State) (e : Nat) : Nat := subMod s.dep.epoch e 16

/-- Step 1: opcode, reserved bits, GNODE, and NODE and dependences of a standalone command (log entry 15). [DEDUCED, log 15] -/
def check1 (bs : List Byte) (inGraph : Bool) : Option Comp :=
  let h := parseHeader bs
  if ¬ knownOp h.opcode then some (invalidAt 0)
  else
    match reservedByte hdrRuns bs 0 16 with
    | some i => some (invalidAt i)
    | none =>
      match reservedByte (cmdRuns h.opcode) bs 16 64 with
      | some i => some (invalidAt i)
      | none =>
        match condRsv h.opcode bs with
        | some i => some (invalidAt i)
        | none =>
          if h.gnode ≠ inGraph ∨ (inGraph ∧ ¬ graphOp h.opcode) then some (invalidAt 1)
          else if ¬ inGraph ∧ h.node ≠ 0 then some (invalidAt 6)
          else if ¬ inGraph ∧ ¬ h.deps.isEmpty then some (invalidAt 8)
          else none

/-- Steps 2 and 3: the epoch. -/
def check23 (s : State) (h : Header) : Option Comp :=
  if h.opcode = 0x12 then
    if h.epoch = (s.dep.epoch + 1) % 65536 then none else some (invalidAt 4)
  else if 2 ≤ epochAge s h.epoch ∧ epochAge s h.epoch ≤ 32767 then some (failWith .staleEpoch)
  else if epochAge s h.epoch > 32767 then some (invalidAt 4)
  else none

/-- The sequence a command names, with the byte offset of its field, for the commands that name an existing one (R114). -/
def namedSeq : Cmd → Option (Nat × Nat)
  | .seqFork _ false p _ => some (p % 2 ^ 20, 20)
  | .seqClose q _ | .flush q _ | .prefixPublish q _ _ _ _ _ | .warm q _ _ _ _ | .hint q _ _ _ _ => some (q, 16)
  | .append a => some (a.seq, 16)
  | .attend a => some (a.seq, 16)
  | _ => none

/-- The sequence IDs a command names that must lie in the partition's range. -/
def seqIds : Cmd → List Nat
  | .seqOpen q _ _ _ _ => if q = 0xFFFFF then [] else [q]
  | .seqFork c h p _ => (if c = 0xFFFFF then [] else [c]) ++ (if h then [] else [p % 2 ^ 20])
  | c => (namedSeq c).toList.map (·.1)

/-- The profile a command names directly. -/
def namedProfile : Cmd → Option (Nat × Nat)
  | .seqOpen _ _ p _ _ => some (p, 20)
  | .prefixLookup p _ _ _ _ => some (p, 16)
  | _ => none

/-- Step 4: permissions. -/
def check4 (s : State) (ring : Nat) (h : Header) (c : Cmd) : Option Comp :=
  let pt := ringPt ring
  let perm := some (failWith .perm)
  if h.opcode = 0x12 ∧ ¬ ringSecure s ring then perm
  else if ¬ ringSecure s ring ∧ (s.part pt).state ≠ .active then perm
  else if (seqIds c).any (fun q => ¬ seqInRange s h.epoch pt q) then perm
  else if (match namedProfile c with
      | some (p, _) => (match profileAt s h.epoch p with | some pr => pr.owner != pt | none => false)
      | none => false) then perm
  else if (match c with
      | .seqFork _ true p _ => bits p 26 3 != pt
      | .prefixRef hd _ => bits hd 26 3 != pt
      | .region _ r _ _ => !regionAllowed s pt r
      | .prefixPublish _ _ true _ r _ => !regionAllowed s pt r
      | .putPage x | .getPage x => !qpnInRange s pt x.qpn
      | .send q _ _ | .postRecv q _ _ => !qpnInRange s pt q
      | _ => false) then perm
  else if (refsOf s h pt c).any (fun r => ¬ refInArea s h pt r.2.1 r.2.2) then perm
  else if (match c with
      | .attend a => seqOpen s a.seq && (s.ctx a.seq).warmTarget
      | .append a => seqOpen s a.seq && (s.ctx a.seq).warmTarget
      | .flush q _ => seqOpen s q && (s.ctx q).warmTarget
      | .seqFork _ false p _ => seqOpen s (p % 2 ^ 20) && (s.ctx (p % 2 ^ 20)).warmTarget
      | _ => false) then perm
  else none

/-- The first of a list of conditions that fails, as INVALID at its byte. -/
def firstBad (l : List (Bool × Nat)) : Option Comp := (l.find? (·.1)).map fun x => invalidAt x.2

/-- Field ranges of ATTEND (R179) in byte order, with the profile and layer count of its sequence where it is open. [DEDUCED, log 36] -/
def attendRanges (a : AttendCmd) (layers : Option Nat) (p : Option Profile) : List (Bool × Nat) :=
  [(layers.any (fun l => decide (a.layer ≥ l)), 19),
   (decide (a.qrows = 0 ∨ 64 < a.qrows), 20), (decide (a.gqa = 0 ∨ 16 < a.gqa), 21),
   (p.any (fun p => decide (p.kvh ≤ a.kvhFirst ∨ p.kvh < a.kvhFirst + attKvh p a)), 26),
   (decide (a.scale = 0x80000000) || f32Bad a.scale, 28),
   (a.softcapEn && decide (a.softcap < 0x00800000 ∨ 0x7F800000 ≤ a.softcap), 32),
   (decide (a.qpos0 + a.qrows - 1 > 0xFFFFFFFF), 36),
   (decide (refSpace a.qRef > 1), 40), (decide (refSpace a.outRef > 1), 48),
   (decide (a.maskKind = 3) && !([1, 2].contains (refSpace a.mask)), 56),
   (decide (a.maskKind = 3 ∧ refSpace a.mask = 2 ∧ refAddr a.mask ≠ 0), 56),
   (decide (a.maskKind = 2) && decide (a.mask % 2 ^ 32 = 0 ∨ a.mask / 2 ^ 32 ≠ 0), 56)]

/-- Field ranges of a collective (R214). -/
def collRanges (s : State) (h : Header) (pt : Nat) (c : CollCmd) (span : Bool) : List (Bool × Nat) :=
  let g := groupAt s h.epoch pt c.group span
  [(!s.fab.idValid, 18), (g.isNone, 16), (g.any (fun g => g.ndev != c.ndev), 21),
   (g.any (fun g => (memberIndex s g pt).isNone), 16),
   (g.any (fun g => decide (c.len = 0 ∨ 2 ^ 20 < c.len ∨ c.len % g.ostride ≠ 0)), 28),
   (c.isCollector && decide (c.collector ≠ s.fab.devId), 18), (decide (c.ndev < 2 ∨ 64 < c.ndev), 21)]

/-- Step 5: field ranges and SPACE values. -/
def check5 (s : State) (ring : Nat) (h : Header) (c : Cmd) : Option Comp :=
  let pt := ringPt ring
  let layers := fun (q : Nat) => if seqOpen s q then some (s.ctx q).layers else none
  let prof := fun (q : Nat) => if seqOpen s q then profileAt s h.epoch (s.ctx q).profile else none
  let own := match c with
    | .seqOpen _ l _ _ _ => [(decide (l = 0), 19)]
    | .append a => [((layers a.seq).any (fun l => decide (l ≤ a.layer)), 19), (decide (a.ntok = 0 ∨ 4096 < a.ntok), 20)]
    | .flush q l => [((layers q).any (fun n => decide (l ≠ 0xFF ∧ n ≤ l)), 19)]
    | .attend a => attendRanges a (layers a.seq) (prof a.seq)
    | .headGather c => collRanges s h pt c false
    | .spanMerge c => collRanges s h pt c true
    | .prefixLookup _ n _ _ _ => [(decide (n = 0), 18)]
    | .prefixPublish _ n _ _ _ _ => [(decide (n = 0), 20)]
    | .prefixRef _ op => [(decide (op = 3), 20)]
    | .hint q f n k t =>
      [((layers q).any (fun l => decide (l ≤ f ∨ l < f + n)), 19),
       (decide ((k = 3 ∧ (t = 0 ∨ 3 < t)) ∨ (k ≠ 3 ∧ t ≠ 0)), 21)]
    | .putPage _ | .getPage _ => [(!s.fab.idValid, 18)]
    | .send _ l _ | .postRecv _ l _ => [(!s.fab.idValid, 20), (decide (l = 0 ∨ 2 ^ 20 < l), 24)]
    | .epochCommit _ r => [(decide (refSpace r ≠ 1), 24)]
    | .graphBegin n _ _ => [(decide (n = 0 ∨ 4096 < n), 16)]
    | _ => []
  match firstBad own with
  | some e => some e
  | none =>
    firstBad ((refsOf s h pt c).map fun r =>
      (!((spacesAllowed c r.1).contains (refSpace r.2.1))
        || (refSpace r.2.1 == 3 && (openVersion s pt (refRegion r.2.1)).isNone), r.1))

/-- Step 6: format codes, then the profile. -/
def check6 (s : State) (h : Header) (c : Cmd) : Option Comp :=
  let fmt := match c with
    | .append a => if a.kFmt > 2 ∨ a.vFmt > 2 then some 22 else none
    | .attend a => if a.qFmt > 2 then some 23 else none
    | _ => none
  match fmt with
  | some b => some (failWith .format b)
  | none =>
    match namedProfile c with
    | some (p, b) => if (profileAt s h.epoch p).isNone then some (invalidAt b) else none
    | none =>
      match namedSeq c with
      | some (q, b) =>
        if seqOpen s q ∧ (profileAt s h.epoch (s.ctx q).profile).isNone then some (invalidAt b) else none
      | none => none

/-- Steps 4 to 6, which a unit repeats when it begins a command whose sequence was not open at the fetch. [DEDUCED, log 36] -/
def check456 (s : State) (ring : Nat) (h : Header) (c : Cmd) : Option Comp :=
  match check4 s ring h c with
  | some e => some e
  | none =>
    match check5 s ring h c with
    | some e => some e
    | none => check6 s h c

/-- Steps 1 to 6 of R56: the completion of the first failed check, or none. -/
def checkCmd (s : State) (ring : Nat) (bs : List Byte) (inGraph : Bool) : Option Comp :=
  match check1 bs inGraph with
  | some e => some e
  | none =>
    match check23 s (parseHeader bs) with
    | some e => some e
    | none => check456 s ring (parseHeader bs) (parseCmd bs)

/-! ### Acceptance numbers and records -/

/-- Take the next acceptance number (R520). -/
def takeAcc (s : State) : Nat × State :=
  (s.dep.accNext, { s with dep := { s.dep with accNext := (s.dep.accNext + 1) % 2 ^ 32 } })

/-- The CMD record (R520). -/
def recCmd (s : State) (ring acc rstat : Nat) (bs : List Byte) : State :=
  recNow s 0x01 (ringPt ring) ring (bs ++ toLe 4 acc ++ toLe 2 rstat ++ zeros 10) (ringSecure s ring)

/-! ### Taking slots from a ring -/

/-- The number of entries of a ring. -/
def SubRing.size (r : SubRing) : Nat := 2 ^ r.sizeLog2
/-- Slots the doorbell has handed over that are not fetched. -/
def SubRing.avail (r : SubRing) : Nat := (r.tail + r.size - r.next) % r.size
/-- A ring's base address. -/
def SubRing.base (r : SubRing) : Nat := r.baseLo.toNat + r.baseHi.toNat * 2 ^ 32

/-- The bytes of the slot k places after the next one, as host memory holds them. -/
def slotBytes (s : State) (ring k : Nat) : List Byte :=
  let r := s.subRing ring
  hostBytes s r.port (r.base + (r.next + k) % r.size * 64) 64

/-- Move next on by n slots and put an item into the ring's list. -/
def takeSlots (s : State) (ring n : Nat) (it : Fetched) : State :=
  s.setSubRing ring fun r => { r with next := (r.next + n) % r.size, buf := r.buf ++ [(n, it)] }

/-- NODE and GRAPH_ID of the entry of a command that is rejected by itself: GRAPH_BEGIN's entry carries its GRAPH_ID, and stands for its
graph. -/
def rejectIds (bs : List Byte) : Nat × Nat :=
  match parseCmd bs with
  | .graphBegin _ id _ => (0xFFF, id)
  | _ => ((parseHeader bs).node, 0)

/-- A standalone command that fails a check completes at once, with an acceptance number of its own (R56, R520). [DEDUCED, log 82] -/
def rejectSingle (s : State) (ring : Nat) (bs : List Byte) (c : Comp) : State :=
  let a := takeAcc s
  let s := recCmd a.2 ring a.1 c.status.code bs
  reportNode s a.1 ring (parseHeader bs) (rejectIds bs).2 false (rejectIds bs).1 c

/-! ### Room in the node store (R60, R477) -/

/-- Nodes of the graphs of a partition that stand fetched: their room is kept until they are accepted. -/
def graphsFetched (s : State) (pt : Nat) : Nat :=
  ((s.dep.sq.filter fun r => ringPt r.1 == pt).map fun r =>
    (r.2.buf.map fun b => match b.2 with | .graph _ _ _ _ _ _ ns => ns.length | _ => 0).sum).sum

/-- Have n nodes of a partition room beside `used` nodes of each: its quota, and its part of the store of 65,536 (R60, R477)? -/
def storeFits (s : State) (used : Nat → Nat) (pt n : Nat) : Bool :=
  decide (used pt + n ≤ lget s.dep.quota pt 8192) && capRoom s pt 65536 n used

/-- Room for n more nodes beside those accepted and those of the graphs that stand fetched. [DEDUCED, log 22] -/
def storeRoom (s : State) (pt n : Nat) : Bool := storeFits s (fun p => ptUse s p + graphsFetched s p) pt n

/-- How many of the n slots from the k-th on carry GNODE = 1, counted up to the first that does not. [DEDUCED, log 82] -/
def gnodeRun (s : State) (ring : Nat) : Nat → Nat → Nat
  | 0, _ => 0
  | n + 1, k => if (parseHeader (slotBytes s ring k)).gnode then 1 + gnodeRun s ring n (k + 1) else 0

/-- The nodes of a graph as fetched, each with the outcome of its own checks. -/
def graphNodes (s : State) (ring n : Nat) : List FetchedNode :=
  (List.range n).map fun i =>
    let bs := slotBytes s ring (1 + i)
    match checkCmd s ring bs true with
    | none => { hdr := parseHeader bs, cmd := some (parseCmd bs), bad := {}, raw := bs }
    | some e => { hdr := parseHeader bs, cmd := none, bad := e, raw := bs }

/-- Take one command or one whole graph from a ring, if it is there (R43, R57). Answer the slots taken. A graph ends before the next slot with
GNODE = 0, and one that does not fit the node store stays in the ring (R60). Node commands that follow no GRAPH_BEGIN which passed its own
checks end singly, INVALID at byte 1. [DEDUCED, log 82] -/
def takeOne (s : State) (ring : Nat) : Nat × State :=
  let r := s.subRing ring
  if r.avail = 0 then (0, s)
  else
    let bs := slotBytes s ring 0
    match checkCmd s ring bs false with
    | some e => (1, takeSlots (rejectSingle s ring bs e) ring 1 .done)
    | none =>
      match parseCmd bs with
      | .graphBegin n id cm =>
        let k := gnodeRun s ring (r.avail - 1) 1
        if (k = r.avail - 1 ∧ k < n) ∨ ¬ storeRoom s (ringPt ring) (max n k) then (0, s)
        else (1 + k, takeSlots s ring (1 + k) (.graph (parseHeader bs) n id cm false bs (graphNodes s ring k)))
      | c => (1, takeSlots s ring 1 (.single (parseHeader bs) c bs))

/-- Take up to n slots' worth of commands, a graph that begins within them whole. -/
def takeTurn (s : State) (ring : Nat) : Nat → Nat → State
  | 0, _ => s
  | fuel + 1, n =>
    if n = 0 then s
    else
      let t := takeOne s ring
      if t.1 = 0 then s else takeTurn t.2 ring fuel (n - t.1)

/-- Release the slots at the front of a ring whose items have completed without acceptance (R38). -/
def releaseDone (s : State) (ring : Nat) : Nat → State
  | 0 => s
  | fuel + 1 =>
    match (s.subRing ring).buf with
    | (n, .done) :: rest =>
      releaseDone (s.setSubRing ring fun r => { r with head := (r.head + n) % r.size, buf := rest }) ring fuel
    | _ => s

/-- The commands of a turn arrive: they are checked, and each completes or stands fetched. -/
def ingest (s : State) (ring n : Nat) : State := releaseDone (takeTurn s ring 8 n) ring 16

/-- May the conductor cores fetch at all? Boot must have reached stage 5 (R574, R576). -/
def fetching (s : State) : Bool := decide (5 ≤ s.boot.stage) && !s.boot.halted && !s.boot.fatal

/-- Rings of a core that have something to fetch: enabled, not halted, nothing outstanding or standing fetched, of a partition
whose commands may run or of the secure world (R505: a FAILED partition's rings are not fetched). -/
def ringReady (s : State) (core : Nat) (e : Nat × SubRing) : Bool :=
  e.2.en && !e.2.halted && e.2.port == core && decide (0 < e.2.avail) && e.2.fetch.isNone && e.2.buf.isEmpty
    && !([PtState.scrubbing, PtState.failed].contains (s.part (ringPt e.1)).state)

/-- The ring whose turn it is (R43), by the core's pointer over global ring numbers, or in the slot of a strict partition by that
partition's own (R532). A turn moves its pointer on, also where one ring alone was ready. -/
def turnRing (s : State) (core : Nat) : Option Served :=
  serve s core 2048 (lget s.dep.turn core 0) ringPt ((s.dep.sq.filter (ringReady s core)).map (·.1))

/-- The slots a fetch read asks for: at most 8, within one 4 KiB page and the ring. [DEDUCED, log 82] -/
def fetchSlots (r : SubRing) : Nat := min (min 8 r.avail) (min (r.size - r.next) (64 - r.next % 64))

/-- A ring halts (R45): STATE 2, its outstanding fetch is dropped, event 0x44. [DEDUCED, log 33] -/
def haltRing (s : State) (ring : Nat) : State :=
  let s := s.setSubRing ring fun r => { r with halted := true, fetch := none }
  errEvent s 0x44 4 pgDep 0 0 ring 0 [ringPt ring]

/-- The tag of the newest read of a host port. -/
def lastTag (s : State) (port : Nat) : Nat := ((s.link port).reads.getLast?.map (·.tag)).getD 0

/-- A core's turn (R43). With the answer in the step, the commands are taken from host memory and checked; without, a MEM_RD
goes out and the fetch stays outstanding. A port that is not ACTIVE fails the fetch. [DEDUCED, log 6] -/
def ringTurn (s : State) (core : Nat) (answered : Bool) : State :=
  match turnRing s core with
  | none => s
  | some v =>
    let ring := v.winner
    let s := { v.state with dep := { s.dep with turn := lset s.dep.turn core v.ptr } }
    let r := s.subRing ring
    if ¬ portActive s core then haltRing s ring
    else if answered then ingest s ring 8
    else if 1024 ≤ (s.link core).reads.length then s
    else
      let n := fetchSlots r
      let s := hostRead s core 1 (ringPt ring) r.mgr (r.base + r.next * 64) (64 * n) (.ringFetch ring)
      s.setSubRing ring fun r => { r with fetch := some (lastTag s core, n) }

/-- RING_TURN_FETCH. [DEDUCED, log 68] -/
def execRingTurnFetch (core : Nat) (answered : Bool) (s : State) : Host.Outcome State Fault Refusal :=
  .next (if fetching s then ringTurn s core answered else s)

/-! ### The framing of a graph (R57, R58) -/

/-- The first offending node of a graph: a node that is missing or surplus, out of order, of another epoch, or with a dependence that is
not on a lower node (R57, R58). [DEDUCED, log 82] -/
def badNode (h : Header) (nnodes : Nat) (ns : List FetchedNode) : Option Nat :=
  match (ns.zipIdx).find? fun n =>
      n.1.hdr.node ≠ n.2 || n.1.hdr.epoch ≠ h.epoch || n.1.hdr.deps.any (fun d => decide (n.2 ≤ d)) with
  | some n => some (min n.2 nnodes)
  | none => if ns.length = nnodes then none else some (min ns.length nnodes)

/-- Check the framing of the first unchecked graph of a list of fetched items. [DEDUCED, log 82] -/
def frameItems : List (Nat × Fetched) → Option (List (Nat × Fetched) × Option (Nat × List Byte))
  | [] => none
  | (n, .graph h nn id cm false raw ns) :: rest =>
    match badNode h nn ns with
    | none => some ((n, .graph h nn id cm true raw ns) :: rest, none)
    | some k => some ((n, .done) :: rest, some (k, raw))
  | it :: rest => (frameItems rest).map fun r => (it :: r.1, r.2)

/-- GRAPH_BEGIN: the graph that stands fetched in the ring is framed, or completes with INVALID as a whole. [DEDUCED, log 82] -/
def frameGraph (s : State) (ring : Nat) : State :=
  match frameItems (s.subRing ring).buf with
  | none => s
  | some (buf, none) => s.setSubRing ring fun r => { r with buf := buf }
  | some (buf, some (k, raw)) => releaseDone (rejectSingle (s.setSubRing ring fun r => { r with buf := buf }) ring raw (invalidAt k)) ring 16

def execGraphBegin (ring : Nat) (s : State) : Host.Outcome State Fault Refusal :=
  .next (if s.boot.fatal then s else frameGraph s ring)

/-! ### Doorbells -/

/-- May the requester write a partition's doorbell page (R342, R350)? -/
def mayDoorbell (s : State) (rq : Requester) (pt : Nat) : Bool :=
  decide (rq.src < 4) && (rq.secure || (rq.pt == pt && !(s.page (0x100 + pt)).secure))

/-- DEP_SQ_DB (R37, R345): the tail of an enabled ring. -/
def sqDoorbell (s : State) (rq : Requester) (pt ring tail : Nat) : State :=
  let page := 0x100 + pt
  let off := 0x1000 + 4 * ring
  let r := s.subRing (pt * 256 + ring)
  if s.boot.fatal then s
  else if ¬ mayDoorbell s rq pt then logErr s page 0x03 0 off 0 rq
  else if ¬ r.en ∨ r.size ≤ tail ∨ (s.part pt).state = .scrubbing then logErr s page 0x08 0 off 0 rq
  else s.setSubRing (pt * 256 + ring) fun r => { r with tail := tail }

/-- DEP_CQ_DB (R39, R345): the returned head of an enabled completion ring. -/
def cqDoorbell (s : State) (rq : Requester) (pt cq head : Nat) : State :=
  let page := 0x100 + pt
  let off := 0x2000 + 4 * cq
  let c := s.cplRing pt cq
  if s.boot.fatal then s
  else if ¬ mayDoorbell s rq pt then logErr s page 0x03 0 off 0 rq
  else if ¬ c.en ∨ 2 ^ c.sizeLog2 ≤ head ∨ (s.part pt).state = .scrubbing then logErr s page 0x08 0 off 0 rq
  else s.setCplRing pt cq fun c => { c with head := head }

def execDepSqDb (req : Requester) (pt ring : Nat) (val : Word) (s : State) : Host.Outcome State Fault Refusal :=
  .next (sqDoorbell s req pt ring (val.toNat % 65536))

def execDepCqDb (req : Requester) (pt cq : Nat) (val : Word) (s : State) : Host.Outcome State Fault Refusal :=
  .next (cqDoorbell s req pt cq (val.toNat % 65536))

/-! ### Ring registers (R36, R44) -/

/-- DEP_RING_SEL: ring number, partition, kind. -/
def ringSel (s : State) : Nat × Nat × Bool :=
  let v := s.reg pgDep 0x200
  (bits v 0 8, bits v 8 3, bit v 11)

/-- May the requester use the selected ring's registers (R44)? -/
def maySelect (rq : Requester) (pt : Nat) : Bool := decide (rq.src < 4) && (rq.secure || rq.pt == pt)

/-- DEP_RING_CFG of a submission ring. -/
def sqCfg (r : SubRing) : Nat :=
  b2n r.en + r.sizeLog2 * 2 + b2n r.ord * 2 ^ 6 + b2n r.mgr * 2 ^ 7 + r.port * 2 ^ 8 + r.cq * 2 ^ 10
/-- DEP_RING_CFG of a completion ring. -/
def cqCfg (c : CplRing) : Nat :=
  b2n c.en + c.sizeLog2 * 2 + b2n c.ord * 2 ^ 6 + b2n c.mgr * 2 ^ 7 + c.port * 2 ^ 8 + c.cqField * 2 ^ 10

/-- A completion ring is in use while an enabled submission ring posts to it. -/
def cqBound (s : State) (pt cq : Nat) : Bool :=
  s.dep.sq.any fun e => ringPt e.1 == pt && e.2.en && e.2.cq == cq

/-- The written MGR bit, which only the secure world may change; a refused change is logged with code 0x03 (R44). -/
def mgrOf (s : State) (rq : Requester) (old : Bool) (v : Nat) : Bool × State :=
  if bit v 7 = old ∨ rq.secure then (bit v 7, s) else (old, logErr s pgDep 0x03 0 0x20C 0 rq)

/-- DEP_RING_CFG of a submission ring (R36; every stored base is valid). Before stage 5 a written EN = 1 leaves EN at 0 (R576). While the
ring is enabled a write that changes a bound field is refused, the write that clears EN among them (log entry 30). [DEDUCED, log 30; DEDUCED, log 33; DEDUCED, log 35] -/
def writeSqCfg (s : State) (rq : Requester) (g v : Nat) : State :=
  let r := s.subRing g
  let size := bits v 1 5
  let port := bits v 8 2
  let cq := bits v 10 6
  let early := decide (s.boot.stage < 5) && bit v 0 && !r.en
  let en := bit v 0 && !early
  let bad := logErr s pgDep 0x05 0 0x20C 0 rq
  if size < 4 ∨ 16 < size then bad
  else if r.en ∧ (size ≠ r.sizeLog2 ∨ port ≠ r.port ∨ cq ≠ r.cq) then bad
  else if en ∧ ¬ r.en ∧ ¬ ((s.cplRing (ringPt g) cq).en ∧ (s.cplRing (ringPt g) cq).port = port) then bad
  else
    let s := if early then logErr s pgDep 0x06 0 0x20C 0 rq else s
    let m := mgrOf s rq r.mgr v
    m.2.setSubRing g fun r =>
      let r := { r with ord := bit v 6, mgr := m.1, sizeLog2 := size, port := port, cq := cq }
      if en ∧ ¬ r.en then
        if r.halted then { r with en := true, halted := false, next := r.head, buf := [], fetch := none }
        else { r with en := true }
      else { r with en := en }

/-- The buffer of a partition after an entry left it; leaving the full state counts CBUF_FULL_US (R508). -/
def setCbuf (s : State) (pt : Nat) (l : List CplEntry) : State :=
  let s := { s with dep := { s.dep with cbuf := lset s.dep.cbuf pt l } }
  match lget s.dep.cbufFull pt none with
  | some t =>
    if l.length < 256 then
      let s := count s pgDep 4 pt ((s.time - t) / 1000)
      { s with dep := { s.dep with cbufFull := lset s.dep.cbufFull pt none } }
    else s
  | none => s

/-- The waiting completions of a ring are discarded: they count as written (R408). -/
def dropCpls (s : State) (pt cq : Nat) : State :=
  if (lget s.dep.cbuf pt []).any (·.cq == cq) then setCbuf s pt ((lget s.dep.cbuf pt []).filter (·.cq != cq)) else s

/-- DEP_RING_CFG of a completion ring: every enable starts it afresh (R39); completions that came while it was halted count as written (R408). [DEDUCED, log 30; DEDUCED, log 35] -/
def writeCqCfg (s : State) (rq : Requester) (pt cq v : Nat) : State :=
  let c := s.cplRing pt cq
  let size := bits v 1 5
  let port := bits v 8 2
  let early := decide (s.boot.stage < 5) && bit v 0 && !c.en
  let en := bit v 0 && !early
  let bad := logErr s pgDep 0x05 0 0x20C 0 rq
  if size < 4 ∨ 16 < size then bad
  else if c.en ∧ (size ≠ c.sizeLog2 ∨ port ≠ c.port) then bad
  else if c.en ∧ ¬ bit v 0 ∧ cqBound s pt cq then bad
  else
    let s := if early then logErr s pgDep 0x06 0 0x20C 0 rq else s
    let m := mgrOf s rq c.mgr v
    (if c.halted && en then dropCpls m.2 pt cq else m.2).setCplRing pt cq fun c =>
      let c := { c with ord := bit v 6, mgr := m.1, sizeLog2 := size, port := port, cqField := bits v 10 6 }
      if en ∧ ¬ c.en then
        { c with en := true, halted := false, next := 0, phase := true, head := 0, unsignalled := 0 }
      else { c with en := en }

/-- A write of DEP_RING_CFG under the ring selector's rule: a selection that is not permitted, or names no ring, ignores it. -/
def ringCfgWrite (s : State) (rq : Requester) (v : Nat) : State :=
  let sel := ringSel s
  if ¬ maySelect rq sel.2.1 ∨ (sel.2.2 ∧ 64 ≤ sel.1) then s
  else if sel.2.2 then writeCqCfg s rq sel.2.1 sel.1 v
  else writeSqCfg s rq (sel.2.1 * 256 + sel.1) v

def execDepRingCfg (req : Requester) (val : Word) (s : State) : Host.Outcome State Fault Refusal :=
  .next (guarded s req pgDep 0x20C fun s => ringCfgWrite s req val.toNat)

/-! ### Completion rings -/

/-- The interrupt message of a completion ring (R42). -/
def sendCqIrq (s : State) (pt cq : Nat) : State :=
  let c := s.cplRing pt cq
  let s := hostIrq s c.port 1 pt false (bits c.coal.toNat 24 8)
  s.setCplRing pt cq fun c => { c with unsignalled := 0 }

/-- After an entry was written: the message when COAL_CNT entries stand unsignalled or the command asked with IRQ; COAL_CNT = 0
sends none (R42). [DEDUCED, log 31] -/
def coalesce (s : State) (pt cq : Nat) (irq : Bool) : State :=
  let s := s.setCplRing pt cq fun c =>
    { c with unsignalled := c.unsignalled + 1, firstAt := if c.unsignalled = 0 then s.time else c.firstAt }
  let c := s.cplRing pt cq
  let cnt := bits c.coal.toNat 0 8
  if cnt ≠ 0 ∧ (irq ∨ cnt ≤ c.unsignalled) then sendCqIrq s pt cq else s

/-- Has the completion ring a slot that software has returned? One slot stays unused. [DEDUCED, log 32] -/
def cqRoom (c : CplRing) : Bool := c.en && !c.halted && decide ((c.next + 1) % 2 ^ c.sizeLog2 ≠ c.head)

/-- Write 32 bytes into the next slot of a completion ring, through its host port (R39, R41). -/
def writeCq (s : State) (pt cq : Nat) (bs : List Byte) : State :=
  let c := s.cplRing pt cq
  let s := hostWrite s c.port 1 pt false (c.baseLo.toNat + c.baseHi.toNat * 2 ^ 32 + 32 * c.next) bs
  s.setCplRing pt cq fun c =>
    let n := (c.next + 1) % 2 ^ c.sizeLog2
    { c with next := n, phase := if n = 0 then !c.phase else c.phase }

/-- The first waiting completion of a ring, and the rest of the buffer. -/
def popCpl (cq : Nat) : List CplEntry → Option (CplEntry × List CplEntry)
  | [] => none
  | e :: l => if e.cq = cq then some (e, l) else (popCpl cq l).map fun r => (r.1, e :: r.2)

/-- COMPLETION_POST: the oldest waiting completion of a ring is written into a returned slot (R40). Those of a ring that halted with its host
port count as written (R408). -/
def postCompletion (s : State) (pt cq : Nat) : State :=
  let c := s.cplRing pt cq
  if c.halted then dropCpls s pt cq
  else if ¬ cqRoom c then s
  else
    match popCpl cq (lget s.dep.cbuf pt []) with
    | none => s
    | some (e, rest) =>
      let s := setCbuf s pt rest
      let s := writeCq s pt cq (e.bytes (s.subRing e.ring).head c.phase)
      coalesce s pt cq e.irq

def execCompletionPost (pt cq : Nat) (s : State) : Host.Outcome State Fault Refusal :=
  .next (if s.boot.fatal then s else postCompletion s pt cq)

/-- COAL_TIMER_EXPIRE: COAL_US after the first unsignalled entry (R42). -/
def coalTimer (s : State) (pt cq : Nat) : State :=
  let c := s.cplRing pt cq
  let us := bits c.coal.toNat 8 16
  if c.unsignalled = 0 ∨ us = 0 ∨ bits c.coal.toNat 0 8 = 0 then s
  else sendCqIrq (s.reach (c.firstAt + us * 1000)) pt cq

/-- [DEDUCED, log 8] -/
def execCoalTimerExpire (pt cq : Nat) (s : State) : Host.Outcome State Fault Refusal :=
  .next (if s.boot.fatal then s else coalTimer s pt cq)

/-! ### Ends of commands -/

/-- A unit ends a command: the outcome waits for NODE_COMPLETE. [DEDUCED, log 12] -/
def finish (s : State) (acc : Nat) (c : Comp) : State := s.setNode acc fun n =>
  if n.outcome.isSome then n else { n with outcome := some c }

end Sys2Proof.Machine
end

