-- ==== Sys2Proof/Machine/Fields.lean ====
section
/-!
DEFINITION. How a write reaches the fields of a register (R16, R17): the ranges that the register tables state, and the merge of a
written value with the fields that keep their previous value.
-/

namespace Sys2Proof.Machine

/-- A stated range of a field: block type, offset, lowest bit, least and greatest value, and the unit its value must be a multiple of. -/
structure FieldRange where
  type : Nat
  off : Nat
  lsb : Nat
  lo : Nat
  hi : Nat
  unit : Nat := 1
  deriving DecidableEq, Repr

/-- The ranges that the register tables of R44 to R564 state. -/
def fieldRanges : List FieldRange :=
  [⟨2, 0x204, 0, 0, 2, 1⟩, ⟨2, 0x20C, 0, 0, 28, 1⟩,
   ⟨3, 0x200, 0, 600, 1500, 1⟩, ⟨3, 0x200, 16, 10, 100, 1⟩, ⟨3, 0x210, 0, 0, 28, 1⟩,
   ⟨4, 0x224, 0, 0, 11, 1⟩, ⟨4, 0x228, 0, 0, 574111, 1⟩, ⟨4, 0x22C, 0, 0, 574111, 1⟩,
   ⟨5, 0x204, 0, 0, 2 ^ 32, 2 ^ 12⟩, ⟨5, 0x218, 0, 4096, 65536, 1⟩, ⟨5, 0x234, 0, 0, 2 ^ 32, 2 ^ 16⟩,
   ⟨6, 0x200, 0, 0, 2 ^ 32, 2 ^ 28⟩, ⟨6, 0x208, 0, 0, 2 ^ 32, 2 ^ 27⟩, ⟨6, 0x210, 0, 0, 2 ^ 32, 2 ^ 22⟩] ++
  [⟨6, 0x22C, 16, 0, 128, 1⟩,
   ⟨7, 0x208, 1, 16, 26, 1⟩, ⟨7, 0x210, 0, 0, 262144, 1⟩, ⟨7, 0x218, 0, 0, 8, 1⟩, ⟨7, 0x218, 4, 1, 255, 1⟩,
   ⟨7, 0x244, 1, 2, 15, 1⟩,
   ⟨8, 0x200, 0, 0, 11, 1⟩, ⟨8, 0x220, 0, 0, 2 ^ 32, 2 ^ 16⟩,
   ⟨9, 0x200, 2, 24, 31, 1⟩, ⟨9, 0x204, 0, 1, 65535, 1⟩, ⟨9, 0x208, 0, 0, 2 ^ 32, 2 ^ 21⟩,
   ⟨10, 0x20C, 0, 1, 65535, 1⟩, ⟨10, 0x234, 16, 1, 65535, 1⟩] ++
  [⟨11, 0x214, 0, 0, 2 ^ 32, 2 ^ 19⟩, ⟨11, 0x22C, 0, 1, 65535, 1⟩, ⟨11, 0x22C, 16, 1, 255, 1⟩, ⟨11, 0x22C, 24, 1, 7, 1⟩,
   ⟨11, 0x230, 0, 0, 2 ^ 32, 2 ^ 22⟩, ⟨11, 0x264, 17, 1, 255, 1⟩,
   ⟨12, 0x204, 12, 1, 16, 1⟩, ⟨12, 0x208, 0, 0, 2 ^ 32, 32⟩, ⟨12, 0x220, 8, 1, 255, 1⟩,
   ⟨13, 0x204, 0, 0, 2 ^ 32, 2 ^ 12⟩, ⟨13, 0x208, 8, 1, 65535, 1⟩, ⟨13, 0x218, 0, 0, 2 ^ 32, 2 ^ 12⟩, ⟨13, 0x21C, 8, 1, 65535, 1⟩] ++
  [⟨15, 0x200, 3, 16, 24, 1⟩, ⟨15, 0x200, 10, 2, 65535, 1⟩, ⟨15, 0x204, 0, 0, 2 ^ 32, 2 ^ 16⟩, ⟨15, 0x224, 4, 0, 24, 1⟩,
   ⟨16, 0x204, 0, 1, 255, 1⟩, ⟨16, 0x208, 0, 0, 2 ^ 32, 2 ^ 20⟩,
   ⟨17, 0x200, 1, 0, 2, 1⟩, ⟨17, 0x200, 8, 1, 255, 1⟩, ⟨17, 0x200, 16, 0, 14, 1⟩, ⟨17, 0x228, 0, 0, 4, 1⟩,
   ⟨17, 0x230, 0, 1, 65535, 1⟩,
   ⟨19, 0x600, 0, 0, 224, 1⟩]

/-- Does a field's value keep the range stated for it? -/
def rangeOk (type off lsb v : Nat) : Bool :=
  fieldRanges.all fun r => !(r.type == type && r.off == off && r.lsb == lsb) || decide (r.lo ≤ v ∧ v ≤ r.hi ∧ v % r.unit = 0)

/-- The events a programmable counter may count (R510). -/
def pmcEventOk (v : Nat) : Bool := decide ((16 ≤ v ∧ v ≤ 25) ∨ (0x40 ≤ v ∧ v ≤ 0x43))

/-- The high words of base registers that name an HBM address, by block type and offset: their bits 7:4 name the stack. -/
def hbmBaseHigh : List (Nat × Nat) :=
  [(5, 0x238), (6, 0x204), (6, 0x20C), (6, 0x214), (7, 0x204), (9, 0x20C), (11, 0x218), (11, 0x234), (13, 0x208), (16, 0x20C)]

/-- Does a base register's high field name an excluded stack (R575)? -/
def namesExcluded (s : State) (type off lsb v : Nat) : Bool :=
  lsb == 0 && hbmBaseHigh.contains (type, off) && (s.hb (v % 256 / 16)).excluded

/-- WARN and CRIT of PWR_THERM (R564, R565): each in its range, WARN below the CRIT that the write leaves. -/
def thermOk (old w lsb v : Nat) : Bool :=
  let inCrit := fun (c lo hi : Nat) => decide (lo ≤ c ∧ c ≤ hi)
  let crit := if inCrit (bits w 8 8) 0 110 then bits w 8 8 else bits old 8 8
  let hcrit := if inCrit (bits w 24 8) 0 100 then bits w 24 8 else bits old 24 8
  let warn := if inCrit (bits w 0 8) 70 100 ∧ bits w 0 8 < crit then bits w 0 8 else bits old 0 8
  let hwarn := if inCrit (bits w 16 8) 60 90 ∧ bits w 16 8 < hcrit then bits w 16 8 else bits old 16 8
  match lsb with
  | 0 => v == warn
  | 8 => decide (v ≤ 110 ∧ warn < v)
  | 16 => v == hwarn
  | _ => decide (v ≤ 100 ∧ hwarn < v)

/-- DMA_CH_CFG (R369, R378): SECURE is 1 for DC0 to DC7, whose REQ is ignored; a request line is 0 to 3 or 16 to 31. -/
def dmaCfgOk (ch lsb v : Nat) : Bool :=
  match lsb with
  | 3 => decide (8 ≤ ch ∨ v = 1)
  | 6 => decide (v < 4 ∨ (16 ≤ v ∧ v < 32))
  | _ => true

/-- Do the recorder's modes record whole frames of a fabric port (R518)? -/
def fullFabric (v : Nat) : Bool := (List.range 8).any fun x => bits v (2 * (4 + x)) 2 == 2

/-- REC_CONTENT and REC_CFG.WHERE: mode 3 is reserved, and mode 2 on a fabric port together with WHERE = 1 (R518). -/
def recModesOk (s : State) (v : Nat) : Bool :=
  ((List.range 12).all fun p => bits v (2 * p) 2 != 3) && !(bit (s.reg pgRec 0x200) 1 && fullFabric v)

/-- The stack of the selected region-table entry. -/
def rgnStack (s : State) : Nat := bits (s.reg pgSec 0x224 (bits (s.reg pgSec 0x220) 0 4)) 0 4

/-- Is a written field's value allowed? `old` and `w`: the register before, and the whole written value. -/
def fieldOk (s : State) (page off lsb old w v : Nat) : Bool :=
  let type := pageType page
  if type = 3 ∧ off = 0x228 then thermOk old w lsb v
  else if type = 19 ∧ 0x610 ≤ off ∧ off < 0x630 then (if lsb = 0 then pmcEventOk v else if lsb = 10 then decide (v ≤ 47) else true)
  else if type = 15 ∧ off = 0x210 then recModesOk s v
  else if type = 15 ∧ off = 0x200 ∧ lsb = 1 then !(v == 1 && fullFabric (s.reg pgRec 0x210))
  else if type = 13 ∧ off = 0x200 then decide (v = 0 ∨ 10 ≤ v)
  else if type = 12 ∧ off = 0x204 ∧ (lsb = 3 ∨ lsb = 6) then dmaCfgOk (bits (s.reg pgDma 0x200) 0 6) lsb v
  else if type = 4 ∧ off = 0x224 ∧ lsb = 0 then rangeOk type off lsb v && !(s.hb v).excluded
  else if type = 4 ∧ off = 0x228 then rangeOk type off lsb v && !(s.hb (rgnStack s)).excluded
  else if type = 4 ∧ off = 0x22C then rangeOk type off lsb v && !(s.hb (rgnStack s)).excluded && decide (s.reg pgSec 0x228 (bits (s.reg pgSec 0x220) 0 4) ≤ v)
  else rangeOk type off lsb v && !namesExcluded s type off lsb v

/-- R16 and R17: the value that a write of w leaves in a register's RW fields, and the lowest bits of the fields it could not change. [DEDUCED, log 91] -/
def mergeWrite (s : State) (page off old w : Nat) (r : RegDef) : Nat × List Nat :=
  (r.fields.filter fun f => f.acc == .rw).foldl (fun (acc : Nat × List Nat) f =>
    let v := bits w f.lsb f.width
    if fieldOk s page off f.lsb old w v then (setBits acc.1 f.lsb f.width v, acc.2)
    else (acc.1, acc.2 ++ [f.lsb])) (old, [])

/-- Log every rejected field with code 0x02; the errors of one write make one trigger (R352). [DEDUCED, log 91] -/
def logFields (s : State) (rq : Requester) (page off : Nat) (lsbs : List Nat) : State :=
  let t := lsbs.foldl (fun s lsb => logPost s page 0x02 lsb off 0 rq) s
  if lsbs.isEmpty then t else errTrigger t 5

/-- Write a stored register's RW fields. -/
def storeFields (s : State) (rq : Requester) (page off bank w : Nat) : State :=
  match findReg (pageType page) off with
  | none => s
  | some r =>
    let m := mergeWrite s page off (s.reg page off bank) w r
    logFields (s.setReg page off bank m.1) rq page off m.2

/-- Write a stored register as `storeFields` does, unless a condition on the value it would leave refuses the write with code 0x06. -/
def storeIf (s : State) (rq : Requester) (page off bank w : Nat) (ok : Nat → Bool) : State :=
  match findReg (pageType page) off with
  | none => s
  | some r =>
    let m := mergeWrite s page off (s.reg page off bank) w r
    if ok m.1 then logFields (s.setReg page off bank m.1) rq page off m.2 else logErr s page 0x06 0 off 0 rq

end Sys2Proof.Machine
end

