-- ==== Sys2Proof/Machine/Power.lean ====
section
/-!
DEFINITION. The power manager and the clocks: tile ceilings (R477, R550 to R554, R537), clock steps (R357, R358), rail and package
samples (R548, R549), throttle stages (R550), thermal levels (R554, R555), and the reference clock (R557).
-/

namespace Sys2Proof.Machine

/-! ### The mesh of a field (R25) -/

/-- The tiles next to a tile in its field's mesh of three rows and four columns. -/
def neighbours (t : Nat) : List Nat :=
  let r := t % 12 / 4
  let c := t % 4
  (if 0 < r then [t - 4] else []) ++ (if r < 2 then [t + 4] else []) ++ (if 0 < c then [t - 1] else [])
    ++ (if c < 3 then [t + 1] else [])

/-! ### Ceilings -/

/-- The strict partition that holds a tile under a map. -/
def strictOn (m : PtMap) (t : Nat) : Option Nat :=
  (List.range 8).find? fun p => let e := lget m.pts p {}; e.valid && e.strict && bit e.tiles t

/-- PWR_PT_CEIL of a partition. -/
def ptCeil (s : State) (pt : Nat) : Nat := bits (s.reg pgPwr 0x210 pt) 0 5

/-- The lowest step whose clock is at least 0.8 times that of step c (R477). -/
def floorStep (c : Nat) : Nat := ceilDiv (4 * (8 + c)) 5 - 8

/-- The floor of a tile that is not strict (R477): from the ceilings of strict tiles next to it. -/
def tileFloor (m : PtMap) (ceil : Nat → Nat) (t : Nat) : Nat :=
  (neighbours t).foldl (fun v n =>
    match strictOn m n with
    | some p => max v (floorStep (ceil p))
    | none => v) 0

/-- The shared ceiling as it stands: stage 1 of R550 and PROCHOT_N (R552). -/
def sharedCeil (s : State) : Nat :=
  let p := s.reg pgPwr 0x214
  if s.pwr.prochot ∧ bit p 5 then min s.pwr.ceil (bits p 0 5) else s.pwr.ceil

/-- The LIMIT of a tile: a strict partition's fixed ceiling; otherwise the shared ceiling, lowered by level 2 (R554) and by R537, but
never below the floor. At step 0 since level 3. -/
def tileLimit (s : State) (t : Nat) : Nat :=
  if s.pwr.heldCold then 0
  else
    match strictOn s.appliedMap t with
    | some p => ptCeil s p
    | none => max (tileFloor s.appliedMap (ptCeil s) t)
        (sharedCeil s - lget s.pwr.thermDrop t 0 - (s.tile t).diffHold)

/-- The power manager sets every tile's LIMIT. [DEDUCED, log 25] -/
def setLimits (s : State) : State :=
  (List.range 48).foldl (fun s t => let l := tileLimit s t; s.setTile t fun u => { u with limit := l }) s

/-! ### Clock steps (R358) -/

/-- A tile's clock in units of 25 MHz. -/
def stepClock (k : Nat) : Nat := 8 + k
/-- The highest step whose clock is at most 1.25 times that of step k. -/
def aboveStep (k : Nat) : Nat := stepClock k * 5 / 4 - 8
/-- May two neighbours run at these steps? -/
def stepsFit (a b : Nat) : Bool := decide (4 * stepClock a ≤ 5 * stepClock b ∧ 4 * stepClock b ≤ 5 * stepClock a)

/-- REQ of a tile. -/
def tileReq (s : State) (t : Nat) : Nat := bits (s.reg pgClk 0x20C t) 0 5

/-- One round of the neighbour bound over the ceilings of all tiles. -/
def boundRound (l : List Nat) : List Nat :=
  (List.range l.length).map fun t => (neighbours t).foldl (fun v n => min v (aboveStep (lget l n 28))) (lget l t 0)

/-- The highest steps that all tiles can hold together under REQ, LIMIT and the neighbour bound. -/
def stepGoals (s : State) : List Nat :=
  (List.range 6).foldl (fun l _ => boundRound l) ((List.range 48).map fun t => min (tileReq s t) (s.tile t).limit)

/-- The step a tile moves to: the highest one at or below its goal that fits its neighbours' present clocks; where none does, the
lowest one above the goal that does. -/
def nextStep (s : State) (t : Nat) : Nat :=
  let goal := lget (stepGoals s) t 0
  let fits := fun (k : Nat) => (neighbours t).all fun n => stepsFit k (s.tile n).step
  match ((List.range (goal + 1)).reverse).find? fits with
  | some k => k
  | none => (((List.range 29).filter fun k => goal < k).find? fits).getD (s.tile t).step

/-- TILE_STEP_CHANGE. A pinned tile keeps its replay step. -/
def changeStep (s : State) (t : Nat) : State :=
  if (s.tile t).pinned then s
  else
    let k := nextStep s t
    s.setTile t fun u => { u with step := k, nbr := decide (k < min (tileReq s t) u.limit) }

def execTileStepChange (tile : Nat) (s : State) : Host.Outcome State Fault Refusal :=
  .next (if s.boot.fatal then s else changeStep s tile)

/-- CLK_TILE_REQ of the selected tile. -/
def execClkTileReq (req : Requester) (val : Word) (s : State) : Host.Outcome State Fault Refusal :=
  .next (secureOnly s req pgClk 0x20C fun s => storeFields s req pgClk 0x20C (bits (s.reg pgClk 0x208) 0 6) val.toNat)

/-- CLK_TILE_ALL writes STEP into every tile's CLK_TILE_REQ; a STEP above 28 is logged and writes none. -/
def tileAll (s : State) (rq : Requester) (v : Nat) : State :=
  if 28 < bits v 0 5 then logErr s pgClk 0x02 0 0x214 0 rq
  else (List.range 48).foldl (fun s t => s.setReg pgClk 0x20C t (bits v 0 5)) s

def execClkTileAll (req : Requester) (val : Word) (s : State) : Host.Outcome State Fault Refusal :=
  .next (secureOnly s req pgClk 0x214 fun s => tileAll s req val.toNat)

/-- CLK_SSC: the spread in effect follows within 100 µs and loses nothing; the model applies it at the write. [DEDUCED, log 29] -/
def writeSsc (s : State) (rq : Requester) (v : Nat) : State :=
  let s := storeFields s rq pgClk 0x204 0 v
  { s with clk := { s.clk with ssc := s.reg pgClk 0x204 % 4 } }

def execClkSsc (req : Requester) (val : Word) (s : State) : Host.Outcome State Fault Refusal :=
  .next (secureOnly s req pgClk 0x204 fun s => writeSsc s req val.toNat)

/-! ### The sum of the ceilings (R551) -/

/-- P(s) in units of 14.6 W / (32 × 772²). -/
def stepPower (k : Nat) : Nat := stepClock k * (580 + 8 * k) ^ 2

/-- Does the sum of R551 hold under a map, ceilings and a limit in W? [DEDUCED, log 23] -/
def powerFits (m : PtMap) (ceil : Nat → Nat) (limit : Nat) : Bool :=
  let p := ((List.range 48).map fun t =>
    match strictOn m t with
    | some q => stepPower (ceil q)
    | none => stepPower (tileFloor m ceil t)).sum
  let unit := 320 * 772 ^ 2
  decide (146 * p + 750 * unit ≤ limit * unit)

/-- Has a map a strict entry? [DEDUCED, log 23] -/
def hasStrict (m : PtMap) : Bool := m.pts.any fun e => e.valid && e.strict

/-- PWR_LIMIT. [DEDUCED, log 23] -/
def writeLimit (s : State) (rq : Requester) (v : Nat) : State :=
  storeIf s rq pgPwr 0x200 0 v fun v => !hasStrict s.appliedMap || powerFits s.appliedMap (ptCeil s) (bits v 0 11)
/-- PWR_PT_CEIL of the selected partition. [DEDUCED, log 23] -/
def writePtCeil (s : State) (rq : Requester) (v : Nat) : State :=
  let pt := bits (s.reg pgPwr 0x20C) 0 3
  storeIf s rq pgPwr 0x210 pt v fun v =>
    !hasStrict s.appliedMap
      || powerFits s.appliedMap (fun p => if p = pt then bits v 0 5 else ptCeil s p) (bits (s.reg pgPwr 0x200) 0 11)

def execPwrLimit (req : Requester) (val : Word) (s : State) : Host.Outcome State Fault Refusal :=
  .next (secureOnly s req pgPwr 0x200 fun s => writeLimit s req val.toNat)

def execPwrPtCeil (req : Requester) (val : Word) (s : State) : Host.Outcome State Fault Refusal :=
  .next (secureOnly s req pgPwr 0x210 fun s => writePtCeil s req val.toNat)

/-! ### Samples of rails and package (R548, R549, R566) -/

/-- The nominal voltage of each rail in mV, in the order of R544 (R545). -/
def railNominal : List Nat := [880, 880, 880, 880, 850, 1100, 750, 750, 750, 1800]

/-- The average of a list, rounded down; 0 of none. -/
def avg (l : List Nat) : Nat := l.sum / l.length
/-- The fast average over 10 µs and the slow one over 1 ms, in W. -/
def fastAvg (s : State) : Nat := avg s.pwr.fast
def slowAvg (s : State) : Nat := avg s.pwr.slow

/-- Counters of R566 for one µs. -/
def powerCounts (s : State) (watts : Nat) : State :=
  let s := if 1 ≤ s.pwr.stage then count s pgPwr 0 15 else s
  let s := if 2 ≤ s.pwr.stage then count s pgPwr 1 15 else s
  let s := if 2 ≤ s.pwr.level then count s pgPwr 2 15 else s
  let s := if s.pwr.prochot ∧ bit (s.reg pgPwr 0x214) 5 then count s pgPwr 4 15 else s
  let e := s.pwr.energyUj + watts
  let s := if 1000 ≤ e then count s pgPwr 3 15 (e / 1000) else s
  { s with pwr := { s.pwr with energyUj := e % 1000 } }

/-- Take one sample: voltages, currents, sticky bits, runs out of tolerance, and the averages. [DEDUCED, log 29] -/
def takeSample (p : Pwr) (x : RailSample) : Pwr :=
  let mv := (List.range 10).map fun i => (lget x.mv i 0, lget railNominal i 0)
  { p with
    railMv := mv.map (·.1)
    railAmps := (List.range 10).map fun i => lget x.amps i 0
    uv := List.zipWith (fun b m => b || decide (100 * m.1 < 95 * m.2)) p.uv mv
    ov := List.zipWith (fun b m => b || decide (105 * m.2 < 100 * m.1)) p.ov mv
    low := List.zipWith (fun n m => if 100 * m.1 < 90 * m.2 then n + 1 else 0) p.low mv
    high := List.zipWith (fun n m => if 110 * m.2 < 100 * m.1 then n + 1 else 0) p.high mv
    fast := (x.watts :: p.fast).take 10
    slow := (x.watts :: p.slow).take 1000 }

/-- POWER_SAMPLE. A rail out of 90 to 110 % of nominal for 5 samples of 1 µs is device-fatal. [DEDUCED, log 29] -/
def powerSample (s : State) (x : RailSample) : State :=
  let s := powerCounts { s with pwr := takeSample s.pwr x } x.watts
  if s.pwr.low.any (fun n => decide (5 ≤ n)) then fatal s 1 0
  else if s.pwr.high.any (fun n => decide (5 ≤ n)) then fatal s 2 0
  else s

def execPowerSample (sample : RailSample) (s : State) : Host.Outcome State Fault Refusal :=
  .next (if s.boot.fatal ∨ ¬ s.boot.pwrOk then s else powerSample s sample)

/-! ### Throttling (R550) -/

/-- Is stage 1 exhausted, or skipped while a replay pins the clocks (R529 note 10)? [DEDUCED, log 29] -/
def stage1Done (s : State) : Bool :=
  s.tiles.any (·.pinned) || (List.range 48).all fun t =>
    (strictOn s.appliedMap t).isSome || decide (sharedCeil s ≤ tileFloor s.appliedMap (ptCeil s) t)

/-- The deepest stage in force. -/
def stageOfPwr (p : Pwr) : Nat := if p.reedHold then 3 else if 0 < p.hold then 2 else if p.ceil < 28 then 1 else 0

/-- One action while over LIMIT − GUARD. -/
def throttle (s : State) : Pwr :=
  if ¬ stage1Done s then { s.pwr with ceil := s.pwr.ceil - 1 }
  else if s.pwr.hold < 12 then { s.pwr with hold := s.pwr.hold + 1 }
  else { s.pwr with reedHold := true }

/-- One action of recovery, in the opposite order. -/
def recover (p : Pwr) : Pwr :=
  if p.reedHold then { p with reedHold := false }
  else if 0 < p.hold then { p with hold := p.hold - 1 }
  else { p with ceil := min 28 (p.ceil + 1) }

/-- POWER_EVAL: one action over LIMIT − GUARD; one per 100 µs below LIMIT − 2 × GUARD. Written ceilings take effect here (R564). [DEDUCED, log 29] -/
def powerEval (s : State) : State :=
  let lim := bits (s.reg pgPwr 0x200) 0 11
  let guard := bits (s.reg pgPwr 0x200) 16 7
  let w := fastAvg s
  let p := if lim - guard < w then throttle s
    else if w < lim - 2 * guard ∧ s.pwr.recoverAt ≤ s.time then { recover s.pwr with recoverAt := s.time + 100000 }
    else s.pwr
  setLimits { s with pwr := { p with stage := stageOfPwr p } }

def execPowerEval (s : State) : Host.Outcome State Fault Refusal :=
  .next (if s.boot.fatal then s else powerEval s)

/-- PROCHOT_N (R552): the pin, and the LIMITs that follow it. -/
def execProchotN (low : Bool) (s : State) : Host.Outcome State Fault Refusal :=
  .next (
    let s := { s with pwr := { s.pwr with prochot := low } }
    if s.boot.fatal then s else setLimits s)

/-! ### Temperatures (R553 to R555, R537) -/

/-- Is a sensor one of a stack? -/
def stackSensor (i : Nat) : Bool := decide (48 ≤ i ∧ i < 60)

/-- WARN and CRIT of a sensor in 0.25 °C. -/
def sensorWarn (s : State) (i : Nat) : Nat := 4 * bits (s.reg pgPwr 0x228) (if stackSensor i then 16 else 0) 8
def sensorCrit (s : State) (i : Nat) : Nat := 4 * bits (s.reg pgPwr 0x228) (if stackSensor i then 24 else 8) 8

/-- The level the present readings give (R554). -/
def readLevel (s : State) : Nat :=
  let any := fun (f : Nat → Nat) => (List.range 64).any fun i => decide (f i ≤ lget s.pwr.temps i 0)
  if any (sensorCrit s) then 3
  else if any (sensorWarn s) then 2
  else if any (fun i => sensorWarn s i - 40) then 1
  else 0

/-- The level changes: level 3 holds every tile at step 0 until the level falls to 1; below level 2 the reductions of level 2 end. -/
def setLevel (s : State) (l : Nat) : State :=
  setLimits { s with pwr := { s.pwr with
    level := l, lowSince := none,
    heldCold := decide (l = 3) || (s.pwr.heldCold && decide (2 ≤ l)),
    thermDrop := if l < 2 then List.replicate 48 0 else s.pwr.thermDrop } }

/-- The difference of two tiles' readings in 0.25 °C. -/
def tileDiff (s : State) (a b : Nat) : Nat := max (lget s.pwr.temps a 0) (lget s.pwr.temps b 0)
  - min (lget s.pwr.temps a 0) (lget s.pwr.temps b 0)

/-- The reductions of R537 end at tiles that differ by at most 25 °C from every neighbour. [DEDUCED, log 25] -/
def endDiffHolds (s : State) : State :=
  (List.range 48).foldl (fun s t =>
    if (neighbours t).all fun n => decide (tileDiff s t n ≤ 100) then s.setTile t fun u => { u with diffHold := 0 } else s) s

/-- Is a sensor at the trip temperature (R555)? [DEDUCED, log 25] -/
def tripped (s : State) : Bool :=
  (List.range 64).any fun i => decide ((if stackSensor i then 420 else 460) ≤ lget s.pwr.temps i 0)

/-- THERMAL_SAMPLE: a higher level holds at once; a lower condition starts its 10 ms, again whenever a reading rises the level. [DEDUCED, log 29] -/
def thermalSample (s : State) (qdeg : List Nat) : State :=
  let before := readLevel s
  let s := { s with pwr := { s.pwr with temps := (List.range 64).map fun i => lget qdeg i 0 % 1024 } }
  if tripped s then fatal { s with pwr := { s.pwr with thermtrip := true } } 3 0
  else
    let l := readLevel s
    let s := endDiffHolds s
    if s.pwr.level ≤ l then setLevel s l
    else setLimits { s with pwr := { s.pwr with
      lowSince := if s.pwr.lowSince.isSome ∧ l ≤ before then s.pwr.lowSince else some s.time } }

def execThermalSample (qdeg : List Nat) (s : State) : Host.Outcome State Fault Refusal :=
  .next (if s.boot.fatal then s else thermalSample s qdeg)

/-- THERMAL_LEVEL_FALL: 10 ms after the lower condition began. [DEDUCED, log 25] -/
def levelFall (s : State) : State :=
  match s.pwr.lowSince with
  | some t => let s := s.reach (t + 10000000); setLevel s (min s.pwr.level (readLevel s))
  | none => s

def execThermalLevelFall (s : State) : Host.Outcome State Fault Refusal :=
  .next (if s.boot.fatal then s else levelFall s)

/-- THERMAL_LIMIT_STEP: at level 2 the LIMIT of each tile that is not strict and is at or above WARN falls one step. [DEDUCED, log 25] -/
def limitStep (s : State) : State :=
  if s.pwr.level < 2 then s
  else
    let drop := (List.range 48).map fun t =>
      let d := lget s.pwr.thermDrop t 0
      if (strictOn s.appliedMap t).isNone ∧ sensorWarn s t ≤ lget s.pwr.temps t 0 then min 28 (d + 1) else d
    setLimits { s with pwr := { s.pwr with thermDrop := drop } }

def execThermalLimitStep (s : State) : Host.Outcome State Fault Refusal :=
  .next (if s.boot.fatal then s else limitStep s)

/-- THERMAL_DIFF_THROTTLE: once two neighbours differ by more than 30 °C, and until they differ by at most 25 °C, the hotter one's
LIMIT falls one step. A strict tile is not lowered (R495). [DEDUCED, log 25] -/
def diffThrottle (s : State) (a b : Nat) : State :=
  let hot := if lget s.pwr.temps a 0 < lget s.pwr.temps b 0 then b else a
  let d := tileDiff s a b
  if ¬ (neighbours a).contains b ∨ (strictOn s.appliedMap hot).isSome then s
  else if 120 < d ∨ (100 < d ∧ 0 < (s.tile hot).diffHold) then
    setLimits (s.setTile hot fun u => { u with diffHold := min 28 (u.diffHold + 1) })
  else s

def execThermalDiffThrottle (tile nbr : Nat) (s : State) : Host.Outcome State Fault Refusal :=
  .next (if s.boot.fatal then s else diffThrottle s tile nbr)

/-- THERM_LEVEL_SAMPLE: at each multiple of 10 ms SEC_PT_THERM takes the level (R495). [DEDUCED, log 25] -/
def levelSample (s : State) : State :=
  let s := s.reach (roundUp s.time 10000000)
  { s with sec := { s.sec with pts := s.sec.pts.map fun p => { p with therm := s.pwr.level } } }

def execThermLevelSample (s : State) : Host.Outcome State Fault Refusal :=
  .next (if s.boot.fatal then s else levelSample s)

/-! ### Outputs -/

/-- ALERT_N is low: level 3, or stage 2 or 3 (R560). -/
def alertLow (s : State) : Bool := s.pwr.level == 3 || decide (2 ≤ s.pwr.stage)

/-- PWR_STAT (R564). -/
def pwrStat (s : State) : Nat :=
  fastAvg s % 2048 + slowAvg s % 2048 * 2 ^ 11 + sharedCeil s * 2 ^ 22 + s.pwr.stage * 2 ^ 27 + b2n s.pwr.prochot * 2 ^ 29
    + s.pwr.level * 2 ^ 30

/-- PWR_RAIL_STAT of a rail. -/
def railStat (s : State) (r : Nat) : Nat :=
  lget s.pwr.railMv r 0 % 4096 + lget s.pwr.railAmps r 0 % 1024 * 2 ^ 12 + b2n (lget s.pwr.uv r false) * 2 ^ 22
    + b2n (lget s.pwr.ov r false) * 2 ^ 23

/-- CLK_TILE_CUR of a tile. -/
def tileCur (s : State) (t : Nat) : Nat :=
  let u := s.tile t
  u.step + u.limit * 2 ^ 8 + b2n u.nbr * 2 ^ 16 + b2n u.pinned * 2 ^ 17

/-! ### The reference clock -/

/-- REFCLK_LOSS: REF_OK low for 10 µs is device-fatal (R557). -/
def execRefclkLoss (s : State) : Host.Outcome State Fault Refusal :=
  .next (if s.boot.fatal then s else fatal { s with clk := { s.clk with refOk := false } } 4 0)

end Sys2Proof.Machine
end

