-- ==== Sys2Proof/Machine/Approx.lean ====
section
/-!
DEFINITION. The functions that the spec bounds in units of the last place (R98, R193, R242): the true value is
computed in fixed point with 320 fractional bits, and the configuration's open choice picks one of the values within the bound.
-/

namespace Sys2Proof.Machine

/-- Fixed-point numbers below have 320 fractional bits: an integer n stands for n / 2^320. -/
def fxOne : Int := 2 ^ 320
/-- ln 2 and 2 / √π in fixed point, and π with 640 fractional bits. -/
def fxLn2 : Int := 0xb17217f7d1cf79abc9e3b39803f2f6af40f343267298b62d8a0d175b8baafa2be7b876206debac98
def fxTwoRootPi : Int := 0x120dd750429b6d11ae3a914fed7fd8688281341d7587cea2e7342b06199cc416180eb39f0b24e1e23
def piBits : Nat := 0x3243f6a8885a308d313198a2e03707344a4093822299f31d0082efa98ec4e6c89452821e638d01377be5466cf34e90c6cc0ac29b7c97c50dd3f84d5b5b54709179216d5d98979fb1bd1310ba698dfb5ac

def fxMul (a b : Int) : Int := a * b / 2 ^ 320
def fxDiv (a b : Int) : Int := if b = 0 then 0 else a * 2 ^ 320 / b

/-- An exact finite value in fixed point, rounded down. -/
def fxOf : Val → Int
  | .fin n m e =>
    let v : Int := if 0 ≤ e + 320 then m * 2 ^ (e + 320).toNat else m / 2 ^ (-(e + 320)).toNat
    if n then -v else v
  | _ => 0

/-- A fixed-point number times 2^k as a value; the last bit is sticky. -/
def fxVal (x : Int) (k : Int) : Val := .fin (decide (x < 0)) (2 * x.natAbs + 1) (k - 321)

/-- The sum of a series: the next term from the index and the term, the number of terms. -/
def fxSeries (next : Nat → Int → Int) : Nat → Nat → Int → Int → Int
  | 0, _, _, acc => acc
  | n + 1, i, t, acc => fxSeries next n (i + 1) (next i t) (acc + t)

/-- e^r for r from 0 to ln 2, by its power series. -/
def fxExpSmall (r : Int) : Int := fxSeries (fun i t => fxMul t r / (i + 1)) 80 0 fxOne 0

/-- e^x as a mantissa and a power of two. -/
def fxExp (x : Int) : Int × Int :=
  let k := x / fxLn2
  (fxExpSmall (x - k * fxLn2), k)

/-- ln m for m from 1 to 2, as twice the inverse hyperbolic tangent of (m − 1) / (m + 1). -/
def fxLnSmall (m : Int) : Int :=
  let z := fxDiv (m - fxOne) (m + fxOne)
  let z2 := fxMul z z
  2 * ((List.range 110).foldl (fun (a : Int × Int) (i : Nat) => (a.1 + a.2 / (2 * i + 1), fxMul a.2 z2)) (0, z)).1

/-- ln of a positive value. -/
def fxLn (v : Val) : Int :=
  match v with
  | .fin _ m e =>
    let l := Nat.log2 m
    fxLnSmall (fxOf (.fin false m (-(l : Int)))) + (e + l) * fxLn2
  | _ => 0

/-- cos and sin of an angle from 0 to 2π. -/
def fxCosSin (r : Int) : Int × Int :=
  let r2 := fxMul r r
  (fxSeries (fun i t => -(fxMul t r2) / ((2 * i + 1) * (2 * i + 2))) 90 0 fxOne 0,
   fxSeries (fun i t => -(fxMul t r2) / ((2 * i + 2) * (2 * i + 3))) 90 0 r 0)

/-- An exact non-negative angle reduced modulo 2π. -/
def fxReduce (v : Val) : Int :=
  match v with
  | .fin _ m e =>
    let a := if 0 ≤ e + 640 then m * 2 ^ (e + 640).toNat else m / 2 ^ (-(e + 640)).toNat
    ((a % (2 * piBits) / 2 ^ 320 : Nat) : Int)
  | _ => 0

/-! ### Rounding with the open choice -/

/-- The FP32 magnitudes within `bound` units of the last place of a magnitude, in rising order; `c` is that magnitude rounded. The unit is the step
between the two FP32 values around it. [DESIGN CHOICE, log 5] -/
def ulpNear (bound c : Nat) (a : Val) : List Nat :=
  let lo := if a.lt (v32 c) then c - 1 else c
  let tol := ((v32 (lo + 1)).add (v32 lo).flip).mul (.fin false bound 0)
  ([lo - 3, lo - 2, lo - 1, lo, lo + 1, lo + 2].filter fun m =>
    decide (m ≤ 0x7F7FFFFF) && !(a.add tol).lt (v32 m) && !((v32 m).add tol).lt a).eraseDups

/-- An FP32 value within `bound` units of the last place of a true value: the open choice of function f on argument key. [DESIGN CHOICE, log 5] -/
def ulpPick (f key bound : Nat) (v : Val) : Nat :=
  let c := rn32 v
  let l := ulpNear bound (c % 2 ^ 31) v.abs
  c / 2 ^ 31 * 2 ^ 31 + lget l (Config.ulpChoice f key % max 1 l.length) (c % 2 ^ 31)

/-- At most 1 in magnitude. -/
def capOne (c : Nat) : Nat := c / 2 ^ 31 * 2 ^ 31 + min (c % 2 ^ 31) f32One

/-- A key of an exact value. -/
def valKey : Val → Nat
  | .fin n m e => b2n n + 2 * ((if 0 ≤ e then 2 * e.toNat else 2 * (-e).toNat + 1) + 4096 * m)
  | .inf n => b2n n
  | .nan n => b2n n

/-- e^x of an FP32 argument: within 2 ulp, never above 1.0 for x ≤ 0, exact at 0 and −∞ (R193, R242). [DESIGN CHOICE, log 5] -/
def fexp (x : Nat) : Nat :=
  match v32 x with
  | .nan _ => 0x7FC00000
  | .inf n => if n then 0 else 0x7F800000
  | .fin n m e =>
    if m = 0 then f32One
    else if n ∧ (Val.fin false 128 0).lt (.fin false m e) then ulpPick 1 x 2 (.fin false 1 (-200))
    else if ¬ n ∧ (Val.fin false 89 0).lt (.fin false m e) then 0x7F800000
    else
      let r := fxExp (fxOf (.fin n m e))
      let v := fxVal r.1 r.2
      if rn32 v = 0x7F800000 then 0x7F800000
      else if n then min (ulpPick 1 x 2 v) f32One
      else ulpPick 1 x 2 v

/-- tanh: within 2 ulp, odd, exact at 0, ±1.0 from magnitude 10 on, never above 1. -/
def ftanh (x : Nat) : Nat :=
  match v32 x with
  | .nan _ => 0x7FC00000
  | .inf n => b2n n * 2 ^ 31 + f32One
  | .fin n m e =>
    if m = 0 then x
    else if ¬ (Val.fin false m e).lt (.fin false 10 0) then b2n n * 2 ^ 31 + f32One
    else
      let r := fxExp (2 * fxOf (.fin false m e))
      let t := r.1 * 2 ^ r.2.toNat
      b2n n * 2 ^ 31 + min (ulpPick 2 (x % 2 ^ 31) 2 (fxVal (fxDiv (t - fxOne) (t + fxOne)) 0)) f32One

/-- erf within 2 ulp, from magnitude 6 on as ±1 within 2 ulp. -/
def ferf (x : Nat) : Nat :=
  match v32 x with
  | .nan _ => 0x7FC00000
  | .inf n => b2n n * 2 ^ 31 + f32One
  | .fin n m e =>
    if m = 0 then x
    else if ¬ (Val.fin false m e).lt (.fin false 6 0) then b2n n * 2 ^ 31 + ulpPick 3 x 2 (fxVal (fxOne - 1) 0)
    else
      let v := fxOf (.fin false m e)
      let v2 := fxMul v v
      let s := fxSeries (fun i t => 2 * fxMul t v2 / (2 * (i + 1) + 1)) 400 0 v 0
      let r := fxExp (-v2)
      b2n n * 2 ^ 31 + ulpPick 3 x 2 (fxVal (fxMul fxTwoRootPi (fxMul s r.1)) r.2)

/-- 1 / √x within 2 ulp. -/
def frsqrt (x : Nat) : Nat :=
  match v32 x with
  | .nan _ => 0x7FC00000
  | .inf n => if n then 0x7FC00000 else 0
  | .fin n m e =>
    if m = 0 then b2n n * 2 ^ 31 + 0x7F800000
    else if n then 0x7FC00000
    else
      let odd : Bool := e % 2 ≠ 0
      let m := if odd then 2 * m else m
      let e := if odd then e - 1 else e
      let q := natSqrt (2 ^ 200 / m)
      ulpPick 4 x 2 (.fin false (2 * q + (if q * q * m = 2 ^ 200 then 0 else 1)) (-e / 2 - 101))
where
  /-- The integer square root of a number below 2^256, bit by bit from the top. -/
  natSqrt (n : Nat) : Nat :=
    (List.range 128).foldl (fun r i => let c := r + 2 ^ (127 - i); if c * c ≤ n then c else r) 0

/-- The vector unit's division, within 2 ulp (R242); special values follow R178. -/
def fdivUlp (a b : Nat) : Nat :=
  let c := fdiv a b
  match v32 a, v32 b with
  | .fin na ma ea, .fin nb mb eb => if f32Bad c ∨ ma = 0 then c else ulpPick 8 (a + b * 2 ^ 32) 2 (quotient na ma ea nb mb eb)
  | _, _ => c

/-- ROT_BASE ^ (−2 j / D) in FP32, within 1 ulp; exact at j = 0 (R98). [DESIGN CHOICE, log 5] -/
def invFreq (base j d : Nat) : Nat :=
  if j = 0 then f32One
  else
    let r := fxExp (-(fxLn (v32 base) * (2 * j) / d))
    let k := base * 2 ^ 24 + j * 2 ^ 12 + d
    ulpPick 7 k 1 (fxVal r.1 r.2)

/-- cos and sin of (p × scale) × inv_freq, each within 1 ulp of the true value (R98). [DESIGN CHOICE, log 5] -/
def ropeCosSin (p scale f : Nat) : Nat × Nat :=
  let a := ((Val.fin false p 0).mul (if scale = 0 then Val.one else v32 scale)).mul (v32 f)
  match a with
  | .fin _ 0 _ => (f32One, 0)
  | _ =>
    let r := fxCosSin (fxReduce a)
    let k := valKey a
    (capOne (ulpPick 5 k 1 (fxVal r.1 0)), capOne (ulpPick 6 k 1 (fxVal r.2 0)))

end Sys2Proof.Machine
end

