-- ==== Sys2Proof/Machine/Tiers.lean ====
section
/-!
DEFINITION. The tiers' frames (R256 to R260, R270, R300, R328): where the bytes of a page lie, the allocation and the release of
frames, retirement (R288, R289), the hotness sketch (R263, R269), and the page header (R95).
-/

namespace Sys2Proof.Machine

/-! ### Where a page's bytes lie -/

/-- A place of 64 KiB in one of the memories. -/
inductive Store where
  | spad (k : Nat)
  | hbm (a : Nat)
  | pool (k : Nat)
  | flash (k : Nat)
  | host (port a : Nat)
  | nowhere
  deriving DecidableEq, Repr

/-- The host bus address of a TH frame: the MACs take 28 of every 1,024 frames (R483). -/
def thFrameAddr (s : State) (pt f : Nat) : Nat :=
  s.reg64 pgBlw 0x220 pt + f / 996 * unitBytes + f % 996 * frameBytes
/-- The host port of a partition's host area, and its data frames; a partial last unit is unused (R483). -/
def thPort (s : State) (pt : Nat) : Nat := bits (s.reg pgBlw 0x228 pt) 24 2
def thFrames (s : State) (pt : Nat) : Nat := bits (s.reg pgBlw 0x228 pt) 0 24 / 1024 * 996

/-- The key of a flash byte: local slot l of drive n begins at LBA 256 + 16 l (R327). -/
def flashKey (n l : Nat) : Nat := n * 2 ^ 48 + (256 + 16 * l) * 4096

/-- The place that TIER and ADDR of a location entry of a partition name (R256, R300, R326). -/
def storeOf (s : State) (pt : Nat) (t : Tier) (addr : Nat) : Store :=
  match t with
  | .t0 => .spad (bits addr 8 6 * 2 ^ 24 + bits addr 0 8 * frameBytes)
  | .t1 => .hbm (hbmFrame (addr / 2 ^ 20) (addr % 2 ^ 20))
  | .t2 =>
    if bit addr 47 then
      match regionPlace s (bits addr 27 20) (bits addr 0 27 * frameBytes) with
      | some p => .pool p.2.2
      | none => .nowhere
    else
      match spillPlace s pt (bits addr 32 15) (bits addr 0 32) with
      | some p => .pool p.2.2
      | none => .nowhere
  | .t3 => .flash (flashKey (bits addr 31 4) (bits addr 0 31))
  | .th => .host (thPort s pt) (thFrameAddr s pt addr)

/-- The write frames to a host port that wait in its scheduler, in queue order. -/
def queuedWrites (s : State) (port : Nat) : List (Nat × List Byte) :=
  let t := s.sched port
  (t.qs.flatMap (·.frames) ++ t.stalled).filterMap fun q =>
    match q.frame.body with
    | .txn x => if x.op = .memWr then some (x.addr, x.data) else none
    | _ => none

/-- Host memory as the device's own later writes leave it: what stands there, with the write frames still queued laid over it.
The device reads its own host area so. [DEDUCED, log 6] -/
def hostView (s : State) (port addr n : Nat) : List Byte :=
  (queuedWrites s port).foldl (fun bs w =>
    if overlaps w.1 w.2.length addr n then
      let skip := addr - w.1
      let at_ := w.1 - addr
      poke bs at_ ((w.2.drop skip).take (n - at_))
    else bs) (hostBytes s port addr n)

/-- n bytes from offset off of a place. -/
def storeRead (s : State) (st : Store) (off n : Nat) : List Byte :=
  match st with
  | .spad k => mreads s.mems.spad (k + off) n
  | .hbm a => mreads s.mems.hbm (a + off) n
  | .pool k => mreads s.mems.pool (k + off) n
  | .flash k => mreads s.mems.flash (k + off) n
  | .host p a => hostView s p (a + off) n
  | .nowhere => zeros n

/-- Write bytes at offset off of a place for a partition. Host writes are TH traffic, class 2 (R417). -/
def storeWrite (s : State) (pt : Nat) (st : Store) (off : Nat) (bs : List Byte) : State :=
  match st with
  | .spad k => s.setSpad (mwrites s.mems.spad (k + off) bs)
  | .hbm a => hbmWrite s (a + off) bs
  | .pool k =>
    let s := s.setPool (mwrites s.mems.pool (k + off) bs)
    let first := ceilDiv (k + off) 64
    let last := (k + off + bs.length) / 64
    { s with mems := { s.mems with badLines := s.mems.badLines.filter fun l => ¬ (first ≤ l ∧ l < last) } }
  | .flash k => s.setFlash (mwrites s.mems.flash (k + off) bs)
  | .host p a => hostWrite s p 2 pt false (a + off) bs
  | .nowhere => s

/-- Does reading n bytes from offset off of a place meet poison? -/
def storeBad (s : State) (st : Store) (off n : Nat) : Bool :=
  match st with
  | .hbm a => hbmBad s (a + off) n
  | .pool k => s.mems.badLines.any fun l => decide ((k + off) / 64 ≤ l ∧ l ≤ (k + off + n - 1) / 64)
  | .nowhere => true
  | _ => false

/-- The place of a CPN, and of its mute copy. -/
def cpnPt (cpn : Nat) : Nat := cpn / 2 ^ 37
def pageStore (s : State) (cpn : Nat) : Store := storeOf s (cpnPt cpn) (s.loc cpn).tier (s.loc cpn).addr
def muteStore (s : State) (cpn : Nat) : Store :=
  match (s.loc cpn).mute with
  | some a => storeOf s (cpnPt cpn) .t1 a
  | none => .nowhere

/-! ### The page header (R95) -/

/-- The 256-byte header of a page. -/
def headerBytes (cpn layer profile origin : Nat) (flags pos fill kf vf ks vs voff epoch : Nat) : List Byte :=
  toLe 4 0x31475051 ++ toLe 5 cpn ++ toLe 1 layer ++ toLe 2 profile ++ toLe 3 origin ++ toLe 1 flags ++ toLe 4 pos ++ toLe 2 fill
    ++ toLe 1 (kf + vf * 16) ++ [0] ++ toLe 2 ks ++ toLe 2 vs ++ toLe 4 voff ++ toLe 2 epoch ++ zeros 222

/-- A field of a stored page's header: n bytes at byte i. -/
def hdrField (s : State) (st : Store) (i n : Nat) : Nat := leNat (storeRead s st i n)
def hdrCpn (s : State) (st : Store) : Nat := hdrField s st 4 5
def hdrFlags (s : State) (st : Store) : Nat := hdrField s st 15 1
def hdrFill (s : State) (st : Store) : Nat := hdrField s st 20 2 % 512
def setHdrFill (s : State) (pt : Nat) (st : Store) (fill : Nat) : State := storeWrite s pt st 20 (toLe 2 fill)
/-- Set or clear one flag of byte 15. -/
def setHdrFlag (s : State) (pt : Nat) (st : Store) (i : Nat) (v : Bool) : State :=
  storeWrite s pt st 15 (toLe 1 (setBits (hdrFlags s st) i 1 (b2n v)))

/-! ### Policies, estimates and samples -/

/-- The migration policy the Bellows slices run under (R71). -/
def blwPolicy (s : State) : Policy := if bit s.dep.lag 5 then s.dep.cfgPrev.policy else s.dep.cfg.policy
def ptPolicy (s : State) (pt : Nat) : PolicyPt := lget (blwPolicy s).pts pt {}

/-- Is any ACTIVE partition strict under the applied map (R269)? -/
def anyStrict (s : State) : Bool :=
  (List.range 8).any fun p => (s.mapOf p).valid && (s.mapOf p).strict && (s.part p).state == .active

/-- The multipliers of the sketch's rows. -/
def sketchK : List Nat := [0x9E3779B97F, 0xC2B2AE3D27, 0x165667B19F, 0x27D4EB2F15]

/-- The key of row r's counter for a CPN (R269). -/
def sketchKey (s : State) (r cpn : Nat) : Nat :=
  let i := cpn * lget sketchK r 0 % 2 ^ 40 / 2 ^ 22
  r * 262144 + (if anyStrict s then setBits i 15 3 (bits cpn 37 3) else i)

/-- A CPN's estimate: the smallest of its four counters. -/
def estimate (s : State) (cpn : Nat) : Nat :=
  let c := fun r => tgetD s.blw.sketch (sketchKey s r cpn) 0
  min (min (c 0) (c 1)) (min (c 2) (c 3))

/-- Add a sample to the four counters, each saturating at 0xFFFF. -/
def sketchAdd (s : State) (cpn : Nat) : State :=
  let sk := (List.range 4).foldl (fun t r =>
    let k := sketchKey s r cpn
    tput 0 t k (min (tgetD t k 0 + 1) 0xFFFF)) s.blw.sketch
  { s with blw := { s.blw with sketch := sk } }

/-! ### Hands (R265) -/

/-- The key of the T1 hand of a partition in a stack. -/
def handKey (pt m : Nat) : Nat := pt * 16 + m

/-- An event that lets the partition's stopped hands resume. -/
def wakeHands (s : State) (pt : Nat) : State :=
  let wake := fun (h : Hand) => if h.stopped then { h with stopped := false, dirty := false, lapFrom := h.frame } else h
  { s with blw := { s.blw with
    hands := s.blw.hands.map fun e => if e.1 / 16 = pt then (e.1, wake e.2) else e,
    t2Hands := s.blw.t2Hands.map fun e => if e.1 = pt then (e.1, wake e.2) else e,
    t0Hands := s.blw.t0Hands.map fun e => if tileOwner s.appliedMap e.1 = pt then (e.1, wake e.2) else e } }

/-- Write AGE of a page. -/
def setAge (s : State) (cpn age : Nat) : State := wakeHands (s.setLoc cpn fun e => { e with age := age }) (cpnPt cpn)
/-- Set AGE as R262 states: 0x00, unless the page is kept. -/
def useAge (s : State) (cpn : Nat) : State := if (s.loc cpn).age = 0xFE then s else setAge s cpn 0

/-! ### T1 frames (R259) -/

/-- The partition's pseudo-channels of a stack in which pages may be allocated: those it holds under the applied map, and, while
a commit lags, under the latest one too. -/
def pcMask (s : State) (pt m : Nat) : Nat :=
  lget (s.mapOf pt).pc m 0 &&& lget (lget s.dep.cfg.pmap.pts pt {}).pc m 0

/-- Free T1 frames of the partition in a stack, and in all. -/
def ptFreeIn (s : State) (pt m : Nat) : Nat := t1Free s m (pcMask s pt m)
def ptFree (s : State) (pt : Nat) : Nat := (List.range 12).foldl (fun v m => v + ptFreeIn s pt m) 0

/-- The partition's frames of a stack's pool. -/
def ptFramesIn (s : State) (pt m : Nat) : Nat :=
  match t1Pool s m with
  | some (f, l) => ownedIn (pcMask s pt m) f (l + 1)
  | none => 0

/-- The stack of a list with the most free frames; the first of equal ones; none if no stack has one. -/
def bestStack (s : State) (pt : Nat) (ms : List Nat) : Option Nat :=
  match minBy (fun m => 2 ^ 24 - ptFreeIn s pt m) ms with
  | some m => if ptFreeIn s pt m = 0 then none else some m
  | none => none

/-- The stacks of R259 steps 2 and 3 for a home field: its own, those one seam away, those of the diagonal field. -/
def stackGroups (h : Nat) : List (List Nat) :=
  [(List.range 12).filter fun m => m / 3 == h,
   (List.range 12).filter fun m => m / 3 == h ^^^ 1 || m / 3 == h ^^^ 2,
   (List.range 12).filter fun m => m / 3 == h ^^^ 3]

/-- The first number from f on, in steps of d, that is not taken. -/
def firstFree (taken : Nat → Bool) (d : Nat) : Nat → Nat → Nat
  | 0, f => f
  | fuel + 1, f => if taken f then firstFree taken d fuel (f + d) else f

/-- The lowest free frame of the partition's pseudo-channel with the most free frames in a stack. -/
def lowestFrame (s : State) (pt m : Nat) : Option Nat :=
  match t1Pool s m with
  | none => none
  | some (f, l) =>
    let free := fun (c : Nat) => ownedIn (2 ^ c) f (l + 1) - t1TakenIn s m (2 ^ c) f l
    match minBy (fun c => 2 ^ 24 - free c) (bitList (pcMask s pt m) 32) with
    | none => none
    | some c =>
      if free c = 0 then none
      else
        let fuel := s.blw.t1.length + (s.hb m).retired.length + s.blw.condemned.length + 1
        some (m * 2 ^ 20 + firstFree (fun x => t1Taken s (m * 2 ^ 20 + x)) 32 fuel (f + (c + 32 - f % 32) % 32))

/-- The T1 frame R259 chooses for a home field. -/
def t1Choose (s : State) (pt home : Nat) : Option Nat :=
  match (stackGroups home).findSome? (bestStack s pt) with
  | some m => lowestFrame s pt m
  | none => none

/-- Allocate a T1 frame. -/
def t1Alloc (s : State) (pt home : Nat) (u : FrameUse) : Option (Nat × State) :=
  (t1Choose s pt home).map fun a =>
    (a, wakeHands { s with blw := { s.blw with t1 := tset s.blw.t1 a u } } pt)

/-! ### The other tiers -/

/-- The free Bellows slot of a tile with the highest number (R270), above what WARMs have reserved from the bottom (R227). -/
def t0Alloc (s : State) (pt tile : Nat) (u : FrameUse) : Option (Nat × State) :=
  let n := (ptPolicy s pt).t0Slots
  let slots := (List.range n).map fun i => 255 - i
  (slots.find? fun i => decide ((s.tile tile).reserved ≤ i) && !tmem s.blw.t0 (tile * 256 + i)).map fun i =>
    (tile * 256 + i, wakeHands { s with blw := { s.blw with t0 := tset s.blw.t0 (tile * 256 + i) u } } pt)

/-- The key of a partition's spill or TH frame. -/
def ptKey (pt addr : Nat) : Nat := pt * 2 ^ 48 + addr

/-- Is the port of an extent able to carry new requests to it? -/
def extUsable (s : State) (port : Nat) (e : Extent) : Bool :=
  e.valid && !e.draining && !e.evac && (s.cport port).up && !(s.cport port).failed

/-- Does a checkpoint of the partition run (R317)? -/
def ckptRuns (s : State) (pt : Nat) : Bool := (lget s.cxh.ckpt pt {}).state == 1

/-- The partition's spill extents by index. -/
def spillExts (s : State) (pt : Nat) : List (Nat × Extent) :=
  (allExts s).filterMap fun e => if e.2.2.valid ∧ e.2.2.kind = 1 ∧ e.2.2.pt = pt then some (e.1, e.2.2) else none

/-- Spill frames of a partition in use in one extent. -/
def spillUsed (s : State) (pt i : Nat) : Nat :=
  (s.blw.t2.filter fun e => e.1 / 2 ^ 48 == pt && bits e.1 32 15 == i).length

/-- The lowest free frame of the lowest-indexed spill extent that has one (R300). -/
def t2Alloc (s : State) (pt : Nat) (u : FrameUse) : Option (Nat × State) :=
  let es := (spillExts s pt).filter fun e => extUsable s e.1 e.2 && decide (spillUsed s pt e.2.rbase < e.2.size * 996)
  (minBy (fun e => e.2.rbase) es).map fun e =>
    let f := firstFree (fun x => tmem s.blw.t2 (ptKey pt (e.2.rbase * 2 ^ 32 + x))) 1 (s.blw.t2.length + 1) 0
    let a := e.2.rbase * 2 ^ 32 + f
    (a, wakeHands { s with blw := { s.blw with t2 := tset s.blw.t2 (ptKey pt a) u } } pt)

/-- Free spill frames of a partition. -/
def t2Free (s : State) (pt : Nat) : Nat :=
  ((spillExts s pt).filter fun e => extUsable s e.1 e.2).foldl (fun v e => v + (e.2.size * 996 - spillUsed s pt e.2.rbase)) 0
def t2Frames (s : State) (pt : Nat) : Nat := (spillExts s pt).foldl (fun v e => v + e.2.size * 996) 0

/-- The lowest free frame of the host area. -/
def thAlloc (s : State) (pt : Nat) (u : FrameUse) : Option (Nat × State) :=
  let f := firstFree (fun x => tmem s.blw.th (ptKey pt x)) 1 (s.blw.th.length + 1) 0
  if f < thFrames s pt then
    some (f, wakeHands { s with blw := { s.blw with th := tset s.blw.th (ptKey pt f) u } } pt)
  else none

/-- A partition's share of a drive: first slot and count, cut to the slots the drive has (R328). -/
def shareOf (s : State) (np pt : Nat) : Nat × Nat :=
  let f := s.reg pgNvh 0x230 (np + 16 * pt)
  let c := s.reg pgNvh 0x234 (np + 16 * pt)
  (f, min c ((s.drive np).slots - f))

/-- The slots of a share that are not free, and the in-use and lost ones of it, which NVH_SHARE_USED counts (R337). -/
def shareTaken (s : State) (np pt : Nat) : List (Nat × Nat) :=
  let sh := shareOf s np pt
  (s.drive np).slot.filter fun e => decide (sh.1 ≤ e.1 ∧ e.1 < sh.1 + sh.2)
def shareFull (s : State) (np pt : Nat) : Nat := (shareTaken s np pt).length
def shareUsed (s : State) (np pt : Nat) : Nat := ((shareTaken s np pt).filter fun e => e.2 == 1 || e.2 == 2).length

/-- May the drive take new pages of the partition? -/
def driveOpen (s : State) (np pt : Nat) : Bool :=
  let d := s.drive np
  bit (s.reg pgNvh 0x200) 0 && d.state == .ready && !d.detaching && decide (shareFull s np pt < (shareOf s np pt).2)

/-- A slot for a T3 destination (R328): the drive with the fewest transfers, the share's first free slot from the cursor on. -/
def t3Alloc (s : State) (pt : Nat) : Option (Nat × State) :=
  match minBy (fun n => (s.drive n).xfers.length) ((List.range 16).filter fun n => driveOpen s n pt) with
  | none => none
  | some n =>
    let sh := shareOf s n pt
    let c := lget (s.drive n).cursor pt 0
    let start := if sh.1 ≤ c ∧ c < sh.1 + sh.2 then c else sh.1
    let at_ := fun (k : Nat) => sh.1 + (start - sh.1 + k) % sh.2
    let k := firstFree (fun k => tmem (s.drive n).slot (at_ k)) 1 (shareFull s n pt + 1) 0
    let l := at_ k
    some (n * 2 ^ 31 + l, wakeHands (s.setDrive n fun d =>
      { d with slot := tset d.slot l 1, cursor := lset d.cursor pt (l + 1) }) pt)

/-- Has the partition any frame at all in a tier (R274)? -/
def tierHas (s : State) (pt : Nat) : Tier → Bool
  | .t0 => decide (0 < (ptPolicy s pt).t0Slots)
  | .t1 => (List.range 12).any fun m => decide (0 < ptFramesIn s pt m)
  | .t2 => decide (0 < t2Frames s pt)
  | .t3 => (List.range 16).any fun n => (s.drive n).state == .ready && decide (0 < (shareOf s n pt).2)
  | .th => decide (0 < thFrames s pt)

/-- Has the partition a free frame in a tier? -/
def tierFree (s : State) (pt : Nat) : Tier → Bool
  | .t0 => decide (0 < (ptPolicy s pt).t0Slots)
  | .t1 => decide (0 < ptFree s pt)
  | .t2 => decide (0 < t2Free s pt)
  | .t3 => (List.range 16).any fun n => driveOpen s n pt
  | .th => (thAlloc s pt (.reserved 0)).isSome

/-- Does a sweep of R493 still run: of tier 2, 3, 4 (TH) or of the directory, 5? What allocates there waits until it ends. -/
def sweeping (s : State) (pt code : Nat) : Bool := (s.part pt).sweeps.contains code
def sweepCode : Tier → Nat
  | .t2 => 2 | .t3 => 3 | .th => 4 | _ => 0

/-- Allocate a frame of a tier; for T0 and T1 with the home tile. -/
def tierAlloc (s : State) (pt : Nat) (t : Tier) (home : Nat) (u : FrameUse) : Option (Nat × State) :=
  match t with
  | .t0 => t0Alloc s pt home u
  | .t1 => t1Alloc s pt (home / 12 % 4) u
  | .t2 => t2Alloc s pt u
  | .t3 => t3Alloc s pt
  | .th => thAlloc s pt u

/-! ### Retirement and release -/

/-- A T1 frame is retired, and logged while the log has room (R289). Event 0x01. -/
def retireFrame (s : State) (m f cause : Nat) : State :=
  if (s.hb m).retired.contains f then s
  else
    let s := s.setHb m fun h =>
      let h := { h with retired := h.retired ++ [f] }
      if h.log.length < 16384 then { h with log := h.log ++ [(f, cause)] } else { h with ovf := true }
    let s := { s with blw := { s.blw with condemned := s.blw.condemned.filter (· != m * 2 ^ 20 + f) } }
    let s := count s (pgHbc m) 5 15
    errEvent s 0x01 0 (pgHbc m) 3 0 cause (hbmFrame m f) []

/-- A free T1 frame that was condemned is retired (R288). -/
def settleFrame (s : State) (addr : Nat) : State :=
  if s.blw.condemned.contains addr then retireFrame s (addr / 2 ^ 20) (addr % 2 ^ 20) 0 else s

/-- The commands that a queue pair holds at once: one fewer than its depth (R324). [PRESUMED, log 87] -/
def queueRoom (d : Drive) (q : Nat) : Bool := decide ((d.cmds.filter fun c => c.queue == q).length + 1 < if q = 4 then 32 else 64)

/-- Submit a command on a queue pair, or let it wait for room there. [PRESUMED, log 87] -/
def nvmePut (s : State) (np : Nat) (c : NvmeCmd) : State :=
  s.setDrive np fun d =>
    let c := { c with cid := d.cidNext, at_ := s.time }
    let d := { d with cidNext := (d.cidNext + 1) % 65536 }
    if queueRoom d c.queue ∧ ¬ d.sqWait.any (fun x => x.queue == c.queue) then { d with cmds := d.cmds ++ [c] } else { d with sqWait := d.sqWait ++ [c] }

/-- Commands that waited for room in a queue pair are submitted. -/
def nvmeRefill (s : State) (np : Nat) : State :=
  s.setDrive np fun d => d.sqWait.foldl (fun d c =>
    if queueRoom d c.queue then { d with cmds := d.cmds ++ [{ c with at_ := s.time }], sqWait := d.sqWait.erase c } else d) d

/-- The first LBA of a slot, and the first MAC sector of its record with their number: 1,792 bytes at k × 1,792 of the 7 sectors of its group (R327). -/
def slotLba (l : Nat) : Nat := 256 + 16 * l
def macLba (d : Drive) (l : Nat) : Nat := 256 + 256 * d.groups + 7 * (l / 16) + l % 16 * 1792 / 4096
def macSectors (l : Nat) : Nat := (l % 16 * 1792 + 1791) / 4096 - l % 16 * 1792 / 4096 + 1

/-- Submit a command on a slot for a page transfer, or Deallocate: what it reads or writes and whether it carries FUA. `sectors`: of its data. -/
def nvmeSubmit (s : State) (np queue : Nat) (k : NvmeKind) (cpn slot sectors buf : Nat) : State :=
  let d := s.drive np
  let c : NvmeCmd := { cid := 0, queue := queue, kind := k, cpn := cpn, slot := slot, at_ := 0, buf := buf }
  nvmePut s np (match k with
    | .dataRead => { c with lba := slotLba slot, sectors := sectors }
    | .dataWrite => { c with lba := slotLba slot, sectors := sectors, fua := d.fua }
    | .macRead | .macReadForWrite => { c with lba := macLba d slot, sectors := macSectors slot }
    | .macWrite => { c with lba := macLba d slot, sectors := macSectors slot, fua := d.fua }
    | .trim => { c with lba := slotLba slot, sectors := 16 }
    | .label => { c with lba := 0, sectors := 1, fua := d.fua }
    | .admin _ | .abort _ => c)

/-- A slot becomes free, unless it is retired. A detaching drive without a slot in use or lost is absent then (R334). -/
def slotFree (s : State) (np l : Nat) : State :=
  s.setDrive np fun d =>
    let sl := if tget d.slot l = some 3 then d.slot else tdel d.slot l
    let gone := d.detaching && !sl.any (fun e => e.2 == 1 || e.2 == 2)
    { d with slot := sl, freeing := d.freeing.filter (·.1 != l), state := if gone then .absent else d.state,
             detaching := d.detaching && !gone }

/-- The drive's other commands on a slot have ended and its page no longer needs it: TRIM first, if set, on the queue pair of the slice that released
it (R324, R329). -/
def slotSettle (s : State) (np l queue : Nat) : State :=
  let d := s.drive np
  if (d.cmds ++ d.sqWait).any (fun c => c.slot == l) then s
  else if bit (s.reg pgNvh 0x200) 1 ∧ d.state = .ready ∧ tget d.slot l = some 1 then
    count (nvmeSubmit s np queue .trim 0 l 16 0) pgNvh 4 15
  else slotFree s np l

/-- The slice that releases a slot: the one whose move reads or writes it, else that of the field that the slot's group falls to. [PRESUMED, log 87] -/
def slotQueue (s : State) (np l : Nat) : Nat :=
  match s.blw.moves.find? fun m =>
    (m.2.kind == .page .t3 && m.2.dst == np * 2 ^ 31 + l) || (m.2.srcTier == .t3 && m.2.srcAddr == np * 2 ^ 31 + l) with
  | some m => m.2.slice
  | none => l / 16 % 4

/-- A CPN no longer needs a slot (R329, R333): a lost slot is free at once. -/
def slotRelease (s : State) (np l queue : Nat) : State :=
  if tget (s.drive np).slot l = some 2 then slotFree s np l
  else
    let s := s.setDrive np fun d => { d with freeing := d.freeing ++ [(l, queue)] }
    slotSettle s np l queue

/-- Retire a flash slot after a media fault (R332). Event 0x02. -/
def slotRetire (s : State) (np l : Nat) : State :=
  let s := s.setDrive np fun d => { d with slot := tset d.slot l 3, freeing := d.freeing.filter (·.1 != l) }
  errEvent s 0x02 0 pgNvh 4 0 l (32 + np) []

/-- A frame of a partition goes back to its tier. A region frame stays the region's (R313). -/
def releaseFrame (s : State) (pt : Nat) (t : Tier) (addr : Nat) : State :=
  let s := wakeHands s pt
  match t with
  | .t0 => { s with blw := { s.blw with t0 := tdel s.blw.t0 addr } }
  | .t1 => settleFrame { s with blw := { s.blw with t1 := tdel s.blw.t1 addr } } addr
  | .t2 => if bit addr 47 then s else { s with blw := { s.blw with t2 := tdel s.blw.t2 (ptKey pt addr) } }
  | .t3 => slotRelease s (bits addr 31 4) (bits addr 0 31) (slotQueue s (bits addr 31 4) (bits addr 0 31))
  | .th => { s with blw := { s.blw with th := tdel s.blw.th (ptKey pt addr) } }

/-- A frame with a fault of its own is never used again (R277): a T1 frame and a flash slot are retired; a spill or TH frame stays marked as
faulty. A region frame stays the region's. -/
def retireAt (s : State) (pt : Nat) (t : Tier) (addr : Nat) : State :=
  match t with
  | .t1 => retireFrame { s with blw := { s.blw with t1 := tdel s.blw.t1 addr } } (addr / 2 ^ 20) (addr % 2 ^ 20) 1
  | .t3 => slotRetire s (bits addr 31 4) (bits addr 0 31)
  | .t2 => if bit addr 47 then s else { s with blw := { s.blw with t2 := tset s.blw.t2 (ptKey pt addr) .faulty } }
  | .th => { s with blw := { s.blw with th := tset s.blw.th (ptKey pt addr) .faulty } }
  | .t0 => releaseFrame s pt t addr

end Sys2Proof.Machine
end

