-- ==== Sys2Proof/Machine/Compress.lean ====
section
/-!
DEFINITION. The compressed page format (R279 to R282): the token stream of a coded block and its decoder, the shuffles, the
header with its block-offset table, and the coding of a page with streams that the configuration leaves open.
-/

namespace Sys2Proof.Machine

/-! ### Coded blocks (R281) -/

/-- Read a length's extension bytes: each adds its value, and the first below 255 ends them. -/
def extLen : Nat → List Byte → Nat → Option (Nat × List Byte)
  | 0, _, _ => none
  | _, [], _ => none
  | k + 1, e :: bs, n => if e.toNat < 255 then some (n + e.toNat, bs) else extLen k bs (n + 255)

/-- A 4-bit length with its extension. -/
def tokenLen (n : Nat) (bs : List Byte) : Option (Nat × List Byte) :=
  if n = 15 then extLen (bs.length + 1) bs 15 else some (n, bs)

/-- Repeat the byte `off` places back n times; `out` holds the output newest byte first. -/
def copyBack (off : Nat) : Nat → List Byte → List Byte
  | 0, out => out
  | n + 1, out => copyBack off n ((lget out (off - 1) 0) :: out)

/-- Decode tokens until `size` bytes stand in `out`; none where the stream is malformed (R282). -/
def tokens (size : Nat) : Nat → List Byte → List Byte → Option (List Byte)
  | 0, _, _ => none
  | _, [], _ => none
  | k + 1, t :: bs, out =>
    match tokenLen (t.toNat / 16) bs with
    | none => none
    | some (lit, bs) =>
      if bs.length < lit ∨ size < out.length + lit then none
      else
        let out := (bs.take lit).reverse ++ out
        let bs := bs.drop lit
        if out.length = size then (if bs.isEmpty then some out.reverse else none)
        else
          match bs with
          | a :: b :: rest =>
            let off := a.toNat + 256 * b.toNat
            match tokenLen (t.toNat % 16) rest with
            | none => none
            | some (mat, rest) =>
              if off = 0 ∨ out.length < off ∨ size < out.length + mat + 3 then none
              else
                let out := copyBack off (mat + 3) out
                if out.length = size then (if rest.isEmpty then some out.reverse else none)
                else tokens size k rest out
          | _ => none

/-- Undo the shuffle: with n lanes of size / n bytes, output byte n i + k is decoded byte k (size / n) + i. -/
def unshuffle (n : Nat) (bs : List Byte) : List Byte :=
  let m := bs.length / n
  (List.range bs.length).map fun j => lget bs (j % n * m + j / n) 0

/-- The shuffle itself. -/
def shuffle (n : Nat) (bs : List Byte) : List Byte :=
  let m := bs.length / n
  (List.range bs.length).map fun j => lget bs (j % m * n + j / m) 0

/-- Lanes of a SHUF code. -/
def shufLanes (c : Nat) : Nat := if c = 1 then 2 else if c = 2 then 4 else 1

/-- A coded stream as its block of `size` bytes, or none where it is malformed. Byte 0 holds SHUF. -/
def expandStream (size : Nat) (bs : List Byte) : Option (List Byte) :=
  match bs with
  | [] => none
  | h :: rest =>
    if 2 < h.toNat then none
    else (tokens size (rest.length + 1) rest []).map fun out => if h.toNat = 0 then out else unshuffle (shufLanes h.toNat) out

/-! ### Compressed pages (R280) -/

/-- OFF and LEN of an entry of the block-offset table. -/
def blkEntry (bs : List Byte) (b : Nat) : Nat × Nat :=
  let v := field bs (64 + 4 * b) 4
  (bits v 0 17, bits v 17 13)

/-- KIND of an entry. -/
def blkKind (bs : List Byte) (b : Nat) : Nat := bits (field bs (64 + 4 * b) 4) 30 2

/-- Does LEN agree with KIND? -/
def blkOk (bs : List Byte) (b : Nat) : Bool :=
  let e := blkEntry bs b
  match blkKind bs b with
  | 0 => decide (1 ≤ e.2 ∧ e.2 ≤ 4095)
  | 1 => e.2 == 4096
  | 2 => e.2 == 0
  | _ => false

/-- Is the header of a compressed page well formed, with the identity its reader expects (R282, R313)? -/
def packedOk (bs : List Byte) (ident : Nat) : Bool :=
  field bs 0 4 == 0x4C425043 && field bs 4 5 == ident && field bs 9 1 == 1 && (List.range 16).all (blkOk bs)

/-- The stored bytes of a block's entry, among the sectors that a move fetches; none where they end early. -/
def blkBytes (bs : List Byte) (b : Nat) : Option (List Byte) :=
  let e := blkEntry bs b
  let d := ((bs.take (max 1 (field bs 10 1 % 16) * 4096)).drop e.1).take e.2
  if d.length = e.2 then some d else none

/-- Block b of a compressed page. -/
def expandBlock (bs : List Byte) (b : Nat) : Option (List Byte) :=
  match blkKind bs b with
  | 0 => (blkBytes bs b).bind (expandStream 4096)
  | 1 => blkBytes bs b
  | _ => some (zeros 4096)

/-- The page that a compressed form stands for, or none where it is malformed. -/
def expandPage (bs : List Byte) (ident : Nat) : Option (List Byte) :=
  if packedOk bs ident then
    (List.range 16).foldr (fun b acc =>
      match expandBlock bs b, acc with
      | some x, some y => some (x ++ y)
      | _, _ => none) (some [])
  else none

/-- SHUF for block b of a page of a profile: 1 in a 16-bit area, 2 in a 32-bit area, else 0. A block of two areas takes the area
of its first byte. -/
def shufOf (p : Profile) (b : Nat) : Nat :=
  let a := 4096 * b
  let w := if a < 4096 then 8 else if a < 4096 + p.ka then elemBits p.kFmt else if a < 4096 + p.ka + p.va then elemBits p.vFmt
    else 8
  if w = 16 then 1 else if w = 32 then 2 else 0

/-- Code one block: KIND and stored bytes. The stream is the configuration's, used only where it expands to the block and is
shorter than it. [DESIGN CHOICE, log 61] -/
def codeBlock (p : Profile) (b : Nat) (blk : List Byte) : Nat × List Byte :=
  if allZero blk 0 4096 ∨ 4096 + p.ka + p.va ≤ 4096 * b then (2, [])
  else
    let sh := shufOf p b
    let c := BitVec.ofNat 8 sh :: Config.blockStream sh (if sh = 0 then blk else shuffle (shufLanes sh) blk)
    if c.length < 4096 ∧ expandStream 4096 c = some blk then (0, c) else (1, blk)

/-- The block-offset table and the stored data of coded blocks, laid one after the other from byte 128 on. [DESIGN CHOICE, log 61] -/
def packBlocks (off : Nat) : List (Nat × List Byte) → List Byte × List Byte
  | [] => ([], [])
  | (k, d) :: l =>
    let r := packBlocks (off + d.length) l
    (toLe 4 ((if k = 2 then 0 else off + d.length * 2 ^ 17) + k * 2 ^ 30) ++ r.1, d ++ r.2)

/-- The compressed form of a page (R279, R280): none where its stored size, rounded up to sectors, is above 61,440. -/
def packPage (p : Profile) (ident : Nat) (page : List Byte) : Option (List Byte) :=
  let bl := (chunks 4096 16 page).zipIdx.map fun b => codeBlock p b.2 b.1
  let r := packBlocks 128 bl
  let size := 128 + r.2.length
  if 61440 < roundUp size 4096 then none
  else some (toLe 4 0x4C425043 ++ toLe 5 ident ++ [1] ++ toLe 1 (ceilDiv size 4096) ++ zeros 53 ++ r.1 ++ r.2)

/-- What a stored page's place holds as a page: its bytes, expanded if it is compressed. -/
def wholePage (s : State) (st : Store) (compressed : Bool) (ident : Nat) : Option (List Byte) :=
  if compressed then expandPage (storeRead s st 0 61440) ident else some (storeRead s st 0 frameBytes)

end Sys2Proof.Machine
end

