-- ==== Sys2Proof/Machine/Pages.lean ====
section
/-!
DEFINITION. A page's life: the transitions of R107 with their frames, references, publication and poison; context page numbers
(R91); location leaves; the move queue (R271, R272), touches (R264) and samples (R263); cancellation of moves (R275, R276).
-/

namespace Sys2Proof.Machine

/-! ### State of a location entry -/

/-- Does the entry describe a page that can be read? -/
def pageLive (e : Loc) : Bool := [PgState.staging, .resident, .moving, .sharedRo].contains e.state
/-- Is the entry's place T0 or T1? -/
def upper (e : Loc) : Bool := e.tier == .t0 || e.tier == .t1
/-- The state of R107's rows: while a page is MOVING, its RET_STATE (R277). -/
def effState (e : Loc) : PgState := if e.state = .moving then e.ret else e.state
/-- Enter a state; while the page is MOVING, RET_STATE changes in its place. -/
def setEff (s : State) (cpn : Nat) (st : PgState) : State :=
  s.setLoc cpn fun e => if e.state = .moving then { e with ret := st } else { e with state := st }

/-- The move of a page, if one runs. -/
def moveOf (s : State) (cpn : Nat) : Option Move := tget s.blw.moves cpn
def setMove (s : State) (cpn : Nat) (f : Move → Move) : State :=
  match tget s.blw.moves cpn with
  | some m => { s with blw := { s.blw with moves := tset s.blw.moves cpn (f m) } }
  | none => s

/-- The tier a move goes to. -/
def MoveKind.dest : MoveKind → Tier
  | .page t => t
  | .mute | .evacMute => .t1
  | .leaf t2 => if t2 then .t2 else .t1

/-! ### The queue (R271, R272) -/

/-- Is the request one for the page of this CPN, or the evacuation of its mute copy? The two are apart (R259, R283). -/
def MoveReq.forPage (r : MoveReq) (cpn : Nat) : Bool :=
  r.cpn == cpn && (match r.kind with | .leaf _ | .evacMute => false | _ => true)
def MoveReq.forMute (r : MoveReq) (cpn : Nat) : Bool := r.cpn == cpn && r.kind == .evacMute
def reqOf (s : State) (cpn : Nat) : Option MoveReq := s.blw.queue.find? fun r => r.forPage cpn
def dropReq (s : State) (cpn : Nat) : State :=
  { s with blw := { s.blw with queue := s.blw.queue.filter fun r => !r.forPage cpn } }
def dropMuteReq (s : State) (cpn : Nat) : State :=
  { s with blw := { s.blw with queue := s.blw.queue.filter fun r => !r.forMute cpn } }
/-- The partition of a request. -/
def MoveReq.pt (r : MoveReq) : Nat :=
  match r.kind with
  | .leaf _ => leafPt r.cpn
  | _ => cpnPt r.cpn

/-- Do two requests concern one and the same thing to be moved? [DEDUCED, log 54] -/
def MoveReq.meets (r x : MoveReq) : Bool := if r.kind = .evacMute then x.forMute r.cpn else x.forPage r.cpn

/-- The slice that starts a request: the field of the stack or tile that holds the page, else of the home tile (R32). The spec names none for a
location leaf: slice 0. [DEDUCED, log 59] -/
def sliceOf (s : State) (r : MoveReq) : Nat :=
  let e := s.loc r.cpn
  match r.kind with
  | .leaf _ => 0
  | .evacMute => (e.mute.getD 0) / 2 ^ 20 / 3
  | _ =>
    match e.tier with
    | .t1 => e.addr / 2 ^ 20 / 3
    | .t0 => bits e.addr 8 6 / 12
    | _ => r.home / 12

/-- The earlier of two deadlines; none is no deadline. -/
def minDl : Option Nat → Option Nat → Option Nat
  | some a, some b => some (min a b)
  | some a, none => some a
  | none, b => b

/-- Was acceptance number a given no later than b? They wrap at 2^32, and compare as epochs do. [DEDUCED, log 98] -/
def accLe (a b : Nat) : Bool := decide (subMod b a 32 < 2 ^ 31)

/-- Queue a request, or raise the class of the page's queued one. Answer whether a request was made or raised. A request keeps its place in
the order of queueing; one of class 3 keeps the earliest deadline, and of its commands the one accepted first (R23, R271). -/
def queueMove (s : State) (r : MoveReq) : State × Bool :=
  match s.blw.queue.find? r.meets with
  | some q =>
    let q' := if r.cls < q.cls then { r with ord := q.ord }
      else if r.cls = 3 ∧ q.cls = 3 then
        { q with deadline := minDl q.deadline r.deadline, seq := if accLe r.seq q.seq then r.seq else q.seq }
      else q
    ({ s with blw := { s.blw with queue := s.blw.queue.map fun x => if r.meets x then q' else x } }, decide (r.cls < q.cls))
  | none =>
    if (s.blw.queue.filter fun x => sliceOf s x == sliceOf s r).length ≥ 65536 then (s, false)
    else ({ s with blw := { s.blw with queue := s.blw.queue ++ [{ r with ord := s.blw.reqNext }], reqNext := s.blw.reqNext + 1 } }, true)

/-- Queue a page's move to a tier in a class. -/
def queueTo (s : State) (cpn : Nat) (t : Tier) (cls home : Nat) : State :=
  (queueMove s { cpn := cpn, kind := .page t, cls := cls, home := home }).1
/-- Queue a deadline move to T1 for a waiting command. -/
def queueDeadline (s : State) (cpn acc home : Nat) (dl : Option Nat) : State :=
  (queueMove s { cpn := cpn, kind := .page .t1, cls := 3, seq := acc, deadline := dl, home := home }).1

/-- Does a move take a page up to T1 or T0? -/
def rising (s : State) (cpn : Nat) : Bool := (moveOf s cpn).any fun m => m.kind == .page .t1 || m.kind == .page .t0

/-- Queue a deadline move for a page below T1, unless a move already takes it up. One that takes it elsewhere ends first (R257, R462). -/
def callUp (s : State) (cpn acc home : Nat) (dl : Option Nat) : State :=
  if rising s cpn then s else queueDeadline s cpn acc home dl

/-! ### Context page numbers (R91) and location leaves -/

/-- Is the CPN inside the window of a WRITE key that is not FREE (R457)? -/
def inWindow (s : State) (cpn : Nat) : Bool :=
  s.fab.keys.any fun k => k.2.state != .free && k.2.write && decide (k.2.cpn ≤ cpn ∧ cpn < k.2.cpn + k.2.layers * k.2.span)

/-- May the CPN be taken for a new page? [DEDUCED, log 79] -/
def cpnTaken (s : State) (cpn : Nat) : Bool := tmem s.seq.locs cpn || inWindow s cpn

/-- The next CPN of a partition: ascending through its 2^37 numbers, then freed ones. [DEDUCED, log 79] -/
def allocCpn (s : State) (pt : Nat) : Option (Nat × State) :=
  let n := firstFree (fun k => cpnTaken s (pt * 2 ^ 37 + k)) 1 (s.seq.locs.length + 1) (lget s.seq.nextCpn pt 0)
  if n < 2 ^ 37 then
    some (pt * 2 ^ 37 + n, leafChange { s with seq := { s.seq with nextCpn := lset s.seq.nextCpn pt (n + 1) } }
      ((pt * 2 ^ 37 + n) / 65536))
  else
    match (lget s.seq.freed pt []).find? fun c => !cpnTaken s c with
    | none => none
    | some c => some (c, { s with seq := { s.seq with freed := lmod s.seq.freed pt fun l => l.erase c } })

/-- The leaves whose entries a step changed while they stood in T2 or moved. -/
def leavesMet (s t : State) : List Nat :=
  (s.blw.leaves.filter fun f => (f.2.inT2 || f.2.moving) && (let g := tgetD t.blw.leaves f.1 {}; !(g.inT2 || g.moving))).map (·.1)

/-- Does a leaf move already, or is its return queued? -/
def leafComes (s : State) (n : Nat) : Bool :=
  (tgetD s.blw.leaves n {}).moving || s.blw.queue.any fun r => r.cpn == n && r.kind == .leaf false

/-- The returns of leaves are queued as deadline moves of a command (R261). [DEDUCED, log 59] -/
def callLeaves (s : State) (ls : List Nat) (acc : Nat) (dl : Option Nat) : State :=
  ls.foldl (fun s n =>
    let r : MoveReq := { cpn := n, kind := .leaf false, cls := 3, seq := acc, ord := s.blw.reqNext, deadline := dl }
    { s with blw := { s.blw with queue := (s.blw.queue.filter fun q => !(q.cpn == n && q.kind == .leaf true)) ++ [r],
                                 reqNext := s.blw.reqNext + 1 } }) s

/-- Work that would change entries of a leaf in T2, or of one that moves, waits and changes nothing: the return of the leaf is queued as a
deadline move of the command that waits (R261). [DEDUCED, log 59] -/
def leafGate (s : State) (acc : Nat) (dl : Option Nat) (f : State → State) : State :=
  let t := f s
  match leavesMet s t with
  | [] => t
  | ls => callLeaves s (ls.filter fun n => !leafComes s n) acc dl

/-! ### Freeing, references, publication -/

/-- A page's PTE in some layer row: the sequence, the layer and the PTE. -/
def findPte (s : State) (cpn : Nat) : Option (Nat × Nat × Pte) :=
  s.seq.rows.findSome? fun r => (r.2.ptes.find? fun p => p.cpn == cpn).map fun p => (r.1 / 256, r.1 % 256, p)

/-- Does the entry name a region frame (R300)? Such a frame is read only. -/
def inRegion (e : Loc) : Bool := e.tier == Tier.t2 && bit e.addr 47

/-- What the stored page names itself by: its CPN, or the region frame's number (R313). -/
def identOf (s : State) (cpn : Nat) : Nat := if inRegion (s.loc cpn) then bits (s.loc cpn).addr 0 27 else cpn

/-- FILL of the stored page, expanded if it is compressed. -/
def pageFill (s : State) (cpn : Nat) : Nat :=
  let e := s.loc cpn
  if e.compressed then
    match expandPage (storeRead s (pageStore s cpn) 0 61440) (identOf s cpn) with
    | some b => field b 20 2 % 512
    | none => 0
  else hdrFill s (pageStore s cpn)

/-- Zero a page's T1 frames (SEQ_CLOSE with ZERO = 1). -/
def zeroPage (s : State) (cpn : Nat) : State :=
  let e := s.loc cpn
  let s := if e.tier = .t1 then hbmZero s (hbmFrame (e.addr / 2 ^ 20) (e.addr % 2 ^ 20)) frameBytes else s
  match e.mute with
  | some a => hbmZero s (hbmFrame (a / 2 ^ 20) (a % 2 ^ 20)) frameBytes
  | none => s

/-- The requests of a move on the pool, the drives and the host ports end without effect. A drive's commands run on; a transfer that has submitted
none gives its page buffer back. -/
def dropTraffic (s : State) (cpn : Nat) : State :=
  let giveBuf := fun (d : Drive) => { d with xfers := d.xfers.filter (fun x => x.cpn != cpn || x.sent), bufWait := d.bufWait.filter (· != cpn) }
  let s := { s with nvh := { s.nvh with drives := s.nvh.drives.map giveBuf } }
  let s := { s with cxh := { s.cxh with reqs := s.cxh.reqs.filter fun r => r.cpn != cpn } }
  { s with jlk := s.jlk.map fun l => { l with reads := l.reads.filter fun r => r.use != .movePage cpn } }

/-- A move ends without its switch: the destination goes back to its tier. -/
def endMove (s : State) (cpn : Nat) : State :=
  match moveOf s cpn with
  | none => s
  | some m =>
    let s := releaseFrame (dropTraffic s cpn) (cpnPt cpn) m.kind.dest m.dst
    { s with blw := { s.blw with moves := tdel s.blw.moves cpn } }

/-- R93 holds for a page that is not MOVING: it becomes FREE, or RETIRED if it is POISONED with a fault in a frame (R107, R284). -/
def freeNow (s : State) (cpn : Nat) (zero : Bool) : State :=
  let e := s.loc cpn
  let pt := cpnPt cpn
  let s := dropMuteReq (dropReq (endMove s cpn) cpn) cpn
  if e.state = .poisoned ∧ e.hard then
    let s := match e.mute with
      | some a => if e.hardMute then retireAt s pt .t1 a else releaseFrame s pt .t1 a
      | none => s
    let s := if e.hardMute then releaseFrame s pt e.tier e.addr else retireAt s pt e.tier e.addr
    s.setLoc cpn fun e => { e with state := .retired, mute := none, age := 0, published := false }
  else
    let s := if zero then zeroPage s cpn else s
    let s := releaseFrame s pt e.tier e.addr
    let s := match e.mute with
      | some a => releaseFrame s pt .t1 a
      | none => s
    let s := s.setLoc cpn fun _ => {}
    { s with seq := { s.seq with freed := lmod s.seq.freed pt (· ++ [cpn]) } }

/-- R93 holds: a MOVING page is freed at its move's next boundary (R275). -/
def freePage (s : State) (cpn : Nat) (zero : Bool := false) : State :=
  if (s.loc cpn).state = .moving then setMove s cpn fun m => { m with cancel := true, zero := zero }
  else freeNow s cpn zero

/-- Write the FILL of an uncompressed page's header; while it is MOVING the write is held for the switch (R276). [DEDUCED, log 79] -/
def headerFill (s : State) (cpn fill : Nat) : State :=
  if (s.loc cpn).state = .moving then setMove s cpn fun m => { m with heldFill := some fill }
  else setHdrFill s (cpnPt cpn) (pageStore s cpn) fill

/-- The profile that a page's header names, in the tables of a live epoch. -/
def headerProfile (s : State) (page : List Byte) : Option Profile := tget s.dep.cfg.profiles (field page 10 2)

/-- Change the header of a compressed page where it lies: it is coded anew, or stored whole where it no longer fits (R279). [DEDUCED, log 79] -/
def patchPacked (s : State) (cpn : Nat) (f : List Byte → List Byte) : State :=
  let st := pageStore s cpn
  match expandPage (storeRead s st 0 61440) (identOf s cpn) with
  | none => s
  | some page =>
    match (headerProfile s page).bind fun p => packPage p (identOf s cpn) (f page) with
    | some bs => (storeWrite s (cpnPt cpn) st 0 bs).setLoc cpn fun e => { e with clen := bs.length }
    | none => (storeWrite s (cpnPt cpn) st 0 (f page)).setLoc cpn fun e => { e with compressed := false, clen := 0 }

/-- The home tile of a sequence: its STAGE_TILE (R101); 0 where it has none. -/
def homeTile (s : State) (q : Nat) : Nat := if (s.ctx q).stageTile < 48 then (s.ctx q).stageTile else 0

/-- How far down a tier lies. -/
def tierRank : Tier → Nat
  | .t0 => 0 | .t1 => 1 | .t2 => 2 | .t3 => 3 | .th => 4

/-- May HINT KIND 3 queue the page for a demote (R273): one reference, not published, not MOVING, above the tier, and no STAGING page to T3? A
region frame is left only for T1 (R313). -/
def mayDemote (e : Loc) (t : Tier) : Bool :=
  e.refcnt == 1 && !e.published && (e.state == .staging || e.state == .resident || e.state == .sharedRo)
    && decide (tierRank e.tier < tierRank t) && !(e.state == .staging && t == .t3) && !inRegion e

/-- HINT KIND 3 on a page (R273): queued in class 6, or given AGE 0xFF. Answer whether a request was made, and whether AGE was set. -/
def demotePage (s : State) (cpn : Nat) (t : Tier) (home : Nat) : State × Bool × Bool :=
  if ¬ mayDemote (s.loc cpn) t then (setAge s cpn 0xFF, false, true)
  else
    let r := queueMove s { cpn := cpn, kind := .page t, cls := 6, home := home }
    if (reqOf r.1 cpn).any fun q => q.cls == 6 then (r.1, r.2, false) else (setAge r.1 cpn 0xFF, r.2, true)

/-- A page of a sequence opened with TIER_HINT became RESIDENT: it is demoted as HINT KIND 3 has it, or, without a free frame in the hinted tier,
the event is counted as blocked (R268). -/
def tierHint (s : State) (q cpn : Nat) : State :=
  let h := (s.ctx q).tierHint
  let t := if h = 1 then Tier.t2 else if h = 2 then .t3 else .th
  if h = 0 then s
  else if tierFree s (cpnPt cpn) t then (demotePage s cpn t (homeTile s q)).1
  else count s pgBlw 2 (cpnPt cpn)

/-- May a page be STAGING where it lies (R106): uncompressed, and neither in T3 nor in a region frame? [DEDUCED, log 99] -/
def mayStage (e : Loc) : Bool := !e.compressed && e.tier != .t3 && !inRegion e

/-- The last PTE of a SHARED-RO page that is not full makes it STAGING, with its FILL in the header (R107). Where it lies, or where its move takes
it, it may not be STAGING (R106): then a move down is given up, the page goes to T1 first, and it is SHARED-RO until it stands there. [DEDUCED, log 99] -/
def stageShared (s : State) (q cpn fill : Nat) : State :=
  let e := s.loc cpn
  let lift := fun (s : State) => (queueMove s { cpn := cpn, kind := .page .t1, cls := 3, seq := s.dep.accNext, home := homeTile s q }).1
  match moveOf s cpn with
  | some m =>
    if e.state ≠ .moving then (if mayStage e then headerFill (setEff s cpn .staging) cpn fill else lift s)
    else if m.kind.dest ≠ .t3 ∧ ¬ m.compress then headerFill (setEff s cpn .staging) cpn fill
    else if mayStage e then headerFill (setEff (setMove s cpn fun m => { m with cancel := true }) cpn .staging) cpn fill
    else lift (setMove s cpn fun m => { m with cancel := true })
  | none => if mayStage e then headerFill (setEff s cpn .staging) cpn fill else lift s

/-- R107 after REFCNT fell to its present value with PUBLISHED = 0 (R150). -/
def settleRef (s : State) (cpn : Nat) (zero : Bool := false) : State :=
  let e := s.loc cpn
  if e.published then s
  else if e.refcnt = 0 then freePage s cpn zero
  else if e.refcnt = 1 ∧ effState e = .sharedRo then
    match findPte s cpn with
    | some (q, _, p) =>
      let tpp := ((tget s.dep.cfg.profiles (s.ctx q).profile).map Profile.tpp).getD 0
      if pageFill s cpn = tpp then tierHint (setEff s cpn .resident) q cpn else stageShared s q cpn p.fill
    | none => setEff s cpn .resident
  else s

/-- A PTE or hold that named the page is gone. -/
def dropRef (s : State) (cpn : Nat) (zero : Bool := false) : State :=
  settleRef (s.setLoc cpn fun e => { e with refcnt := e.refcnt - 1 }) cpn zero

/-- A fork adds a PTE (R107, R110). -/
def addRef (s : State) (cpn : Nat) : State :=
  let s := s.setLoc cpn fun e => { e with refcnt := e.refcnt + 1 }
  let e := s.loc cpn
  match effState e with
  | .staging | .resident => if 2 ≤ e.refcnt then setEff s cpn .sharedRo else s
  | _ => s

/-- A page's bytes with WARM_HELD clear. -/
def dropWarmHeld (page : List Byte) : List Byte := poke page 15 (toLe 1 (setBits (field page 15 1) 3 1 0))

/-- Clear WARM_HELD in both headers (R118); the write is held for a move of the page or of its mute copy. -/
def clearWarmHeld (s : State) (cpn : Nat) : State :=
  let e := s.loc cpn
  let s := setMove s cpn fun m => { m with clearHeld := true }
  let s := if e.state = .moving ∨ inRegion e then s
    else if e.compressed then patchPacked s cpn dropWarmHeld
    else setHdrFlag s (cpnPt cpn) (pageStore s cpn) 3 false
  match e.mute with
  | some _ => setHdrFlag s (cpnPt cpn) (muteStore s cpn) 3 false
  | none => s

/-- A prefix entry names the page (R144). -/
def publishPage (s : State) (cpn : Nat) : State :=
  let s := clearWarmHeld (s.setLoc cpn fun e => { e with published := true }) cpn
  match effState (s.loc cpn) with
  | .resident => setEff s cpn .sharedRo
  | _ => s

/-- The entry that named the page is gone (R149, R150). -/
def unpublishPage (s : State) (cpn : Nat) : State :=
  settleRef (s.setLoc cpn fun e => { e with published := false }) cpn

/-! ### Poison (R107, R116, R139, R277) -/

/-- The prefix entries that name the page are spoiled (R139). Event 0x12. -/
def spoilEntries (s : State) (cpn : Nat) : State :=
  s.chn.dir.foldl (fun s e =>
    if e.2.state = .live ∧ e.2.cpns.contains cpn ∧ ¬ e.2.spoiled then
      errEvent (s.setSlot e.1 fun d => { d with spoiled := true }) 0x12 1 pgChn 1 0 e.1 cpn [cpnPt cpn]
    else s) s

/-- An uncorrectable error makes a page POISONED (R107). `hard`: the fault lies in the frame; `ofMute`: in the mute frame. Event
0x10. -/
def poisonPage (s : State) (cpn : Nat) (hard : Bool) (ofMute : Bool := false) : State :=
  if ¬ pageLive (s.loc cpn) then s
  else
    let s := endMove s cpn
    let s := dropMuteReq (dropReq s cpn) cpn
    let s := s.setLoc cpn fun e => { e with state := .poisoned, hard := hard, hardMute := hard && ofMute }
    let s := errEvent s 0x10 1 pgSeq 1 0 (b2n hard) cpn [cpnPt cpn]
    let s := spoilEntries s cpn
    let e := s.loc cpn
    if e.refcnt = 0 ∧ ¬ e.published then freeNow s cpn false else s

/-- The HBM controller counts an uncorrectable unit, which reads as poison from now on; in the carve-out, the units whose MACs lie in it do
(R286, R483). -/
def countUe (s : State) (a : Nat) : State :=
  let m := a / 2 ^ 36
  let us := if inCarve a then (List.range 32).map fun i => macUnit (a + i) else [a / 256]
  let s := s.setHb m fun h => { h with ue := (h.ue + 1) % 2 ^ 32, lastUe := a / 256 * 256 }
  let s := count s (pgHbc m) 4 15
  { s with mems := { s.mems with badUnits := us.foldl (fun l u => if l.contains u then l else l ++ [u]) s.mems.badUnits } }

/-- A read of a page meets poison: in HBM a MAC mismatch counts (R508) as an uncorrectable unit, whose patterns read back clean (R286), and the page
becomes POISONED. [DEDUCED, log 100] -/
def poisonRead (s : State) (cpn : Nat) (st : Store) (mu : Bool) : State :=
  let s := match st with
    | .hbm a =>
      match s.mems.badUnits.find? fun u => decide (a / 256 ≤ u ∧ u < (a + frameBytes) / 256) with
      | some u => countUe (count s pgSec 1 15) (u * 256)
      | none => s
    | _ => s
  poisonPage s cpn false mu

/-- A command found poison in a layer it needs (R116). Event 0x11. -/
def poisonLayer (s : State) (q l : Nat) : State :=
  if (s.row q l).poisoned then s
  else
    let pt := (s.ctx q).pt
    let s := s.setRow q l fun r => { r with poisoned := true }
    let s := s.setCtx q fun c => { c with poisonedLayers := c.poisonedLayers + 1 }
    errEvent (count s pgSeq 7 pt) 0x11 1 pgSeq 2 l 0 q [pt]

/-- Is the page POISONED? -/
def pagePoisoned (s : State) (cpn : Nat) : Bool := (s.loc cpn).state == .poisoned

/-! ### Touches, samples, prefetch -/

/-- Is the request a spill or a demote: a move down to T2, T3 or TH (R271)? -/
def MoveReq.down (r : MoveReq) : Bool :=
  r.cls != 1 && (match r.kind with | .page t => t != .t0 && t != .t1 | _ => false)

/-- A move's cancellation is marked for its next block boundary. -/
def markCancel (s : State) (cpn : Nat) : State := setMove s cpn fun m => { m with cancel := true }

/-- What the Bellows does for a page of an accepted ATTEND's list (R271). -/
def prefetchPage (s : State) (acc home : Nat) (dl : Option Nat) (cpn : Nat) : State :=
  let e := s.loc cpn
  let kind : Option MoveKind := (moveOf s cpn).map fun m => m.kind
  let down : Bool := match kind with
    | some (.page t) => t != .t0 && t != .t1
    | _ => false
  let stays : Bool := kind == some .mute || (kind == some (.page .t1) && e.tier == .t1)
  if ¬ pageLive e then s
  else if upper e then
    if e.state ≠ .moving then
      let s := if (reqOf s cpn).any MoveReq.down then dropReq s cpn else s
      useAge s cpn
    else if down then useAge (markCancel s cpn) cpn
    else if stays then useAge s cpn
    else s
  else if e.state ≠ .moving then
    if (ptPolicy s (cpnPt cpn)).prefetchEn then queueDeadline s cpn acc home dl else s
  else if down then
    let s := markCancel s cpn
    if (ptPolicy s (cpnPt cpn)).prefetchEn then queueDeadline s cpn acc home dl else s
  else s

/-- A page read or flush write of a partition with a home tile (R263): a free value decides whether it is sampled. -/
def sampleUse (s : State) (cpn home : Nat) : State :=
  let d := draw s
  let s := d.2
  if d.1 % 2 ^ (blwPolicy s).sampleLog2 ≠ 0 then s
  else
    let pt := cpnPt cpn
    let s := useAge (sketchAdd (count s pgBlw 6 pt) cpn) cpn
    let hot := (ptPolicy s pt).t0Hot
    if hot ≠ 0 ∧ (s.loc cpn).tier = .t1 ∧ hot ≤ estimate s cpn then queueTo s cpn .t0 7 home else s

end Sys2Proof.Machine
end

