-- ==== Sys2Proof/Machine/Rows.lean ====
section
/-!
DEFINITION. Token rows: rotary embedding (R98), conversion into the profile's formats (R100), rows of a page (R94), KC4 scale and
bias tables at a flush (R104, R161 to R163), and mute copies (R97).
-/

namespace Sys2Proof.Machine

/-! ### Supplied keys and values -/

/-- The elements of a supplied block, laid out [token][head][channel], as values. -/
def srcElems (fmt n : Nat) (bs : List Byte) : List Val := (unpackElems (elemBits fmt) n bs).map (decodeElem fmt)

/-- Cut a list into `n` equal parts of `k`. -/
def parts {α : Type} (k : Nat) (l : List α) : List (List α) := chunks k (l.length + 1) l

/-- Rotated channel count. -/
def Profile.rotD (p : Profile) : Nat := if p.rotDims = 0 then p.hdim else p.rotDims

/-- The channel that makes a pair with channel c of D rotated ones, the pair's index, and whether c is the pair's first (R98). -/
def rotPairOf (interleaved : Bool) (d c : Nat) : Nat × Nat × Bool :=
  if interleaved then (if c % 2 = 0 then (c + 1, c / 2, true) else (c - 1, c / 2, false))
  else if c < d / 2 then (c + d / 2, c, true)
  else (c - d / 2, c - d / 2, false)

/-- Rotate one key of a head at a position (R98). -/
def rotate (p : Profile) (pos : Nat) (k : List Val) : List Val :=
  if ¬ p.rotEn then k
  else
    let d := p.rotD
    let x := k.map toF32
    let cs := (List.range (d / 2)).map fun j => ropeCosSin pos p.rotPosScale (invFreq p.rotBase j d)
    k.zipIdx.map fun v =>
      if d ≤ v.2 then v.1
      else
        let q := rotPairOf p.rotPair d v.2
        let t := lget cs q.2.1 (f32One, 0)
        let a := lget x v.2 0
        let b := lget x q.1 0
        v32 (if q.2.2 then fsub (fmul a t.1) (fmul b t.2) else fadd (fmul b t.2) (fmul a t.1))

/-- Format in which keys are staged: BF16 for KC4 (R161). -/
def Profile.kStage (p : Profile) : Nat := if p.kFmt = 0xE then 1 else p.kFmt
def Profile.ksStage (p : Profile) : Nat := rowStride p.kStage p.hdim

/-- One token in the form R100 stages it: a row for each head. -/
def stageTok (p : Profile) (seed seq layer pos : Nat) (ks vs : List (List Val)) : StagedTok where
  pos := pos
  key := ks.zipIdx.flatMap fun k =>
    encodeRow p.kStage (srRow (p.sr && p.kFmt != 0xE) seed seq layer pos false false k.2) (rotate p pos k.1)
  val := vs.zipIdx.flatMap fun v => encodeRow p.vFmt (srRow p.sr seed seq layer pos false true v.2) v.1

/-- How many elements of a list of rows convert a NaN to zero (R167). -/
def nanCount (fmt : Nat) (rows : List (List Val)) : Nat := (rows.flatten.filter (nanZeroed fmt)).length

/-- The tokens of an APPEND, from its key and value bytes; positions from `pos0` on. Answer also the count of CVT_NAN_ZERO. -/
def appendToks (p : Profile) (seed seq layer pos0 n kf vf : Nat) (kb vb : List Byte) : List StagedTok × Nat :=
  let per := p.kvh * p.hdim
  let ks := (parts per (srcElems kf (n * per) kb)).map (parts p.hdim)
  let vs := (parts per (srcElems vf (n * per) vb)).map (parts p.hdim)
  (((ks.zip vs).zipIdx).map fun t => stageTok p seed seq layer (pos0 + t.2) t.1.1 t.1.2,
   (ks.zipIdx.foldl (fun c r => c + nanCount p.kStage (r.1.map (rotate p (pos0 + r.2)))) 0) + vs.foldl (fun c r => c + nanCount p.vFmt r) 0)

/-- Granules of 4 KiB that n staged tokens of a profile need: keys and values in separate runs. -/
def granules (p : Profile) (n : Nat) : Nat := ceilDiv (n * p.kvh * p.ksStage) 4096 + ceilDiv (n * p.kvh * p.vs) 4096

/-! ### Rows of a page (R94) -/

def keyRowAt (p : Profile) (h slot : Nat) : Nat := 0x1000 + (h * p.tpp + slot) * p.ks
def valRowAt (p : Profile) (h slot : Nat) : Nat := 0x1000 + p.ka + (h * p.tpp + slot) * p.vs

/-- Write one row of each head, laid one after the other in `bs`. -/
def putRows (s : State) (pt : Nat) (st : Store) (at_ : Nat → Nat) (stride kvh : Nat) (bs : List Byte) : State :=
  (List.range kvh).foldl (fun s h => storeWrite s pt st (at_ h) ((bs.drop (h * stride)).take stride)) s

/-- The channel scale table of a first flush (R161): for each head and channel, from the largest finite magnitude. `ks` holds for
each token its heads' channels. -/
def scaleTable (p : Profile) (ks : List (List (List Val))) : List Byte :=
  (List.range p.kvh).flatMap fun h => (List.range p.hdim).map fun c =>
    BitVec.ofNat 8 (kc4Scale (maxFin (ks.map fun t => lget (lget t h []) c .zero)))

/-- Quantise one token's keys with a scale table: its bias byte and its rows (R162, R163). -/
def kc4Token (p : Profile) (tab : List Byte) (rnd : Nat → Nat → Option Nat) (ks : List (List Val)) : Byte × List Byte :=
  let sc := fun h c => (lget tab (h * p.hdim + c) 0).toNat
  let b := kc4Bias (ks.zipIdx.flatMap fun r => r.1.zipIdx.map fun v => (v.1, sc r.2 v.2))
  (BitVec.ofInt 8 b, ks.zipIdx.flatMap fun r =>
    padTo p.ks (packElems 4 (r.1.zipIdx.map fun v => kc4Elem (rnd r.2 v.2) v.1 (sc r.2 v.2) b)))

/-- Write KC4 keys from slot `slot0` on, setting the scale table at the first flush into the page (R104). -/
def putKc4 (s : State) (pt : Nat) (st : Store) (p : Profile) (slot0 : Nat) (rnd : Nat → Nat → Nat → Option Nat)
    (ks : List (List (List Val))) : State :=
  let s := if bit (hdrFlags s st) 2 then s
    else setHdrFlag (storeWrite s pt st 0x200 (padTo 2048 (scaleTable p ks))) pt st 2 true
  let tab := storeRead s st 0x200 (p.kvh * p.hdim)
  ks.zipIdx.foldl (fun s t =>
    let q := kc4Token p tab (rnd t.2) t.1
    let slot := slot0 + t.2
    putRows (storeWrite s pt st (0x100 + slot) [q.1]) pt st (fun h => keyRowAt p h slot) p.ks p.kvh q.2) s

/-- The heads' channels of a staged key of a KC4 profile. -/
def stagedBf16 (p : Profile) (t : StagedTok) : List (List Val) :=
  (List.range p.kvh).map fun h => decodeRow 1 p.hdim (t.key.drop (h * p.ksStage))

/-- Write tokens into the primary page from slot `slot0` on. -/
def putTokens (s : State) (pt : Nat) (st : Store) (p : Profile) (seed seq layer slot0 : Nat) (toks : List StagedTok) : State :=
  let s := toks.zipIdx.foldl (fun s t => putRows s pt st (fun h => valRowAt p h (slot0 + t.2)) p.vs p.kvh t.1.val) s
  if p.kFmt = 0xE then
    putKc4 s pt st p slot0
      (fun i h c => srRow p.sr seed seq layer ((toks[i]?).map (·.pos) |>.getD 0) false false h c) (toks.map (stagedBf16 p))
  else toks.zipIdx.foldl (fun s t => putRows s pt st (fun h => keyRowAt p h (slot0 + t.2)) p.ks p.kvh t.1.key) s

/-- The keys and the values of slots of a stored page, decoded: for each slot its heads' channels. A KC4 key uses the page's
tables (R160). -/
def pageKeys (s : State) (st : Store) (p : Profile) (slot0 n : Nat) : List (List (List Val)) :=
  let tab := if p.kFmt = 0xE then storeRead s st 0x200 (p.kvh * p.hdim) else []
  (List.range n).map fun i => (List.range p.kvh).map fun h =>
    let row := storeRead s st (keyRowAt p h (slot0 + i)) p.ks
    if p.kFmt = 0xE then
      let b := kc4BiasOf (lget (storeRead s st (0x100 + slot0 + i) 1) 0 0)
      (unpackElems 4 p.hdim row).zipIdx.map fun q => kc4Val q.1 (lget tab (h * p.hdim + q.2) 0).toNat b
    else decodeRow p.kFmt p.hdim row
def pageVals (s : State) (st : Store) (p : Profile) (slot0 n : Nat) : List (List (List Val)) :=
  (List.range n).map fun i => (List.range p.kvh).map fun h =>
    decodeRow p.vFmt p.hdim (storeRead s st (valRowAt p h (slot0 + i)) p.vs)

/-- Values as FP32 decodes them (R164). -/
def asF32 (l : List (List (List Val))) : List (List (List Val)) := l.map decoded

/-- Write mute-copy rows for slots of the primary (R97): KC4 keys and MXFP4 values, from the primary's stored values. -/
def putMute (s : State) (pt : Nat) (src st : Store) (p : Profile) (seed seq layer slot0 pos0 n : Nat) : State :=
  let mp := p.mutePart
  let ks := asF32 (pageKeys s src p slot0 n)
  let vs := asF32 (pageVals s src p slot0 n)
  let s := putKc4 s pt st mp slot0 (fun i h c => srRow p.sr seed seq layer (pos0 + i) true false h c) ks
  vs.zipIdx.foldl (fun s t => putRows s pt st (fun h => valRowAt mp h (slot0 + t.2)) mp.vs mp.kvh
    (t.1.zipIdx.flatMap fun v => encodeRow 0xC (srRow p.sr seed seq layer (pos0 + t.2) true true v.2) v.1)) s

/-- CVT_NAN_ZERO of a mute copy's keys. -/
def muteNans (s : State) (src : Store) (p : Profile) (slot0 n : Nat) : Nat :=
  (pageKeys s src p slot0 n).foldl (fun c r => c + nanCount 0xE r) 0

/-- The flags byte of a header. -/
def hdrFlagsOf (muteCopy warmed scalesFixed warmHeld : Bool) : Nat :=
  b2n muteCopy + 2 * b2n warmed + 4 * b2n scalesFixed + 8 * b2n warmHeld

/-- A page's header for a profile. -/
def pageHeader (p : Profile) (profId cpn layer origin flags pos fill epoch : Nat) : List Byte :=
  headerBytes cpn layer profId origin flags pos fill p.kFmt p.vFmt p.ks p.vs (0x1000 + p.ka) epoch

/-- Copy the bytes of a place to another. -/
def copyRange (s : State) (pt : Nat) (src dst : Store) (off n : Nat) : State := storeWrite s pt dst off (storeRead s src off n)

/-- Copy the first n slots of a page with its tables (R111). -/
def copySlots (s : State) (pt : Nat) (src dst : Store) (p : Profile) (n : Nat) : State :=
  let s := copyRange s pt src dst 0x100 0x900
  (List.range p.kvh).foldl (fun s h =>
    let s := copyRange s pt src dst (keyRowAt p h 0) (n * p.ks)
    copyRange s pt src dst (valRowAt p h 0) (n * p.vs)) s

end Sys2Proof.Machine
end

