-- ==== Sys2Proof/Machine/Units.lean ====
section
/-!
DEFINITION. What every executing unit does with a command: is it issued and its epoch applied (R75), the checks repeated when it
begins, the context cache (R87), the append lock (R68, R69), waits for frames and granules (R260, R102), staging (R101, R105).
-/

namespace Sys2Proof.Machine

/-! ### The command at its unit -/

/-- Does the unit class of a SCOPE bit still have to apply the epoch that the node carries (R75)? -/
def unitLags (s : State) (n : Node) (b : Nat) : Bool := n.hdr.epoch == s.dep.epoch && bit s.dep.lag b

/-- The SCOPE bits of the unit classes that run a command once it is issued (R71): the tiles apply the partition map as well as the mask
and group tables. -/
def unitBits : Cmd → List Nat
  | .nop | .fence _ | .epochCommit _ _ | .graphBegin _ _ _ => [1]
  | .attend _ | .headGather _ | .spanMerge _ | .warm _ _ _ _ _ => [3, 7]
  | .hint _ _ _ _ _ => [5]
  | .putPage _ | .getPage _ | .send _ _ _ | .postRecv _ _ _ => [4]
  | _ => [0]

/-- Do all units that run the command stand at an epoch under which they may run it (R75)? -/
def unitsReady (s : State) (n : Node) : Bool := (unitBits n.cmd).all fun b => !unitLags s n b

/-- An issued command that has not ended and whose units may run it. -/
def liveNode (s : State) (acc : Nat) : Option Node :=
  match s.node acc with
  | some n => if n.issued ∧ n.outcome.isNone ∧ unitsReady s n ∧ ¬ s.boot.fatal then some n else none
  | none => none

/-- Count a command that a unit holds under R75, once (EPOCH_HELD). -/
def noteHeld (s : State) (n : Node) : State :=
  if n.epochHeld then s else count (s.setNode n.acc fun m => { m with epochHeld := true }) pgDep 3 (ringPt n.ring)

/-- The tiles that commands of epoch e may use: those of their partition under that epoch's map which the map the tiles have applied leaves
to it, as no operation runs on a tile outside its own partition (R28). -/
def tilesFor (s : State) (e pt : Nat) : List Nat :=
  (tilesAt s e pt).filter fun t => e == s.dep.epoch || bit (s.mapOf pt).tiles t
def nodeTiles (s : State) (n : Node) : List Nat := tilesFor s n.hdr.epoch (ringPt n.ring)

/-- The checks a unit repeats when it begins: the sequence a command names is OPEN (R114), and steps 4 to 6, which the fetch could
not make for a sequence that was not open then. [DEDUCED, log 36] -/
def beginCheck (s : State) (n : Node) : Option Comp :=
  match namedSeq n.cmd with
  | some (q, b) => if seqOpen s q then check456 s n.ring n.hdr n.cmd else some (invalidAt b)
  | none => check456 s n.ring n.hdr n.cmd

/-- A POISON record of a command (R520): object kind and object. -/
def recPoison (s : State) (n : Node) (kind object : Nat) : State :=
  recNow s 0x09 (ringPt n.ring) n.acc (toLe 1 kind ++ zeros 7 ++ toLe 8 object) (ringSecure s n.ring)

/-- The failure of a read of a command's buffer: poison or a failed host read give POISONED (R407), a region that is gone gives
REVOKED (R315). -/
def readFail : ReadRes → Comp
  | .revoked => failWith .revoked
  | _ => failWith .poisoned

/-- Read a buffer for a command: its bytes, or the state and failure. A read that meets poison is recorded. -/
def readRef (s : State) (n : Node) (r len : Nat) : Except (State × Comp) (List Byte) :=
  match refRead s n.ring n.hdr.epoch r len with
  | .data bs => .ok bs
  | .poison => .error (recPoison s n 0 r, failWith .poisoned)
  | x => .error (s, readFail x)

/-! ### The context cache (R87) -/

/-- Put a sequence into the cache of 65,536 contexts. Where the partition's part of it is full, one of the contexts that share that
part leaves; which one the spec does not say. [DEDUCED, log 22] -/
def cacheCtx (s : State) (q : Nat) : State :=
  let ptOf := fun (x : Nat) => (s.ctx x).pt
  let pt := ptOf q
  if s.seq.cached.contains q then s
  else if capRoom s pt 65536 1 (fun p => (s.seq.cached.filter fun x => ptOf x == p).length) then
    { s with seq := { s.seq with cached := s.seq.cached ++ [q] } }
  else
    let strict := strictPts s
    let share := s.seq.cached.filter fun x => if strict.contains pt then ptOf x == pt else !strict.contains (ptOf x)
    let d := draw s
    let s := d.2
    { s with seq := { s.seq with cached := (s.seq.cached.filter fun x => x != lget share (d.1 % share.length) q) ++ [q] } }

/-- Is the context at hand? If not, its fetch begins, and the command waits. -/
def ctxHere (s : State) (q pt : Nat) : Bool × State :=
  if s.seq.cached.contains q then (true, s)
  else if s.seq.fetching.contains q then (false, s)
  else (false, count { s with seq := { s.seq with fetching := s.seq.fetching ++ [q] } } pgSeq 0 pt)

/-- CTX_FETCH_DONE: the fetched context stands in the cache. -/
def ctxFetched (s : State) (q : Nat) : State :=
  if s.seq.fetching.contains q then
    cacheCtx { s with seq := { s.seq with fetching := s.seq.fetching.filter (· != q) } } q
  else s

def execCtxFetchDone (seq : Nat) (s : State) : Host.Outcome State Fault Refusal :=
  .next (if s.boot.fatal then s else ctxFetched s seq)

/-! ### The append lock -/

/-- Does the command hold the sequence's lock, or is the lock free? -/
def lockFree (s : State) (q acc : Nat) : Bool :=
  match (s.ctx q).lockOwner with
  | none => !windowBinds s q
  | some a => a == acc
def takeLock (s : State) (q acc ring : Nat) : State := s.setCtx q fun c => { c with lockOwner := some acc, lockRing := ring }
def dropLock (s : State) (q : Nat) : State := s.setCtx q fun c => { c with lockOwner := none }
/-- BUSY for a held lock. -/
def lockBusy (s : State) (n : Node) : State := finish (count s pgSeq 6 (ringPt n.ring)) n.acc (failWith .busy)

/-- The sequence whose append lock a command needs (R50). [DESIGN CHOICE, log 45] -/
def lockSeq : Cmd → Option Nat
  | .seqFork _ false p _ => some (p % 2 ^ 20)
  | .seqClose q _ | .flush q _ | .prefixPublish q _ _ _ _ _ | .warm q _ _ _ _ => some q
  | .append a => some a.seq
  | _ => none

/-- The contenders of one cycle for a sequence's lock: issued commands, not ended, that need it and pass the checks before it (R56). -/
def contenders (s : State) (q : Nat) (accs : List Nat) : List Node :=
  accs.eraseDups.filterMap fun a => (liveNode s a).filter fun n => lockSeq n.cmd == some q && (beginCheck s n).isNone

/-- R69: two or more contend for a free lock: the pointer chooses the ring, ACC the command within it; the losers end with BUSY and
the winner holds the lock. Fewer leave the state as it is. [DESIGN CHOICE, log 45] -/
def arbitrate (s : State) (q : Nat) (accs : List Nat) : State :=
  let cs := contenders s q accs
  if cs.length < 2 ∨ (s.ctx q).lockOwner.isSome ∨ windowBinds s q then s
  else
    match ptrPick 2048 (s.ctx q).lockPtr (cs.map (·.ring)) with
    | none => s
    | some r =>
      match minBy (·.acc) (cs.filter (·.ring == r)) with
      | none => s
      | some w =>
        let s := (takeLock s q w.acc r).setCtx q fun c => { c with lockPtr := ptrNext 2048 r }
        (cs.filter (·.acc != w.acc)).foldl lockBusy s

/-- A command of the Lock column (R50) runs with those that try its lock in its cycle: the pointer decides among them, and it goes on unless it
has lost (R69). [DESIGN CHOICE, log 45] -/
def contended (s : State) (acc : Nat) (rivals : List Nat) (f : State → Node → State) : State :=
  match liveNode s acc with
  | none => s
  | some n =>
    let s := match lockSeq n.cmd with
      | some q => arbitrate s q (acc :: rivals)
      | none => s
    match liveNode s acc with
    | some n => f s n
    | none => s

/-! ### Waits for frames and granules (R260, R102) -/

def allocWaiting (s : State) (acc : Nat) : Bool := s.seq.allocWaits.any fun w => w.acc == acc
/-- The command waits up to ALLOC_WAIT_US of its partition's policy. [DEDUCED, log 41] -/
def allocWait (s : State) (n : Node) : State :=
  if allocWaiting s n.acc then s
  else
    let us := (ptPolicy s (ringPt n.ring)).allocWaitUs
    { s with seq := { s.seq with allocWaits := s.seq.allocWaits ++ [{ acc := n.acc, until_ := s.time + us * 1000 }] } }
def allocDone (s : State) (acc : Nat) : State :=
  { s with seq := { s.seq with allocWaits := s.seq.allocWaits.filter fun w => w.acc != acc } }

/-! ### Staging -/

/-- The profile of a sequence in the tables of an epoch. -/
def seqProfile (s : State) (e q : Nat) : Option Profile := profileAt s e (s.ctx q).profile

/-- The staging entry of a layer. -/
def stageOf (s : State) (q l : Nat) : Option StageEntry := tget s.seq.stage (q * 256 + l)

/-- Granules of an entry. Its profile is one of a live epoch. -/
def entryGranules (s : State) (e : Nat × StageEntry) : Nat :=
  match tget s.dep.cfg.profiles (s.ctx (e.1 / 256)).profile with
  | some p => granules p e.2.toks.length
  | none => 0

/-- Free granules of a tile: 512 less those of its entries and those kept for reads (R105). -/
def freeGranules (s : State) (t : Nat) : Nat :=
  512 - ((s.seq.stage.filter fun e => e.2.tile == t).map (entryGranules s)).sum
    - ((s.seq.kept.filter fun k => k.tile == t).map (·.granules)).sum

/-- R101: of a list of tiles, the one with the most free granules, the lowest of equal ones; 0x3F for none. -/
def chooseTile (s : State) (ts : List Nat) : Nat := (minBy (fun t => 512 - freeGranules s t) ts).getD 0x3F

/-- The ATTENDs that read the staged tokens of a layer (R105). -/
def stageReaders (s : State) (q l : Nat) : List Nat :=
  (s.att.ops.filter fun o => o.2.seq == q && o.2.layer == l && !o.2.staged.isEmpty).map (·.1)

/-- The layer's staged tokens leave their entry; the granules stay while an ATTEND issued before reads them. -/
def dropStage (s : State) (q l : Nat) : State :=
  match stageOf s q l with
  | none => s
  | some e =>
    let rs := stageReaders s q l
    let kept := if rs.isEmpty then s.seq.kept
      else s.seq.kept ++ [{ tile := e.tile, granules := entryGranules s (q * 256 + l, e), readers := rs }]
    { s with seq := { s.seq with stage := tdel s.seq.stage (q * 256 + l), kept := kept } }

/-- An ATTEND has ended: granules that only it kept are free. -/
def releaseKept (s : State) (acc : Nat) : State :=
  let ks := s.seq.kept.map fun k => { k with readers := k.readers.filter (· != acc) }
  { s with seq := { s.seq with kept := ks.filter fun k => !k.readers.isEmpty } }

end Sys2Proof.Machine
end

