-- ==== Sys2Proof/Machine/Flush.lean ====
section
/-!
DEFINITION. New pages, copy on write (R111) and the flush of a layer's staged tokens into its tail page (R103 to R108), with and
without the append lock.
-/

namespace Sys2Proof.Machine

/-- Frames a page of the profile takes: one, and one for its mute copy. -/
def Profile.framesPerPage (p : Profile) : Nat := if p.mute then 2 else 1

/-- What a new page is written with. -/
structure NewPage where
  prof : Profile
  profId : Nat
  seq : Nat
  layer : Nat
  pos : Nat
  epoch : Nat
  home : Nat
  warmed : Bool := false
  deriving DecidableEq, Repr

/-- Allocate a CPN with a T1 frame, and one for its mute copy, and write both headers with FILL 0 (R107). The entry's state is set
by the caller. -/
def newPage (s : State) (pt : Nat) (x : NewPage) : Option (Nat × State) :=
  match allocCpn s pt with
  | none => none
  | some (cpn, s) =>
    match t1Alloc s pt (x.home / 12) (.page cpn) with
    | none => none
    | some (a, s) =>
      let hdr := fun (p : Profile) (m : Bool) =>
        pageHeader p x.profId cpn x.layer x.seq (hdrFlagsOf m x.warmed false x.warmed) x.pos 0 x.epoch
      let s := s.setLoc cpn fun _ => { tier := .t1, state := .staging, addr := a, refcnt := 1 }
      let s := storeWrite (hbmZero s (hbmFrame (a / 2 ^ 20) (a % 2 ^ 20)) 0x1000) pt (storeOf s pt .t1 a) 0 (hdr x.prof false)
      if ¬ x.prof.mute then some (cpn, s)
      else
        match t1Alloc s pt (x.home / 12) (.mute cpn) with
        | none => none
        | some (b, s) =>
          let s := s.setLoc cpn fun e => { e with mute := some b }
          some (cpn, storeWrite (hbmZero s (hbmFrame (b / 2 ^ 20) (b % 2 ^ 20)) 0x1000) pt (storeOf s pt .t1 b) 0
            (hdr x.prof.mutePart true))

/-- A mute copy's rows from the primary, and their CVT_NAN_ZERO, counted on a tile (R97, R167). [DEDUCED, log 60] -/
def muteRows (s : State) (tile pt : Nat) (src ms : Store) (p : Profile) (seed seq layer slot0 pos0 n : Nat) : State :=
  putMute (tileCount s tile 22 (muteNans s src p slot0 n)) pt src ms p seed seq layer slot0 pos0 n

/-- Write tokens into a page from a slot on: the primary's rows, FILL, and the mute copy's rows. CVT_NAN_ZERO of the flush is counted
on the home tile. -/
def fillPage (s : State) (cpn : Nat) (x : NewPage) (seed slot0 : Nat) (toks : List StagedTok) : State :=
  let pt := cpnPt cpn
  let st := pageStore s cpn
  let p := x.prof
  let nans := if p.kFmt = 0xE then (toks.map fun t => nanCount 0xE (stagedBf16 p t)).sum else 0
  let s := putTokens s pt st p seed x.seq x.layer slot0 toks
  let s := setHdrFill s pt st (slot0 + toks.length)
  let s := tileCount s x.home 22 nans
  if p.mute ∧ (s.loc cpn).mute.isSome then
    let ms := muteStore s cpn
    let s := muteRows s x.home pt st ms p seed x.seq x.layer slot0 ((toks.head?.map (·.pos)).getD x.pos) toks.length
    setHdrFill s pt ms (slot0 + toks.length)
  else s

/-- Copy on write (R111): a new page with the first `fill` slots of the old one and its tables; the mute copy likewise, or built from
the new primary where the old page has none. -/
def copyPage (s : State) (old fill : Nat) (x : NewPage) (seed : Nat) : Option (Nat × State) :=
  let pt := cpnPt old
  let src := pageStore s old
  let x := { x with pos := hdrField s src 16 4 }
  match newPage s pt x with
  | none => none
  | some (cpn, s) =>
    let st := pageStore s cpn
    let s := copySlots s pt src st x.prof fill
    let s := setHdrFlag s pt st 2 (bit (hdrFlags s src) 2)
    let s := setHdrFill s pt st fill
    let s :=
      if ¬ x.prof.mute then s
      else
        let ms := muteStore s cpn
        let s := match (s.loc old).mute with
          | some _ =>
            let s := copySlots s pt (muteStore s old) ms x.prof.mutePart fill
            setHdrFlag s pt ms 2 (bit (hdrFlags s (muteStore s old)) 2)
          | none => muteRows s x.home pt st ms x.prof seed x.seq x.layer 0 x.pos fill
        setHdrFill s pt ms fill
    some (cpn, count s pgSeq 5 pt)

/-- What a flush comes to: it is done; its tail page is moving or must first be moved to T1; frames or CPNs are short; a page that it
needs is POISONED. -/
inductive FlushRes where
  | done (s : State)
  | blocked (s : State)
  | noSpace
  | poisoned (s : State)
  deriving DecidableEq, Repr

/-- The tail page with free slots, if the layer has one: its index and PTE. -/
def tailOf (s : State) (q l : Nat) (tpp : Nat) : Option (Nat × Pte) :=
  let ps := (s.row q l).ptes
  match ps.getLast? with
  | some p => if p.fill < tpp then some (ps.length - 1, p) else none
  | none => none

/-- Does a flush of the layer need a new page: it has no tail page, or a shared one (R111)? -/
def needsPage (s : State) (q l tpp : Nat) : Bool :=
  match tailOf s q l tpp with
  | none => true
  | some (_, p) => (s.loc p.cpn).state == .sharedRo

/-- Does the page move, or its mute copy (R276, R283)? -/
def pageMoves (s : State) (cpn : Nat) : Bool :=
  (s.loc cpn).state == .moving || (moveOf s cpn).any fun m => m.kind == .evacMute

/-- Must the tail page be waited for: it or its mute copy moves, or it lies where a flush cannot write and must be moved to T1 first (R108,
R257)? -/
def tailBusy (s : State) (cpn : Nat) : Bool :=
  let e := s.loc cpn
  pageMoves s cpn || (pageLive e && (e.compressed || e.tier == .t3 || (e.state == .sharedRo && !upper e)))

/-- Each 512 PTEs of a layer lie in a chunk, which the sequence engine places where it likes (R88): an address left open. [DEDUCED, log 43] -/
def addChunks (s : State) (q l : Nat) : State :=
  let r := s.row q l
  if r.ptes.length ≤ 512 * r.chunks.length then s
  else
    (List.range (ceilDiv r.ptes.length 512 - r.chunks.length)).foldl (fun s _ =>
      let d := draw s
      d.2.setRow q l fun r => { r with chunks := r.chunks ++ [d.1 % 2 ^ 28 * 4096] }) s

/-- Put a PTE at a page index. -/
def setPte (s : State) (q l i : Nat) (p : Pte) : State :=
  addChunks (s.setRow q l fun r => { r with ptes := if i < r.ptes.length then lset r.ptes i p else r.ptes ++ [p] }) q l

/-- A page that reaches TPP tokens is RESIDENT (R107), and a hinted sequence's page is queued for a demote (R268). -/
def pageFull (s : State) (q cpn fill tpp : Nat) : State :=
  if fill = tpp ∧ effState (s.loc cpn) = .staging then tierHint (setEff s cpn .resident) q cpn else s

/-- Write tokens at the end of a layer's tail page, in place. -/
def flushInto (s : State) (q l i : Nat) (p : Pte) (x : NewPage) (seed : Nat) (toks : List StagedTok) : State :=
  let s := fillPage s p.cpn x seed p.fill toks
  let fill := p.fill + toks.length
  let s := setPte s q l i { p with fill := fill }
  sampleUse (pageFull s q p.cpn fill x.prof.tpp) p.cpn x.home

/-- Flush tokens into the layer's tail page, a new one or a copy of a shared one (R103, R111). -/
def flushToks (s : State) (q l : Nat) (x : NewPage) (seed : Nat) (toks : List StagedTok) : FlushRes :=
  let pt := (s.ctx q).pt
  match tailOf s q l x.prof.tpp with
  | none =>
    let i := (s.row q l).ptes.length
    match newPage s pt { x with pos := (toks.head?.map (·.pos)).getD 0 } with
    | none => .noSpace
    | some (cpn, s) => .done (flushInto s q l i { cpn := cpn, fill := 0 } x seed toks)
  | some (i, p) =>
    let e := s.loc p.cpn
    if e.state = .poisoned then .poisoned (poisonLayer s q l)
    else if tailBusy s p.cpn then .blocked s
    else if storeBad s (pageStore s p.cpn) 0 frameBytes then .poisoned (poisonLayer (poisonRead s p.cpn (pageStore s p.cpn) false) q l)
    else if e.state = .sharedRo then
      match copyPage s p.cpn p.fill x seed with
      | none => .noSpace
      | some (cpn, s) =>
        let s := setPte s q l i { cpn := cpn, fill := p.fill }
        let s := dropRef s p.cpn
        let s := s.setCtx q fun c => { c with cowCopies := c.cowCopies + 1 }
        .done (flushInto s q l i { cpn := cpn, fill := p.fill } x seed toks)
    else .done (flushInto s q l i p x seed toks)

/-- Queue the move to T1 that a blocked flush of a command waits for (R257). [DEDUCED, log 41] -/
def liftTail (s : State) (q l tpp acc : Nat) : State :=
  match tailOf s q l tpp with
  | some (_, p) =>
    let e := s.loc p.cpn
    if upper e then s else callUp s p.cpn acc (homeTile s q) none
  | none => s

/-- Flush a layer's staging entry. `locked`: with the append lock. A layer with nothing staged is done at once. -/
def flushLayer (s : State) (q l : Nat) (x : NewPage) (seed : Nat) (locked : Bool) : FlushRes :=
  match stageOf s q l with
  | none => .done s
  | some e =>
    match flushToks s q l { x with layer := l } seed e.toks with
    | .done t =>
      let t := dropStage t q l
      let t := t.setRow q l fun r => { r with staged := r.staged - e.toks.length }
      .done (count t pgSeq (if locked then 3 else 4) (t.ctx q).pt)
    | r => r

/-- The layers of a sequence that have staged tokens. -/
def stagedLayers (s : State) (q : Nat) : List Nat := (List.range (s.ctx q).layers).filter fun l => (stageOf s q l).isSome

/-- The frames that flushes of layers need. -/
def flushFrames (s : State) (q : Nat) (p : Profile) (ls : List Nat) : Nat :=
  (ls.filter fun l => needsPage s q l p.tpp).length * p.framesPerPage

/-- Flush several layers in turn: until one is blocked or out of frames. Where a layer is found poisoned, `goOn` says whether the others are
still flushed, as FLUSH does (R116), or not, as a fork does (R110); answer whether one was met. -/
def flushLayers (s : State) (q : Nat) (x : NewPage) (seed : Nat) (goOn : Bool) : List Nat → FlushRes × Bool
  | [] => (.done s, false)
  | l :: ls =>
    match flushLayer s q l x seed true with
    | .done t => flushLayers t q x seed goOn ls
    | .poisoned t => if goOn then ((flushLayers t q x seed goOn ls).1, true) else (.done t, true)
    | r => (r, false)

/-! ### Flushes without a lock (R70, R103, R108) -/

/-- The current seed of a partition. [DEDUCED, log 42] -/
def ptSeed (s : State) (pt : Nat) : Nat := (s.part pt).seed

/-- Flush an entry without the lock: not while its tail page is MOVING; only with its frames; recorded with its cause (R520).
Answer none if it does not begin. [DEDUCED, log 42; DEDUCED, log 44] -/
def selfFlush (s : State) (q l cause : Nat) : Option State :=
  match stageOf s q l, tget s.dep.cfg.profiles (s.ctx q).profile with
  | some e, some p =>
    let pt := (s.ctx q).pt
    let x : NewPage := { prof := p, profId := (s.ctx q).profile, seq := q, layer := l, pos := 0, epoch := s.dep.epoch, home := e.tile }
    if (s.row q l).poisoned ∨ needsPage s q l p.tpp ∧ ptFree s pt < p.framesPerPage then none
    else
      match flushLayer s q l x (ptSeed s pt) false with
      | .done t =>
        let t := { t with seq := { t.seq with heldFlush := t.seq.heldFlush.filter (·.1 != q * 256 + l) } }
        some (recNow t 0x05 pt q (toLe 1 l ++ toLe 1 cause ++ toLe 2 e.toks.length ++ toLe 4 (lget t.rec_.issues pt 0) ++ zeros 8))
      | .poisoned t => some t
      | _ => none
  | _, _ => none

/-- A flush without the lock that cannot begin is held until its tail page's move ends (R108). A tail page that lies where no flush can write is
first moved to T1 (R257), in the order of a command accepted next. -/
def holdFlush (s : State) (q l cause : Nat) : State :=
  let s := { s with seq := { s.seq with heldFlush := (s.seq.heldFlush.filter (·.1 != q * 256 + l)) ++ [(q * 256 + l, cause)] } }
  match tget s.dep.cfg.profiles (s.ctx q).profile with
  | some p => if (s.row q l).poisoned then s else liftTail s q l p.tpp s.dep.accNext
  | none => s

/-- Is the entry passed over by the reserve trigger: its tail page is MOVING, its layer is poisoned, or its flush is held? -/
def tailHeld (s : State) (key : Nat) : Bool :=
  (s.row (key / 256) (key % 256)).poisoned || s.seq.heldFlush.any (·.1 == key)
    || match (s.row (key / 256) (key % 256)).ptes.getLast? with
      | some p => pageMoves s p.cpn
      | none => false

/-- Does the flush of a layer wait for its tail page to come to T1? -/
def tailLow (s : State) (q l : Nat) : Bool :=
  match (s.row q l).ptes.getLast? with
  | some p => tailBusy s p.cpn && !pageMoves s p.cpn
  | none => false

/-- SELF_FLUSH_RESERVE: while the tile's free granules are below RESERVE, the entry with the oldest last append whose tail page is
not MOVING is flushed. -/
def reserveFlush (s : State) (tile : Nat) : State :=
  if bits (s.reg pgSeq 0x22C) 16 9 ≤ freeGranules s tile then s
  else
    match minBy (fun e : Nat × StageEntry => e.2.lastAppend)
        (s.seq.stage.filter fun e => e.2.tile == tile && !tailHeld s e.1) with
    | some e =>
      match selfFlush s (e.1 / 256) (e.1 % 256) 0 with
      | some t => t
      | none => if tailLow s (e.1 / 256) (e.1 % 256) then holdFlush s (e.1 / 256) (e.1 % 256) 0 else s
    | none => s

def execSelfFlushReserve (tile : Nat) (s : State) : Host.Outcome State Fault Refusal :=
  .next (if s.boot.fatal ∨ s.rec_.replay = 1 then s else leafGate s s.dep.accNext none fun s => reserveFlush s tile)

/-- IDLE_FLUSH: IDLE_US after the last append to the entry. A flush whose tail page moves is held until the move ends. -/
def idleFlush (s : State) (q l : Nat) : State :=
  let us := bits (s.reg pgSeq 0x22C) 0 16
  match stageOf s q l with
  | some e =>
    if us = 0 then s
    else
      let s := s.reach (e.lastAppend + us * 1000)
      match selfFlush s q l 1 with
      | some t => t
      | none => holdFlush s q l 1
  | none => s

def execIdleFlush (seq layer : Nat) (s : State) : Host.Outcome State Fault Refusal :=
  .next (if s.boot.fatal ∨ s.rec_.replay = 1 then s else leafGate s s.dep.accNext none fun s => idleFlush s seq layer)

/-- MAP_COMMIT_FLUSH: a committed map that the tile has not applied takes the tile from the partition: every entry of the partition
on it is flushed (R101, R103). [DEDUCED, log 44] -/
def mapFlush (s : State) (tile pt : Nat) : State :=
  if bit s.dep.lag 3 ∧ ¬ bit (lget s.dep.cfg.pmap.pts pt {}).tiles tile then
    (s.seq.stage.filter fun e => e.2.tile == tile && e.2.pt == pt).foldl
      (fun s e => (selfFlush s (e.1 / 256) (e.1 % 256) 2).getD (holdFlush s (e.1 / 256) (e.1 % 256) 2)) s
  else s

def execMapCommitFlush (tile pt : Nat) (s : State) : Host.Outcome State Fault Refusal :=
  .next (if s.boot.fatal ∨ s.rec_.replay = 1 then s else leafGate s s.dep.accNext none fun s => mapFlush s tile pt)

end Sys2Proof.Machine
end

