-- ==== Sys2Proof/Machine/Ecc.lean ====
section
/-!
DEFINITION. The outer code of the HBM stacks: RS(36,32) over GF(2^8) with the check bytes of a unit (R285), and what the decoder makes of a
read that meets symbol errors (R286).
-/

namespace Sys2Proof.Machine

/-! ### The field and the code (R285) -/

/-- Multiply by α = 0x02, modulo x^8 + x^4 + x^3 + x^2 + 1. -/
def gfDouble (a : Nat) : Nat := if 128 ≤ a then (2 * a) ^^^ 0x11D else 2 * a

/-- The powers a, aα, aα^2, … -/
def gfPowers : Nat → Nat → List Nat
  | 0, _ => []
  | n + 1, a => a :: gfPowers n (gfDouble a)

/-- The product in GF(2^8): the multiples aα^i for the bits i of b, added. -/
def gfMul (a b : Nat) : Nat :=
  ((gfPowers 8 a).zipIdx.filter fun x => b.testBit x.2).foldl (fun t x => t ^^^ x.1) 0

/-- The square, n times. -/
def gfSquares : Nat → Nat → Nat
  | 0, a => a
  | n + 1, a => gfSquares n (gfMul a a)

/-- The inverse a^254 = a^2 · a^4 · … · a^128; 0 has none, and gives 0. -/
def gfInv (a : Nat) : Nat := (List.range 7).foldl (fun t i => gfMul t (gfSquares (i + 1) a)) 1

/-- The coefficients x^3 to x^0 of the generator (x + 1)(x + α)(x + α^2)(x + α^3), whose leading one is 1: multiply the roots' factors out. -/
def rsGenerator : List Nat :=
  ((gfPowers 4 1).foldl (fun g r => ((g ++ [0]).zipWith (fun a b => a ^^^ gfMul b r) (0 :: g))) [1]).drop 1

/-- One step of the division by the generator: the remainder so far, and the next data byte. -/
def rsShift (r : List Nat) (d : Nat) : List Nat :=
  let t := d ^^^ r.headD 0
  (r.drop 1 ++ [0]).zipWith (fun a g => a ^^^ gfMul t g) rsGenerator

/-- The four check bytes of 32 data bytes: the remainder of d(x) · x^4, coefficients of x^3 down to x^0 (R285). -/
def rsCheck (data : List Byte) : List Byte :=
  (data.foldl (fun r d => rsShift r d.toNat) [0, 0, 0, 0]).map (BitVec.ofNat 8)

/-- The value of a received word at a point, byte 0 being the coefficient of the highest power. -/
def rsEval (w : List Nat) (x : Nat) : Nat := w.foldl (fun t c => gfMul t x ^^^ c) 0

/-- The symbols of a word and the value of x at each: α^35 at symbol 0, down to 1 at symbol 35. -/
def rsPlaces : List (Nat × Nat) := (List.range 36).zip (gfPowers 36 1).reverse

/-- The error of at most two symbols that the four syndromes S0 to S3 show, as places and values; none where there is no such error. One error
e at x has Sk = e x^k; two have x^2 + ax + b = 0 with Sk+2 = a Sk+1 + b Sk. -/
def rsErrors (s0 s1 s2 s3 : Nat) : Option (List (Nat × Nat)) :=
  let det := gfMul s1 s1 ^^^ gfMul s0 s2
  if s0 = 0 ∧ s1 = 0 ∧ s2 = 0 ∧ s3 = 0 then some []
  else if det = 0 then
    let x := gfMul s1 (gfInv s0)
    if s0 = 0 ∨ s3 ≠ gfMul s2 x then none else (rsPlaces.find? fun p => p.2 == x).map fun p => [(p.1, s0)]
  else
    let a := gfMul (gfMul s1 s2 ^^^ gfMul s0 s3) (gfInv det)
    let b := gfMul (gfMul s1 s3 ^^^ gfMul s2 s2) (gfInv det)
    match rsPlaces.filter fun p => gfMul (p.2 ^^^ a) p.2 == b with
    | [p, q] =>
      let e := gfMul (gfMul s0 p.2 ^^^ s1) (gfInv (p.2 ^^^ q.2))
      some [(p.1, s0 ^^^ e), (q.1, e)]
    | _ => none

/-- Decode a received word of 36 symbols: the corrected word and how many symbols were corrected (R285). -/
def rsDecode (w : List Byte) : Option (List Byte × Nat) :=
  let w' := w.map (·.toNat)
  (rsErrors (rsEval w' 1) (rsEval w' 2) (rsEval w' 4) (rsEval w' 8)).map fun es =>
    (es.foldl (fun w e => lmod w e.1 (· ^^^ BitVec.ofNat 8 e.2)) w, es.length)

/-! ### A unit and its check bytes -/

/-- What the ECC storage beside the unit at an HBM address holds: every write of the unit stores its check bytes, and a correction restores
both (R285, R286). [DEDUCED, log 100] -/
def unitCheck (s : State) (a : Nat) : List Byte := rsCheck (mreads s.mems.hbm a 32)

/-- The word of 36 symbols that a read of a unit meets: data and check bytes with the errors of the read. [DEDUCED, log 100] -/
def unitWord (s : State) (a : Nat) (err : List Byte) : List Byte :=
  let w := mreads s.mems.hbm a 32 ++ unitCheck s a
  w.zipIdx.map fun x => x.1 ^^^ lget err x.2 0

/-- What one read of a unit gives: none where the code cannot correct it or its MAC does not match (R286), else the symbols corrected. Data
that the decoder corrects to another codeword fails its MAC. [DEDUCED, log 100] -/
def unitDecode (s : State) (a : Nat) (err : List Byte) : Option Nat :=
  match rsDecode (unitWord s a err) with
  | some (w, k) => if w.take 32 = mreads s.mems.hbm a 32 ∧ hbmBad s a 32 = false then some k else none
  | none => none

/-- Does a pattern of the test read back clean: the code finds no error in 32 bytes of it (R286)? -/
def patternClean (b : Nat) (err : List Byte) : Bool :=
  let data := List.replicate 32 (BitVec.ofNat 8 b)
  (rsDecode ((data ++ rsCheck data).zipIdx.map fun x => x.1 ^^^ lget err x.2 0)).any fun r => r.2 == 0

/-- The outcomes of R286's table. `inner`: clean, and the die reports a correction of its own. `retryOk`: the second read decodes. `soft` and
`hard`: both reads fail, and the two patterns read back clean or not. -/
inductive Decode where
  | clean | inner | corrected | retryOk | soft | hard
  deriving DecidableEq, Repr

/-- Reads of a unit whose MAC does not match: of the first read, and of the second where the first did not decode (R286, R508).
[DEDUCED, log 100] -/
def macMisses (s : State) (a : Nat) (e : UnitErr) : Nat :=
  let miss := fun err => b2n ((rsDecode (unitWord s a err)).isSome && (unitDecode s a err).isNone)
  miss e.first + (if unitDecode s a e.first = none then miss e.second else 0)

/-- What the controller makes of the read of the unit at an HBM address (R286). [DEDUCED, log 100] -/
def readOutcome (s : State) (a : Nat) (e : UnitErr) : Decode :=
  match unitDecode s a e.first with
  | some 0 => if e.inner then .inner else .clean
  | some _ => .corrected
  | none =>
    match unitDecode s a e.second with
    | some _ => .retryOk
    | none => if patternClean 0x55 e.fives && patternClean 0xAA e.tens then .soft else .hard

end Sys2Proof.Machine
end

