-- ==== Sys2Proof/Machine/Hbm.lean ====
section
/-!
DEFINITION. The HBM controllers: reads of units and their errors (R286, R290), patrol (R287), frame counts and retirement (R288,
R289), device structures outside class 0 ranges (R472), and the registers HBC_RET_ADD and BLW_T1_CFG (R294, R295).
-/

namespace Sys2Proof.Machine

/-! ### Device structures (R290, R472) -/

/-- Base and size of the tables whose addresses registers give: contexts, location directory, profiles, hash directory, queue-pair
contexts, topology, slot table, frame counts of each stack. -/
def ctxTable (s : State) : Nat × Nat := (s.reg64 pgSeq 0x200, 2 ^ 28)
def locTable (s : State) : Nat × Nat := (s.reg64 pgSeq 0x208, 2 ^ 27)
def profTable (s : State) : Nat × Nat := (s.reg64 pgSeq 0x210, 2 ^ 22)
def dirTable (s : State) : Nat × Nat := (s.reg64 pgChn 0x200, 64 * 2 ^ bits (s.reg pgChn 0x208) 1 5)
def qpcTable (s : State) : Nat × Nat := (s.reg64 pgFab 0x230, 2 ^ 22)
def slotTable (s : State) : Nat × Nat := (s.reg64 pgNvh 0x208, 2 ^ (bits (s.reg pgNvh 0x200) 2 5 + 2))

/-- Is the address in a table? -/
def inTable (t : Nat × Nat) (a : Nat) : Bool := decide (t.1 ≤ a ∧ a < t.1 + t.2)

/-- The partition in whose sequence range an ID lies. -/
def seqOwner (s : State) (q : Nat) : Option Nat := (List.range 8).find? fun p => seqInRange s s.dep.epoch p q

/-- The partition that owns the structure at an HBM address of a class 0 range; none for the device. Where no register gives the
address of what lies there (chunks, leaves, CPN lists), a free value tells. [DEDUCED, log 21] -/
def structOwner (s : State) (a : Nat) : Option Nat × State :=
  if inTable (ctxTable s) a then (seqOwner s ((a - (ctxTable s).1) / 256), s)
  else if inTable (locTable s) a then (some ((a - (locTable s).1) / 8 / 2 ^ 21), s)
  else if inTable (profTable s) a ∨ inTable (slotTable s) a then (none, s)
  else if inTable (dirTable s) a then
    let d := s.slot ((a - (dirTable s).1) / 64)
    (if d.state = .live then some d.pt else none, s)
  else if inTable (qpcTable s) a then
    let q := (a - (qpcTable s).1) / 64
    ((List.range 8).find? fun p => qpnInRange s p q, s)
  else
    let d := draw s
    (if d.1 % 9 = 8 then none else some (d.1 % 9), d.2)

/-- A device-fatal error of R290 or R472: R563 gives no cause code for it, so DETAIL1 is a free value. [DEDUCED, log 21] -/
def structFatal (s : State) (a : Nat) : State :=
  let d := draw s
  fatal d.2 (d.1 % 2 ^ 32) a

/-- An uncorrectable error in a structure (R290). -/
def structError (s : State) (a : Nat) : State :=
  let o := structOwner s a
  match o.1 with
  | some p => partitionFail o.2 p
  | none => structFatal o.2 a

/-- R472: an access to a structure outside every class 0 range is device-fatal, recorded with code 0x40. [DEDUCED, log 21] -/
def structAccess (s : State) (a n : Nat) (f : State → State) : State :=
  if inClass s 0 a n then f s else structFatal (logErr s pgSec 0x40 0 0 0 deviceReq) a

/-- The context, the location directory entry and the directory slot as structures. -/
def ctxAccess (s : State) (q : Nat) (f : State → State) : State := structAccess s ((ctxTable s).1 + 256 * q) 256 f

/-! ### Frames (R288) -/

/-- The page or mute copy that a T1 frame holds. -/
def frameHolder (s : State) (addr : Nat) : Option (Nat × Bool) :=
  match tget s.blw.t1 addr with
  | some (.page c) => some (c, false)
  | some (.mute c) => some (c, true)
  | _ => none

/-- Condemn a frame: a held page or copy is to be moved in class 1; a free one is retired. -/
def condemn (s : State) (addr : Nat) : State :=
  if s.blw.condemned.contains addr ∨ (s.hb (addr / 2 ^ 20)).retired.contains (addr % 2 ^ 20) then s
  else
    let s := { s with blw := { s.blw with condemned := s.blw.condemned ++ [addr] } }
    match frameHolder s addr with
    | some (c, false) => (queueMove s { cpn := c, kind := .page .t1, cls := 1, seq := 0, retire := true }).1
    | some (c, true) => (queueMove s { cpn := c, kind := .evacMute, cls := 1, seq := 0, retire := true }).1
    | none => if tmem s.blw.t1 addr then s else retireFrame s (addr / 2 ^ 20) (addr % 2 ^ 20) 0

/-- A corrected unit: counters and the frame's byte of count. -/
def correctUnit (s : State) (m off : Nat) : State :=
  let f := off / frameBytes
  let c := min (tgetD (s.hb m).counts f 0 + 1) 255
  let s := s.setHb m fun h => { h with ceOuter := (h.ceOuter + 1) % 2 ^ 32, counts := tset h.counts f c }
  let s := count s (pgHbc m) 3 15
  if max (s.reg (pgHbc m) 0x204) 1 ≤ c then condemn s (m * 2 ^ 20 + f) else s

/-- The frame of a page meets an uncorrectable unit: the page becomes POISONED; where it is POISONED already, a hard fault enters the frame in
the retirement list at once (R286). -/
def losePage (s : State) (m f c : Nat) (hard mu : Bool) : State :=
  if pageLive (s.loc c) then poisonPage s c hard mu else if hard then retireFrame s m f 1 else s

/-- Does a frame lie in its stack's page pool? Beyond it lie the fixed areas and the carve-out (R258). -/
def inPool (s : State) (m f : Nat) : Bool := decide (s.reg pgBlw 0x204 m ≤ f ∧ f ≤ s.reg pgBlw 0x208 m)

/-- An uncorrectable unit: it reads as poison from now on, and what holds the frame meets it (R286, R287, R290). In the carve-out the units whose MACs
lie in it read as poison. -/
def loseUnit (s : State) (m off : Nat) (hard patrol : Bool) : State :=
  let f := off / frameBytes
  let a := hbmAddr m off
  let s := countUe s a
  if frameInClass s 0 m f then
    let s := structError s a
    if hard then retireFrame s m f 1 else s
  else
    match frameHolder s (m * 2 ^ 20 + f) with
    | some (c, mu) => losePage s m f c hard mu
    | none =>
      if hard then retireFrame s m f 1
      else if patrol && inPool s m f && ! tmem s.blw.t1 (m * 2 ^ 20 + f) then retireFrame s m f 2
      else s

/-- Is a frame one of a partition that is being scrubbed? An uncorrectable error in it is ignored (R494). -/
def scrubFrame (s : State) (m f : Nat) : Bool :=
  (List.range 8).any fun p => (s.part p).state == .scrubbing && bit (lget (s.mapOf p).pc m 0) (f % 32)

/-- A read of the unit at a byte offset of a stack, with the errors that it meets (R286). -/
def unitRead (s : State) (m off : Nat) (err : UnitErr) (patrol : Bool) : State :=
  let dec := readOutcome s (hbmAddr m (off / 32 * 32)) err
  let s := count s (pgHbc m) 0 15
  let k := macMisses s (hbmAddr m (off / 32 * 32)) err
  let s := if k = 0 then s else count s pgSec 1 15 k
  match dec with
  | .clean => s
  | .inner =>
    count (s.setHb m fun h => { h with ceInner := (h.ceInner + 1) % 2 ^ 32 }) (pgHbc m) 2 15
  | .corrected | .retryOk => correctUnit s m off
  | .soft => if scrubFrame s m (off / frameBytes) then s else loseUnit s m off false patrol
  | .hard => if scrubFrame s m (off / frameBytes) then s else loseUnit s m off true patrol

/-- Do both reads fail? -/
def decLost : Decode → Bool
  | .soft | .hard => true
  | _ => false

/-- HBM_READ_DONE. -/
def hbmRead (s : State) (m off : Nat) (err : UnitErr) : State :=
  if s.boot.fatal ∨ (s.hb m).excluded ∨ stackFrames * frameBytes ≤ off then s else unitRead s m off err false

def execHbmReadDone (stack offset : Nat) (err : UnitErr) (s : State) : Host.Outcome State Fault Refusal :=
  .next (hbmRead s stack offset err)

/-! ### Patrol (R287) -/

/-- PATROL_READ: the next unit of the stack. In the frame of a POISONED page an uncorrectable unit is ignored. -/
def patrol (s : State) (m : Nat) (err : UnitErr) : State :=
  if s.boot.fatal ∨ (s.hb m).excluded ∨ s.reg (pgHbc m) 0x200 = 0 then s
  else
    let off := (s.hb m).patrol
    let s := count (s.setHb m fun h => { h with patrol := (off + 32) % (stackFrames * frameBytes) }) (pgHbc m) 6 15
    let ignore := decLost (readOutcome s (hbmAddr m off) err) && (match frameHolder s (m * 2 ^ 20 + off / frameBytes) with
      | some (c, _) => pagePoisoned s c
      | none => false)
    if ignore then s else unitRead s m off err true

def execPatrolRead (stack : Nat) (err : UnitErr) (s : State) : Host.Outcome State Fault Refusal :=
  .next (patrol s stack err)

/-! ### Registers -/

/-- HBC_RET_ADD: retire and log a frame, unless the stack's pool is in use (R289, R295). -/
def retAdd (s : State) (rq : Requester) (m v : Nat) : State :=
  if bit (s.reg pgBlw 0x20C m) 0 then logErr s (pgHbc m) 0x06 0 0x22C 0 rq
  else retireFrame s m (v % 2 ^ 20) 3

def execHbcRetAdd (req : Requester) (stack : Nat) (val : Word) (s : State) : Host.Outcome State Fault Refusal :=
  .next (secureOnly s req (pgHbc stack) 0x22C fun s => retAdd s req stack val.toNat)

/-- Does the pool of a stack overlap its working-area window in the applied map? -/
def poolOverlaps (s : State) (m : Nat) : Bool :=
  match lget s.appliedMap.wa m none with
  | some (f, l) => decide (f ≤ s.reg pgBlw 0x208 m ∧ s.reg pgBlw 0x204 m ≤ l)
  | none => false

/-- BLW_T1_CFG of the selected stack (R294). -/
def t1Cfg (s : State) (rq : Requester) (v : Nat) : State :=
  let m := s.reg pgBlw 0x200
  if bit v 0 ∧ poolOverlaps s m then logErr s pgBlw 0x06 0 0x20C 0 rq
  else s.setReg pgBlw 0x20C m (v % 2)

def execBlwT1Cfg (req : Requester) (val : Word) (s : State) : Host.Outcome State Fault Refusal :=
  .next (secureOnly s req pgBlw 0x20C fun s => t1Cfg s req val.toNat)

end Sys2Proof.Machine
end

