-- ==== Sys2Proof/Machine/Sequence.lean ====
section
/-!
DEFINITION. The sequence commands: PROFILE_CREATE (R82, R580), SEQ_OPEN (R87, R101, R120), SEQ_FORK (R110 to R112, R148), SEQ_CLOSE
(R113), APPEND (R98 to R102, R51, R52), FLUSH (R103, R116), and the ends of waits for frames and granules (R260).
-/

namespace Sys2Proof.Machine

/-! ### PROFILE_CREATE -/

/-- The profile that a 64-byte record describes (R82). -/
def parseProfile (owner : Nat) (bs : List Byte) : Profile :=
  let f := field bs 4 1
  { owner := owner, tppLog2 := field bs 0 1 % 16, kFmt := field bs 1 1 % 16, vFmt := field bs 1 1 / 16, kvh := field bs 2 1 % 32,
    hdimCode := field bs 3 1 % 8, rotEn := bit f 0, rotPair := bit f 1, mute := bit f 2, sr := bit f 3, kvhBase := field bs 5 1,
    rotDims := field bs 6 2, rotBase := field bs 8 4, rotPosScale := field bs 12 4 }

/-- Is an FP32 positive and finite? -/
def f32Positive (x : Nat) : Bool := decide (0 < x ∧ x < 0x7F800000)

/-- The defined bits of a profile record. -/
def profileRuns : List Run := [⟨0, 1, 0x0F⟩, ⟨1, 1, 0xFF⟩, ⟨2, 1, 0x1F⟩, ⟨3, 1, 0x07⟩, ⟨4, 1, 0x0F⟩, ⟨5, 11, 0xFF⟩]

/-- R580 steps 1 to 3: the failure, with DETAIL0 = 1 and the record's byte in DETAIL1. -/
def profileBad (p : Profile) (bs : List Byte) : Option Comp :=
  let ranges : List (Bool × Nat) :=
    [(decide (p.tppLog2 < 4 ∨ 8 < p.tppLog2), 0), (decide (p.kFmt = 15 ∨ p.vFmt = 15), 1), (decide (p.kvh < 1 ∨ 16 < p.kvh), 2),
     (decide (4 < p.hdimCode), 3),
     (p.rotEn && decide (p.rotDims ≠ 0 ∧ (p.rotDims % 2 = 1 ∨ p.hdim < p.rotDims)), 6),
     (p.rotEn && !f32Positive p.rotBase, 8), (p.rotEn && decide (p.rotPosScale ≠ 0) && !f32Positive p.rotPosScale, 12)]
  let rsv : List (Bool × Nat) := (reservedByte profileRuns bs 0 64).toList.map fun i => (true, i)
  match minBy (·.2) ((rsv ++ ranges).filter (·.1)) with
  | some b => some (invalidAt b.2 1)
  | none =>
    if p.vFmt = 0xE ∨ (p.kFmt = 0xE ∧ 2048 < p.kvh * p.hdim) ∨ (p.mute ∧ (elemBits p.kFmt < 8 ∨ elemBits p.vFmt < 8)) then
      some (failWith .format 1 1)
    else if 65536 < 4096 + p.ka + p.va then some (invalidAt 0 1)
    else none

/-- Is a profile ID in use: in the tables of a live epoch or staged? -/
def profileUsed (s : State) (id : Nat) : Bool :=
  tmem s.dep.cfg.profiles id || tmem s.dep.cfgPrev.profiles id || tmem s.dep.staged id

/-- The lowest free profile ID. -/
def freeProfile (s : State) : Nat :=
  firstFree (profileUsed s) 1 (s.dep.cfg.profiles.length + s.dep.cfgPrev.profiles.length + s.dep.staged.length + 1) 0

/-- PROFILE_CREATE: the profile is staged for the next commit of profile tables (R82). -/
def profileCreate (s : State) (n : Node) (id r : Nat) : State :=
  match readRef s n r 64 with
  | .error e => finish e.1 n.acc e.2
  | .ok bs =>
    let p := parseProfile (ringPt n.ring) bs
    match profileBad p bs with
    | some c => finish s n.acc c
    | none =>
      let k := if id = 0xFFFF then freeProfile s else id
      if id ≠ 0xFFFF ∧ profileUsed s id then finish s n.acc (invalidAt 16)
      else if 0xFFFE < k then finish s n.acc (failWith .nospace)
      else finish { s with dep := { s.dep with staged := tset s.dep.staged k p } } n.acc { result := k }

def execProfileCreate (acc : Nat) (s : State) : Host.Outcome State Fault Refusal :=
  .next (match liveNode s acc with
    | some n =>
      match beginCheck s n, n.cmd with
      | some c, _ => finish s acc c
      | none, .profileCreate id r => profileCreate s n id r
      | none, _ => s
    | none => s)

/-! ### Sequence IDs and contexts -/

/-- The first free ID at or after the partition's cursor, wrapping in its range (R120). -/
def freeSeq (s : State) (e pt : Nat) : Option Nat :=
  let m := mapEntryAt s e pt
  if m.seqCount = 0 then none
  else
    let cur := lget s.seq.cursor pt 0
    let start := if m.seqBase ≤ cur ∧ cur < m.seqBase + m.seqCount then cur - m.seqBase else 0
    let at_ := fun (k : Nat) => m.seqBase + (start + k) % m.seqCount
    let used := fun (k : Nat) => (s.ctx (at_ k)).state != .free || at_ k == 0xFFFFF
    let k := firstFree used 1 (min m.seqCount (s.seq.ctxs.length + 2)) 0
    if used k then none else some (at_ k)

/-- The ID a command gets: the requested one, INVALID if it is in use, or an allocated one; the cursor moves past it. -/
def takeSeq (s : State) (e pt want : Nat) : Except Comp (Nat × State) :=
  if want ≠ 0xFFFFF then
    if (s.ctx want).state = .free then .ok (want, s) else .error (invalidAt 16)
  else
    match freeSeq s e pt with
    | none => .error (failWith .nospace)
    | some q => .ok (q, { s with seq := { s.seq with cursor := lset s.seq.cursor pt (q + 1) } })

/-- Open a context: its staging tile, its level-1 table at an address the spec leaves open, its times. [DEDUCED, log 43] -/
def openCtx (s : State) (e pt q : Nat) (c : Ctx) : State :=
  let d := draw s
  let s := d.2
  let tile := chooseTile s (tilesFor s e pt)
  let s := s.setCtx q fun _ =>
    { c with state := .open_, pt := pt, stageTile := tile, l1Addr := d.1 % 2 ^ 28 * 4096, epochOpen := e, openTime := s.time }
  cacheCtx s q

def seqOpenCmd (s : State) (n : Node) (want layers prof : Nat) (warm : Bool) (hint : Nat) : State :=
  let pt := ringPt n.ring
  match takeSeq s n.hdr.epoch pt want with
  | .error c => finish s n.acc c
  | .ok (q, s) =>
    ctxAccess s q fun s =>
      finish (openCtx s n.hdr.epoch pt q { layers := layers, profile := prof, warmTarget := warm, tierHint := hint }) n.acc
        { result := q }

/-- [DESIGN CHOICE, log 1] -/
def execSeqOpen (acc : Nat) (s : State) : Host.Outcome State Fault Refusal :=
  .next (match liveNode s acc with
    | some n =>
      match beginCheck s n, n.cmd with
      | some c, _ => finish s acc c
      | none, .seqOpen q l p w t => seqOpenCmd s n q l p w t
      | none, _ => s
    | none => s)

/-! ### FLUSH -/

/-- The page parameters of a command's flush. -/
def flushPage (s : State) (n : Node) (q : Nat) (p : Profile) : NewPage :=
  { prof := p, profId := (s.ctx q).profile, seq := q, layer := 0, pos := 0, epoch := n.hdr.epoch, home := homeTile s q }

/-- A sequence without a staging tile gets one by its first APPEND after a map that gives its partition tiles (R101). -/
def assignTile (s : State) (n : Node) (q : Nat) : State :=
  if (s.ctx q).stageTile < 48 then s else s.setCtx q fun c => { c with stageTile := chooseTile s (nodeTiles s n) }

/-- A command that stages ends NOSPACE, and changes nothing, where its epoch's map leaves its partition no tile (R61, R101). -/
def withTiles (s : State) (n : Node) (q : Nat) (f : State → State) : State :=
  if nodeTiles s n = [] then finish (if (s.ctx q).lockOwner = some n.acc then dropLock s q else s) n.acc (failWith .nospace) else f s

/-- Are layers' poison bits set? -/
def anyPoisoned (s : State) (q : Nat) (ls : List Nat) : Bool := ls.any fun l => (s.row q l).poisoned

/-- A command that needs frames and finds too few waits with its lock (R260); one that met a moving tail page waits for the move (R108). -/
def flushCmd (s : State) (n : Node) (q layer : Nat) : State :=
  match seqProfile s n.hdr.epoch q with
  | none => finish s n.acc (invalidAt 16)
  | some p =>
    let s := takeLock s q n.acc n.ring
    let all := if layer = 0xFF then List.range (s.ctx q).layers else [layer]
    let bad := anyPoisoned s q all
    let ls := (stagedLayers s q).filter fun l => all.contains l && !(s.row q l).poisoned
    let endWith := fun (t : State) (c : Comp) => finish (allocDone (dropLock t q) n.acc) n.acc c
    if layer ≠ 0xFF ∧ bad then endWith s (failWith .poisoned)
    else if ptFree s (ringPt n.ring) < flushFrames s q p ls then allocWait s n
    else
      match flushLayers s q (flushPage s n q p) n.seed true ls with
      | (.done t, b) => endWith t (if bad || b then failWith .poisoned else {})
      | (.poisoned t, _) => endWith t (failWith .poisoned)
      | (.blocked t, _) => ls.foldl (fun t l => liftTail t q l p.tpp n.acc) t
      | (.noSpace, _) => allocWait s n

/-- A command on a sequence begins: its context must be at hand, its checks hold, and its lock be free. [DEDUCED, log 41] -/
def onSequence (s : State) (n : Node) (q : Nat) (f : State → State) : State :=
  let pt := ringPt n.ring
  if (s.ctx q).lockOwner = some n.acc then f s
  else
    match beginCheck s n with
    | some c => finish s n.acc c
    | none =>
      let h := ctxHere s q pt
      if ¬ h.1 then h.2
      else if ¬ lockFree s q n.acc then lockBusy s n
      else ctxAccess s q f

def runFlush (s : State) (n : Node) (q layer : Nat) : State :=
  onSequence s n q fun s => withTiles s n q fun s => flushCmd s n q layer

def execFlush (c : Try) (s : State) : Host.Outcome State Fault Refusal :=
  .next (contended s c.acc c.rivals fun s n =>
    match n.cmd with
    | .flush q l => leafGate s c.acc none fun s => runFlush s n q l
    | _ => s)

/-! ### APPEND -/

/-- How an APPEND's tokens fall: into the tail, as whole pages, and into staging (R102). -/
structure AppendPlan where
  toTail : Nat
  pages : Nat
  rest : Nat
  deriving DecidableEq, Repr

/-- The plan for n tokens with `tail` tokens in a tail page and `staged` tokens staged. -/
def appendPlan (tpp tail staged n : Nat) : AppendPlan :=
  if tail + staged + n < tpp then { toTail := 0, pages := 0, rest := n }
  else
    let a := if tail + staged = 0 then 0 else tpp - tail - staged
    { toTail := a, pages := (n - a) / tpp, rest := (n - a) % tpp }

/-- FILL of the tail page with free slots. -/
def tailFill (s : State) (q l tpp : Nat) : Nat := ((tailOf s q l tpp).map (·.2.fill)).getD 0

/-- New pages an APPEND allocates. -/
def appendPages (s : State) (q l tpp : Nat) (pl : AppendPlan) (flushAfter : Bool) : Nat :=
  let first := if pl.toTail ≠ 0 ∧ needsPage s q l tpp then 1 else 0
  let filled := decide (pl.toTail ≠ 0 ∨ pl.pages ≠ 0)
  let last := if flushAfter ∧ (pl.rest ≠ 0 ∨ (¬ filled ∧ (stageOf s q l).isSome)) then
      (if filled ∨ needsPage s q l tpp then 1 else 0)
    else 0
  first + pl.pages + last

/-- Granules free for the APPEND's final entry: those of its own entry count unless an ATTEND keeps them. -/
def granulesFor (s : State) (q l : Nat) (filled : Bool) : Nat :=
  let own := match stageOf s q l with
    | some e => if filled && !(stageReaders s q l).isEmpty then 0 else entryGranules s (q * 256 + l, e)
    | none => 0
  freeGranules s (homeTile s q) + own

/-- Write one whole page of TPP tokens straight into a new RESIDENT page. -/
def directPage (s : State) (pt q l : Nat) (x : NewPage) (seed : Nat) (toks : List StagedTok) : Option State :=
  match newPage s pt { x with pos := (toks.head?.map (·.pos)).getD 0 } with
  | none => none
  | some (cpn, s) =>
    let s := fillPage s cpn { x with pos := (toks.head?.map (·.pos)).getD 0 } seed 0 toks
    let s := setPte s q l (s.row q l).ptes.length { cpn := cpn, fill := toks.length }
    some (sampleUse (tierHint (setEff s cpn .resident) q cpn) cpn x.home)

def directPages (s : State) (pt q l : Nat) (x : NewPage) (seed : Nat) : List (List StagedTok) → Option State
  | [] => some s
  | t :: ts =>
    match directPage s pt q l x seed t with
    | some s => directPages s pt q l x seed ts
    | none => none

/-- Add tokens to a layer's staging entry. -/
def stageToks (s : State) (pt q l e : Nat) (toks : List StagedTok) : State :=
  if toks.isEmpty then s
  else
    let old := ((stageOf s q l).map (·.toks)).getD []
    let x : StageEntry := { tile := homeTile s q, pt := pt, lastAppend := s.time, epoch := e, toks := old ++ toks }
    let s := { s with seq := { s.seq with stage := tset s.seq.stage (q * 256 + l) x } }
    s.setRow q l fun r => { r with staged := (old ++ toks).length }

/-- An APPEND whose flush met a POISONED tail page leaves the layer's staged tokens as they were (R116). -/
def unstage (s t : State) (q l : Nat) : State :=
  let stage := match stageOf s q l with
    | some e => tset t.seq.stage (q * 256 + l) e
    | none => tdel t.seq.stage (q * 256 + l)
  { t with seq := { t.seq with stage := stage } }.setRow q l fun r => { r with staged := (s.row q l).staged }

/-- The writes of an APPEND in R102's order: the tail, whole pages, staging; then FLUSH_AFTER. None where a page cannot be had. -/
def appendWrite (s0 : State) (n : Node) (a : AppendCmd) (p : Profile) (pl : AppendPlan) (toks : List StagedTok) : FlushRes :=
  let pt := ringPt n.ring
  let s := s0
  let x := { flushPage s n a.seq p with layer := a.layer }
  let first :=
    if pl.toTail = 0 then FlushRes.done s
    else
      let old := ((stageOf s a.seq a.layer).map (·.toks)).getD []
      match flushToks s a.seq a.layer x n.seed (old ++ toks.take pl.toTail) with
      | .done t =>
        let t := dropStage t a.seq a.layer
        .done (count (t.setRow a.seq a.layer fun r => { r with staged := 0 }) pgSeq 3 pt)
      | r => r
  match first with
  | .done s =>
    match directPages s pt a.seq a.layer x n.seed (chunks p.tpp pl.pages (toks.drop pl.toTail)) with
    | none => .noSpace
    | some s =>
      let s := stageToks s pt a.seq a.layer n.hdr.epoch (toks.drop (pl.toTail + pl.pages * p.tpp))
      if a.flushAfter then
        match flushLayer s a.seq a.layer x n.seed true with
        | .poisoned t => .poisoned (unstage s0 t a.seq a.layer)
        | r => r
      else .done s
  | r => r

/-- The layer and the context after NTOK tokens came in (R52, R87, R102). -/
def appendCount (s : State) (a : AppendCmd) (pt : Nat) : State :=
  let s := s.setRow a.seq a.layer fun r => { r with tokens := r.tokens + a.ntok }
  let len := (s.row a.seq a.layer).tokens
  let s := s.setCtx a.seq fun c =>
    { c with length := max c.length len, lastAppend := s.time, tokensIn := (c.tokensIn + a.ntok) % 2 ^ 64 }
  count (count s pgSeq 1 pt) pgSeq 2 pt a.ntok

/-- An APPEND under its lock. -/
def appendCmd (s : State) (n : Node) (a : AppendCmd) : State :=
  let pt := ringPt n.ring
  let q := a.seq
  let row := s.row q a.layer
  let endWith := fun (t : State) (c : Comp) => finish (allocDone (dropLock t q) n.acc) n.acc c
  match seqProfile s n.hdr.epoch q with
  | none => endWith s (invalidAt 16)
  | some p =>
    if a.pos0 ≠ 0xFFFFFFFF ∧ a.pos0 ≠ row.tokens then endWith s (invalidAt 24 0 row.tokens)
    else
    let s := takeLock (assignTile s n q) q n.acc n.ring
    let tail := tailFill s q a.layer p.tpp
    let pl := appendPlan p.tpp tail row.staged a.ntok
    let pages := appendPages s q a.layer p.tpp pl a.flushAfter
    let filled := decide (pl.toTail ≠ 0 ∨ pl.pages ≠ 0)
    if row.poisoned then endWith s (failWith .poisoned)
    else if 15360 * p.tpp < row.tokens + a.ntok then endWith s (failWith .nospace)
    else if ptFree s pt < pages * p.framesPerPage
        ∨ granulesFor s q a.layer filled < granules p (if filled then pl.rest else row.staged + pl.rest) then allocWait s n
    else
      match readRef s n a.kRef (srcBytes a.kFmt a.ntok p.kvh p.hdim), readRef s n a.vRef (srcBytes a.vFmt a.ntok p.kvh p.hdim) with
      | .error e, _ => endWith e.1 e.2
      | .ok _, .error e => endWith e.1 e.2
      | .ok kb, .ok vb =>
        let t := appendToks p n.seed q a.layer row.tokens a.ntok a.kFmt a.vFmt kb vb
        let pos := t.1
        match appendWrite s n a p pl pos with
        | .done s' => endWith (tileCount (appendCount s' a pt) (homeTile s q) 22 t.2) {}
        | .poisoned s' => endWith s' (failWith .poisoned)
        | .blocked _ => liftTail s q a.layer p.tpp n.acc
        | .noSpace => allocWait s n

/-- An APPEND that a poisoned page stopped changed nothing but the layer's mark; its lock is gone. -/
def runAppend (s : State) (n : Node) (a : AppendCmd) : State :=
  onSequence s n a.seq fun s => withTiles s n a.seq fun s => appendCmd s n a

def execAppend (acc : Nat) (rivals : List Nat) (s : State) : Host.Outcome State Fault Refusal :=
  .next (contended s acc rivals fun s n =>
    match n.cmd with
    | .append a => leafGate s acc none fun s => runAppend s n a
    | _ => s)

/-! ### SEQ_FORK -/

/-- The PTEs a child gets of a layer that shares `len` tokens: each parent page with the tokens of it that lie below. -/
def forkPtes (tpp len : Nat) (ps : List Pte) : List Pte :=
  (ps.take (ceilDiv len tpp)).zipIdx.map fun p => { p.1 with fill := min p.1.fill (len - p.2 * tpp) }

/-- Give a child a layer's PTEs: each named page's REFCNT rises. -/
def giveLayer (s : State) (child l len : Nat) (ps : List Pte) : State :=
  let s := addChunks (s.setRow child l fun _ => { tokens := len, ptes := ps }) child l
  ps.foldl (fun s p => addRef s p.cpn) s

/-- LENGTH of a sequence: the largest TOKENS of its layers (R52). -/
def seqLength (s : State) (q : Nat) : Nat := (List.range (s.ctx q).layers).foldl (fun m l => max m (s.row q l).tokens) 0

/-- The fork's end: the child is made from the parent's flushed layers. [DESIGN CHOICE, log 102] -/
def forkChild (s : State) (n : Node) (want q forkLen : Nat) (p : Profile) : State :=
  let pt := ringPt n.ring
  let c := s.ctx q
  match takeSeq s n.hdr.epoch pt want with
  | .error e => finish (dropLock s q) n.acc e
  | .ok (child, s) =>
    ctxAccess s child fun s =>
    let s := openCtx s n.hdr.epoch pt child { layers := c.layers, profile := c.profile, parent := .seq q, forkLen := forkLen }
    let s := (List.range c.layers).foldl (fun s l =>
      let len := min forkLen (s.row q l).tokens
      giveLayer s child l len (forkPtes p.tpp len (s.row q l).ptes)) s
    let s := s.setCtx child fun d => { d with length := seqLength s child }
    finish (dropLock s q) n.acc { result := child }

/-- SEQ_FORK of a sequence (R110). -/
def forkSeq (s : State) (n : Node) (want q forkLen : Nat) : State :=
  let layers := List.range (s.ctx q).layers
  let endWith := fun (t : State) (c : Comp) => finish (allocDone (dropLock t q) n.acc) n.acc c
  match seqProfile s n.hdr.epoch q with
  | none => endWith s (invalidAt 20)
  | some p =>
    if want ≠ 0xFFFFF ∧ (s.ctx want).state ≠ .free then endWith s (invalidAt 16)
    else if (s.ctx q).length < forkLen then endWith s (invalidAt 24)
    else
      let s := takeLock s q n.acc n.ring
      if anyPoisoned s q layers then endWith s (failWith .poisoned)
      else
        let ls := stagedLayers s q
        if ptFree s (ringPt n.ring) < flushFrames s q p ls then allocWait s n
        else
          match flushLayers s q (flushPage s n q p) n.seed false ls with
          | (.done t, false) => forkChild (allocDone t n.acc) n want q forkLen p
          | (.done t, true) | (.poisoned t, _) => endWith t (failWith .poisoned)
          | (.blocked t, _) => ls.foldl (fun t l => liftTail t q l p.tpp n.acc) t
          | (.noSpace, _) => allocWait s n

/-- The directory slot a handle names, if it names a live entry of its partition and generation (R130). -/
def handleSlot (s : State) (h : Nat) : Option (Nat × DirSlot) :=
  let i := bits h 0 26
  let d := s.slot i
  if d.state = .live ∧ d.gen % 8 = bits h 29 3 ∧ d.pt = bits h 26 3 then some (i, d) else none

/-- The slots of a chain from an entry up to depth 1, shallowest first. -/
def chainSlots (s : State) : Nat → Nat → List Nat
  | 0, _ => []
  | k + 1, i => if i = 0x3FFFFFF then [] else chainSlots s k (s.slot i).parent ++ [i]

/-- SEQ_FORK from a prefix handle (R112, R148): whole blocks, the last one in part where FORK_LEN ends in it. -/
def forkHandle (s : State) (n : Node) (want h forkLen : Nat) : State :=
  let pt := ringPt n.ring
  match handleSlot s h with
  | none => finish s n.acc (invalidAt 20)
  | some (i, d) =>
    match profileAt s n.hdr.epoch d.profile with
    | none => finish s n.acc (invalidAt 20)
    | some p =>
      if d.depth * p.tpp < forkLen then finish s n.acc (invalidAt 24)
      else
        match takeSeq s n.hdr.epoch pt want with
        | .error e => finish s n.acc e
        | .ok (child, s) =>
          ctxAccess s child fun s =>
          let chain := chainSlots s d.depth i
          let s := openCtx s n.hdr.epoch pt child
            { layers := d.cpns.length, profile := d.profile, parent := .handle h d.gen, forkLen := forkLen, length := forkLen }
          let s := (List.range d.cpns.length).foldl (fun s l =>
            giveLayer s child l forkLen (forkPtes p.tpp forkLen
              (chain.map fun j => { cpn := lget (s.slot j).cpns l 0, fill := p.tpp }))) s
          let s := s.setSlot i fun d => { d with refs := d.refs + 1 }
          finish s n.acc { result := child }

def runFork (s : State) (n : Node) (want : Nat) (ofHandle : Bool) (parent forkLen : Nat) : State :=
  if ofHandle then
    match beginCheck s n with
    | some c => finish s n.acc c
    | none => forkHandle s n want parent forkLen
  else onSequence s n (parent % 2 ^ 20) fun s => forkSeq s n want (parent % 2 ^ 20) forkLen

def execSeqFork (c : Try) (s : State) : Host.Outcome State Fault Refusal :=
  .next (contended s c.acc c.rivals fun s n =>
    match n.cmd with
    | .seqFork w h p l => leafGate s c.acc none fun s => runFork s n w h p l
    | _ => s)

/-! ### SEQ_CLOSE -/

/-- Release the reference that the fork of a closing child took (R113). -/
def releaseParent (s : State) (c : Ctx) : State :=
  match c.parent with
  | .handle h g =>
    let i := bits h 0 26
    let d := s.slot i
    if d.state = .live ∧ d.pt = c.pt ∧ d.gen = g ∧ 0 < d.refs then s.setSlot i fun d => { d with refs := d.refs - 1 } else s
  | _ => s

/-- The last part of a close: every PTE goes, the parent's reference, the tables and the context. -/
def closeSeq (s : State) (q : Nat) (zero : Bool) : State :=
  let c := s.ctx q
  let s := (List.range c.layers).foldl (fun s l =>
    let ps := (s.row q l).ptes
    let s := s.setRow q l fun _ => {}
    ps.foldl (fun s p => dropRef s p.cpn zero) s) s
  let s := releaseParent s c
  let s := s.setCtx q fun _ => {}
  { s with seq := { s.seq with cached := s.seq.cached.filter (· != q), fetching := s.seq.fetching.filter (· != q),
                               heldFlush := s.seq.heldFlush.filter (fun k => k.1 / 256 != q) } }

/-- Discard what is staged. -/
def discardStage (s : State) (q : Nat) : State :=
  let s := (stagedLayers s q).foldl (fun s l => dropStage s q l) s
  (List.range (s.ctx q).layers).foldl (fun s l =>
    s.setRow q l fun r => { r with tokens := r.tokens - r.staged, staged := 0 }) s

/-- SEQ_CLOSE under the target's lock: CLOSING, then, with READERS 0, FREE. [DEDUCED, log 41] -/
def closeCmd (s : State) (n : Node) (q : Nat) (zero : Bool) : State :=
  let s :=
    if (s.ctx q).state = .closing then s
    else discardStage ((takeLock s q n.acc n.ring).setCtx q fun c => { c with state := .closing }) q
  if (s.ctx q).readers ≠ 0 then s else finish (closeSeq s q zero) n.acc {}

def execSeqClose (c : Try) (s : State) : Host.Outcome State Fault Refusal :=
  .next (contended s c.acc c.rivals fun s n =>
    match n.cmd with
    | .seqClose q z => leafGate s c.acc none fun s => onSequence s n q fun s => closeCmd s n q z
    | _ => s)

/-! ### Ends of allocation waits -/

/-- ALLOC_WAIT_US is over: NOSPACE, nothing changed. -/
def allocTimeout (s : State) (n : Node) : State :=
  match s.seq.allocWaits.find? fun w => w.acc == n.acc with
  | none => s
  | some w =>
    let s := count (allocDone (s.reach w.until_) n.acc) pgBlw 8 (ringPt n.ring)
    let s := match lockSeq n.cmd with
      | some q => if (s.ctx q).lockOwner = some n.acc then dropLock s q else s
      | none => s
    finish s n.acc (failWith .nospace)

end Sys2Proof.Machine
end

