-- ==== Sys2Proof/Machine/Chanter.lean ====
section
/-!
DEFINITION. The prefix store: chain hashes (R124, R125), the directory (R131, R132, R149), the CAM banks (R133 to R138), lookup (R140,
R141), publication (R143 to R145), references and pins (R147), and the salt (R126).
-/

namespace Sys2Proof.Machine

/-! ### Hashes (R124, R125) -/

/-- The salt of a partition. -/
def saltOf (s : State) (pt : Nat) : List Byte := lget s.chn.salt pt (zeros 32)

/-- H_i from H_(i−1) and the block's token IDs. -/
def blockHash (salt : List Byte) (profile prev : Nat) (toks : List Byte) : Nat :=
  leNat ((sha256 (salt ++ toLe 2 profile ++ toLe 12 prev ++ toks)).take 12)

/-- H_1 to H_n of a run of token bytes. -/
def chainHashes (salt : List Byte) (profile blk : Nat) : Nat → Nat → List Byte → List Nat
  | 0, _, _ => []
  | n + 1, prev, bs =>
    let h := blockHash salt profile prev (bs.take blk)
    h :: chainHashes salt profile blk n h (bs.drop blk)

/-- The bank and the anchor of a chain (R133, R134). -/
def chainBank (h1 : Nat) : Nat := bits h1 0 3
def chainAnchor (h1 : Nat) : Nat := bits h1 3 12

/-! ### The directory (R131, R132) -/

def dirEn (s : State) : Bool := bit (s.reg pgChn 0x208) 0
def dirLog2 (s : State) : Nat := bits (s.reg pgChn 0x208) 1 5
/-- CHN_PT_CAMQ, CHN_PT_DIRQ, CAM_STRIDE_LOG2, PROBE_MAX of a partition. [DEDUCED, log 76] -/
def camQuota (s : State) (pt : Nat) : Nat := s.reg pgChn 0x210 pt
def dirQuota (s : State) (pt : Nat) : Nat := s.reg pgChn 0x214 pt
def camStride (s : State) (pt : Nat) : Nat := 2 ^ bits (s.reg pgChn 0x218 pt) 0 4
def probeMax (s : State) (pt : Nat) : Nat := bits (s.reg pgChn 0x218 pt) 4 8

/-- The slots of a hash's path: up to eight buckets of four, to the first bucket with an EMPTY slot. -/
def dirPath (s : State) (h : Nat) : List Nat :=
  let n := 2 ^ (dirLog2 s - 2)
  let go := fun (acc : Bool × List Nat) (k : Nat) =>
    if acc.1 then acc
    else
      let b := (h / 2 ^ 32 % n + k) % n
      let slots := (List.range 4).map (4 * b + ·)
      (slots.any fun i => (s.slot i).state == .empty, acc.2 ++ slots)
  ((List.range 8).foldl go (false, [])).2

/-- The LIVE slot of a partition that holds a hash at a depth. -/
def dirFind (s : State) (pt h depth : Nat) : Option Nat :=
  (dirPath s h).find? fun i =>
    let d := s.slot i
    d.state == .live && d.pt == pt && d.hash == h && d.depth == depth

/-- LIVE entries of a partition (CHN_PT_USE). -/
def dirUse (s : State) (pt : Nat) : Nat := (s.chn.dir.filter fun e => e.2.state == .live && e.2.pt == pt).length

/-- The handle of a slot (R130). -/
def handleOf (s : State) (i : Nat) : Nat := i + (s.slot i).pt * 2 ^ 26 + (s.slot i).gen % 8 * 2 ^ 29

/-- Is the entry idle (R149)? -/
def dirIdle (d : DirSlot) : Bool := d.state == .live && d.refs == 0 && d.children == 0 && !d.pinned

/-! ### Reclaim (R149) -/

/-- Clear the CAM words of a slot. -/
def camClear (s : State) (i : Nat) : State :=
  { s with chn := { s.chn with banks := s.chn.banks.map fun b => { b with words := b.words.filter fun w => w.2.slot != i } } }

/-- Does an open version's import hold the entry's pages (R308)? -/
def importHeld (s : State) (i : Nat) : Bool := s.cxh.opens.any fun o => o.imported.contains i
/-- The entry is no longer one of an open version's imports. -/
def dropImport (s : State) (i : Nat) : State :=
  { s with cxh := { s.cxh with opens := s.cxh.opens.map fun o => { o with imported := o.imported.filter (· != i) } } }

/-- Reclaim an entry: its CAM word goes, the slot becomes TOMB with its GEN, its pages are no longer published and lose an import's hold
(R310), the parent has one child less. [DEDUCED, log 77] -/
def reclaim (s : State) (i : Nat) : State :=
  let d := s.slot i
  let s := if d.inCam then camClear s i else s
  let s := s.setSlot i fun d => { state := .tomb, gen := d.gen }
  let s := d.cpns.foldl unpublishPage s
  let s := if importHeld s i then dropImport (d.cpns.foldl (fun s c => dropRef s c) s) i else s
  let s := if d.parent = 0x3FFFFFF then s else s.setSlot d.parent fun p => { p with children := p.children - 1 }
  count s pgChn 4 d.pt

/-- The idle entry of a partition with the oldest LAST_USE among slots, but for the ones kept. [DEDUCED, log 77] -/
def oldestIdle (s : State) (pt : Nat) (keep : List Nat) (slots : List Nat) : Option Nat :=
  minBy (fun i => (s.slot i).lastUse) (slots.filter fun i => dirIdle (s.slot i) && (s.slot i).pt == pt && !keep.contains i)

/-- Reclaim until the partition's use is below its quota; none where nothing idle is left. -/
def reclaimQuota (s : State) (pt : Nat) (keep : List Nat) : Nat → Option State
  | 0 => if dirUse s pt < dirQuota s pt then some s else none
  | fuel + 1 =>
    if dirUse s pt < dirQuota s pt then some s
    else
      match oldestIdle s pt keep (s.chn.dir.map (·.1)) with
      | some i => reclaimQuota (reclaim s i) pt keep fuel
      | none => none

/-- The slot an insertion of a hash takes (R132), after the reclaims it needs. -/
def takeSlot (s : State) (pt h : Nat) (keep : List Nat) : Option (Nat × State) :=
  match reclaimQuota s pt keep (s.chn.dir.length + 1) with
  | none => none
  | some s =>
    let path := dirPath s h
    match path.find? fun i => (s.slot i).state != .live with
    | some i => some (i, s)
    | none => (oldestIdle s pt keep path).map fun i => (i, reclaim s i)

/-- An entry to be made LIVE. -/
structure NewEntry where
  pt : Nat
  hash : Nat
  depth : Nat
  parent : Nat
  profile : Nat
  cpns : List Nat
  version : Nat := 0
  region : Nat := 0
  deriving DecidableEq, Repr

/-- Make an entry LIVE in a slot (R131, R143, R144): GEN and the parent's CHILDREN rise, its pages are published. -/
def makeLive (s : State) (i : Nat) (x : NewEntry) : State :=
  let s := s.setSlot i fun d =>
    { hash := x.hash, depth := x.depth, pt := x.pt, state := .live, gen := (d.gen + 1) % 256, parent := x.parent, profile := x.profile,
      cpns := x.cpns, version := x.version, region := x.region, lastUse := s.time,
      spoiled := x.cpns.any fun c => pagePoisoned s c }
  let s := if x.parent = 0x3FFFFFF then s else s.setSlot x.parent fun p => { p with children := p.children + 1 }
  x.cpns.foldl publishPage (count s pgChn 2 x.pt)

/-! ### The CAM banks (R133 to R138) -/

/-- May a partition place words in a bank (R151, R529 note 2)? -/
def mayPlace (s : State) (pt b : Nat) : Bool :=
  let c := (s.bank b).cfg.toNat
  (!bit c 8 || bits c 5 3 == pt) && (!(s.mapOf pt).strict || bit (s.mapOf pt).banks b)

/-- CAM words of a partition over all banks. -/
def camUse (s : State) (pt : Nat) : Nat := (s.chn.banks.map fun b => (b.words.filter fun w => w.2.pt == pt).length).sum

/-- The insertion point of a depth (R135). -/
def camPoint (ws : Tbl CamWord) (depth : Nat) : Nat :=
  ws.foldl (fun p w => if depth ≤ w.2.depth then max p (w.1 + 1) else p) 0

/-- Put a word in at its insertion point, moving words to the nearest hole below it, else above it (R136). The bank has a hole; where the point itself is
its only one, the word goes there. [DEDUCED, log 76] -/
def camPut (ws : Tbl CamWord) (w : CamWord) : Tbl CamWord :=
  let p := camPoint ws w.depth
  let h := firstFree (tmem ws) 1 (ws.length + 1) (p + 1)
  let above := ((List.range p).filter fun k => !tmem ws k).getLast?
  if h < 32768 then
    (ws.filter fun x => decide (x.1 < p)) ++ [(p, w)]
      ++ (ws.filter fun x => decide (p ≤ x.1)).map fun x => if x.1 < h then (x.1 + 1, x.2) else x
  else
    match above with
    | some up =>
      ((ws.filter fun x => decide (x.1 < p)).map fun x => if up < x.1 then (x.1 - 1, x.2) else x) ++ [(p - 1, w)]
        ++ ws.filter fun x => decide (p ≤ x.1)
    | none => (ws.filter fun x => decide (x.1 < p)) ++ [(p, w)] ++ ws.filter fun x => decide (p ≤ x.1)

/-- The clock sweep: the word of the partition that leaves, and the bank with the hand and REF bits as the sweep left them. `mine`:
slots whose words this pass wrote. [DEDUCED, log 76] -/
def camVictim (b : Bank) (pt : Nat) (mine : List Nat) : Option (CamWord × Bank) :=
  let el := sortBy (b.words.filter fun w => w.2.pt == pt && !w.2.pinned && !mine.contains w.2.slot)
    fun x y => decide (ptrDist 32768 b.hand x.1 ≤ ptrDist 32768 b.hand y.1)
  let passed := el.takeWhile fun w => w.2.ref
  let pick := match el.drop passed.length with
    | w :: _ => some w
    | [] => el.head?
  pick.map fun v =>
    let clear := passed.map (·.1)
    let ws := (b.words.filter fun w => w.1 != v.1).map fun w => if clear.contains w.1 then (w.1, { w.2 with ref := false }) else w
    (v.2, { b with words := ws, hand := (v.1 + 1) % 32768 })

/-- Evict one word of the partition from a bank, if an eligible one is there. -/
def camEvict (s : State) (b pt : Nat) (mine : List Nat) : State :=
  match camVictim (s.bank b) pt mine with
  | none => s
  | some (w, k) => count ((s.setBank b fun _ => k).setSlot w.slot fun d => { d with inCam := false }) pgChn 3 pt

/-- Insert one word of a pass (R138). [DEDUCED, log 76] -/
def camInsert (s : State) (b : Nat) (mine : List Nat) (w : CamWord) : State :=
  let full := fun (s : State) => decide (32768 ≤ (s.bank b).words.length)
  let quotaMet := fun (s : State) => decide (camQuota s w.pt ≤ camUse s w.pt)
  let s := if full s ∨ quotaMet s then camEvict s b w.pt mine else s
  if full s ∨ quotaMet s ∨ ¬ mayPlace s w.pt b then s
  else
    let w := { w with pinned := (s.slot w.slot).pinned || w.pinned }
    (s.setBank b fun k => { k with words := camPut k.words w }).setSlot w.slot fun d => { d with inCam := true }

/-- Is the word of a slot still wanted: its entry is LIVE, of the same chain, and not in the CAM already? -/
def camWanted (s : State) (w : CamWord) : Bool :=
  let d := s.slot w.slot
  d.state == .live && d.hash == w.hash && d.pt == w.pt && !d.inCam

/-- The end of a command that waited for its pin: OK with PUBLISH's RESULT, or NOSPACE (R138, R145). -/
def pinEnd (s : State) (acc slot : Nat) (ok : Bool) : State :=
  match s.node acc with
  | none => s
  | some n =>
    let r := match n.cmd with
      | .prefixPublish _ _ pool _ _ _ => (handleOf s slot, if pool then (s.slot slot).version % 2 ^ 32 else 0)
      | _ => (0, 0)
    finish s acc { status := if ok then .ok else .nospace, result := r.1, detail0 := r.2 }

/-- Set or clear PINNED of an entry and of its CAM word. -/
def setPin (s : State) (i : Nat) (v : Bool) : State :=
  let s := s.setSlot i fun d => { d with pinned := v }
  { s with chn := { s.chn with banks := s.chn.banks.map fun k =>
    { k with words := k.words.map fun w => if w.2.slot = i then (w.1, { w.2 with pinned := v }) else w } } }

/-- A pass inserts its words, shallowest first, and settles its pin. [DEDUCED, log 76] -/
def camPass (s : State) (b : Nat) (p : CamPass) : State :=
  let s := (p.words.foldl (fun (acc : State × List Nat) w =>
    if camWanted acc.1 w then (camInsert acc.1 b acc.2 { w with pinned := p.pinSlot == some w.slot }, acc.2 ++ [w.slot])
    else acc) (s, [])).1
  match p.pinSlot with
  | none => s
  | some i =>
    let ok := (s.slot i).inCam && (s.slot i).gen == p.pinGen
    let s := if ok then setPin s i true else s
    match p.pinAcc with
    | some a => pinEnd s a i ok
    | none => s

/-- Has the bank room for one more insertion? -/
def camRoom (s : State) (b : Nat) : Bool := (s.bank b).running.isNone || decide ((s.bank b).queue.length < 16)

/-- Hand a pass to a bank: it runs, or waits behind the running one. -/
def camQueue (s : State) (b : Nat) (p : CamPass) : State :=
  s.setBank b fun k => if k.running.isNone then { k with running := some p } else { k with queue := k.queue ++ [p] }

/-- CAM_INSERT_PASS: the running pass does its work, and the next queued one runs. -/
def camInsertPass (s : State) (b : Nat) : State :=
  match (s.bank b).running with
  | none => s
  | some p => camPass (s.setBank b fun k => { k with running := k.queue.head?, queue := k.queue.drop 1 }) b p

def execCamInsertPass (bank : Nat) (s : State) : Host.Outcome State Fault Refusal :=
  .next (if s.boot.fatal then s else camInsertPass s bank)

/-- CHN_BANK_CFG_APPLY (R151). [DEDUCED, log 76] -/
def bankApply (s : State) (b : Nat) : State :=
  s.setBank b fun k =>
    match k.cfgNext, k.running with
    | some c, none => { k with cfg := c, cfgNext := none }
    | _, _ => k

def execChnBankCfgApply (bank : Nat) (s : State) : Host.Outcome State Fault Refusal :=
  .next (if s.boot.fatal then s else bankApply s bank)

/-! ### Lookup (R140, R141) -/

/-- The anchor search: the depth found, and its CAM word's position. -/
def anchorSearch (s : State) (pt : Nat) (hs : List Nat) : Option (Nat × Nat) :=
  let h1 := lget hs 0 0
  let ws := ((s.bank (chainBank h1)).words.filter fun w => w.2.pt == pt && w.2.anchor == chainAnchor h1).take (probeMax s pt)
  (ws.find? fun w => decide (w.2.depth ≤ hs.length) && w.2.hash == lget hs (w.2.depth - 1) 0).map fun w => (w.2.depth, w.1)

/-- The binary search of R140. -/
def dirSearch (has : Nat → Bool) : Nat → Nat → Nat → Nat
  | 0, lo, _ => lo
  | fuel + 1, lo, hi =>
    if lo < hi then
      let mid := (lo + hi + 1) / 2
      if has mid then dirSearch has fuel mid hi else dirSearch has fuel lo (mid - 1)
    else lo

/-- The search of R140 without its final walk: the depth, and the state with REF set. -/
def chainDepth (s : State) (pt : Nat) (hs : List Nat) : Nat × State :=
  let b := chainBank (lget hs 0 0)
  let hit := if mayPlace s pt b then anchorSearch s pt hs else none
  let s := match hit with
    | some (_, pos) => s.setBank b fun k => { k with words := k.words.map fun w => if w.1 = pos then (w.1, { w.2 with ref := true }) else w }
    | none => s
  let dc := (hit.map (·.1)).getD 0
  let has := fun (j : Nat) => (dirFind s pt (lget hs (j - 1) 0) j).isSome
  if dc < hs.length ∧ has (dc + 1) then (dirSearch has 17 (dc + 1) hs.length, s) else (dc, s)

/-- The final walk: below the shallowest SPOILED entry. -/
def unspoiled (s : State) (chain : List Nat) : Nat := (chain.takeWhile fun i => !(s.slot i).spoiled).length

/-- The 8-byte records of a chain (R141). -/
def cpnRecords (s : State) (chain : List Nat) : List Byte :=
  chain.zipIdx.flatMap fun e => (s.slot e.1).cpns.zipIdx.flatMap fun c => toLe 5 c.1 ++ toLe 1 c.2 ++ toLe 2 e.2

/-- Run with a directory bucket as a structure (R472). -/
def dirAccess (s : State) (h : Nat) (f : State → State) : State :=
  structAccess s ((dirTable s).1 + 256 * (h / 2 ^ 32 % 2 ^ (dirLog2 s - 2))) 256 f

/-- PREFIX_LOOKUP with its hashes. [DEDUCED, log 77] -/
def lookupHashes (s : State) (n : Node) (pin : Bool) (outRef : Nat) (hs : List Nat) : State :=
  let pt := ringPt n.ring
  let r := chainDepth s pt hs
  let s := count r.2 pgChn 0 pt
  let chain := match dirFind s pt (lget hs (r.1 - 1) 0) r.1 with
    | some i => if r.1 = 0 then [] else chainSlots s r.1 i
    | none => []
  let d := unspoiled s chain
  let chain := chain.take d
  match chain.getLast? with
  | none => finish s n.acc {}
  | some top =>
    let out := cpnRecords s chain
    if ¬ refInArea s n.hdr pt outRef out.length then finish s n.acc (failWith .perm)
    else
      let s := refWrite (count s pgChn 1 pt d) n.acc n.ring n.hdr.epoch outRef out
      let s := s.setSlot top fun e => { e with lastUse := s.time, refs := if pin then e.refs + 1 else e.refs }
      finish s n.acc { detail0 := d, detail1 := handleOf s top }

def runLookup (s : State) (n : Node) (prof blocks : Nat) (pin : Bool) (tokRef outRef : Nat) : State :=
  match beginCheck s n, profileAt s n.hdr.epoch prof with
  | some c, _ => finish s n.acc c
  | none, none => finish s n.acc (invalidAt 16)
  | none, some p =>
    if ¬ dirEn s then finish s n.acc (failWith .nospace)
    else
      match readRef s n tokRef (blocks * p.tpp * 4) with
      | .error e => finish e.1 n.acc e.2
      | .ok bs =>
        let hs := chainHashes (saltOf s (ringPt n.ring)) prof (4 * p.tpp) blocks 0 bs
        dirAccess s (lget hs 0 0) fun s => lookupHashes s n pin outRef hs

def execPrefixLookup (acc : Nat) (s : State) : Host.Outcome State Fault Refusal :=
  .next (match liveNode s acc with
    | some n =>
      match n.cmd with
      | .prefixLookup p b pin t o => runLookup s n p b pin t o
      | _ => s
    | none => s)

/-! ### Publication (R143 to R145) -/

/-- The PTEs of the first NBLOCKS pages of every layer. -/
def blockPtes (s : State) (q blocks : Nat) : List (List (Option Pte)) :=
  (List.range (s.ctx q).layers).map fun l => (List.range blocks).map fun i => (s.row q l).ptes[i]?

/-- Checks 3 and 4 of R143. -/
def publishBad (s : State) (q blocks tpp : Nat) : Option Comp :=
  let ps := blockPtes s q blocks
  if ps.any fun l => l.any fun e => !(e.any fun p => decide (tpp ≤ p.fill)) then some (invalidAt 20)
  else if anyPoisoned s q (List.range (s.ctx q).layers) ∨ (ps.any fun l => l.any fun e => e.any fun p => pagePoisoned s p.cpn) then
    some (failWith .poisoned)
  else none

/-- The CPNs of block i in layer order. -/
def blockCpns (s : State) (q i : Nat) : List Nat :=
  (List.range (s.ctx q).layers).map fun l => (((s.row q l).ptes[i]?).map (·.cpn)).getD 0

/-- Make entries for depths d, d + 1, … LIVE, shallowest first; answer their slots. None where a slot cannot be had. -/
def publishEntries (s : State) (pt q prof : Nat) : List Nat → Nat → Nat → List Nat → Option (List Nat × State)
  | [], _, _, acc => some (acc, s)
  | h :: hs, depth, parent, acc =>
    match takeSlot s pt h (parent :: acc) with
    | none => none
    | some (i, s) =>
      let s := makeLive s i { pt := pt, hash := h, depth := depth, parent := parent, profile := prof, cpns := blockCpns s q (depth - 1) }
      publishEntries s pt q prof hs (depth + 1) i (acc ++ [i])

/-- The CAM word of an entry. -/
def wordOf (s : State) (h1 i : Nat) : CamWord :=
  let d := s.slot i
  { hash := d.hash, anchor := chainAnchor h1, depth := d.depth, pt := d.pt, slot := i }

/-- The words a publication inserts: multiples of the stride, and the deepest new entry. -/
def publishWords (s : State) (pt h1 : Nat) (slots : List Nat) : List CamWord :=
  (slots.filter fun i => (s.slot i).depth % camStride s pt == 0 || slots.getLast? == some i).map (wordOf s h1)

/-- What follows the local publication: `done` for the pool step (R146). -/
inductive PubStep where
  | finished (s : State)
  | pool (s : State) (top : Nat) (slots : List Nat)
  deriving DecidableEq, Repr

/-- The local step of a publication with its hashes, after the checks. -/
def publishLocal (s : State) (n : Node) (q blocks : Nat) (pool pin : Bool) (hs : List Nat) : PubStep :=
  let pt := ringPt n.ring
  let h1 := lget hs 0 0
  let b := chainBank h1
  let prof := (s.ctx q).profile
  let endWith := fun (t : State) (c : Comp) => PubStep.finished (finish (dropLock t q) n.acc c)
  let r := chainDepth s pt hs
  let e := r.1
  let s := r.2
  let parent := if e = 0 then 0x3FFFFFF else (dirFind s pt (lget hs (e - 1) 0) e).getD 0x3FFFFFF
  let news := (List.range (blocks - e)).map (· + e)
  if news.any fun i => (blockCpns s q i).any fun c => (s.loc c).published then endWith s (invalidAt 32)
  else if mayPlace s pt b ∧ (e < blocks ∨ pin) ∧ ¬ camRoom s b then endWith (count s pgChn 6 pt) (failWith .busy)
  else
    match publishEntries s pt q prof (hs.drop e) (e + 1) parent [] with
    | none => endWith s (failWith .nospace)
    | some (slots, t) =>
      let top := if e < blocks then slots.getLast?.getD parent
        else (dirFind t pt (lget hs (blocks - 1) 0) blocks).getD parent
      let ws := publishWords t pt h1 slots
      let pinned := pin && !(t.slot top).inCam && mayPlace t pt b
      let ws := if pinned ∧ ¬ (ws.any fun w => w.slot == top) then ws ++ [wordOf t h1 top] else ws
      let t := if pin ∧ ¬ pinned then setPin t top true else t
      let t := if ws.isEmpty ∨ ¬ mayPlace t pt b then t
        else camQueue t b { pt := pt, words := ws, pinSlot := if pinned then some top else none, pinGen := (t.slot top).gen,
                            pinAcc := if pinned ∧ ¬ pool then some n.acc else none }
      if pool then .pool t top slots
      else if pinned then .finished (dropLock t q)
      else .finished (finish (dropLock t q) n.acc { result := handleOf t top })

/-- Is a pass that pins for the command still to run? [DEDUCED, log 76] -/
def pinWaits (s : State) (acc : Nat) : Bool :=
  s.chn.banks.any fun b => (b.running.toList ++ b.queue).any fun p => p.pinAcc == some acc

/-- A publication that holds its lock waits in its pool step: the step is taken up again. -/
def publishAgain (s : State) (n : Node) (q blocks : Nat) (p : Profile) (tokRef : Nat) (k : State → Nat → List Nat → State) : State :=
  match readRef s n tokRef (blocks * p.tpp * 4) with
  | .error e => finish (dropLock e.1 q) n.acc e.2
  | .ok bs =>
    let hs := chainHashes (saltOf s (ringPt n.ring)) (s.ctx q).profile (4 * p.tpp) blocks 0 bs
    match dirFind s (ringPt n.ring) (lget hs (blocks - 1) 0) blocks with
    | some top => k s top []
    | none => finish (dropLock s q) n.acc (invalidAt 32)

/-- PREFIX_PUBLISH up to its pool step: the checks in R143's order. -/
def runPublish (s : State) (n : Node) (q blocks : Nat) (pool pin : Bool) (region tokRef : Nat) (k : State → Nat → List Nat → State) :
    State :=
  if pinWaits s n.acc then s
  else
  onSequence s n q fun s =>
    match seqProfile s n.hdr.epoch q with
      | none => finish s n.acc (invalidAt 16)
      | some p =>
        if (s.ctx q).lockOwner = some n.acc then publishAgain s n q blocks p tokRef k
        else if ¬ dirEn s then finish s n.acc (failWith .nospace)
        else if pool ∧ (openVersion s (ringPt n.ring) region).isNone then finish s n.acc (invalidAt 24)
        else
          match publishBad s q blocks p.tpp with
          | some c => finish s n.acc c
          | none =>
            match readRef s n tokRef (blocks * p.tpp * 4) with
            | .error e => finish e.1 n.acc e.2
            | .ok bs =>
              let hs := chainHashes (saltOf s (ringPt n.ring)) (s.ctx q).profile (4 * p.tpp) blocks 0 bs
              dirAccess s (lget hs 0 0) fun s =>
                match publishLocal (takeLock s q n.acc n.ring) n q blocks pool pin hs with
                | .finished t => t
                | .pool t top slots => k t top slots

/-! ### References and pins (R147) -/

/-- Run with the handle's slot, or INVALID (R130). -/
def onHandle (s : State) (n : Node) (h : Nat) (f : State → Nat → State) : State :=
  match beginCheck s n with
  | some c => finish s n.acc c
  | none =>
    match handleSlot s h with
    | none => finish s n.acc (invalidAt 16)
    | some (i, _) => f s i

/-- The hash of a chain's depth-1 entry. -/
def firstHash (s : State) (i : Nat) : Nat := (s.slot ((chainSlots s (s.slot i).depth i).head?.getD i)).hash

/-- PREFIX_REF pin. -/
def pinEntry (s : State) (n : Node) (i : Nat) : State :=
  let h1 := firstHash s i
  let b := chainBank h1
  if pinWaits s n.acc then s
  else if (s.slot i).inCam ∨ ¬ mayPlace s (s.slot i).pt b then finish (setPin s i true) n.acc {}
  else if ¬ camRoom s b then finish (count s pgChn 6 (s.slot i).pt) n.acc (failWith .busy)
  else camQueue s b { pt := (s.slot i).pt, words := [wordOf s h1 i], pinSlot := some i, pinGen := (s.slot i).gen, pinAcc := some n.acc }

def execPrefixRefPin (acc : Nat) (s : State) : Host.Outcome State Fault Refusal :=
  .next (match liveNode s acc with
    | some n =>
      match n.cmd with
      | .prefixRef h 0 => onHandle s n h fun s i => pinEntry s n i
      | _ => s
    | none => s)

def execPrefixRefUnpin (acc : Nat) (s : State) : Host.Outcome State Fault Refusal :=
  .next (match liveNode s acc with
    | some n =>
      match n.cmd with
      | .prefixRef h 1 => onHandle s n h fun s i => finish (setPin s i false) n.acc {}
      | _ => s
    | none => s)

/-- PREFIX_REF release. [DEDUCED, log 77] -/
def releaseRef (s : State) (n : Node) (i : Nat) : State :=
  if (s.slot i).refs = 0 then finish s n.acc (invalidAt 16)
  else finish (s.setSlot i fun d => { d with refs := d.refs - 1 }) n.acc {}

def execPrefixRefRelease (acc : Nat) (s : State) : Host.Outcome State Fault Refusal :=
  .next (match liveNode s acc with
    | some n =>
      match n.cmd with
      | .prefixRef h 2 => leafGate s acc none fun s => onHandle s n h fun s i => releaseRef s n i
      | _ => s
    | none => s)

/-! ### The salt (R126) -/

/-- CHN_SALT: four bytes of the selected partition's salt, while it holds no entry. -/
def writeSalt (s : State) (rq : Requester) (idx v : Nat) : State :=
  let pt := s.reg pgChn 0x20C
  if dirUse s pt ≠ 0 then logErr s pgChn 0x06 0 (0x220 + 4 * idx) 0 rq
  else
    { s with chn := { s.chn with
      salt := lmod s.chn.salt pt (fun b => poke b (4 * idx) (toLe 4 v)), saltSrc := lset s.chn.saltSrc pt true } }

def execChnSalt (req : Requester) (idx : Nat) (val : Word) (s : State) : Host.Outcome State Fault Refusal :=
  .next (secureOnly s req pgChn (0x220 + 4 * idx) fun s => writeSalt s req idx val.toNat)

end Sys2Proof.Machine
end

