-- ==== Sys2Proof/Machine/Softmax.lean ====
section
/-!
DEFINITION. The arithmetic of attention: masks (R183 to R187), the scale (R180), the partial of a unit (R188, R190 to R193), FOLD
(R189), the merge of partials (R212), and output records with their statistics (R182, R195 to R200).
-/

namespace Sys2Proof.Machine

/-! ### Masks -/

/-- A field of a bitmap's header (R184). -/
def bmWord (bm : List Byte) (i : Nat) : Nat := field bm i 4

/-- The bitmap's bit for a row and a key position (R185). -/
def bmVisible (bm : List Byte) (i p : Nat) : Bool :=
  let k := bmWord bm 0
  if k ≤ p ∧ p < k + bmWord bm 4 then
    bit (field bm (16 + 4 * (i * bmWord bm 8 + (p - k) / 32)) 4) ((p - k) % 32)
  else bit (field bm 12 1) 0

/-- Is key position p visible to query row i (R183)? -/
def visible (a : AttendCmd) (bm : List Byte) (i p : Nat) : Bool :=
  let q := a.qpos0 + i
  match a.maskKind with
  | 0 => true
  | 1 => decide (p ≤ q)
  | 2 => decide (p ≤ q ∧ q - p < a.mask % 2 ^ 32)
  | _ => bmVisible bm i p

/-- Is some position from lo to hi − 1 visible to some row? -/
def anyVisible (a : AttendCmd) (bm : List Byte) (lo hi : Nat) : Bool :=
  (List.range a.qrows).any fun i => (List.range (hi - lo)).any fun k => visible a bm i (lo + k)

/-- Units of a layer with `flushed` tokens in pages and `staged` staged ones: for unit k its first position and its end. The staging
entry is the unit after the last page. -/
def unitCount (flushed tpp : Nat) : Nat := ceilDiv flushed tpp
def unitSpan (flushed staged tpp k : Nat) : Nat × Nat :=
  if k < unitCount flushed tpp then (k * tpp, min ((k + 1) * tpp) flushed) else (flushed, flushed + staged)

/-- The units that are not skipped (R187). -/
def unitsOf (a : AttendCmd) (bm : List Byte) (flushed staged tpp : Nat) : List Nat :=
  (List.range (unitCount flushed tpp + 1)).filter fun k =>
    let x := unitSpan flushed staged tpp k
    anyVisible a bm x.1 x.2

/-- The pages of an accepted ATTEND's list: causal and window pruning, no bitmap (R187). -/
def prunedPages (a : AttendCmd) (flushed tpp : Nat) : List Nat :=
  if a.maskKind = 3 then List.range (unitCount flushed tpp)
  else (unitsOf a [] flushed 0 tpp).filter (· < unitCount flushed tpp)

/-- Where a bitmap lies (R184): its reference. -/
def bitmapRef (p : Profile) (a : AttendCmd) : Nat :=
  if refSpace a.mask = 2 then refSpace a.qRef * 2 ^ 60 + roundUp (refAddr a.qRef + attQBytes p a) 64 else a.mask

/-- The bytes of a bitmap as its header states them, and R186's check of the header. -/
def bitmapBytes (a : AttendCmd) (hdr : List Byte) : Nat := 16 + 4 * a.qrows * bmWord hdr 8
def bitmapBad (a : AttendCmd) (hdr : List Byte) (max : Nat) : Bool :=
  decide (bmWord hdr 4 = 0 ∨ bmWord hdr 8 < ceilDiv (bmWord hdr 4) 32 ∨ max < bitmapBytes a hdr)
    || decide (field hdr 12 1 / 2 ≠ 0) || !allZero hdr 13 3

/-! ### One unit -/

/-- SCALE in effect (R180). -/
def attScale (p : Profile) (a : AttendCmd) : Nat :=
  if a.scale ≠ 0 then a.scale
  else
    match p.hdim with
    | 64 => 0x3E000000 | 96 => 0x3DD105EC | 128 => 0x3DB504F3 | 192 => 0x3D93CD3A
    | _ => 0x3D800000

/-- A query as the tile presents it for keys of a format (R181): FP32 keys take FP32; an FP32 query is rounded to BF16 otherwise. -/
def presentQ (kFmt qFmt : Nat) (q : List Val) : List Val :=
  if kFmt ≠ 0 ∧ qFmt = 0 then q.map fun v => bf16.decode (bf16.encode none v) else q

/-- dot(q, k): on the Reed, or on the vector units for FP32 keys. -/
def dotQK (kFmt : Nat) (q k : List Val) : Nat :=
  if kFmt = 0 then fmaChain ((q.zip k).map fun x => (toF32 x.1, toF32 x.2))
  else reedDot 0 (q.zip k) fun _ => .one

/-- The scaled, soft-capped logit. -/
def logitOf (p : Profile) (a : AttendCmd) (d : Nat) : Nat :=
  let s := fmul (attScale p a) d
  if a.softcapEn then fmul a.softcap (ftanh (fdiv s a.softcap)) else s

/-- WR (R190). -/
def weightOf (vFmt x : Nat) : Nat := if vFmt = 0 then x else toF32 (bf16.decode (bf16.encode none (v32 x)))

/-- A sum over slots in groups of 32 consecutive slots (R191): terms (slot, weight, value). -/
def slotSum (vFmt : Nat) (ts : List (Nat × Nat × Val)) : Nat :=
  if vFmt = 0 then fmaChain (ts.map fun t => (t.2.1, toF32 t.2.2))
  else
    (List.range 8).foldl (fun acc g =>
      let ps := (ts.filter fun t => t.1 / 32 == g).map fun t => (v32 t.2.1, t.2.2)
      if ps.isEmpty then acc else rn32 ((v32 acc).add (groupSum ps))) 0

/-- The largest of FP32 values. -/
def fmax (a b : Nat) : Nat := if flt a b then b else a

/-- A stored key or value as the page gatherer presents it to the Reed (R191, R166). [DEDUCED, log 52] -/
def presentV (vFmt : Nat) (v : Val) : Val := if 3 ≤ vFmt then reedIn v else v

/-- A value that is NaN or infinite. -/
def valBad : Val → Bool
  | .fin _ _ _ => false
  | _ => true

/-- The partial of one record over the visible slots of a unit: (slot, key, value). [DEDUCED, log 52] -/
def unitPartial (p : Profile) (a : AttendCmd) (q : List Val) (ts : List (Nat × List Val × List Val)) : Partial :=
  if ts.isEmpty then {}
  else
    let pq := presentQ p.kFmt a.qFmt q
    let ls := ts.map fun t => logitOf p a (dotQK p.kFmt pq (t.2.1.map (presentV p.kFmt)))
    let m := ls.foldl fmax f32NegInf
    let ws := ls.map fun x => weightOf p.vFmt (fexp (fsub x m))
    let terms := fun (f : List Val → Val) => (ts.zip ws).map fun t => (t.1.1, t.2, f t.1.2.2)
    let l := slotSum p.vFmt (terms fun _ => .one)
    let u := (List.range p.hdim).map fun c => slotSum p.vFmt (terms fun vs => presentV p.vFmt (lget vs c .zero))
    let vbad := ts.any fun t => t.2.2.any fun v => valBad (presentV p.vFmt v)
    { empty := false, bad := ls.any f32Bad || ws.any f32Bad || vbad || u.any f32Bad, m := BitVec.ofNat 32 m, l := BitVec.ofNat 32 l,
      u := u.map (BitVec.ofNat 32) }

/-- FOLD (R189). -/
def fold (run x : Partial) : Partial :=
  if run.empty then x
  else if x.empty then run
  else
    let m := fmax run.m.toNat x.m.toNat
    let a := fexp (fsub run.m.toNat m)
    let b := fexp (fsub x.m.toNat m)
    let mix := fun (r y : Word) => fadd (fmul r.toNat a) (fmul y.toNat b)
    let u := (run.u.zip x.u).map fun z => mix z.1 z.2
    { empty := false, bad := run.bad || x.bad || u.any f32Bad, m := BitVec.ofNat 32 m, l := BitVec.ofNat 32 (mix run.l x.l),
      u := u.map (BitVec.ofNat 32) }

/-! ### Output records -/

/-- The bytes of an O part in OUT_FMT (R164). -/
def outElems (fp32 : Bool) (o : List Nat) : List Byte :=
  if fp32 then o.flatMap (toLe 4) else o.flatMap fun x => toLe 2 (bf16.encode none (v32 x))

/-- The 16 bytes of statistics (R200). -/
def statBytes (m l covered muted flags : Nat) : List Byte :=
  toLe 4 m ++ toLe 4 l ++ toLe 4 covered ++ toLe 3 muted ++ toLe 1 flags

/-- A finished record: its O part, its statistics, and its flags. -/
structure OutRec where
  o : List Byte
  m : Nat
  l : Nat
  covered : Nat
  muted : Nat
  flags : Nat
  deriving DecidableEq, Repr

def OutRec.stat (r : OutRec) : List Byte := statBytes r.m r.l r.covered r.muted r.flags

/-- A record from its fold (R188, R195, R197). `part`: a visible token lay in a page left out. -/
def outRec (fp32 : Bool) (hdim : Nat) (p : Partial) (covered muted : Nat) (part : Bool) : OutRec :=
  let more := b2n (decide (0 < muted)) * 2 + b2n part * 4
  if p.empty then
    { o := outElems fp32 (List.replicate hdim 0), m := f32NegInf, l := 0, covered := covered, muted := muted, flags := 1 + more }
  else
    let o := p.u.map fun u => fdiv u.toNat p.l.toNat
    if p.bad || o.any f32Bad then
      { o := outElems fp32 (List.replicate hdim 0x7FC00000), m := 0x7FC00000, l := 0x7FC00000, covered := covered, muted := muted,
        flags := 8 + more }
    else { o := outElems fp32 o, m := p.m.toNat, l := p.l.toNat, covered := covered, muted := muted, flags := more }

/-- A partial of a merge: a record, with the FP32 elements of its O once it has been merged; a record not merged yet stands as it is stored. -/
structure Merged where
  r : OutRec
  o : Option (List Nat) := none
  deriving DecidableEq, Repr

/-- The O part in FP32, decoded exactly. -/
def Merged.elems (fp32 : Bool) (x : Merged) : List Nat :=
  match x.o with
  | some o => o
  | none => (unpackElems (if fp32 then 32 else 16) (x.r.o.length / (if fp32 then 4 else 2)) x.r.o).map
      fun e => toF32 (decodeElem (if fp32 then 0 else 1) e)

/-- Merge two partials under R212. An EMPTY one yields to the other bit for bit. [DEDUCED, log 50] -/
def mergeTwo (fp32 : Bool) (x y : Merged) : Merged :=
  if bit x.r.flags 0 then y
  else if bit y.r.flags 0 then x
  else
    let m := fmax x.r.m y.r.m
    let w1 := fmul x.r.l (fexp (fsub x.r.m m))
    let w2 := fmul y.r.l (fexp (fsub y.r.m m))
    let l := fadd w1 w2
    let o := ((x.elems fp32).zip (y.elems fp32)).map fun e => fdiv (fadd (fmul e.1 w1) (fmul e.2 w2)) l
    let fl := (x.r.flags ||| y.r.flags) &&& 0xE
    let r := { o := [], m := m, l := l, covered := x.r.covered + y.r.covered, muted := x.r.muted + y.r.muted, flags := fl }
    if bit fl 3 ∨ o.any f32Bad ∨ f32Bad l ∨ f32Bad m then
      { r := { r with m := 0x7FC00000, l := 0x7FC00000, flags := fl ||| 8 }, o := some (o.map fun _ => 0x7FC00000) }
    else { r := r, o := some o }

/-- The record that a merge leaves: its O part is converted to OFMT once (R164, R220). -/
def Merged.record (fp32 : Bool) (x : Merged) : OutRec :=
  match x.o with
  | some o => { x.r with o := outElems fp32 o }
  | none => x.r

/-- The left fold of records under R212 (R220). -/
def mergeRecs (fp32 : Bool) : List OutRec → Option OutRec
  | [] => none
  | r :: rs => some ((rs.foldl (fun x y => mergeTwo fp32 x { r := y }) { r := r }).record fp32)

end Sys2Proof.Machine
end

