-- ==== Sys2Proof/Machine/Attend.lean ====
section
/-!
DEFINITION. ATTEND: what is noted at issue (R186, R208), reads of units (R188, R209, R257), the deadline (R202 to R207), and the
outcome with its records (R199, R205).
-/

namespace Sys2Proof.Machine

def State.attend (s : State) (acc : Nat) : Option AttendOp := tget s.att.ops acc
def setAttend (s : State) (acc : Nat) (f : AttendOp → AttendOp) : State :=
  match tget s.att.ops acc with
  | some o => { s with att := { s.att with ops := tset s.att.ops acc (f o) } }
  | none => s

/-- Flushed tokens of a layer. -/
def flushedOf (s : State) (q l : Nat) : Nat := (s.row q l).tokens - (s.row q l).staged

/-! ### Acceptance and issue -/

/-- The deadline instant (R202). -/
def attDeadline (n : Node) (a : AttendCmd) : Option Nat := if a.deadlineUs = 0 then none else some (n.accTime + a.deadlineUs * 1000)

/-- The Bellows' part at acceptance (R264, R271). -/
def attendAccepted (s : State) (n : Node) (a : AttendCmd) : State :=
  match seqOpen s a.seq, seqProfile s n.hdr.epoch a.seq with
  | true, some p =>
    let ptes := (s.row a.seq a.layer).ptes
    (prunedPages a (flushedOf s a.seq a.layer) p.tpp).foldl (fun s k =>
      match ptes[k]? with
      | some e => prefetchPage s n.acc (homeTile s a.seq) (attDeadline n a) e.cpn
      | none => s) s
  | _, _ => s

/-- The bitmap, read once at issue: its bytes, or why the command fails (R186). -/
def readBitmap (s : State) (n : Node) (p : Profile) (a : AttendCmd) : Except (State × Comp) (List Byte) :=
  if a.maskKind ≠ 3 then .ok []
  else
    let r := bitmapRef p a
    match readRef s n r 16 with
    | .error e => .error e
    | .ok hdr =>
      if bitmapBad a hdr (attnAt s n.hdr.epoch (ringPt n.ring)).bitmapMax then .error (s, invalidAt 56)
      else if ¬ refInArea s n.hdr (ringPt n.ring) r (bitmapBytes a hdr) then .error (s, failWith .perm)
      else readRef s n r (bitmapBytes a hdr)

/-- The tiles of an ATTEND's page blocks of up to BLOCK_PAGES pages. The dependency tracker may hand each to another tile of the partition, and the
spec does not say which: a free value picks the tile (R194). [DEDUCED, log 47] -/
def blockTiles (s : State) (n : Node) (home pages size : Nat) : List Nat × State :=
  let ts := home :: (nodeTiles s n).filter (· != home)
  (List.range (ceilDiv pages (max 1 size))).foldl (fun (acc : List Nat × State) _ =>
    let d := draw acc.2
    (acc.1 ++ [lget ts (d.1 % ts.length) home], d.2)) ([], s)

/-- A read that the command itself needs ended badly: poison marks the layer, and the tokens in scope are reported (R198, R205). -/
def attendReadFail (s : State) (q l tokens : Nat) (c : Comp) : State × Comp :=
  if c.status = .poisoned then (poisonLayer s q l, failWith .poisoned tokens) else (s, c)

/-- What an ATTEND notes at issue (R186, R208): READERS, counts, the staged tokens, the units to read. A command whose sequence is
not open notes nothing and fails when it begins. [DEDUCED, log 47] -/
def attendIssued (s : State) (n : Node) (a : AttendCmd) : State :=
  match seqOpen s a.seq, seqProfile s n.hdr.epoch a.seq with
  | true, some p =>
    if (s.row a.seq a.layer).poisoned then finish s n.acc (failWith .poisoned (s.row a.seq a.layer).tokens)
    else
      match readBitmap s n p a with
      | .error e =>
        let f := attendReadFail e.1 a.seq a.layer (s.row a.seq a.layer).tokens e.2
        finish f.1 n.acc f.2
      | .ok bm =>
        let fl := flushedOf s a.seq a.layer
        let st := ((stageOf s a.seq a.layer).map (·.toks)).getD []
        let home := n.tile.getD (homeTile s a.seq)
        let size := (attnAt s n.hdr.epoch (ringPt n.ring)).blockPages
        let b := blockTiles s n home (unitCount fl p.tpp) size
        let s := b.2
        let o : AttendOp :=
          { acc := n.acc, seq := a.seq, layer := a.layer, home := home, blocks := b.1, blockPages := size, flushed := fl, staged := st,
            bitmap := bm, todo := unitsOf a bm fl st.length p.tpp, deadlineAt := attDeadline n a }
        let s := s.setCtx a.seq fun c => { c with readers := c.readers + 1 }
        { s with att := { s.att with ops := tset s.att.ops n.acc o } }
  | _, _ => s

/-- An ATTEND ends: READERS falls, kept granules are released. -/
def endAttend (s : State) (o : AttendOp) (c : Comp) : State :=
  let s := { s with att := { s.att with ops := tdel s.att.ops o.acc } }
  let s := s.setCtx o.seq fun x => { x with readers := x.readers - 1 }
  finish (releaseKept s o.acc) o.acc c

/-- ATTEND begins on its tile. -/
def beginAttend (s : State) (n : Node) (a : AttendCmd) : State :=
  match s.attend n.acc with
  | none => finish s n.acc ((beginCheck s n).getD (invalidAt 16))
  | some o =>
    if o.begun then s
    else
      match beginCheck s n with
      | some c => endAttend s o c
      | none =>
        let h := ctxHere s a.seq (ringPt n.ring)
        if ¬ h.1 then h.2
        else if nodeTiles s n = [] then endAttend s o (failWith .nospace)
        else
          match seqProfile s n.hdr.epoch a.seq with
          | none => endAttend s o (invalidAt 16)
          | some p =>
            match readRef s n a.qRef (attQBytes p a) with
            | .error e =>
              let f := attendReadFail e.1 a.seq a.layer (o.flushed + o.staged.length) e.2
              endAttend f.1 o f.2
            | .ok bs => ctxAccess s a.seq fun s => setAttend s n.acc fun o => { o with begun := true, query := bs }

def execAttend (acc : Nat) (s : State) : Host.Outcome State Fault Refusal :=
  .next (match liveNode s acc with
    | some n =>
      match n.cmd with
      | .attend a => beginAttend s n a
      | _ => s
    | none => s)

/-! ### The deadline -/

/-- DLP in effect (R80). -/
def attPolicy (s : State) (n : Node) (a : AttendCmd) : Nat :=
  if a.dlp = 3 then lget (cfgAt s n.hdr.epoch).dlp (ringPt n.ring) 0 else a.dlp

/-- Pages of an ATTEND's scope. -/
def scopePages (o : AttendOp) (tpp : Nat) : Nat := unitCount o.flushed tpp

/-- The CPN of a page of the layer as the PTE names it now. -/
def unitCpn (s : State) (o : AttendOp) (k : Nat) : Option Nat := ((s.row o.seq o.layer).ptes[k]?).map (·.cpn)

/-- The late set as taken: page units not yet read. -/
def lateSet (o : AttendOp) (tpp : Nat) : List Nat := o.todo.filter fun k => decide (k < scopePages o tpp) && !o.muted.contains k

/-- Is the page's mute copy valid? -/
def hasMute (s : State) (cpn : Nat) : Bool := (s.loc cpn).mute.isSome

/-- The LATE record (R520). -/
def recLate (s : State) (n : Node) (ks : List (Nat × Bool)) : State :=
  recNow s 0x04 (ringPt n.ring) n.acc
    (toLe 4 ks.length ++ zeros 12 ++ ks.flatMap fun k => toLe 4 (k.1 + b2n k.2 * 2 ^ 31)) (ringSecure s n.ring)

/-- A POISONED page of a needed layer: the command is to end with POISONED (R198, R116). -/
def attendPoison (s : State) (o : AttendOp) : State :=
  poisonLayer (setAttend s o.acc fun o => { o with poisoned := true }) o.seq o.layer

/-- Apply the policy to a late set: (page, muted or not). -/
def takeLate (s : State) (n : Node) (o : AttendOp) (policy : Nat) (late : List (Nat × Bool)) : State :=
  let s := if late.isEmpty then s else recLate s n late
  let ks := late.map (·.1)
  if (ks.filterMap (unitCpn s o)).any (pagePoisoned s) then
    attendPoison (setAttend s o.acc fun o => { o with deadlineTaken := true }) o
  else
    setAttend s o.acc fun o =>
      if policy = 0 then { o with deadlineTaken := true, timedOut := !late.isEmpty }
      else
        let mu := (late.filter (·.2)).map (·.1)
        { o with deadlineTaken := true, muted := mu, left := ks.filter fun k => !mu.contains k,
                 todo := o.todo.filter fun k => !(ks.contains k && !mu.contains k) }

/-- The deadline instant passes (R203). In replay the recorded late set takes the clock's place (R207). [DEDUCED, log 46] -/
def deadline (s : State) (n : Node) (o : AttendOp) (a : AttendCmd) (tpp : Nat) : State :=
  let policy := attPolicy s n a
  let late :=
    match tget s.rec_.late n.acc with
    | some l => l
    | none => (lateSet o tpp).map fun k =>
        (k, decide (policy = 1) && (match unitCpn s o k with
          | some c => hasMute s c
          | none => false))
  takeLate s n o policy late

/-- Has the instant come, or does a replayed command run without a late set? -/
def deadlineDue (s : State) (o : AttendOp) : Bool :=
  !o.deadlineTaken && match o.deadlineAt with
    | some t => decide (t < s.time)
    | none => false

/-- The node, command, operation and profile of an ATTEND that runs. -/
def attendParts (s : State) (acc : Nat) : Option (Node × AttendCmd × AttendOp × Profile) :=
  match s.node acc, s.attend acc with
  | some n, some o =>
    match n.cmd, seqProfile s n.hdr.epoch o.seq with
    | .attend a, some p => some (n, a, o, p)
    | _, _ => none
  | _, _ => none

/-- Take a deadline that has passed before anything else happens to the command. -/
def settleDeadline (s : State) (acc : Nat) : State :=
  match attendParts s acc with
  | some (n, a, o, p) => if deadlineDue s o then deadline s n o a p.tpp else s
  | none => s

/-- ATTEND_DEADLINE. -/
def attendDeadline (s : State) (acc : Nat) : State :=
  match attendParts s acc with
  | some (n, a, o, p) =>
    match o.deadlineAt with
    | some t => if o.deadlineTaken then s else deadline (s.reach t) n o a p.tpp
    | none => s
  | none => s

/-- [DEDUCED, log 8] -/
def execAttendDeadline (acc : Nat) (s : State) : Host.Outcome State Fault Refusal :=
  .next (if s.boot.fatal then s else attendDeadline s acc)

/-! ### Reads of units -/

/-- The slots of a unit that a row sees, with their keys and values for a head. -/
def rowSlots (a : AttendCmd) (bm : List Byte) (i first h : Nat) (ks vs : List (List (List Val))) :
    List (Nat × List Val × List Val) :=
  ((ks.zip vs).zipIdx.filter fun t => visible a bm i (first + t.2)).map fun t => (t.2, lget t.1.1 h [], lget t.1.2 h [])

/-- The unit's partial for every record, with the count of visible tokens. -/
def unitParts (p : Profile) (a : AttendCmd) (bm : List Byte) (q : List Val) (first : Nat) (ks vs : List (List (List Val))) :
    List (Partial × Nat) :=
  (List.range a.qrows).flatMap fun i => (List.range (attNqh p a)).map fun j =>
    let ts := rowSlots a bm i first (a.kvhFirst + j / max a.gqa 1) ks vs
    (unitPartial p a ((q.drop ((i * attNqh p a + j) * p.hdim)).take p.hdim) ts, ts.length)

/-- The tile that folds a unit: the one of the page's block, and the home tile for the staging entry. -/
def unitTile (o : AttendOp) (tpp k : Nat) : Nat := if k < scopePages o tpp then lget o.blocks (k / max 1 o.blockPages) o.home else o.home

/-- A unit's result joins the command's. -/
def addUnit (s : State) (o : AttendOp) (tpp : Nat) (r : UnitRes) : State :=
  let s := setAttend s o.acc fun o => { o with todo := o.todo.filter (· != r.unit), res := o.res ++ [r] }
  tileCount s (unitTile o tpp r.unit) 18

/-- The query block, as elements. -/
def queryOf (p : Profile) (a : AttendCmd) (o : AttendOp) : List Val := srcElems a.qFmt (a.qrows * attNqh p a * p.hdim) o.query

/-- The rows of staged tokens: KC4 keys stand in BF16 (R105). -/
def stagedRows (p : Profile) (toks : List StagedTok) : List (List (List Val)) × List (List (List Val)) :=
  (toks.map fun t => (List.range p.kvh).map fun h => decodeRow p.kStage p.hdim (t.key.drop (h * p.ksStage)),
   toks.map fun t => (List.range p.kvh).map fun h => decodeRow p.vFmt p.hdim (t.val.drop (h * p.vs)))

/-- Read a page's slots from a place and add the unit. `mu`: from its mute copy. [DEDUCED, log 47] -/
def readPage (s : State) (p : Profile) (a : AttendCmd) (o : AttendOp) (q : List Val) (k : Nat) (st : Store) (mu : Bool) : State :=
  let pr := if mu then p.mutePart else p
  let x := unitSpan o.flushed o.staged.length p.tpp k
  let ks := pageKeys s st pr 0 (x.2 - x.1)
  let vs := pageVals s st pr 0 (x.2 - x.1)
  addUnit s o p.tpp { unit := k, muted := mu, parts := unitParts pr a o.bitmap q x.1 ks vs }

/-- The T1 frame of a place, as HBM's unit reads see it. -/
def t1Read (s : State) (addr : Nat) (err : UnitErr) : State :=
  unitRead s (addr / 2 ^ 20) (addr % 2 ^ 20 * frameBytes) err false

/-- The gatherer's read of a page unit (R198, R209, R257, R276). Below T1 it waits for a move to T1. [DEDUCED, log 47] -/
def gatherPage (s : State) (n : Node) (p : Profile) (a : AttendCmd) (o : AttendOp) (q : List Val) (k cpn : Nat) (err : UnitErr) :
    State :=
  let e := s.loc cpn
  let mu := o.muted.contains k
  if pagePoisoned s cpn then attendPoison (recPoison s n 1 cpn) o
  else if ¬ pageLive e then s
  else if mu then
    match e.mute with
    | none => setAttend s o.acc fun o => { o with todo := o.todo.filter (· != k), left := o.left ++ [k] }
    | some f =>
      let s := t1Read s f err
      if pagePoisoned s cpn then attendPoison (recPoison s n 1 cpn) o
      else if storeBad s (muteStore s cpn) 0 frameBytes then
        attendPoison (recPoison (poisonRead s cpn (muteStore s cpn) true) n 1 cpn) o
      else readPage s p a o q k (muteStore s cpn) true
  else if ¬ upper e then
    callUp s cpn o.acc o.home o.deadlineAt
  else
    let s := if e.tier = .t1 then t1Read s e.addr err else s
    if pagePoisoned s cpn then attendPoison (recPoison s n 1 cpn) o
    else if storeBad s (pageStore s cpn) 0 frameBytes then attendPoison (recPoison (poisonRead s cpn (pageStore s cpn) false) n 1 cpn) o
    else sampleUse (readPage s p a o q k (pageStore s cpn) false) cpn o.home

/-- GATHER_READ_DONE. -/
def gather (s : State) (acc unit : Nat) (err : UnitErr) : State :=
  let s := settleDeadline s acc
  match attendParts s acc with
  | none => s
  | some (n, a, o, p) =>
    if ¬ o.begun ∨ o.poisoned ∨ o.timedOut ∨ ¬ o.todo.contains unit then s
    else
      let q := queryOf p a o
      if unit = scopePages o p.tpp then
        let r := stagedRows p o.staged
        addUnit s o p.tpp
          { unit := unit, muted := false, parts := unitParts { p with kFmt := p.kStage } a o.bitmap q o.flushed r.1 r.2 }
      else
        match unitCpn s o unit with
        | some c => gatherPage s n p a o q unit c err
        | none => s

def execGatherReadDone (acc unit : Nat) (err : UnitErr) (s : State) : Host.Outcome State Fault Refusal :=
  .next (if s.boot.fatal then s else gather s acc unit err)

/-! ### Completion -/

/-- Is an ATTEND of a partition in replay mode (R194): a replay runs, or the partition is recorded with DET = 1 (R522)? -/
def replayMode (s : State) (pt : Nat) : Bool := s.rec_.replay == 1 || (recorded s pt && bit (s.reg pgRec 0x20C) (16 + pt))

/-- The units as the home tile folds them: each of its own as its read finished, and a helper tile's together, in the order of their reads, where the
last of them came. -/
def foldGroups (o : AttendOp) (tpp : Nat) : List UnitRes → List (List UnitRes)
  | [] => []
  | u :: us =>
    let t := unitTile o tpp u.unit
    if t = o.home then [u] :: foldGroups o tpp us
    else if us.any fun v => unitTile o tpp v.unit == t then foldGroups o tpp us
    else (o.res.filter fun v => unitTile o tpp v.unit == t) :: foldGroups o tpp us

/-- The units in fold order (R194): in replay mode one by one in ascending order, else as the tiles fold them. [DEDUCED, log 47] -/
def foldOrder (s : State) (pt tpp : Nat) (o : AttendOp) : List (List UnitRes) :=
  if replayMode s pt then (sortBy o.res fun x y => decide (x.unit ≤ y.unit)).map ([·]) else foldGroups o tpp o.res

/-- Does a row see a token of a page left out? -/
def rowLeft (a : AttendCmd) (o : AttendOp) (tpp i : Nat) : Bool :=
  o.left.any fun k =>
    let x := unitSpan o.flushed o.staged.length tpp k
    (List.range (x.2 - x.1)).any fun d => visible a o.bitmap i (x.1 + d)

/-- The finished records, in record order. -/
def attendRecs (s : State) (p : Profile) (a : AttendCmd) (o : AttendOp) : List OutRec :=
  let us := foldOrder s (s.ctx o.seq).pt p.tpp o
  (List.range (attRecords p a)).map fun r =>
    let part := fun (u : UnitRes) => (lget u.parts r ({}, 0)).1
    let run := us.foldl (fun run g => fold run (g.foldl (fun x u => fold x (part u)) {})) {}
    let ps := us.flatten.map fun u => (lget u.parts r ({}, 0), u.muted)
    let cov := (ps.map fun x => x.1.2).sum
    let mu := ((ps.filter (·.2)).map fun x => x.1.2).sum
    outRec a.outFp32 p.hdim run cov mu (rowLeft a o p.tpp (r / max (attNqh p a) 1))

/-- Write records and statistics at their places from a reference on (R182, R200). -/
def writeRecs (s : State) (acc ring epoch ref ostride statOff : Nat) (rs : List (OutRec × Nat)) : State :=
  rs.foldl (fun s r =>
    let s := refWrite s acc ring epoch (ref + r.2 * ostride) r.1.o
    refWrite s acc ring epoch (ref + statOff + r.2 * ostride) r.1.stat) s

/-- In-scope tokens of the pages left out. -/
def leftTokens (o : AttendOp) (tpp : Nat) : Nat :=
  (o.left.map fun k => let x := unitSpan o.flushed o.staged.length tpp k; x.2 - x.1).sum

/-- The status of a command whose units are all folded (R205). -/
def attendStatus (o : AttendOp) (tpp : Nat) (rs : List OutRec) : Comp :=
  let n := o.flushed + o.staged.length
  let used := (o.res.filter (·.muted)).length
  if ¬ o.left.isEmpty then { status := .partialOk, detail0 := n - leftTokens o tpp, detail1 := n, result := rs.length }
  else if 0 < used then { status := .muted, detail0 := used, detail1 := n, result := rs.length }
  else if rs.all fun r => bit r.flags 0 then { status := .empty, detail1 := n, result := rs.length }
  else { status := .ok, detail1 := n, result := rs.length }

/-- The context's counters after a success (R87, R205). -/
def attendCounts (s : State) (q : Nat) (c : Comp) : State :=
  s.setCtx q fun x =>
    { x with
      attends := (x.attends + 1) % 2 ^ 64
      mutedPages := if c.status = .muted then (x.mutedPages + c.detail0) % 2 ^ 32 else x.mutedPages
      partials := if c.status = .partialOk then (x.partials + 1) % 2 ^ 32 else x.partials }

/-- ATTEND_COMPLETE. -/
def attendComplete (s : State) (acc : Nat) : State :=
  let s := settleDeadline s acc
  match attendParts s acc with
  | none => s
  | some (n, a, o, p) =>
    let tokens := o.flushed + o.staged.length
    if ¬ o.begun then s
    else if o.poisoned then endAttend s o (failWith .poisoned tokens)
    else if o.timedOut then endAttend s o (failWith .timeout tokens)
    else if ¬ o.todo.isEmpty then s
    else
      let rs := attendRecs s p a o
      let c := attendStatus o p.tpp rs
      let s := writeRecs s acc n.ring n.hdr.epoch a.outRef (attOstride p a) (attnAt s n.hdr.epoch (ringPt n.ring)).statOff rs.zipIdx
      let s := tileCount s o.home 19 (rs.filter fun r => bit r.flags 3).length
      let s := if o.muted.isEmpty then s else tileCount s o.home 20 (s.time - o.deadlineAt.getD s.time)
      endAttend (attendCounts s o.seq c) o c

def execAttendComplete (acc : Nat) (s : State) : Host.Outcome State Fault Refusal :=
  .next (if s.boot.fatal then s else attendComplete s acc)

end Sys2Proof.Machine
end

