-- ==== Sys2Proof/Machine/Wire.lean ====
section
/-!
DEFINITION. Frames as bytes (R390, R391, R403, R438, R409), the FRAME records of the input recorder (R518, R520), and the control state
of a port: its receive credits (R396), its acknowledgements (R393) and its control frames (R391, R399).
-/

namespace Sys2Proof.Machine

/-! ### Bytes of a frame -/

/-- TYPE of a frame (R391). -/
def frameType : FrameBody → Nat
  | .idle => 0 | .credit _ => 1 | .ack _ => 2 | .nak _ => 3 | .key _ _ => 4 | .txn _ | .pkt _ => 8 | .mgmt _ _ _ _ => 9
  | .reserved t => t

/-- OP of a transaction (R404). -/
def txnCode : TxnOp → Nat
  | .mmioRd => 1 | .mmioWr => 2 | .mmioRsp => 3 | .memRd => 0x10 | .memWr => 0x11 | .memCpl => 0x12 | .wrAck => 0x13 | .irqMsg => 0x14

/-- PTYPE of a packet (R439). -/
def ptypeCode : PType → Nat
  | .send => 1 | .put => 2 | .getReq => 3 | .getData => 4 | .ack => 5 | .coll => 6 | .collAns => 7
  | .probe => 0x10 | .report => 0x11 | .assign => 0x12 | .snap => 0x13 | .reserved c => c

/-- The 16-byte frame header (R390). -/
def frameHead (f : Frame) : List Byte :=
  toLe 1 (frameType f.body + f.vc % 4 * 16 + b2n f.enc * 64) ++ toLe 1 (f.pt % 8 + b2n f.secure * 8) ++ toLe 2 f.len ++ toLe 4 f.fseq
    ++ toLe 1 f.kgen ++ zeros 7

/-- A transaction header with its data (R403). -/
def txnBytes (t : Txn) : List Byte :=
  toLe 1 (txnCode t.op) ++ toLe 1 (b2n t.ackrq + t.status % 8 * 2) ++ toLe 2 t.tag ++ toLe 2 t.bytes ++ zeros 2 ++ toLe 8 t.addr
    ++ padMul 16 t.data

/-- A packet with its data (R438). -/
def pktBytes (p : Packet) : List Byte :=
  toLe 1 (ptypeCode p.ptype) ++ toLe 1 (p.hops % 32 + b2n p.start * 32 + b2n p.last * 64 + b2n p.retx * 128)
    ++ toLe 2 (p.dstDev % 4096 + p.dstPt % 8 * 4096) ++ toLe 2 (p.srcDev % 4096) ++ toLe 2 p.dstQpn ++ toLe 2 p.srcQpn ++ toLe 3 p.psn
    ++ toLe 1 (p.answer % 16) ++ toLe 2 p.seg ++ toLe 4 p.arg ++ toLe 5 p.cpn ++ zeros 7 ++ padMul 16 p.data

/-- What a frame carries after its header, before encryption and without the tag. -/
def frameRest (f : Frame) : List Byte :=
  match f.body with
  | .idle | .reserved _ => []
  | .credit cs => padTo 16 (cs.flatMap (toLe 2))
  | .ack n | .nak n => padTo 16 (toLe 4 n)
  | .key g n => padTo 16 (toLe 1 g ++ zeros 3 ++ toLe 4 n)
  | .txn t => txnBytes t
  | .pkt p => pktBytes p
  | .mgmt m som eom d => padMul 16 (toLe 1 m ++ toLe 1 (b2n som + b2n eom * 2) ++ toLe 2 d.length ++ d)

/-- A FRAME record of a DATA frame, on a port whose mode in REC_CONTENT is not 0 (R518, R520). `sent`: DIR. [DEDUCED, log 95] -/
def recFrame (s : State) (port : Nat) (sent : Bool) (f : Frame) : State :=
  let mode := bits (s.reg pgRec 0x210) (2 * port) 2
  if mode = 0 ∨ frameType f.body ≠ 8 then s
  else
    recNow s 0x08 f.pt (port + b2n sent * 2 ^ 8 + mode * 2 ^ 9)
      (frameHead f ++ (if mode = 1 then (sha256 (frameRest f)).take 8 else frameRest f)) f.secure

/-! ### Sequence numbers -/

/-- Does a come before b, modulo 2^32? -/
def seqBelow (a b : Nat) : Bool := decide (1 ≤ subMod b a 32 ∧ subMod b a 32 < 2 ^ 31)

/-! ### Receive credits (R396) -/

/-- The channel whose credits a DATA or MGMT frame takes: its VC, or VCM. -/
def frameChannel (f : Frame) : Nat :=
  match f.body with
  | .mgmt _ _ _ _ => 4
  | _ => f.vc % 4

/-- Queue a CREDIT frame, if none is queued. -/
def queueCredit (l : Jlk) : Jlk := if l.ctl.contains .credit then l else { l with ctl := l.ctl ++ [.credit] }

/-- Does a channel owe 32 credits? -/
def owesCredits (l : Jlk) : Bool := (List.range 5).any fun c => decide (32 ≤ lget l.rxReturned c 0 - lget l.rxSent c 0)

/-- Credits of a channel return as a frame leaves the buffer. -/
def giveCredits (now c n : Nat) (l : Jlk) : Jlk :=
  let l := { l with rxReturned := lmod l.rxReturned c (· + n), owedAt := some (l.owedAt.getD now) }
  if owesCredits l then queueCredit l else l

/-- Remove the first element that satisfies p, and answer it. -/
def takeFirst {α : Type} (p : α → Bool) : List α → Option (α × List α)
  | [] => none
  | a :: l => if p a then some (a, l) else (takeFirst p l).map fun r => (r.1, a :: r.2)

/-- The oldest received frame that satisfies p leaves the buffer of a channel. -/
def leaveBuf (now : Nat) (p : Frame → Bool) (l : Jlk) : List Nat → Jlk
  | [] => l
  | c :: cs =>
    match takeFirst p (lget l.rxBuf c []) with
    | some (f, rest) => giveCredits now c (ceilDiv f.len 64) { l with rxBuf := lset l.rxBuf c rest }
    | none => leaveBuf now p l cs

/-- A received frame is handled: it leaves its port's buffer, if it stood there (R395, R396). -/
def rxConsume (s : State) (port : Nat) (p : Frame → Bool) : State :=
  s.setLink port fun l => leaveBuf s.time p l [0, 1, 2, 3]

/-- Is the frame this packet? -/
def isPkt (p : Packet) (f : Frame) : Bool := f.body == .pkt p
/-- Is the frame a packet of this type? -/
def isPktType (t : PType) (f : Frame) : Bool :=
  match f.body with
  | .pkt p => p.ptype == t
  | _ => false
/-- Is the frame a transaction of this kind with this tag? -/
def isTxn (op : TxnOp) (tag : Nat) (f : Frame) : Bool :=
  match f.body with
  | .txn t => t.op == op && t.tag == tag
  | _ => false

/-- A packet is dropped, and counted in FAB_DROP (R439, R448). -/
def fabDrop (s : State) : State := { s with fab := { s.fab with drop := (s.fab.drop + 1) % 2 ^ 32 } }

/-- Does the frame carry a packet with a reserved PTYPE (R439)? -/
def reservedPkt (f : Frame) : Bool :=
  match f.body with
  | .pkt p => (match p.ptype with
    | .reserved _ => true
    | _ => false)
  | _ => false

/-! ### Authentication failures -/

/-- A failed tag or a refused plain frame (R401, R402): event 0x30; `counted`: JLK_AUTH_FAIL and SEC's counter count it. -/
def authFailed (s : State) (port : Nat) (counted : Bool) : State :=
  let s := if counted then
      count (s.setLink port fun l => { l with authFail := (l.authFail + 1) % 2 ^ 32 }) pgSec 0 15
    else s
  errEvent s 0x30 3 (pgJlk port) 4 0 (s.link port).authFail port []

/-! ### Control frames -/

/-- A control frame to be sent. -/
def queueCtl (s : State) (port : Nat) (c : CtlFrame) : State := s.setLink port fun l => { l with ctl := l.ctl ++ [c] }

/-- A port sends frames under a new generation from its next FSEQ on (R400). -/
def newGeneration (s : State) (port gen : Nat) : State :=
  s.setLink port fun l =>
    { l with kgenTx := gen % 256, kgenSince := 0, ctl := l.ctl ++ [.key (gen % 256) l.txSeq] }

end Sys2Proof.Machine
end

