-- ==== Sys2Proof/Machine/Routing.lean ====
section
/-!
DEFINITION. The fabric router's way of a packet: applied routes (R446, R448, R449), packets this device originates (R440), and
forwarding (R448, R476).
-/

namespace Sys2Proof.Machine

/-- The route table the router has applied. -/
def appliedRoutes (s : State) : Routes := if bit s.dep.lag 4 then s.dep.cfgPrev.routes else s.dep.cfg.routes

/-- OUT of table t for a destination: 0 to 7, or 15; an entry that names a port which went DOWN since the last route commit counts
as 15 (R449). -/
def routeOut (s : State) (t dst : Nat) : Nat :=
  let o := tgetD (appliedRoutes s).out (t * 4096 + dst) 15
  if s.fab.deadPorts.contains o then 15 else o

/-- The virtual channel of a packet type (R439). -/
def pktVc : PType → Nat
  | .send | .put | .getReq => 0
  | .getData | .ack => 1
  | .coll | .collAns => 2
  | .probe | .report | .assign | .snap | .reserved _ => 3

/-- The traffic class of a packet that this device originates (R440). -/
def pktTc : PType → Nat
  | .ack | .collAns | .probe | .report | .assign | .snap | .reserved _ => 0
  | .coll => 1
  | .send | .put | .getReq | .getData => 2

/-- Send a routed packet from this device. One addressed to itself is delivered locally; an unreachable one is dropped. -/
def originate (s : State) (pt : Nat) (secure : Bool) (p : Packet) : State :=
  let p := { p with srcDev := s.fab.devId, framePt := pt, frameSecure := secure }
  if p.dstDev = s.fab.devId then { s with fab := { s.fab with loop := s.fab.loop ++ [p] } }
  else
    let o := routeOut s 8 p.dstDev
    if 7 < o then fabDrop s else sendPkt s (4 + o) (pktTc p.ptype) (pktVc p.ptype) pt secure p

/-- The packet has been delivered here: it leaves the loop or the port's receive buffer, whichever way it came. -/
def delivered (s : State) (port : Nat) (p : Packet) : State :=
  let s := rxConsume s port (isPkt p)
  count { s with fab := { s.fab with loop := s.fab.loop.erase p } } pgFab 1 (p.dstPt % 8)

/-- The strict owner of a fabric port lets only its own partition's frames pass (R476). [DEDUCED, log 88] -/
def forwardAllowed (s : State) (x pt : Nat) : Bool :=
  (List.range 8).all fun p =>
    let e := s.mapOf p
    !(e.valid && e.strict && bit e.xp x) || p == pt

/-- FAB_FORWARD: a packet for another device (R448). -/
def forward (s : State) (port : Nat) (p : Packet) : State :=
  if s.boot.fatal ∨ port < 4 ∨ p.dstDev = s.fab.devId ∨ ¬ s.fab.idValid then s
  else
    let o := routeOut s (port - 4) p.dstDev
    if 7 < o ∨ p.hops ≤ 1 ∨ ¬ forwardAllowed s o p.framePt then fabDrop s
    else
      let s := count s pgFab 0 15
      sendPkt s (4 + o) 3 (pktVc p.ptype) p.framePt p.frameSecure { p with hops := p.hops - 1 }

def execFabForward (port : Nat) (pkt : Packet) (s : State) : Host.Outcome State Fault Refusal :=
  .next (forward (rxConsume s port (isPkt pkt)) port pkt)

end Sys2Proof.Machine
end

