-- ==== Sys2Proof/Machine/Collect.lean ====
section
/-!
DEFINITION. The collectives HEAD_GATHER and SPAN_MERGE: contributions (R215, R221), answers (R216), the landing area (R217), the
collector (R218 to R220), and resends (R464).
-/

namespace Sys2Proof.Machine

/-- The attention table that a partition's tiles have applied. -/
def appliedAttn (s : State) (pt : Nat) : AttnTable :=
  lget (if bit s.dep.lag 7 then s.dep.cfgPrev.attn else s.dep.cfg.attn) pt {}

/-! ### Messages -/

/-- The 32-byte header of a message (R215). -/
def collHeader (m : CollMsg) : List Byte :=
  toLe 1 m.type ++ toLe 1 m.member ++ toLe 2 m.group ++ toLe 4 m.opId ++ toLe 2 (m.srcDev + m.srcPt * 2 ^ 12) ++ toLe 2 m.epoch
    ++ toLe 4 m.len ++ toLe 2 m.nrec ++ toLe 1 m.ndev ++ toLe 1 m.answer ++ zeros 12

def collBytes (m : CollMsg) : List Byte := collHeader m ++ m.data

/-- Send a message as packets of 4,096 bytes (R439). -/
def sendColl (s : State) (t : PType) (dev pt dstPt : Nat) (bs : List Byte) (retx : Bool) : State :=
  let ps := chunks 4096 (bs.length / 4096 + 1) bs
  ps.zipIdx.foldl (fun s p => originate s pt false
    { ptype := t, start := p.2 == 0, last := p.2 + 1 == ps.length, retx := retx, dstDev := dev, dstPt := dstPt, seg := p.2,
      arg := bs.length, data := p.1 }) s

/-- Answer a contribution (R216). -/
def collAnswer (s : State) (pt srcDev srcPt : Nat) (m : CollMsg) (answer : Nat) : State :=
  sendColl s .collAns srcDev pt srcPt (collHeader { m with type := 3, answer := answer }) false

/-- The collective of a node: its fields and whether it is a SPAN_MERGE. -/
def collOf : Cmd → Option (CollCmd × Bool)
  | .headGather c => some (c, false)
  | .spanMerge c => some (c, true)
  | _ => none

/-- A member's O parts and packed statistics, read from SRC_REF (R215). -/
def readContribution (s : State) (n : Node) (c : CollCmd) (g : Group) : Except (State × Comp) (List Byte) :=
  let so := (attnAt s n.hdr.epoch (ringPt n.ring)).statOff
  match readRef s n c.srcRef c.len with
  | .error e => .error e
  | .ok o =>
    (List.range (c.len / g.ostride)).foldl (fun acc i =>
      match acc with
      | .error e => .error e
      | .ok bs =>
        match readRef s n (c.srcRef + so + i * g.ostride) 16 with
        | .error e => .error e
        | .ok st => .ok (bs ++ st)) (.ok o)

/-- Record i of a contribution. -/
def contribRec (g : Group) (len : Nat) (d : List Byte) (i : Nat) : OutRec :=
  let st := (d.drop (len + 16 * i)).take 16
  { o := (d.drop (i * g.ostride)).take g.ostride, m := field st 0 4, l := field st 4 4, covered := field st 8 4,
    muted := field st 12 3, flags := field st 15 1 % 16 }

/-! ### The collector -/

def CollectorOp.is (o : CollectorOp) (pt group opId : Nat) : Bool := o.pt == pt && o.group == group && o.opId == opId
def findCollector (s : State) (pt group opId : Nat) : Option CollectorOp := s.att.collectors.find? fun o => o.is pt group opId

/-- The bit map of the members whose contribution stands. -/
def gotMap (o : CollectorOp) : Nat := o.got.foldl (fun v c => v ||| 2 ^ c.member) 0

/-- The collector command ends. -/
def endCollector (s : State) (o : CollectorOp) (c : Comp) : State :=
  let s := { s with att := { s.att with
    collectors := s.att.collectors.filter (fun x => x.acc != o.acc), ended := s.att.ended ++ [(o.pt, o.group, o.opId)] } }
  finish s o.acc c

/-- The result with its places: the fold of each record over the members in their order, or every member's records at its own index (R219, R220). -/
def collResult (g : Group) (len : Nat) (span : Bool) (got : List Contribution) : List (OutRec × Nat) :=
  let n := len / g.ostride
  let cs := sortBy got fun x y => decide (x.member ≤ y.member)
  if span then
    (List.range n).filterMap fun i => (mergeRecs g.outFp32 (cs.map fun c => contribRec g len c.data i)).map fun r => (r, i)
  else cs.flatMap fun c => (List.range n).map fun i => (contribRec g len c.data i, c.member * n + i)

/-- Has the collector's deadline passed (R218)? [DEDUCED, log 75] -/
def collectorLate (s : State) (o : CollectorOp) : Bool := o.deadlineAt.any fun t => decide (t < s.time)

/-- It ends with TIMEOUT and the map of what has come. -/
def collectorTimeout (s : State) (o : CollectorOp) : State := endCollector s o (failWith .timeout 0 0 (gotMap o))

/-- With every contribution present before the deadline the collector writes its result and completes OK (R218). -/
def collectorTry (s : State) (acc : Nat) : State :=
  match s.node acc, s.att.collectors.find? fun o => o.acc == acc with
  | some n, some o =>
    match collOf n.cmd with
    | some (c, span) =>
      match groupAt s n.hdr.epoch o.pt c.group span with
      | some g =>
        if o.got.length < g.ndev then s
        else
          let rs := collResult g c.len span o.got
          let s := writeRecs s acc n.ring n.hdr.epoch c.dstRef g.ostride (attnAt s n.hdr.epoch o.pt).statOff rs
          endCollector s o { detail0 := (rs.foldl (fun v r => v ||| r.1.flags) 0) % 16, detail1 := g.ndev, result := gotMap o }
      | none => s
    | none => s
  | _, _ => s

/-- A contribution joins a collector. -/
def addContribution (s : State) (acc : Nat) (x : Contribution) : State :=
  let s := { s with att := { s.att with collectors := s.att.collectors.map fun o =>
    if o.acc = acc then { o with got := o.got ++ [x] } else o } }
  collectorTry s acc

/-- The header of a landed contribution, to be answered. -/
def landedMsg (l : Landed) : CollMsg :=
  { type := 3, member := l.member, group := l.group, opId := l.opId, srcDev := l.srcDev, srcPt := l.srcPt, epoch := l.epoch,
    len := l.len, nrec := l.nrec, ndev := l.ndev }

/-- Contributions whose hold is over are discarded with answer 2 (R217). [DEDUCED, log 75] -/
def expireHolds (s : State) : State :=
  let late := fun (l : Landed) => decide (l.until_ < s.time)
  (s.att.landed.filter late).foldl (fun s l => collAnswer s l.pt l.srcDev l.srcPt (landedMsg l) 2)
    { s with att := { s.att with landed := s.att.landed.filter fun l => !late l } }

/-- A collector command is issued: it takes the contributions that landed early (R217); one whose LEN is not its own gets answer 3 (R216).
[DEDUCED, log 75] -/
def collectorIssued (s : State) (n : Node) (c : CollCmd) (span : Bool) : State :=
  let pt := ringPt n.ring
  match groupAt s n.hdr.epoch pt c.group span with
  | none => s
  | some _ =>
    let s := expireHolds s
    let dl := if c.deadlineUs = 0 then none else some (n.accTime + c.deadlineUs * 1000)
    let mine := fun (l : Landed) => l.pt == pt && l.group == c.group && l.opId == c.opId
    let ls := s.att.landed.filter mine
    let o : CollectorOp :=
      { acc := n.acc, pt := pt, group := c.group, opId := c.opId, deadlineAt := dl,
        got := (ls.filter fun l => l.len == c.len).map fun l =>
          { member := l.member, srcDev := l.srcDev, srcPt := l.srcPt, data := l.data } }
    let s := { s with att := { s.att with
      collectors := s.att.collectors ++ [o], landed := s.att.landed.filter (fun l => !mine l),
      ended := s.att.ended.filter (· != (pt, c.group, c.opId)) } }
    ls.foldl (fun s l => collAnswer s pt l.srcDev l.srcPt (landedMsg l) (if l.len = c.len then 0 else 3)) s

/-- The partition of the group's collector: that of its first member on the collector's device. [DEDUCED, log 48] -/
def collectorPt (g : Group) (dev : Nat) : Nat := ((g.members.find? fun m => m / 8 == dev).map (· % 8)).getD 0

/-- The collector of a command, if it stands, ends with an outcome; else the command ends. -/
def failColl (s : State) (acc : Nat) (c : Comp) : State :=
  match s.att.collectors.find? fun o => o.acc == acc with
  | some o => endCollector s o c
  | none => finish s acc c

/-- HEAD_GATHER and SPAN_MERGE on their tile: the collector takes its own contribution; a contributor sends its own. -/
def runColl (s : State) (n : Node) (c : CollCmd) (span : Bool) : State :=
  let pt := ringPt n.ring
  match beginCheck s n, groupAt s n.hdr.epoch pt c.group span with
  | some e, _ => failColl s n.acc e
  | none, none => failColl s n.acc (invalidAt 16)
  | none, some g =>
    let k := (memberIndex s g pt).getD 0
    if c.isCollector then
      match s.att.collectors.find? fun o => o.acc == n.acc with
      | none => s
      | some o =>
        if collectorLate s o then collectorTimeout s o
        else if o.got.any fun x => x.member == k then collectorTry s n.acc
        else
          match readContribution s n c g with
          | .error e => failColl e.1 n.acc e.2
          | .ok d => addContribution s n.acc { member := k, srcDev := s.fab.devId, srcPt := pt, data := d }
    else if s.att.contribs.any fun x => x.acc == n.acc then s
    else
      match readContribution s n c g with
      | .error e => finish e.1 n.acc e.2
      | .ok d =>
        let m : CollMsg :=
          { type := if span then 2 else 1, member := k, group := c.group, opId := c.opId, srcDev := s.fab.devId, srcPt := pt,
            epoch := n.hdr.epoch, len := c.len, nrec := c.len / g.ostride, ndev := c.ndev, data := d }
        let x : ContribOp :=
          { acc := n.acc, pt := pt, group := c.group, opId := c.opId, collector := c.collector, member := k, sentAt := s.time,
            retries := 0, msg := collBytes m }
        let s := { s with att := { s.att with contribs := s.att.contribs ++ [x] } }
        sendColl s .coll c.collector pt (collectorPt g c.collector) (collBytes m) false

def execHeadGather (acc : Nat) (s : State) : Host.Outcome State Fault Refusal :=
  .next (match liveNode s acc with
    | some n =>
      match n.cmd with
      | .headGather c => runColl s n c false
      | _ => s
    | none => s)

def execSpanMerge (acc : Nat) (s : State) : Host.Outcome State Fault Refusal :=
  .next (match liveNode s acc with
    | some n =>
      match n.cmd with
      | .spanMerge c => runColl s n c true
      | _ => s
    | none => s)

/-- COLLECTOR_DEADLINE: TIMEOUT with the arrival bit map (R218). -/
def collectorDeadline (s : State) (acc : Nat) : State :=
  match s.att.collectors.find? fun o => o.acc == acc with
  | some o =>
    match o.deadlineAt with
    | some t => collectorTimeout (s.reach t) o
    | none => s
  | none => s

def execCollectorDeadline (acc : Nat) (s : State) : Host.Outcome State Fault Refusal :=
  .next (if s.boot.fatal then s else collectorDeadline s acc)

/-! ### Arrivals -/

/-- The bytes a message takes in the landing area. -/
def landBytes (m : CollMsg) : Nat := 32 + m.data.length

/-- First fit: the lowest offset at which n bytes fit among what has landed for the partition. -/
def landFit (s : State) (pt size n : Nat) : Option Nat :=
  let ls := s.att.landed.filter fun l => l.pt == pt
  let cands := 0 :: ls.map fun l => l.off + l.size
  let ok := fun (o : Nat) => decide (o + n ≤ size) && ls.all fun l => !overlaps o n l.off l.size
  minBy id (cands.filter ok)

/-- Why a contribution is refused: its partition is being scrubbed (R494), or the group table (R216 answers 3 and 5). [DEDUCED, log 49; DEDUCED, log 75] -/
def collRefusal (s : State) (m : CollMsg) : Option Nat :=
  if (s.part m.dstPt).state = .scrubbing then some 5 else
  match (appliedAttn s m.dstPt).groups.find? fun g => g.id == m.group with
  | none => some 3
  | some g =>
    if ¬ g.members.contains (m.srcDev * 8 + m.srcPt) then some 5
    else if g.span ≠ (m.type == 2) ∨ g.ndev ≠ m.ndev ∨ m.len = 0 ∨ m.len % g.ostride ≠ 0 ∨ m.nrec ≠ m.len / g.ostride
      ∨ m.data.length ≠ m.len + 16 * m.nrec ∨ g.members[m.member]? ≠ some (m.srcDev * 8 + m.srcPt) then some 3
    else none

/-- A contribution with no collector command yet: it lands, or is refused (R217). [DEDUCED, log 49; DEDUCED, log 75] -/
def landColl (s : State) (m : CollMsg) : State :=
  let s := expireHolds s
  let t := appliedAttn s m.dstPt
  let pt := m.dstPt
  let reply := collAnswer s pt m.srcDev m.srcPt m
  if s.att.ended.contains (pt, m.group, m.opId) then reply 2
  else if s.att.landed.any fun l => l.pt == pt && l.group == m.group && l.opId == m.opId && l.member == m.member then
    (if m.retx then s else reply 4)
  else
    match landFit s pt t.landSize (landBytes m) with
    | none => reply 1
    | some o =>
      let l : Landed :=
        { pt := pt, group := m.group, opId := m.opId, member := m.member, srcDev := m.srcDev, srcPt := m.srcPt, off := o,
          size := landBytes m, until_ := s.time + t.holdUs * 1000, data := m.data,
          epoch := m.epoch, len := m.len, nrec := m.nrec, ndev := m.ndev }
      waWrite { s with att := { s.att with landed := s.att.landed ++ [l] } } s.appliedMap pt (t.landOff + o) (collBytes m)

/-- LEN of the collector command agrees with the message's. -/
def collLenOk (s : State) (acc len : Nat) : Bool :=
  match s.node acc with
  | some n => (collOf n.cmd).any fun c => c.1.len == len
  | none => false

/-- COLL_RX: a contribution for this device. [DEDUCED, log 49; DEDUCED, log 75] -/
def collRx (s : State) (m : CollMsg) : State :=
  if ¬ s.fab.idValid then s
  else
    let reply := collAnswer s m.dstPt m.srcDev m.srcPt m
    match collRefusal s m with
    | some a => reply a
    | none =>
      match findCollector s m.dstPt m.group m.opId with
      | none => landColl s m
      | some o =>
        if collectorLate s o then landColl (collectorTimeout s o) m
        else if o.got.any fun c => c.member == m.member then reply (if m.retx then 0 else 4)
        else if ¬ collLenOk s o.acc m.len then reply 3
        else addContribution (reply 0) o.acc { member := m.member, srcDev := m.srcDev, srcPt := m.srcPt, data := m.data }

/-- A whole message has come: its packets leave the port's buffer (R439). -/
def takeColl (s : State) (port : Nat) (m : CollMsg) : State :=
  (List.range (ceilDiv (32 + m.data.length) 4096)).foldl (fun s _ =>
    rxConsume s port fun f => isPktType .coll f && (match f.body with
      | .pkt p => p.srcDev == m.srcDev
      | _ => false)) s

def execCollRx (port : Nat) (msg : CollMsg) (s : State) : Host.Outcome State Fault Refusal :=
  .next (if s.boot.fatal then s else collRx (takeColl s port msg) msg)

/-- COLL_HOLD_EXPIRE: the hold of R217 ends with answer 2. -/
def holdExpire (s : State) (pt group opId member : Nat) : State :=
  match s.att.landed.find? fun l => l.pt == pt && l.group == group && l.opId == opId && l.member == member with
  | none => s
  | some l =>
    let s := s.reach l.until_
    let s := { s with att := { s.att with landed := s.att.landed.filter (· != l) } }
    collAnswer s pt l.srcDev l.srcPt (landedMsg l) 2

def execCollHoldExpire (pt group opId member : Nat) (s : State) : Host.Outcome State Fault Refusal :=
  .next (if s.boot.fatal then s else holdExpire s pt group opId member)

/-! ### The contributor's answer -/

/-- The contributor's status for an answer (R216). -/
def answerComp : Nat → Comp
  | 0 => {}
  | 1 => failWith .busy
  | 2 => failWith .timeout
  | 5 => failWith .perm
  | _ => failWith .invalid

def endContrib (s : State) (x : ContribOp) (c : Comp) : State :=
  finish { s with att := { s.att with contribs := s.att.contribs.filter fun y => y.acc != x.acc } } x.acc c

/-- COLL_ANS_RX. -/
def collAnsRx (s : State) (m : CollMsg) : State :=
  match s.att.contribs.find? fun x => x.pt == m.srcPt && x.group == m.group && x.opId == m.opId && x.member == m.member with
  | some x => endContrib s x (answerComp m.answer)
  | none => s

def execCollAnsRx (port : Nat) (msg : CollMsg) (s : State) : Host.Outcome State Fault Refusal :=
  .next (if s.boot.fatal then s else collAnsRx (rxConsume s port (isPktType .collAns)) msg)

/-- QP_TO_US and RETRY_MAX of a partition. -/
def qpTimeout (s : State) (pt : Nat) : Nat := bits (s.reg pgFab 0x22C pt) 16 8 * 1000
def retryMax (s : State) (pt : Nat) : Nat := bits (s.reg pgFab 0x22C pt) 24 3

/-- COLL_RETX_TIMEOUT (R464). -/
def collRetx (s : State) (acc : Nat) : State :=
  match s.att.contribs.find? fun x => x.acc == acc, (s.node acc).bind fun n => collOf n.cmd with
  | some x, some (c, span) =>
    let s := s.reach (x.sentAt + qpTimeout s x.pt)
    if retryMax s x.pt ≤ x.retries then endContrib s x (failWith .timeout)
    else
      let s := { s with att := { s.att with contribs := s.att.contribs.map fun y =>
        if y.acc = acc then { y with retries := y.retries + 1, sentAt := s.time } else y } }
      let e := ((s.node acc).map (·.hdr.epoch)).getD 0
      let pt := ((groupAt s e x.pt c.group span).map fun g => collectorPt g x.collector).getD 0
      sendColl s .coll x.collector x.pt pt x.msg true
  | _, _ => s

def execCollRetxTimeout (acc : Nat) (s : State) : Host.Outcome State Fault Refusal :=
  .next (if s.boot.fatal then s else collRetx s acc)

end Sys2Proof.Machine
end

