-- ==== Sys2Proof/Machine/Fabric.lean ====
section
/-!
DEFINITION. Remote access: queue pairs (R450 to R455), keys (R456 to R459, R467, R468), page transfers (R460 to R462), messages
(R463), and the target's checks (R466).
-/

namespace Sys2Proof.Machine

/-! ### Owners and selectors -/

/-- The partition whose range holds a QPN (R450). -/
def qpnOwner (s : State) (q : Nat) : Option Nat := (List.range 8).find? fun p => qpnInRange s p q
/-- PT and VALID of a protection domain (R456). -/
def pdPt (s : State) (pd : Nat) : Option Nat :=
  let r := s.reg pgFab 0x250 pd
  if bit r 3 then some (bits r 0 3) else none
/-- The selected key, queue pair. -/
def keySel (s : State) : Nat := s.reg pgFab 0x260
def qpSel (s : State) : Nat := s.reg pgFab 0x238
/-- May the requester use the selected queue pair or key (R469 with R44)? Any requester may select a FREE key. -/
def maySelectQp (s : State) (rq : Requester) : Bool := rq.secure || qpnOwner s (qpSel s) == some rq.pt
def maySelectKey (s : State) (rq : Requester) : Bool :=
  rq.secure || (s.key (keySel s)).state == .free || (s.key (keySel s)).owner == rq.pt

/-! ### Queue pairs -/

/-- QP_CONNECT (R451). [DEDUCED, log 71] -/
def qpConnect (s : State) (rq : Requester) : State :=
  let q := qpSel s
  if ¬ maySelectQp s rq then s
  else
    match qpnOwner s q with
    | some p =>
      if (s.qp q).state ≠ .reset then s
      else if pdPt s (s.qp q).pd = some p then
        s.setQp q fun c => { c with state := .ready, pt := p, sndPsn := 0, expPsn := 0, ansLog := [], reqs := [], retries := 0 }
      else logErr s pgFab 0x06 0 0x244 0 rq
    | none => logErr s pgFab 0x06 0 0x244 0 rq

def execQpConnect (req : Requester) (s : State) : Host.Outcome State Fault Refusal :=
  .next (guarded s req pgFab 0x244 fun s => qpConnect s req)

/-- QP_RESET: an idle READY pair or one in ERROR (R451). -/
def qpReset (s : State) (rq : Requester) : State :=
  let q := qpSel s
  let c := s.qp q
  if ¬ maySelectQp s rq then s
  else if c.state = .ready ∧ ¬ (c.reqs.isEmpty ∧ c.rq.isEmpty) then logErr s pgFab 0x06 0 0x244 0 rq
  else if c.state = .reset then s
  else s.setQp q fun c => { c with state := .reset }

def execQpReset (req : Requester) (s : State) : Host.Outcome State Fault Refusal :=
  .next (guarded s req pgFab 0x244 fun s => qpReset s req)

/-- Put a context into the cache of 4,096; where the partition's part of it is full, the first one of that part that nothing holds
leaves. [DEDUCED, log 22; DEDUCED, log 71] -/
def cacheQp (s : State) (q : Nat) : State :=
  let c := s.fab.cached
  let ptOf := fun (x : Nat) => (qpnOwner s x).getD 0
  let strict := strictPts s
  let pt := ptOf q
  let shares := fun (x : Nat) => if strict.contains pt then ptOf x == pt else !strict.contains (ptOf x)
  let c := if capRoom s pt 4096 1 (fun p => (c.filter fun x => ptOf x == p).length) then c
    else match lfind c (fun x => shares x && !qpHeld s x) with
      | some i => c.eraseIdx i
      | none => c
  { s with fab := { s.fab with cached := c ++ [q], fetching := s.fab.fetching.filter (· != q) } }

/-- Begin the fetch of a context that is not at hand. -/
def fetchQp (s : State) (q pt : Nat) : State :=
  if s.fab.fetching.contains q then s
  else count { s with fab := { s.fab with fetching := s.fab.fetching ++ [q] } } pgFab 2 pt

/-- Room for one more request of a queue pair (R452)? A pair that is not READY holds nothing back: the command fails. -/
def qpRoom (s : State) (q : Nat) : Bool := (s.qp q).state != .ready || decide ((s.qp q).reqs.length < 16)

/-- The tracker issues a request: it gets the next PSN (R452). [DEDUCED, log 24] -/
def qpIssued (s : State) (q acc : Nat) : State :=
  if (s.qp q).state ≠ .ready then s
  else s.setQp q fun c =>
    { c with reqs := c.reqs ++ [{ acc := acc, psn := c.sndPsn }], sndPsn := (c.sndPsn + 1) % 2 ^ 24,
             unaAt := if c.reqs.isEmpty then s.time else c.unaAt }

/-- The request of an accepted command on a pair, if the tracker gave it a number. -/
def qpReqOf (s : State) (q acc : Nat) : Option QpReq := (s.qp q).reqs.find? fun r => r.acc == acc

/-- Have all earlier requests of the pair been sent? [DEDUCED, log 71] -/
def qpTurn (s : State) (q acc : Nat) : Bool := ((s.qp q).reqs.takeWhile fun r => r.acc != acc).all (·.sent)

/-- A packet of a queue pair's request. -/
def reqPkt (s : State) (q psn dev : Nat) (t : PType) : Packet :=
  let c := s.qp q
  { ptype := t, dstDev := dev, dstPt := c.peerPt, dstQpn := c.peerQpn, srcQpn := q, psn := psn }

/-- Send packets on a pair; PKTS_TX counts them. -/
def sendQp (s : State) (q : Nat) (ps : List Packet) : State :=
  let s := s.setQp q fun c => { c with pktsTx := (c.pktsTx + ps.length) % 2 ^ 64 }
  ps.foldl (fun s p => originate s (s.qp q).pt false p) s

/-- Data cut into packets of 4,096 bytes with START, END and SEG. -/
def segPkts (p : Packet) (bs : List Byte) : List Packet :=
  let ds := chunks 4096 (bs.length / 4096 + 1) bs
  ds.zipIdx.map fun d => { p with start := d.2 == 0, last := d.2 + 1 == ds.length, seg := d.2, data := d.1 }

/-- The bytes of a page as they stand, expanded. -/
def pageBytes (s : State) (cpn : Nat) : List Byte :=
  (wholePage s (pageStore s cpn) (s.loc cpn).compressed (identOf s cpn)).getD (zeros frameBytes)

/-- The packets of a command's request. -/
def cmdPkts (s : State) (n : Node) (psn : Nat) (retx : Bool) : List Packet :=
  match n.cmd with
  | .putPage x =>
    segPkts { reqPkt s x.qpn psn x.device .put with retx := retx, arg := x.key, cpn := x.remoteCpn } (pageBytes s x.localCpn)
  | .getPage x =>
    [{ reqPkt s x.qpn psn x.device .getReq with retx := retx, start := true, last := true, arg := x.key, cpn := x.remoteCpn }]
  | .send q l r =>
    match readRef s n r l with
    | .ok bs => segPkts { reqPkt s q psn (s.qp q).peerDev .send with retx := retx, arg := l } bs
    | .error _ => []
  | _ => []

/-- Send a command's request. -/
def sendReq (s : State) (q : Nat) (r : QpReq) (retx : Bool) : State :=
  match s.node r.acc with
  | some n =>
    let s := sendQp s q (cmdPkts s n r.psn retx)
    s.setQp q fun c => { c with reqs := c.reqs.map fun x => if x.acc = r.acc then { x with sent := true } else x }
  | none => s

/-- A request has its answer, or failed before it was sent: it leaves its pair. -/
def dropQpReq (s : State) (q acc : Nat) : State :=
  s.setQp q fun c =>
    let head := c.reqs.head?.any fun r => r.acc == acc
    { c with reqs := c.reqs.filter fun r => r.acc != acc, unaAt := if head then s.time else c.unaAt,
             retries := if head then 0 else c.retries }

/-- R455: later requests get new PSNs from p onward; those already sent are sent again. -/
def renumber (s : State) (q p : Nat) (later : List Nat) : State :=
  let s := s.setQp q fun c =>
    { c with sndPsn := (p + later.length) % 2 ^ 24,
             reqs := c.reqs.map fun r => match later.idxOf? r.acc with
               | some i => { r with psn := (p + i) % 2 ^ 24 }
               | none => r }
  (s.qp q).reqs.foldl (fun s r => if later.contains r.acc ∧ r.sent then sendReq s q r true else s) s

/-- The requests of a pair after the one of a command. -/
def laterReqs (s : State) (q acc : Nat) : List Nat := (((s.qp q).reqs.dropWhile fun r => r.acc != acc).drop 1).map (·.acc)

/-- A request that fails before it is sent gives its PSN back (log entry 24). [DEDUCED, log 24] -/
def cancelReq (s : State) (q acc : Nat) : State :=
  match qpReqOf s q acc with
  | none => s
  | some r => renumber (dropQpReq s q acc) q r.psn (laterReqs s q acc)

/-! ### The initiator's commands -/

def failReq (s : State) (n : Node) (q : Nat) (c : Comp) : State := finish (allocDone (cancelReq s q n.acc) n.acc) n.acc c

/-- Run a command on a queue pair: READY (R451), its context at hand (R453), its turn to send. -/
def onQp (s : State) (n : Node) (q : Nat) (f : State → State) : State :=
  match beginCheck s n with
  | some c => failReq s n q c
  | none =>
    if (s.qp q).state ≠ .ready then failReq s n q (invalidAt 20)
    else if ¬ s.fab.cached.contains q then fetchQp s q (ringPt n.ring)
    else f s

/-- Run a request that has not been sent and whose turn has come. -/
def onReq (s : State) (n : Node) (q : Nat) (f : QpReq → State → State) : State :=
  onQp s n q fun s =>
    match qpReqOf s q n.acc with
    | some r => if r.sent ∨ ¬ qpTurn s q n.acc then s else f r s
    | none => s

/-- The profile that a stored page's header names. -/
def pageProfile (s : State) (cpn : Nat) : Option Profile :=
  let id := field ((pageBytes s cpn).take 256) 10 2
  match tget s.dep.cfg.profiles id with
  | some p => some p
  | none => tget s.dep.cfgPrev.profiles id

/-- Does the page hold TPP tokens? -/
def fullPage (s : State) (cpn : Nat) : Bool :=
  match pageProfile s cpn with
  | some p => field (pageBytes s cpn) 20 2 % 512 == p.tpp
  | none => false
/-- WARM_HELD of the page's header. -/
def warmHeld (s : State) (cpn : Nat) : Bool := bit (field (pageBytes s cpn) 15 1) 3

/-- PUT_PAGE's checks (R460). -/
def putRefused (s : State) (pt cpn : Nat) : Option Comp :=
  let st := (s.loc cpn).state
  if cpnPt cpn ≠ pt then some (failWith .perm 24)
  else if st = .free ∨ st = .retired then some (invalidAt 24)
  else if st = .poisoned then some (failWith .poisoned)
  else if ¬ fullPage s cpn then some (invalidAt 24)
  else if warmHeld s cpn then some (failWith .perm 24)
  else none

/-- PUT_PAGE: the page is moved to T1 if it lies lower, then sent (R257, R460). -/
def runPut (s : State) (n : Node) (x : XferCmd) : State :=
  onReq s n x.qpn fun r s =>
    match putRefused s (ringPt n.ring) x.localCpn with
    | some c => failReq s n x.qpn c
    | none =>
      if ¬ upper (s.loc x.localCpn) then
        callUp s x.localCpn n.acc 0 none
      else if storeBad s (pageStore s x.localCpn) 0 frameBytes then
        failReq (recPoison (poisonRead s x.localCpn (pageStore s x.localCpn) false) n 1 x.localCpn) n x.qpn (failWith .poisoned)
      else sendReq s x.qpn r false

def execPutPage (acc : Nat) (s : State) : Host.Outcome State Fault Refusal :=
  .next (match liveNode s acc with
    | some n =>
      match n.cmd with
      | .putPage x => runPut s n x
      | _ => s
    | none => s)

/-- The key whose window holds a CPN. -/
def windowKey (s : State) (cpn : Nat) : Option (Nat × Key) :=
  s.fab.keys.find? fun k => k.2.state != .free && k.2.write && decide (k.2.cpn ≤ cpn ∧ cpn < k.2.cpn + k.2.layers * k.2.span)

/-- The home field for a landing: the one of the sequence's STAGE_TILE (R461). -/
def landField (s : State) (k : Key) : Nat := homeTile s k.seq / 12

/-- Is a page on its way into the CPN? -/
def landing (s : State) (cpn : Nat) : Bool :=
  s.fab.asms.any (fun a => a.isPut && a.ok && a.cpn == cpn)

/-- GET_PAGE: a frame is reserved, waiting for one if need be (R260), and the request is sent. -/
def runGet (s : State) (n : Node) (x : XferCmd) : State :=
  onReq s n x.qpn fun r s =>
    match windowKey s x.localCpn with
    | none => failReq s n x.qpn (invalidAt 24)
    | some (_, k) =>
      if k.state ≠ .valid ∨ k.owner ≠ ringPt n.ring ∨ k.landed.contains x.localCpn then failReq s n x.qpn (invalidAt 24)
      else
        match t1Alloc s (ringPt n.ring) (landField s k) (.reserved n.acc) with
        | none => allocWait s n
        | some (a, s) =>
          let s := allocDone s n.acc
          let g : GetIn := { acc := n.acc, qpn := x.qpn, psn := r.psn, frame := a, data := [] }
          sendReq { s with fab := { s.fab with gets := s.fab.gets ++ [g] } } x.qpn r false

/-- [DEDUCED, log 12] -/
def execGetPage (acc : Nat) (s : State) : Host.Outcome State Fault Refusal :=
  .next (match liveNode s acc with
    | some n =>
      match n.cmd with
      | .getPage x => runGet s n x
      | _ => s
    | none => s)

/-- SEND: the message leaves as packets (R463). -/
def runSend (s : State) (n : Node) (q l r : Nat) : State :=
  onReq s n q fun x s =>
    match readRef s n r l with
    | .error e => failReq e.1 n q e.2
    | .ok _ => sendReq s q x false

def execSend (acc : Nat) (s : State) : Host.Outcome State Fault Refusal :=
  .next (match liveNode s acc with
    | some n =>
      match n.cmd with
      | .send q l r => runSend s n q l r
      | _ => s
    | none => s)

/-- Does a receive buffer lie in the window of the pair's PD (R456)? -/
def inPdWindow (s : State) (pd r l : Nat) : Bool :=
  let off := s.reg64 pgFab 0x254 pd
  refSpace r == 1 && decide (off ≤ refAddr r ∧ refAddr r + l ≤ off + s.reg pgFab 0x25C pd)

/-- POST_RECV: the buffer joins the pair's FIFO (R463); the command completes when a message fills it. -/
def runPostRecv (s : State) (n : Node) (q l r : Nat) : State :=
  onQp s n q fun s =>
    if (s.qp q).rq.any fun x => x.acc == n.acc then s
    else if ¬ inPdWindow s (s.qp q).pd r l then finish s n.acc (failWith .perm 32)
    else if 64 ≤ (s.qp q).rq.length then finish s n.acc (failWith .nospace)
    else s.setQp q fun c => { c with rq := c.rq ++ [{ acc := n.acc, bufRef := r, len := l }] }

def execPostRecv (acc : Nat) (s : State) : Host.Outcome State Fault Refusal :=
  .next (match liveNode s acc with
    | some n =>
      match n.cmd with
      | .postRecv q l r => runPostRecv s n q l r
      | _ => s
    | none => s)

/-- The pair a command names. -/
def cmdQp : Cmd → Option Nat
  | .putPage x | .getPage x => some x.qpn
  | .send q _ _ => some q
  | _ => none

/-! ### Answers at the initiator (R455, R466) -/

/-- The status of an ANSWER code with its details (R466). -/
def ansComp (answer hint : Nat) : Comp :=
  match answer with
  | 0 => {}
  | 1 | 12 => failWith .busy 0 answer
  | 3 => failWith .invalid 20 3
  | 4 | 5 => failWith .perm 0 answer
  | 6 => failWith .revoked 0 6
  | 7 => failWith .retry 0 hint
  | 8 => failWith .invalid 32 8
  | 9 => failWith .format 0 9
  | 10 => failWith .poisoned 0 10
  | 11 => failWith .nospace 0 11
  | _ => failWith .invalid 24 answer

def getOf (s : State) (acc : Nat) : Option GetIn := s.fab.gets.find? fun g => g.acc == acc
def dropGet (s : State) (acc : Nat) : State := { s with fab := { s.fab with gets := s.fab.gets.filter fun g => g.acc != acc } }
def modGet (s : State) (acc : Nat) (f : GetIn → GetIn) : State :=
  { s with fab := { s.fab with gets := s.fab.gets.map fun g => if g.acc = acc then f g else g } }

/-- The frame a failed GET reserved goes back. -/
def freeGet (s : State) (acc : Nat) : State :=
  match getOf s acc with
  | some g => dropGet (if g.landed then s else releaseFrame s ((s.qp g.qpn).pt) .t1 g.frame) acc
  | none => s

/-- A command's request ends with an answer. -/
def endReq (s : State) (q acc : Nat) (c : Comp) : State := finish (freeGet (dropQpReq s q acc) acc) acc c

/-- RESULT of a transfer that ended OK: the landed CPN. -/
def xferResult (s : State) (acc : Nat) : Nat :=
  match s.node acc with
  | some n =>
    match n.cmd with
    | .putPage x => x.remoteCpn
    | .getPage x => x.localCpn
    | _ => 0
  | none => 0

/-- A GET whose ACK has come and whose page has landed completes. [DEDUCED, log 72] -/
def settleGet (s : State) (acc : Nat) : State :=
  match getOf s acc with
  | some g => if g.landed ∧ g.acked then endReq s g.qpn acc { result := xferResult s acc } else s
  | none => s

/-- FAB_ACK_RX: the answer to a request. -/
def ackRx (s : State) (p : Packet) : State :=
  let q := p.dstQpn
  let s := s.setQp q fun c => { c with pktsRx := (c.pktsRx + 1) % 2 ^ 64 }
  match (s.qp q).reqs.find? fun r => r.psn == p.psn && r.sent with
  | none => s
  | some r =>
    if p.answer = 2 then s
    else if p.answer = 1 then
      let later := laterReqs s q r.acc
      let s := s.setQp q fun c => { c with busyRx := (c.busyRx + 1) % 2 ^ 32 }
      renumber (endReq s q r.acc (ansComp 1 0)) q r.psn later
    else if p.answer = 0 then
      if (getOf s r.acc).isSome then settleGet (modGet s r.acc fun g => { g with acked := true }) r.acc
      else endReq s q r.acc { result := xferResult s r.acc }
    else endReq s q r.acc (ansComp p.answer p.arg)

/-- Is the packet for this device? A device without an ID takes none but discovery and snapshot packets (R442). -/
def mine (s : State) (p : Packet) : Bool := !s.boot.fatal && s.fab.idValid && p.dstDev == s.fab.devId

def execFabAckRx (port : Nat) (pkt : Packet) (s : State) : Host.Outcome State Fault Refusal :=
  .next (if mine s pkt ∧ pkt.ptype = .ack then ackRx (delivered s port pkt) pkt else s)

/-- QP_RETX_TIMEOUT (R452). [DEDUCED, log 71] -/
def retxTimeout (s : State) (q : Nat) : State :=
  let c := s.qp q
  if c.state ≠ .ready ∨ ¬ c.reqs.any (·.sent) then s
  else
    let s := s.reach (c.unaAt + qpTimeout s c.pt)
    if retryMax s c.pt ≤ c.retries then
      let s := c.reqs.foldl (fun s r => endReq (allocDone s r.acc) q r.acc (failWith .timeout)) s
      let s := c.rq.foldl (fun s r => finish s r.acc (failWith .timeout)) s
      s.setQp q fun c => { c with state := .error, rq := [] }
    else
      let s := s.setQp q fun c => { c with retries := c.retries + 1, unaAt := s.time }
      (s.qp q).reqs.foldl (fun s r => if r.sent then sendReq s q r true else s) s

def execQpRetxTimeout (qpn : Nat) (s : State) : Host.Outcome State Fault Refusal :=
  .next (if s.boot.fatal then s else retxTimeout s qpn)

/-! ### The target -/

/-- Send an answer. The world and partition are the pair's; before a pair is known, DST_PT's. While that partition is scrubbed the secure
world answers (R490, R494). [DEDUCED, log 71] -/
def sendAns (s : State) (p : Packet) (answer arg : Nat) : State :=
  originate s p.dstPt ((s.part p.dstPt).state == .scrubbing)
    { ptype := .ack, start := true, last := true, dstDev := p.srcDev, dstPt := p.framePt, dstQpn := p.srcQpn, srcQpn := p.dstQpn,
      psn := p.psn, answer := answer, arg := arg }

/-- How far a PSN lies below EXP_PSN. [DEDUCED, log 71] -/
def psnBack (c : Qpc) (psn : Nat) : Nat := subMod c.expPsn psn 24

/-- Enter an answer in ANS_LOG. -/
def logAns (s : State) (q psn answer : Nat) : State :=
  s.setQp q fun c =>
    let k := psnBack c psn
    if 1 ≤ k ∧ k ≤ 16 then
      let l := c.ansLog ++ List.replicate (16 - c.ansLog.length) 0
      { c with ansLog := lset l (k - 1) answer }
    else c

/-- Answer a request finally. -/
def answer (s : State) (p : Packet) (a : Nat) (arg : Nat := 0) : State :=
  sendAns (logAns (if a = 6 then count s pgFab 6 (s.qp p.dstQpn).pt else s) p.dstQpn p.psn a) p a arg

/-- EXP_PSN rises, with 15 in the new ANS_LOG entry. -/
def acceptPsn (s : State) (q : Nat) : State :=
  s.setQp q fun c => { c with expPsn := (c.expPsn + 1) % 2 ^ 24, ansLog := (15 :: c.ansLog).take 16 }

/-- Change INFLIGHT of a key. [DEDUCED, log 73] -/
def keyUp (s : State) (k : Nat) : State := s.setKey k fun x => { x with inflight := x.inflight + 1 }
/-- [DEDUCED, log 73] -/
def keyDown (s : State) (k : Nat) : State := s.setKey k fun x => { x with inflight := x.inflight - 1 }

/-- Steps 7 to 9 of R466: the key's index, or the answer. -/
def keyCheck (s : State) (q arg cpn : Nat) (write : Bool) : Except Nat Nat :=
  let i := bits arg 0 12
  let k := s.key i
  let c := s.qp q
  if k.state = .free ∨ k.gen ≠ bits arg 12 8 ∨ k.check ≠ bits arg 20 12 ∨ k.owner ≠ c.pt ∨ k.pd ≠ c.pd then .error 5
  else if k.state ≠ .valid then .error 6
  else if k.write ≠ write ∨ cpn < k.cpn ∨ k.cpn + (if k.write then k.layers * k.span else k.span) ≤ cpn then .error 5
  else .ok i

/-- The header check of R461. -/
def headerOk (s : State) (k : Key) (hdr : List Byte) : Bool :=
  match tget s.dep.cfg.profiles (s.ctx k.seq).profile with
  | none => false
  | some p =>
    field hdr 22 1 == p.kFmt + p.vFmt * 16 && field hdr 24 2 == p.ks && field hdr 26 2 == p.vs && field hdr 28 4 == 0x1000 + p.ka
      && field hdr 20 2 % 512 == p.tpp && !bit (field hdr 15 1) 0 && !bit (field hdr 15 1) 3

/-- SEG 0 of a PUT (steps 7 to 12). -/
def putBegin (s : State) (p : Packet) : State :=
  match keyCheck s p.dstQpn p.arg p.cpn true with
  | .error a => answer s p a
  | .ok i =>
    let k := s.key i
    if k.landed.contains p.cpn ∨ landing s p.cpn ∨ (s.fab.gets.any fun g => g.whole && xferResult s g.acc == p.cpn) then answer s p 8
    else if ¬ headerOk s k (p.data.take 256) then answer s p 9
    else
      match t1Alloc s k.owner (landField s k) (.page p.cpn) with
      | none => answer s p 11
      | some (a, s) =>
        let x : Assembly :=
          { qpn := p.dstQpn, psn := p.psn, isPut := true, ok := true, key := i, cpn := p.cpn, frame := a, nextSeg := 1,
            data := p.data, complete := p.last }
        keyUp { s with fab := { s.fab with asms := s.fab.asms ++ [x] } } i

/-- The messages that assemble for a pair. -/
def sendsOpen (s : State) (q : Nat) : Nat := (s.fab.asms.filter fun a => a.qpn == q && !a.isPut).length

/-- A whole message fills the oldest posted receive, completes it, and is answered OK (R463). -/
def deliverMsg (s : State) (p : Packet) (bs : List Byte) : State :=
  let q := p.dstQpn
  match (s.qp q).rq with
  | [] => answer s p 12
  | r :: rest =>
    let s := s.setQp q fun c => { c with rq := rest }
    let e := ((s.node r.acc).map (·.hdr.epoch)).getD s.dep.epoch
    let s := waWrite s (mapAt s e) (s.qp q).pt (refAddr r.bufRef) bs
    let s := finish s r.acc { detail0 := p.srcDev + p.framePt * 2 ^ 12, result := bs.length }
    answer s p 0

/-- SEG 0 of a SEND (steps 6 and 15). -/
def sendBegin (s : State) (p : Packet) : State :=
  let q := p.dstQpn
  match (s.qp q).rq[sendsOpen s q]? with
  | none => answer s p 12
  | some r =>
    if r.len < p.arg then answer s p 13
    else if p.last then deliverMsg s p (p.data.take p.arg)
    else
      let x : Assembly :=
        { qpn := q, psn := p.psn, isPut := false, ok := true, key := 0, cpn := 0, frame := 0, nextSeg := 1, data := p.data }
      { s with fab := { s.fab with asms := s.fab.asms ++ [x] } }

/-- A later packet of an accepted transfer. -/
def asmMore (s : State) (p : Packet) (x : Assembly) : State :=
  if p.seg ≠ x.nextSeg ∨ x.complete then s
  else
    let y := { x with nextSeg := x.nextSeg + 1, data := x.data ++ p.data, complete := p.last }
    if p.last ∧ ¬ x.isPut then
      deliverMsg { s with fab := { s.fab with asms := s.fab.asms.filter (· != x) } } p (y.data.take p.arg)
    else { s with fab := { s.fab with asms := s.fab.asms.map fun z => if z = x then y else z } }

/-- Send a page in answer to a GET, then the ACK (R462). -/
def serveGet (s : State) (p : Packet) (key : Option Nat) : State :=
  let q := p.dstQpn
  let e := s.loc p.cpn
  let s := match key with
    | some k => keyDown s k
    | none => s
  if e.state = .poisoned then answer s p 10
  else if storeBad s (pageStore s p.cpn) 0 frameBytes then answer (poisonRead s p.cpn (pageStore s p.cpn) false) p 10
  else
    let d : Packet := { ptype := .getData, dstDev := p.srcDev, dstPt := p.framePt, dstQpn := p.srcQpn, srcQpn := q, psn := p.psn }
    answer (sendQp s q (segPkts d (pageBytes s p.cpn))) p 0

/-- A wait hint: the Bellows' estimate, between 1 and 65,535 µs. [DEDUCED, log 72] -/
def odpHint (s : State) : Nat × State :=
  let d := draw s
  (1 + d.1 % 65535, d.2)

/-- ODP_HOLD_US of a partition. -/
def odpHoldNs (s : State) (pt : Nat) : Nat := bits (s.reg pgFab 0x22C pt) 0 16 * 1000

/-- A GET_REQ past step 5 (steps 7 to 14). [DEDUCED, log 72] -/
def getBegin (s : State) (p : Packet) (again : Bool) : State :=
  match keyCheck s p.dstQpn p.arg p.cpn false with
  | .error a => answer s p a
  | .ok i =>
    let e := s.loc p.cpn
    if e.state = .free ∨ e.state = .retired ∨ effState e = .staging ∨ (e.state ≠ .poisoned ∧ ¬ fullPage s p.cpn) then answer s p 8
    else if e.state = .poisoned then answer s p 10
    else if warmHeld s p.cpn then answer s p 8
    else if upper e then serveGet s p none
    else
      let pt := (s.qp p.dstQpn).pt
      let until_ := s.time + odpHoldNs s pt
      let s := callUp s p.cpn 0 0 (some until_)
      if 256 ≤ s.fab.holds.length ∨ again then
        let h := odpHint (count s pgFab 5 pt)
        answer h.2 p 7 h.1
      else
        let h : OdpHold := { qpn := p.dstQpn, psn := p.psn, cpn := p.cpn, key := i, until_ := until_, pkt := p }
        keyUp (count { s with fab := { s.fab with holds := s.fab.holds ++ [h] } } pgFab 4 pt) i

/-- A duplicate (R452): answered again from ANS_LOG; a GET_REQ logged OK is served again from the page as it now stands; one not yet
answered is dropped. [DEDUCED, log 71] -/
def duplicate (s : State) (p : Packet) : State :=
  let c := s.qp p.dstQpn
  let a := lget c.ansLog (psnBack c p.psn - 1) 0
  if a = 15 then s
  else if a = 0 ∧ p.ptype = .getReq then getBegin s p true
  else sendAns s p a 0

/-- The first packet of a request, steps 5 on. [DEDUCED, log 71] -/
def requestBegin (s : State) (p : Packet) : State :=
  let c := s.qp p.dstQpn
  if p.psn = c.expPsn then
    let s := acceptPsn s p.dstQpn
    match p.ptype with
    | .put => putBegin s p
    | .send => sendBegin s p
    | _ => getBegin s p false
  else if psnBack c p.psn ≤ 16 then duplicate s p
  else sendAns s p 2 0

/-- Steps 3 on, for a pair whose context is at hand and that no hold stops. A packet of no transfer that is not a first one belongs
to a refused transfer and is discarded. -/
def targetRun (s : State) (p : Packet) : State :=
  let c := s.qp p.dstQpn
  let s := s.setQp p.dstQpn fun c => { c with pktsRx := (c.pktsRx + 1) % 2 ^ 64 }
  if c.state ≠ .ready ∨ c.pt ≠ p.dstPt then (if p.seg = 0 then sendAns s p 3 0 else s)
  else if p.srcDev ≠ c.peerDev ∨ p.srcQpn ≠ c.peerQpn ∨ p.framePt ≠ c.peerPt then (if p.seg = 0 then sendAns s p 4 0 else s)
  else if p.seg = 0 then requestBegin s p
  else
    match s.fab.asms.find? fun a => a.qpn == p.dstQpn && a.psn == p.psn with
    | some x => asmMore s p x
    | none => s

/-- A packet enters the miss buffer of 512; a full one is answered BUSY, with the discards of R454. [DEDUCED, log 22; DEDUCED, log 71] -/
def missPush (s : State) (p : Packet) : State :=
  if capRoom s p.dstPt 512 1 (fun x => (s.fab.miss.filter fun m => m.2.dstPt == x).length) then { s with fab := { s.fab with miss := s.fab.miss ++ [(p.dstQpn, p)] } }
  else
    let keep := fun (m : Nat × Packet) => m.1 != p.dstQpn || decide (2 ^ 23 ≤ subMod m.2.psn p.psn 24)
    let s := { s with fab := { s.fab with miss := s.fab.miss.filter keep } }
    sendAns (count s pgFab 3 ((qpnOwner s p.dstQpn).getD 15)) p 1 0

/-- A request packet at the target: steps 1 and 2 (R466), a scrubbed partition (R494), and R462's order behind a held GET. -/
def targetPkt (s : State) (p : Packet) : State :=
  let q := p.dstQpn
  match qpnOwner s q with
  | none => if p.seg = 0 then sendAns s p 3 0 else s
  | some pt =>
    if (s.part pt).state = .scrubbing then (if p.seg = 0 then sendAns s p 3 0 else s)
    else if ¬ s.fab.cached.contains q then missPush (fetchQp s q pt) p
    else if s.fab.holds.any (fun h => h.qpn == q) ∨ s.fab.miss.any (fun m => m.1 == q) then missPush s p
    else targetRun s p

/-- The buffered packets of a pair are processed in arrival order; a hold stops the later ones again. [DEDUCED, log 71] -/
def drainMiss (s : State) (q : Nat) : State :=
  let ps := (s.fab.miss.filter fun m => m.1 == q).map (·.2)
  let s := { s with fab := { s.fab with miss := s.fab.miss.filter fun m => m.1 != q } }
  ps.foldl targetPkt s

/-- QPC_FETCH_DONE (R454). -/
def qpcFetched (s : State) (q : Nat) : State :=
  if ¬ s.fab.fetching.contains q then s
  else structAccess s ((qpcTable s).1 + 64 * q) 64 fun s => drainMiss (cacheQp s q) q

def execQpcFetchDone (qpn : Nat) (s : State) : Host.Outcome State Fault Refusal :=
  .next (if s.boot.fatal then s else qpcFetched s qpn)

def execPktSendRx (port : Nat) (pkt : Packet) (s : State) : Host.Outcome State Fault Refusal :=
  .next (if mine s pkt ∧ pkt.ptype = .send then targetPkt (delivered s port pkt) pkt else s)

def execPktPutRx (port : Nat) (pkt : Packet) (s : State) : Host.Outcome State Fault Refusal :=
  .next (if mine s pkt ∧ pkt.ptype = .put then targetPkt (delivered s port pkt) pkt else s)

def execPktGetReqRx (port : Nat) (pkt : Packet) (s : State) : Host.Outcome State Fault Refusal :=
  .next (if mine s pkt ∧ pkt.ptype = .getReq then targetPkt (delivered s port pkt) pkt else s)

/-! ### Holds (R462) -/

/-- A held GET ends: what waited behind it is processed. [DEDUCED, log 72] -/
def endHold (s : State) (h : OdpHold) (f : State → State) : State :=
  drainMiss (f { s with fab := { s.fab with holds := s.fab.holds.filter (· != h) } }) h.qpn

/-- The page of held GETs has come to T0 or T1, or is gone: they are served. [DEDUCED, log 72] -/
def serveHolds (s : State) (cpn : Nat) : State :=
  (s.fab.holds.filter fun h => h.cpn == cpn).foldl (fun s h =>
    let e := s.loc cpn
    if (pageLive e && upper e) || e.state == .poisoned then endHold s h fun s => serveGet s h.pkt (some h.key)
    else if pageLive e then s
    else endHold s h fun s => answer (keyDown s h.key) h.pkt 8) s

/-- ODP_HOLD_EXPIRE: RETRY with the hint, unless the page has come. [DEDUCED, log 72] -/
def holdExpired (s : State) (q psn : Nat) : State :=
  match s.fab.holds.find? fun h => h.qpn == q && h.psn == psn with
  | none => s
  | some h =>
    let s := serveHolds (s.reach h.until_) h.cpn
    if s.fab.holds.contains h then
      endHold s h fun s =>
        let x := odpHint (count s pgFab 5 (s.qp q).pt)
        answer (keyDown x.2 h.key) h.pkt 7 x.1
    else s

def execOdpHoldExpire (qpn psn : Nat) (s : State) : Host.Outcome State Fault Refusal :=
  .next (if s.boot.fatal then s else holdExpired s qpn psn)

/-! ### Landing (R459, R461) -/

/-- The unbroken run of landed pages of window layer i. -/
def landedRun (k : Key) (i : Nat) : Nat :=
  ((List.range k.span).takeWhile fun p => k.landed.contains (k.cpn + i * k.span + p)).length

/-- The layer's PTEs and counts after a landing. [DEDUCED, log 73] -/
def settleRun (s : State) (k : Key) (i tpp : Nat) : State :=
  let run := landedRun k i
  let s := addChunks (s.setRow k.seq (k.layerFirst + i) fun r =>
    { r with ptes := (List.range run).map (fun p => { cpn := k.cpn + i * k.span + p, fill := tpp }), tokens := tpp * run }) k.seq (k.layerFirst + i)
  s.setCtx k.seq fun c => { c with length := max c.length (tpp * run) }

/-- Write a page that has come whole into its frame, its header rewritten for the landing CPN; its EPOCH is the GET's, or the current one for a PUT
(R95). [DEDUCED, log 73] -/
def landWrite (s : State) (k : Key) (cpn frame epoch : Nat) (data : List Byte) : State :=
  let i := (cpn - k.cpn) / max k.span 1
  let p := (cpn - k.cpn) % max k.span 1
  let tpp := ((tget s.dep.cfg.profiles (s.ctx k.seq).profile).map Profile.tpp).getD 0
  let d := padTo frameBytes data
  let d := poke d 4 (toLe 5 cpn ++ toLe 1 (k.layerFirst + i) ++ toLe 2 (s.ctx k.seq).profile ++ toLe 3 k.seq)
  let d := poke (poke d 16 (toLe 4 (p * tpp))) 32 (toLe 2 epoch)
  storeWrite s k.owner (storeOf s k.owner .t1 frame) 0 d

/-- The landed page is RESIDENT, its PTE installed (R459); a mute copy is to be built (R283), a hinted page demoted (R268). [DEDUCED, log 73] -/
def landPage (s : State) (i : Nat) (cpn frame : Nat) : State :=
  let s := s.setLoc cpn fun _ => { tier := .t1, state := .resident, addr := frame, refcnt := 1 }
  let s := { s with blw := { s.blw with t1 := tset s.blw.t1 frame (.page cpn) } }
  let s := s.setKey i fun k => { k with landed := k.landed ++ [cpn] }
  let k := s.key i
  match tget s.dep.cfg.profiles (s.ctx k.seq).profile with
  | none => s
  | some p =>
    let s := settleRun s k ((cpn - k.cpn) / max k.span 1) p.tpp
    let s := if p.mute then (queueMove s { cpn := cpn, kind := .mute, cls := 8, seq := 0, home := homeTile s k.seq }).1 else s
    tierHint s k.seq cpn

/-- PUT_LANDED: the write of a whole page is confirmed, or has failed (R461, R466). A page that a GET brought whose header the bound profile
refuses does not land. [DEDUCED, log 72] -/
def putLanded (s : State) (cpn : Nat) (ok : Bool) : State :=
  match s.fab.asms.find? fun a => a.isPut && a.ok && a.complete && a.cpn == cpn with
  | some x =>
    let s := { s with fab := { s.fab with asms := s.fab.asms.filter (· != x) } }
    let c := s.qp x.qpn
    let p : Packet := { ptype := .put, dstPt := c.pt, dstQpn := x.qpn, srcDev := c.peerDev, framePt := c.peerPt, srcQpn := c.peerQpn,
                        psn := x.psn }
    if ok then answer (keyDown (landPage (landWrite s (s.key x.key) cpn x.frame s.dep.epoch x.data) x.key cpn x.frame) x.key) p 0
    else answer (keyDown (releaseFrame s c.pt .t1 x.frame) x.key) p 11
  | none =>
    match s.fab.gets.find? (fun g => g.whole && !g.landed && xferResult s g.acc == cpn), windowKey s cpn with
    | some g, some (i, k) =>
      if ¬ headerOk s k (g.data.take 256) then endReq s g.qpn g.acc (failWith .format)
      else if ok then
        settleGet (modGet (landPage (landWrite s k cpn g.frame (((s.node g.acc).map (·.hdr.epoch)).getD s.dep.epoch) g.data) i cpn g.frame) g.acc fun g => { g with landed := true }) g.acc
      else endReq s g.qpn g.acc (failWith .nospace 0 11)
    | some g, none => endReq s g.qpn g.acc (failWith .revoked)
    | none, _ => s

def execPutLanded (cpn : Nat) (ok : Bool) (s : State) : Host.Outcome State Fault Refusal :=
  .next (if s.boot.fatal then s else putLanded s cpn ok)

/-- PKT_GET_DATA_RX: a packet of a page that this device asked for. -/
def getDataRx (s : State) (p : Packet) : State :=
  let q := p.dstQpn
  let s := s.setQp q fun c => { c with pktsRx := (c.pktsRx + 1) % 2 ^ 64 }
  match (s.qp q).reqs.find? fun r => r.psn == p.psn with
  | none => s
  | some r => modGet s r.acc fun g =>
    if g.whole ∨ p.seg ≠ g.data.length / 4096 then (if p.seg = 0 ∧ ¬ g.whole then { g with data := p.data } else g)
    else { g with data := g.data ++ p.data, whole := p.last }

def execPktGetDataRx (port : Nat) (pkt : Packet) (s : State) : Host.Outcome State Fault Refusal :=
  .next (if mine s pkt ∧ pkt.ptype = .getData then getDataRx (delivered s port pkt) pkt else s)

/-! ### Keys -/

/-- An ascending run of n CPNs for a window: the next numbers, or freed ones (R457). -/
def cpnRun (s : State) (pt n : Nat) : Option (Nat × State) :=
  let b := lget s.seq.nextCpn pt 0
  if b + n ≤ 2 ^ 37 then
    some (pt * 2 ^ 37 + b, { s with seq := { s.seq with nextCpn := lset s.seq.nextCpn pt (b + n) } })
  else
    let freed := lget s.seq.freed pt []
    let run := fun (c : Nat) => (List.range n).all fun i => freed.contains (c + i) && !cpnTaken s (c + i)
    (freed.find? run).map fun c =>
      (c, { s with seq := { s.seq with freed := lmod s.seq.freed pt fun l => l.filter fun x => !decide (c ≤ x ∧ x < c + n) } })

/-- WRITE keys a partition holds. -/
def writeKeys (s : State) (pt : Nat) : Nat := (s.fab.keys.filter fun k => k.2.state != .free && k.2.write && k.2.owner == pt).length

/-- Error 3 of R458. -/
def windowBad (s : State) (pt : Nat) (k : Key) : Bool :=
  let c := s.ctx k.seq
  c.state != .open_ || c.pt != pt || c.warmTarget || decide (c.layers < k.layerFirst + k.layers)
    || ((List.range k.layers).any fun i => decide ((s.row k.seq (k.layerFirst + i)).tokens ≠ 0))
    || c.lockOwner.isSome || windowBinds s k.seq

/-- The cause that a creation fails with, 0 for none (R458). -/
def keyErr (s : State) (pt : Nat) (k : Key) : Nat :=
  if pdPt s k.pd ≠ some pt then 1
  else if ¬ k.write then
    (if k.span = 0 ∨ cpnPt k.cpn ≠ pt ∨ cpnPt (k.cpn + k.span - 1) ≠ pt then 2 else 0)
  else if windowBad s pt k then 3
  else if k.span < 1 ∨ 15360 < k.span ∨ 65536 < k.layers * k.span then 4
  else if 64 ≤ writeKeys s pt ∨ (cpnRun s pt (k.layers * k.span)).isNone then 5
  else 0

/-- KEY_CREATE (R457, R458). -/
def keyCreate (s : State) (rq : Requester) : State :=
  let i := keySel s
  let k := s.key i
  if ¬ maySelectKey s rq then s
  else if k.state ≠ .free then logErr s pgFab 0x06 0 0x278 0 rq
  else
    let e := keyErr s rq.pt k
    if e ≠ 0 then s.setKey i fun k => { k with err := e }
    else
      let d := draw s
      let r := if k.write then cpnRun d.2 rq.pt (k.layers * k.span) else some (k.cpn, d.2)
      match r with
      | none => s
      | some (base, s) => s.setKey i fun k =>
        { k with state := .valid, owner := rq.pt, err := 0, gen := (k.gen + 1) % 256, check := d.1 % 4096, cpn := base, inflight := 0,
                 landed := [] }

def execKeyCreate (req : Requester) (s : State) : Host.Outcome State Fault Refusal :=
  .next (guarded s req pgFab 0x278 fun s => keyCreate s req)

/-- KEY_REVOKE: the first phase (R467). -/
def keyRevoke (s : State) (rq : Requester) : State :=
  if ¬ maySelectKey s rq then s
  else if (s.key (keySel s)).state ≠ .valid then logErr s pgFab 0x06 0 0x278 0 rq
  else s.setKey (keySel s) fun k => { k with state := .revoking }

def execKeyRevoke (req : Requester) (s : State) : Host.Outcome State Fault Refusal :=
  .next (guarded s req pgFab 0x278 fun s => keyRevoke s req)

/-- R459 at the end of a revocation: unlanded CPNs are free, landed ones beyond their layer's run go, the lock is released. [DEDUCED, log 73] -/
def settleWindow (s : State) (k : Key) : State :=
  let cpns := (List.range (k.layers * k.span)).map (k.cpn + ·)
  let un := cpns.filter fun c => !k.landed.contains c
  let s := { s with seq := { s.seq with freed := lmod s.seq.freed k.owner (· ++ un) } }
  (cpns.filter fun c => k.landed.contains c && decide (landedRun k ((c - k.cpn) / max k.span 1) ≤ (c - k.cpn) % max k.span 1)).foldl
    (fun s c => dropRef s c) s

/-- The second phase (R467): with INFLIGHT 0 the key is FREE and KEY_DONE is raised. -/
def keyRevoked (s : State) (i : Nat) : State :=
  let k := s.key i
  if k.state ≠ .revoking ∨ k.inflight ≠ 0 then s
  else
    let s := if k.write then settleWindow s k else s
    setIrq (s.setKey i fun k => { gen := k.gen, ptr := k.ptr }) pgFab 9

def execKeyRevokeDone (key : Nat) (s : State) : Host.Outcome State Fault Refusal :=
  .next (if s.boot.fatal then s else keyRevoked s key)

end Sys2Proof.Machine
end

