-- ==== Sys2Proof/Machine/Moves.lean ====
section
/-!
DEFINITION. Moves of pages between tiers (R272, R275 to R284, R313, R314): the start, the copy of blocks, the switch, cancellation,
the release of the source; and the outcomes of a tier's reads and writes as a move sees them (R277, R332).
-/

namespace Sys2Proof.Machine

/-! ### Ends of moves -/

/-- Does nothing name the page any more (R93)? -/
def unneeded (e : Loc) : Bool := e.refcnt == 0 && !e.published

/-- A move has ended: flushes held for its page run (R108), held GETs are served (R462). [DEDUCED, log 44] -/
def afterMove (s : State) (cpn : Nat) : State :=
  let tail := fun (k : Nat) => ((s.row (k / 256) (k % 256)).ptes.getLast?).any fun p => p.cpn == cpn
  let s := (s.seq.heldFlush.filter fun k => tail k.1).foldl (fun s k => (selfFlush s (k.1 / 256) (k.1 % 256) k.2).getD s) s
  serveHolds (wakeHands s (cpnPt cpn)) cpn

/-- A SHARED-RO page with one reference left that could not be STAGING before its move ended settles now (R106, R107). -/
def settleAfter (s : State) (cpn : Nat) : State :=
  let e := s.loc cpn
  if e.state = .sharedRo ∧ e.refcnt = 1 ∧ ¬ e.published then settleRef s cpn else s

/-- A move ends without its switch: the destination goes back, and the page stands as before, or is FREE if R93 holds. -/
def stopMove (s : State) (cpn : Nat) : State :=
  match moveOf s cpn with
  | none => s
  | some m =>
    let s := endMove s cpn
    let s := match m.kind with
      | .evacMute => s
      | _ => s.setLoc cpn fun e => if e.state = .moving then { e with state := e.ret } else e
    let s := match m.heldFill with
      | some f => if unneeded (s.loc cpn) then s else headerFill s cpn f
      | none => s
    let s := if m.clearHeld ∧ ¬ unneeded (s.loc cpn) then clearWarmHeld s cpn else s
    let s := if unneeded (s.loc cpn) ∧ (s.loc cpn).state ≠ .free then freeNow s cpn m.zero else s
    afterMove (settleAfter s cpn) cpn

/-- A cancelled move. -/
def cancelMove (s : State) (cpn : Nat) : State := stopMove (count s pgBlw 5 (cpnPt cpn)) cpn

def isLeaf : MoveKind → Bool
  | .leaf _ => true
  | _ => false

/-- A move of a page or of a leaf ends where it stands. -/
def endAny (s : State) (key : Nat) : State := if 2 ^ 40 ≤ key then leafChange s (key - 2 ^ 40) else stopMove s key

/-- A destination write failed (R107, R277): the source stays; with a media fault the destination frame is retired. -/
def failMove (s : State) (cpn : Nat) (media : Bool) : State :=
  match moveOf s cpn with
  | none => s
  | some m =>
    if media ∧ m.kind.dest = .t3 then endAny (retireAt s (cpnPt cpn) .t3 m.dst) cpn
    else
      let s := endAny s cpn
      if media then retireAt s (cpnPt cpn) m.kind.dest m.dst else s

/-! ### The start (R275 steps 1 and 2) -/

/-- R272 with R23: does request x go before y? Deadline moves go by deadline, then by acceptance; the others in the order of queueing. -/
def reqBefore (x y : MoveReq) : Bool :=
  if x.cls ≠ y.cls then decide (x.cls < y.cls)
  else if x.cls = 3 then
    match x.deadline, y.deadline with
    | some a, some b => decide (a < b) || (a == b && accLe x.seq y.seq)
    | some _, none => true
    | none, some _ => false
    | none, none => accLe x.seq y.seq
  else decide (x.ord ≤ y.ord)

/-- The CXL port of a T2 place, and the host port of TH. -/
def movePort (s : State) (pt : Nat) (t : Tier) (addr : Nat) : Option (Nat × Nat) :=
  match t with
  | .t2 =>
    (if bit addr 47 then regionPlace s (bits addr 27 20) (bits addr 0 27 * frameBytes)
      else spillPlace s pt (bits addr 32 15) (bits addr 0 32)).map fun p => (p.1, p.2.1)
  | _ => none

/-- Moves that use a CXL port or the host port of a partition (R272). -/
def cxlMoves (s : State) (port : Nat) : Nat :=
  (s.blw.moves.filter fun m =>
    ((movePort s (movePt m.1) m.2.srcTier m.2.srcAddr).any fun p => p.1 == port)
      || ((movePort s (movePt m.1) m.2.kind.dest m.2.dst).any fun p => p.1 == port)).length
def hostMoves (s : State) (port : Nat) : Nat :=
  (s.blw.moves.filter fun m => (m.2.srcTier == .th || m.2.kind.dest == .th) && thPort s (movePt m.1) == port).length

/-- May a move that touches a place start under the port limits (R272)? -/
def placeRoom (s : State) (pt : Nat) (t : Tier) (addr : Nat) : Bool :=
  match t with
  | .t2 =>
    match movePort s pt .t2 addr with
    | some p => decide (cxlMoves s p.1 < 64)
    | none => true
  | .th => decide (hostMoves s (thPort s pt) < 32 ∧ (s.link (thPort s pt)).reads.length ≤ 1008)
  | _ => true

/-- The place a request's move reads. -/
def reqSource (s : State) (r : MoveReq) : Tier × Nat :=
  match r.kind with
  | .evacMute => (.t1, (s.loc r.cpn).mute.getD 0)
  | _ => ((s.loc r.cpn).tier, (s.loc r.cpn).addr)

/-- Must what a T1 frame holds leave it: to be retired (R288), or taken from its partition by the map (R272)? [DEDUCED, log 55] -/
def mustLeave (s : State) (cpn a : Nat) (retire : Bool) : Bool :=
  if retire then s.blw.condemned.contains a else !bit (pcMask s (cpnPt cpn) (a / 2 ^ 20)) (a % 32)

/-- May a leaf go to T2: every CPN of it FREE, RETIRED or below T1 (R261)? -/
def leafCold (s : State) (n : Nat) : Bool :=
  (s.seq.locs.filter fun e => e.1 / 65536 == n).all fun e => e.2.state == .free || e.2.state == .retired || !upper e.2

/-- May it go now: it is cold, and no entry of it has changed for LEAF_IDLE_MS (R261)? -/
def leafMayGo (s : State) (n : Nat) : Bool :=
  let ms := (blwPolicy s).leafIdleMs
  let f := tgetD s.blw.leaves n {}
  ms != 0 && tmem s.blw.leaves n && !f.inT2 && !f.moving && leafCold s n && decide (f.changed + ms * 1000000 ≤ s.time)

/-- Is the request still to the point? A page to be read must be STAGING, RESIDENT or SHARED-RO; one that already stands in the tier
asked for needs no move, but for a frame to be retired or one that the partition loses. A page that has left its T1 frame needs no
replacement (R288). A region frame is read only by a move to T1 (R313). [DEDUCED, log 55] -/
def reqValid (s : State) (r : MoveReq) : Bool :=
  let e := s.loc r.cpn
  match r.kind with
  | .leaf t2 => if t2 then leafMayGo s r.cpn else (tgetD s.blw.leaves r.cpn {}).inT2
  | .evacMute => (e.mute.any fun a => mustLeave s r.cpn a r.retire) && e.state != .free
  | .mute => [PgState.staging, .resident, .sharedRo].contains e.state && e.mute.isNone
  | .page t =>
    [PgState.staging, .resident, .sharedRo].contains e.state
      && (match t with
        | .t1 => (if e.tier = .t1 then mustLeave s r.cpn e.addr r.retire else !r.retire)
        | .t0 => e.tier == .t1
        | t => e.tier != t)
      && !(t == .t3 && e.state == .staging) && !(inRegion e && t != .t1)

/-- A request that is not to the point, or that starts, leaves the queue. -/
def takeReq (s : State) (r : MoveReq) : State :=
  match r.kind with
  | .evacMute => dropMuteReq s r.cpn
  | .leaf _ => { s with blw := { s.blw with queue := s.blw.queue.filter (· != r) } }
  | _ => dropReq s r.cpn

/-- A mute-copy build of a page that stands below T1 first moves the page there (R257); the build follows its arrival (R283). [DEDUCED, log 60] -/
def firstMove (s : State) (r : MoveReq) : MoveReq :=
  if r.kind = .mute ∧ ¬ upper (s.loc r.cpn) then { r with kind := .page .t1 } else r

/-- Does the request move a page down, so that a full tier drops it (R266, R268)? [DEDUCED, log 58] -/
def reqDrops (r : MoveReq) : Bool := r.cls == 6 || r.cls == 2 || r.cls == 5

/-- Does a downward move into a tier compress (R279)? -/
def moveCompresses (s : State) (pt : Nat) (r : MoveReq) (e : Loc) : Bool :=
  let p := ptPolicy s pt
  match r.kind with
  | .page .t2 => p.compT2 && e.state != .staging
  | .page .t3 => p.compT3 && e.state != .staging
  | _ => false

/-- The page buffers of a drive: 32 of the transfer buffer's 512 (R325). The lowest free one. -/
def freeBuf (d : Drive) : Option Nat := (List.range 32).find? fun b => !(d.xfers.any fun x => x.buf == b)

/-- May the page that has waited longest for a page buffer take one now? -/
def bufReady (d : Drive) (cpn : Nat) : Bool := d.bufWait.head? == some cpn && (freeBuf d).isSome

/-- The sectors that a stored form fills (R279). -/
def pageSectors (compressed : Bool) (clen : Nat) : Nat := if compressed then ceilDiv clen 4096 else 16

/-- The two Reads of a move out of T3 (R331), or its wait for a page buffer. -/
def readFlash (s : State) (np l cpn : Nat) (m : Move) : State :=
  match freeBuf (s.drive np) with
  | none => s.setDrive np fun d => { d with bufWait := d.bufWait ++ [cpn] }
  | some b =>
    let n := pageSectors m.srcCompressed (s.loc cpn).clen
    let s := nvmeSubmit (nvmeSubmit s np m.slice .dataRead cpn l n b) np m.slice .macRead cpn l 0 b
    s.setDrive np fun d => { d with xfers := d.xfers ++ [{ cpn := cpn, slot := l, write := false, buf := b, queue := m.slice, left := 2 }] }

/-- The source's reads leave: a drive's two Reads (R331), a pool read, host reads of 4 KiB. A lost slot is poison at once (R333). -/
def readSource (s : State) (cpn : Nat) (m : Move) : State :=
  let pt := cpnPt cpn
  match m.srcTier with
  | .t3 =>
    let np := bits m.srcAddr 31 4
    let l := bits m.srcAddr 0 31
    if tget (s.drive np).slot l = some 2 ∨ (s.drive np).state ≠ .ready then poisonPage s cpn false else readFlash s np l cpn m
  | .t2 =>
    match movePort s pt .t2 m.srcAddr with
    | none => poisonPage s cpn false
    | some (port, ext) =>
      if ((s.cport port).exts[ext]?).any (fun e => e.draining) ∨ (s.cport port).failed then poisonPage s cpn false
      else
        { s with cxh := { s.cxh with
          reqs := s.cxh.reqs ++ [{ id := s.cxh.idNext, port := port, ext := ext, cpn := cpn, write := false }],
          idNext := s.cxh.idNext + 1 } }
  | .th =>
    if ¬ portActive s (thPort s pt) then poisonPage s cpn false
    else (List.range 16).foldl (fun s k =>
      hostRead s (thPort s pt) 2 pt false (thFrameAddr s pt m.srcAddr + 4096 * k) 4096 (.movePage cpn)) s
  | _ => s

/-- Start a request whose destination is allocated. [DEDUCED, log 54] -/
def beginMove (s : State) (r : MoveReq) (slice dst : Nat) : State :=
  let e := s.loc r.cpn
  let src := reqSource s r
  let m : Move :=
    { cpn := r.cpn, kind := r.kind, cls := r.cls, slice := slice, srcTier := src.1, srcAddr := src.2,
      srcCompressed := e.compressed && r.kind != .evacMute, dst := dst, compress := moveCompresses s (cpnPt r.cpn) r e, retire := r.retire,
      deadline := if r.cls = 3 then r.deadline else none, home := r.home }
  let s := takeReq s r
  let s := { s with blw := { s.blw with moves := tset s.blw.moves r.cpn m } }
  let s := match r.kind with
    | .evacMute => s
    | _ => s.setLoc r.cpn fun e => { e with ret := e.state, state := .moving }
  match r.kind with
  | .page _ => readSource s r.cpn m
  | _ => s

/-- The first of 16 spill frames of one extent, one behind the other, that are free: 1 MiB for a leaf (R261). [DEDUCED, log 59] -/
def leafRoom (s : State) (n : Nat) : Option Nat :=
  let es := sortBy ((spillExts s (leafPt n)).filter fun e => extUsable s e.1 e.2) fun a b => decide (a.2.rbase ≤ b.2.rbase)
  es.findSome? fun e =>
    ((List.range (e.2.size * 996 / 16)).find? fun k =>
      (leafFrames n (e.2.rbase * 2 ^ 32 + 16 * k)).all fun a => !tmem s.blw.t2 a).map fun k => e.2.rbase * 2 ^ 32 + 16 * k

/-- Start a leaf's move: its directory entry is MOVING, and a move down takes its spill frames (R261). Its place in T1 is an address left open. [DEDUCED, log 59] -/
def beginLeaf (s : State) (r : MoveReq) (toT2 : Bool) (slice dst : Nat) : State :=
  let n := r.cpn
  let f := tgetD s.blw.leaves n {}
  let m : Move :=
    { cpn := leafKey n, kind := .leaf toT2, cls := r.cls, slice := slice, srcTier := if toT2 then .t1 else .t2, srcAddr := f.addr, dst := dst,
      deadline := r.deadline }
  let t2 := if toT2 then (leafFrames n dst).foldl (fun t a => tset t a (.leaf n)) s.blw.t2 else s.blw.t2
  let s := takeReq s r
  { s with blw := { s.blw with moves := tset s.blw.moves (leafKey n) m, leaves := tset s.blw.leaves n { f with moving := true }, t2 := t2 } }

/-- Try to start a leaf's move. [DEDUCED, log 59] -/
def tryLeaf (s : State) (slice : Nat) (r : MoveReq) (toT2 : Bool) : Option State :=
  let pt := leafPt r.cpn
  if (tgetD s.blw.leaves r.cpn {}).moving then none
  else if ¬ reqValid s r then some (takeReq s r)
  else if ckptRuns s pt ∨ sweeping s pt 2 then none
  else if toT2 then (leafRoom s r.cpn).map (beginLeaf s r true slice)
  else
    let d := draw s
    some (beginLeaf d.2 r false slice (d.1 % 2 ^ 20 * 2 ^ 20))

/-- May a slice start one more move of a partition: 256 at once, of which a strict one holds an eighth (R272, R477)? -/
def sliceRoom (s : State) (pt slice : Nat) : Bool :=
  capRoom s pt 256 1 fun p => (s.blw.moves.filter fun m => m.2.slice == slice && movePt m.1 == p).length

/-- Try to start a request. None where it must wait; one whose page moves waits for the end of that move. [DEDUCED, log 58] -/
def tryMove (s : State) (slice : Nat) (r : MoveReq) : Option State :=
  let r := firstMove s r
  let pt := cpnPt r.cpn
  let src := reqSource s r
  match r.kind with
  | .leaf toT2 => tryLeaf s slice r toT2
  | k =>
    if tmem s.blw.leaving r.cpn ∨ (moveOf s r.cpn).isSome then none
    else if ¬ reqValid s r then some (takeReq s r)
    else if ckptRuns s pt ∨ ¬ sliceRoom s pt slice ∨ ¬ placeRoom s pt src.1 src.2 ∨ sweeping s pt (sweepCode k.dest) then none
    else
      let u := match k with
        | .mute | .evacMute => FrameUse.mute r.cpn
        | _ => .page r.cpn
      match tierAlloc s pt k.dest r.home u with
      | none => if reqDrops r then some (count (takeReq s r) pgBlw 2 pt) else none
      | some (dst, t) =>
        if ¬ placeRoom s pt k.dest dst then none
        else
          let u := beginMove t r slice dst
          match (leavesMet s u).filter fun n => !leafComes s n with
          | [] => if (leavesMet s u).isEmpty then some u else none
          | ls => some (callLeaves s ls r.seq r.deadline)

/-- The slice's queued requests in the order of their classes. -/
def sliceQueue (s : State) (slice : Nat) : List MoveReq := sortBy (s.blw.queue.filter fun r => sliceOf s r == slice) reqBefore

/-- MOVE_START: the first request in order that can start, of the partitions that compete in the cycle (R531, R532). -/
def moveStart (s : State) (slice : Nat) : State :=
  let q := sliceQueue s slice
  let v := serveCycle s (4 + slice) ((q.filter fun r => (tryMove s slice r).isSome).map (·.pt))
  ((q.filter fun r => ptCompetes s v.1 r.pt).findSome? (tryMove v.2 slice)).getD s

def execMoveStart (slice : Nat) (s : State) : Host.Outcome State Fault Refusal :=
  .next (if s.boot.fatal then s else moveStart s slice)

/-! ### The copy (R275 step 3) -/

/-- Do the source's reads still run? -/
def sourceWaits (s : State) (cpn : Nat) : Bool :=
  s.cxh.reqs.any (fun r => r.cpn == cpn && !r.write)
    || s.jlk.any (fun l => l.reads.any fun r => r.use == .movePage cpn)
    || s.nvh.drives.any (fun d => d.bufWait.contains cpn || d.xfers.any fun x => x.cpn == cpn && !x.write)

/-- What the stored form names itself by: the CPN, or a region frame's number (R313). -/
def sourceIdent (cpn : Nat) (m : Move) : Nat := if m.srcTier = .t2 ∧ bit m.srcAddr 47 then bits m.srcAddr 0 27 else cpn

/-- The whole page as the source holds it; none where it is malformed or its header names another page (R282, R313). -/
def sourcePage (s : State) (cpn : Nat) (m : Move) : Option (List Byte) :=
  let st := storeOf s (cpnPt cpn) m.srcTier m.srcAddr
  match wholePage s st m.srcCompressed (sourceIdent cpn m) with
  | none => none
  | some b =>
    if m.srcCompressed ∨ field b 4 5 = sourceIdent cpn m then
      some (if sourceIdent cpn m = cpn then b else poke b 4 (toLe 5 cpn))
    else none

/-- Build a page's mute copy in its frame, from the primary in T1 (R97, R283). [DEDUCED, log 60] -/
def buildMute (s : State) (cpn dst home : Nat) : State :=
  let st := pageStore s cpn
  match pageProfile s cpn with
  | none => s
  | some p =>
    let pt := cpnPt cpn
    let ms := storeOf s pt .t1 dst
    let fill := hdrFill s st
    let seq := hdrField s st 12 3
    let layer := hdrField s st 9 1
    let pos := hdrField s st 16 4
    let s := storeWrite (hbmZero s (hbmFrame (dst / 2 ^ 20) (dst % 2 ^ 20)) frameBytes) pt ms 0
      (pageHeader p.mutePart (hdrField s st 10 2) cpn layer seq (hdrFlagsOf true (bit (hdrFlags s st) 1) false (bit (hdrFlags s st) 3)) pos
        fill (hdrField s st 32 2))
    muteRows s home pt st ms p (ptSeed s pt) seq layer 0 pos fill

/-- The write of the destination once the whole page is copied: the compressed form where it fits (R279). -/
def writeDest (s : State) (cpn : Nat) (m : Move) (page : List Byte) : State :=
  let pt := cpnPt cpn
  let st := storeOf s pt m.kind.dest m.dst
  let packed := if m.compress then (pageProfile s cpn).bind fun p => packPage p cpn page else none
  match packed with
  | some bs => setMove (storeWrite s pt st 0 bs) cpn fun m => { m with clen := bs.length }
  | none => setMove (storeWrite s pt st 0 page) cpn fun m => { m with compress := false }

/-- The destination's writes leave: the pool write, the drive's data and MAC writes (R330). -/
def confirmDest (s : State) (cpn : Nat) (m : Move) : State :=
  let pt := cpnPt cpn
  match m.kind with
  | .page .t2 =>
    match movePort s pt .t2 m.dst with
    | none => failMove s cpn false
    | some (port, ext) =>
      if ((s.cport port).exts[ext]?).any (fun e => e.draining) ∨ (s.cport port).failed then failMove s cpn false
      else
        { s with cxh := { s.cxh with
          reqs := s.cxh.reqs ++ [{ id := s.cxh.idNext, port := port, ext := ext, cpn := cpn, write := true }],
          idNext := s.cxh.idNext + 1 } }
  | .page .t3 =>
    let np := bits m.dst 31 4
    let l := bits m.dst 0 31
    match (s.drive np).xfers.find? fun x => x.cpn == cpn && x.slot == l && x.write with
    | none => s
    | some x =>
      if (s.drive np).state ≠ .ready then failMove s cpn false
      else
        let m := (moveOf s cpn).getD m
        let s := s.setDrive np fun d => { d with xfers := d.xfers.map fun y => if y = x then { y with sent := true } else y }
        let s := nvmeSubmit s np m.slice .dataWrite cpn l (pageSectors m.compress m.clen) x.buf
        if (s.drive np).locks.any fun k => k.1 == l / 16 then
          s.setDrive np fun d => { d with lockWait := d.lockWait ++ [(l / 16, cpn)] }
        else
          let s := s.setDrive np fun d => { d with locks := d.locks ++ [(l / 16, cpn)] }
          nvmeSubmit s np m.slice .macReadForWrite cpn l 0 x.buf
  | _ => s

/-- A move into T3 takes a page buffer of its drive before it copies (step 3 of R275, R325); none where it must wait. -/
def takeBuf (s : State) (cpn : Nat) (m : Move) : Option State :=
  let np := bits m.dst 31 4
  let l := bits m.dst 0 31
  if m.kind.dest ≠ .t3 ∨ (s.drive np).xfers.any (fun x => x.cpn == cpn && x.slot == l && x.write) then some s
  else (freeBuf (s.drive np)).map fun b => s.setDrive np fun d =>
    { d with xfers := d.xfers ++ [{ cpn := cpn, slot := l, write := true, buf := b, queue := m.slice, sent := false, left := 2 }] }

/-- Write one uncompressed block as it is copied. -/
def writeBlock (s : State) (cpn : Nat) (m : Move) : State :=
  storeWrite s (cpnPt cpn) (storeOf s (cpnPt cpn) m.kind.dest m.dst) (m.block * 4096) ((m.page.drop (m.block * 4096)).take 4096)

/-- Copy the next block of a page move. -/
def copyBlock (s : State) (cpn : Nat) (m : Move) : State :=
  if m.compress then
    if m.block + 1 = 16 then
      let s := writeDest s cpn m m.page
      confirmDest (setMove s cpn fun m => { m with block := 16 }) cpn m
    else setMove s cpn fun m => { m with block := m.block + 1 }
  else
    let s := setMove (writeBlock s cpn m) cpn fun m => { m with block := m.block + 1 }
    if m.block + 1 = 16 then confirmDest s cpn m else s

/-- Read the source whole, once its reads have ended; a malformed or poisoned one makes the page POISONED (R277, R282). -/
def loadSource (s : State) (cpn : Nat) (m : Move) : State × Option Move :=
  if ¬ m.page.isEmpty then (s, some m)
  else
    let st := storeOf s (cpnPt cpn) m.srcTier m.srcAddr
    if storeBad s st 0 frameBytes then (poisonRead s cpn st false, none)
    else
      match sourcePage s cpn m with
      | none => (poisonPage s cpn false, none)
      | some b => (setMove s cpn fun m => { m with page := b }, some { m with page := b })

/-- MOVE_BLOCK_DONE. -/
def moveBlock (s : State) (cpn : Nat) : State :=
  match moveOf s cpn with
  | none => s
  | some m =>
    if m.cancel then cancelMove s cpn
    else if m.srcTier = .t3 ∧ bufReady (s.drive (bits m.srcAddr 31 4)) cpn then
      let np := bits m.srcAddr 31 4
      readFlash (s.setDrive np fun d => { d with bufWait := d.bufWait.drop 1 }) np (bits m.srcAddr 0 31) cpn m
    else if 16 ≤ m.block ∨ sourceWaits s cpn then s
    else
      match m.kind with
      | .leaf _ => setMove s cpn fun m => { m with block := m.block + 1 }
      | .mute =>
        if m.block + 1 = 16 then setMove (buildMute s cpn m.dst m.home) cpn fun m => { m with block := 16 }
        else setMove s cpn fun m => { m with block := m.block + 1 }
      | _ =>
        match takeBuf s cpn m with
        | none => s
        | some s =>
          match loadSource s cpn m with
          | (s, none) => s
          | (s, some m) => copyBlock s cpn m

def execMoveBlockDone (cpn : Nat) (s : State) : Host.Outcome State Fault Refusal :=
  .next (if s.boot.fatal then s else moveBlock s cpn)

/-! ### The switch (R275 steps 4 to 6) -/

/-- Are the destination's writes confirmed? -/
def destWaits (s : State) (cpn : Nat) : Bool :=
  s.cxh.reqs.any (fun r => r.cpn == cpn && r.write) || s.nvh.drives.any (fun d => d.xfers.any fun x => x.cpn == cpn && x.write)

/-- Apply the header writes held for the switch (R276) to the copy that survives: a compressed one is stored anew, uncompressed. [DEDUCED, log 79] -/
def applyHeld (s : State) (cpn : Nat) (m : Move) : State :=
  let pt := cpnPt cpn
  let st := pageStore s cpn
  if m.heldFill.isNone ∧ ¬ m.clearHeld then s
  else
    let page := pageBytes s cpn
    let page := match m.heldFill with
      | some f => poke page 20 (toLe 2 f)
      | none => page
    let page := if m.clearHeld then poke page 15 (toLe 1 (setBits (field page 15 1) 3 1 0)) else page
    (storeWrite s pt st 0 page).setLoc cpn fun e => { e with compressed := false, clen := 0 }

/-- The counters of a switched move (R508). -/
def countMove (s : State) (pt : Nat) (m : Move) : State :=
  let s := match m.kind with
    | .page t =>
      if tierRank t < tierRank m.srcTier then count s pgBlw 0 pt
      else if tierRank m.srcTier < tierRank t then count s pgBlw 1 pt
      else s
    | .mute => count s pgBlw 7 pt
    | _ => s
  if m.cls = 3 then
    let s := count s pgBlw 3 pt
    if m.deadline.any fun d => decide (d < s.time) then count s pgBlw 4 pt else s
  else s

/-- A MUTE page that has come to T1 without a mute copy gets one (R283). [DEDUCED, log 60] -/
def wantMute (s : State) (cpn home : Nat) : State :=
  let e := s.loc cpn
  if e.tier = .t1 ∧ e.mute.isNone ∧ ((pageProfile s cpn).any fun p => p.mute) then
    (queueMove s { cpn := cpn, kind := .mute, cls := 8, seq := 0, home := home }).1
  else s

/-- Has a T0 slot been taken from the Bellows since it was chosen: by a reservation, a smaller T0_SLOTS or a map (R270)? -/
def slotGone (s : State) (pt a : Nat) : Bool :=
  decide (a % 256 < (s.tile (a / 256)).reserved ∨ a % 256 + (ptPolicy s pt).t0Slots < 256)
    || !bit (lget s.dep.cfg.pmap.pts pt {}).tiles (a / 256)

/-- The switch of a page move. An evacuation queued for the place that the page has left is dropped (R288). [DEDUCED, log 55] -/
def switchPage (s : State) (cpn : Nat) (m : Move) (t : Tier) : State :=
  let old := s.loc cpn
  let s := { s with blw := { s.blw with moves := tdel s.blw.moves cpn,
                                        leaving := tset s.blw.leaving cpn (m.srcTier, m.srcAddr, m.retire, m.slice) } }
  let s := s.setLoc cpn fun e =>
    { e with tier := t, addr := m.dst, compressed := m.compress, clen := m.clen, state := old.ret, age := if e.age = 0xFE ∧ m.cls ≠ 6 then 0xFE else 0 }
  let gone := t != .t1 && (reqOf s cpn).any (fun r => r.cls == 1) && !(t == .t0 && slotGone s (cpnPt cpn) m.dst)
  let s := if gone then dropReq s cpn else s
  let s := applyHeld s cpn m
  let s := countMove s (cpnPt cpn) m
  let s := if m.srcTier = .t2 ∧ t = .t1 then sampleUse s cpn m.home else s
  afterMove (wantMute (settleAfter s cpn) cpn m.home) cpn

/-- The switch of a leaf's move: its directory entry names the new place, and a leaf back in T1 gives its spill frames free (R261). [DEDUCED, log 59] -/
def leafSwitch (s : State) (n : Nat) (m : Move) : State :=
  let down := m.kind == .leaf true
  let s := { s with blw := { s.blw with moves := tdel s.blw.moves (leafKey n),
                                        leaves := tmod s.blw.leaves n {} fun f => { f with inT2 := down, addr := m.dst, moving := false },
                                        t2 := if down then s.blw.t2 else s.blw.t2.filter fun e => !(e.2 == .leaf n) } }
  wakeHands (countMove s (leafPt n) m) (leafPt n)

/-- MOVE_CONFIRM. [DEDUCED, log 54] -/
def moveConfirm (s : State) (cpn : Nat) (ok media : Bool) : State :=
  match moveOf s cpn with
  | none => s
  | some m =>
    if m.block < 16 ∨ destWaits s cpn then s
    else if ¬ ok then failMove s cpn media
    else if (m.cancel ∨ unneeded (s.loc cpn)) ∧ ¬ isLeaf m.kind then cancelMove s cpn
    else
      match m.kind with
      | .page t => switchPage s cpn m t
      | .mute =>
        let s := { s with blw := { s.blw with moves := tdel s.blw.moves cpn } }
        let s := s.setLoc cpn fun e => { e with mute := some m.dst, state := e.ret }
        let s := applyHeld s cpn m
        let s := if m.clearHeld then setHdrFlag s (cpnPt cpn) (muteStore s cpn) 3 false else s
        afterMove (countMove (settleAfter s cpn) (cpnPt cpn) m) cpn
      | .evacMute =>
        let s := { s with blw := { s.blw with moves := tdel s.blw.moves cpn,
                                              leaving := tset s.blw.leaving cpn (.t1, m.srcAddr, m.retire, m.slice) } }
        let s := s.setLoc cpn fun e => { e with mute := some m.dst }
        let s := if m.clearHeld then setHdrFlag s (cpnPt cpn) (muteStore s cpn) 3 false else s
        afterMove s cpn
      | .leaf _ => leafSwitch s (cpn - 2 ^ 40) m

/-- [DESIGN CHOICE, log 1] -/
def execMoveConfirm (cpn : Nat) (ok media : Bool) (s : State) : Host.Outcome State Fault Refusal :=
  .next (if s.boot.fatal then s else moveConfirm s cpn ok media)

/-- SOURCE_RELEASE: no read that began on the source remains; a frame to be retired is retired (R288). -/
def sourceRelease (s : State) (cpn : Nat) : State :=
  match tget s.blw.leaving cpn with
  | none => s
  | some (t, a, retire, slice) =>
    let s := { s with blw := { s.blw with leaving := tdel s.blw.leaving cpn } }
    if t = .t3 then slotRelease (wakeHands s (cpnPt cpn)) (bits a 31 4) (bits a 0 31) slice
    else if retire ∧ t = .t1 then
      let s := { s with blw := { s.blw with t1 := tdel s.blw.t1 a } }
      retireFrame (wakeHands s (cpnPt cpn)) (a / 2 ^ 20) (a % 2 ^ 20) 0
    else releaseFrame s (cpnPt cpn) t a

def execSourceRelease (cpn : Nat) (s : State) : Host.Outcome State Fault Refusal :=
  .next (if s.boot.fatal then s else sourceRelease s cpn)

/-! ### Poison from a tier -/

/-- A read of a page's source ended badly (R277, R315, R332). -/
def sourceFailed (s : State) (cpn : Nat) (hard : Bool) : State := afterMove (poisonPage s cpn hard) cpn

end Sys2Proof.Machine
end

