-- ==== Sys2Proof/Machine/Pool.lean ====
section
/-!
DEFINITION. The shared CXL pool: regions as the pool's memory holds them (R301 to R304), updates of control lines (R298, R305), OPEN,
PUBLISH, CLOSE and RELEASE with the pool step of PREFIX_PUBLISH (R306 to R311), extents and their release (R299, R315), responses and
port failures (R316), the format of a region (R301, R319), and directory checkpoints (R317, R318).
-/

namespace Sys2Proof.Machine

/-! ### A region's lines (R301 to R304) -/

/-- A number of n bytes of a region. -/
def rget (s : State) (r off n : Nat) : Nat := leNat ((regionRead s r off n).getD (zeros n))
def rput (s : State) (r off n v : Nat) : State := regionWrite s r off (toLe n v)
/-- Does reading a range of a region meet poison? A refused read completes as poison (R315). -/
def rBad (s : State) (r off n : Nat) : Bool := (regionRead s r off n).isNone || regionBad s r off n

def headVersion (s : State) (r : Nat) : Nat := rget s r 16 8
def headRec (s : State) (r : Nat) : Nat := rget s r 12 2 % 4096
def rgnFrames (s : State) (r : Nat) : Nat := rget s r 24 4 % 2 ^ 27
/-- The offset of a version record, and its fields (R303). -/
def recOff (i : Nat) : Nat := 0x10000 + 64 * i
def recVersion (s : State) (r i : Nat) : Nat := rget s r (recOff i) 8
def recState (s : State) (r i : Nat) : Nat := rget s r (recOff i + 16) 1 % 4
def setRecState (s : State) (r i v : Nat) : State := rput s r (recOff i + 16) 1 v
def recReaders (s : State) (r i : Nat) : Nat := rget s r (recOff i + 20) 4
def recTable (s : State) (r i : Nat) : Nat := rget s r (recOff i + 24) 4 % 2 ^ 27
def recTableFrames (s : State) (r i : Nat) : Nat := rget s r (recOff i + 28) 4
/-- Is a record live: STATE = 2, or named by the head line (R303)? -/
def recLive (s : State) (r i : Nat) : Bool := recState s r i == 2 || headRec s r == i
/-- The live record of a version. -/
def findVersion (s : State) (r v : Nat) : Option Nat :=
  (List.range 4096).find? fun i => recLive s r i && recVersion s r i == v

/-- Is a frame's bitmap bit set? -/
def frameSet (s : State) (r f : Nat) : Bool := bit (rget s r (0x50000 + f / 8) 1) (f % 8)
/-- Set or clear the bitmap bits of frames. -/
def setFrames (s : State) (r : Nat) (v : Bool) (fs : List Nat) : State :=
  fs.foldl (fun s f => rput s r (0x50000 + f / 8) 1 (setBits (rget s r (0x50000 + f / 8) 1) (f % 8) 1 (b2n v))) s

/-- An entry of a prefix table (R304). -/
structure TabEntry where
  hash : Nat
  depth : Nat
  profile : Nat
  layers : Nat
  parent : Nat
  fw : Nat
  prof : List Byte
  deriving DecidableEq, Repr

/-- The bytes of a record's table, its entries and its frame words. -/
def tabBytes (s : State) (r i : Nat) : List Byte :=
  (regionRead s r (recTable s r i * frameBytes) (recTableFrames s r i * frameBytes)).getD []
def tabCount (bs : List Byte) : Nat := field bs 12 4
def tabEntry (bs : List Byte) (k : Nat) : TabEntry :=
  let e := (bs.drop (64 + 64 * k)).take 64
  { hash := field e 0 12, depth := field e 12 2, profile := field e 14 2, layers := field e 16 1, parent := field e 20 4,
    fw := field e 24 4, prof := (e.drop 32).take 16 }
def tabEntries (bs : List Byte) : List TabEntry := (List.range (tabCount bs)).map (tabEntry bs)
/-- Frame word k: the region frame and COMPRESSED. -/
def tabFw (bs : List Byte) (k : Nat) : Nat × Bool :=
  let w := field bs (field bs 24 4 + 4 * k) 4
  (w % 2 ^ 27, bit w 31)

/-- Bytes 0 to 15 of a profile's record (R82). -/
def profHead (p : Profile) : List Byte :=
  toLe 1 p.tppLog2 ++ toLe 1 (p.kFmt + p.vFmt * 16) ++ toLe 1 p.kvh ++ toLe 1 p.hdimCode
    ++ toLe 1 (b2n p.rotEn + 2 * b2n p.rotPair + 4 * b2n p.mute + 8 * b2n p.sr) ++ toLe 1 p.kvhBase ++ toLe 2 p.rotDims
    ++ toLe 4 p.rotBase ++ toLe 4 p.rotPosScale

/-! ### Failed regions and updates of control lines (R305, R316) -/

/-- A region is failed on this device. Event 0x41. -/
def failRegion (s : State) (r : Nat) : State :=
  if s.cxh.failed.contains r then s
  else
    let s := { s with cxh := { s.cxh with failed := s.cxh.failed ++ [r] } }
    errEvent s 0x41 4 pgCxh 7 0 0 r ((s.cxh.opens.filter fun o => o.region == r).map (·.pt))

/-- The region-table slot of a region, and the port that carries its extents (R319). -/
def rgnSlot (s : State) (r : Nat) : Option Nat :=
  (List.range 256).find? fun i => bit (s.reg pgCxh 0x224 i) 20 && bits (s.reg pgCxh 0x224 i) 0 20 == r
def rgnPort (s : State) (r : Nat) : Nat := ((rgnSlot s r).map fun i => bits (s.reg pgCxh 0x224 i) 21 1).getD 0

/-- The command that a row of line updates serves. -/
def LineUse.acc : LineUse → Option Nat
  | .openRec a _ | .publish a _ | .closeRec a _ | .releaseRec a _ | .back a _ _ => some a
  | .reopen _ | .tidy => none

/-- The line that an update takes: 0 the head line, then the version records, then the bitmap lines of 512 frames. -/
def LineOp.line : LineOp → Nat
  | .head _ => 0
  | .stage i | .live i | .drop i | .join i | .leave i | .retire i => 1 + i
  | .claim fs | .clear fs => 4097 + fs.headD 0 / 512

/-- Where a line lies in its region (R301). -/
def lineOff (k : Nat) : Nat := if k = 0 then 0 else if k ≤ 4096 then recOff (k - 1) else 0x50000 + 64 * (k - 4097)

/-- Does the command wait for a control line? -/
def lineWaits (s : State) (acc : Nat) : Bool := s.cxh.lines.any fun l => l.use.acc == some acc

/-- May a port hold one more control line (R298)? -/
def lineRoom (s : State) (port : Nat) : Bool := decide ((s.cxh.lines.filter fun l => l.port == port).length < 1024)

/-- Ask for ownership of the line of the first of a row of updates (R305 step 1). -/
def askLines (s : State) (pt r : Nat) (use : LineUse) : List LineOp → State
  | [] => s
  | op :: rest =>
    { s with cxh := { s.cxh with
      lines := s.cxh.lines ++ [{ id := s.cxh.idNext, port := rgnPort s r, region := r, pt := pt, use := use, op := op, rest := rest }],
      idNext := s.cxh.idNext + 1 } }

/-- Ask for ownership of a line for one update. -/
def askLine (s : State) (pt r : Nat) (use : LineUse) (op : LineOp) : State := askLines s pt r use [op]

/-- An update of a control line is counted (R508). -/
def countLine (s : State) (pt : Nat) : State := count s pgCxh 4 pt

/-- Frames by the bitmap line that holds their bits, in order. -/
def byLine (fs : List Nat) : List (List Nat) := (fs.map (· / 512)).eraseDups.map fun k => fs.filter fun f => f / 512 == k

/-- READERS falls by 1, and what follows: a RELEASING record without readers frees its table's frames and is FREE then (R311). -/
def leaveRec (s : State) (r i : Nat) : State × List LineOp :=
  let s := rput s r (recOff i + 20) 4 (recReaders s r i - 1)
  if recState s r i = 3 ∧ recReaders s r i = 0 then
    (s, (byLine ((List.range (recTableFrames s r i)).map (recTable s r i + ·))).map .clear ++ [.drop i])
  else (s, [])

/-- A version that a partition no longer holds is left without a command (R312, R318). -/
def leaveVersion (s : State) (o : OpenVersion) : State := askLine s o.pt o.region .tidy (.leave o.slot)

/-! ### The shape of a REGION command -/

/-- A command on a region: its checks, a failed region, and the state it needs; while it waits for a line it does nothing. -/
def onRegion (s : State) (n : Node) (r : Nat) (f : State → Option OpenVersion → State) : State :=
  if lineWaits s n.acc then s
  else
    match beginCheck s n with
    | some c => finish s n.acc c
    | none =>
      if s.cxh.failed.contains r then finish s n.acc (failWith .poisoned)
      else if ¬ lineRoom s (rgnPort s r) then s
      else f s (openVersion s (ringPt n.ring) r)

/-- Poison in a control line or table: the region is failed and the command completes with POISONED. -/
def regionPoison (s : State) (n : Node) (r : Nat) : State := finish (failRegion s r) n.acc (failWith .poisoned)

/-! ### OPEN (R307, R308) -/

def openStart (s : State) (n : Node) (r v : Nat) (o : Option OpenVersion) : State :=
  if o.isSome then finish s n.acc (invalidAt 16)
  else if rBad s r 0 64 ∨ (v ≠ 0 ∧ rBad s r 0x10000 0x40000) then regionPoison s n r
  else
    match (if v = 0 then some (headRec s r) else findVersion s r v) with
    | none => finish s n.acc (invalidAt 24)
    | some i => askLine s (ringPt n.ring) r (.openRec n.acc i) (.join i)

def execRegionOpen (acc : Nat) (s : State) : Host.Outcome State Fault Refusal :=
  .next (match liveNode s acc with
    | some n =>
      match n.cmd with
      | .region 0 r v _ => if sweeping s (ringPt n.ring) 5 then s else onRegion s n r fun s o => openStart s n r v o
      | _ => s
    | none => s)

/-- Context page numbers for k layers. -/
def allocCpns (s : State) (pt : Nat) : Nat → Option (List Nat × State)
  | 0 => some ([], s)
  | k + 1 =>
    match allocCpn s pt with
    | none => none
    | some (c, s) => (allocCpns s pt k).map fun r => (c :: r.1, r.2)

/-- An import's progress: for each table entry so far its local slot, none where it was skipped; the imported slots; how many
entries were not imported. -/
structure Import where
  map : List (Option Nat) := []
  made : List Nat := []
  skipped : Nat := 0
  deriving DecidableEq, Repr

/-- Pool imports of the layers of an entry (R107): RESIDENT with the version's hold, in region frames. -/
def importPages (s : State) (r : Nat) (fws : List (Nat × Bool)) (cpns : List Nat) : State :=
  (cpns.zip fws).foldl (fun s x => s.setLoc x.1 fun _ =>
    { tier := .t2, state := .resident, compressed := x.2.2, addr := 2 ^ 47 + r * 2 ^ 27 + x.2.1, refcnt := 1 }) s

/-- Import one entry (R308). None where a slot or a CPN is lacking. -/
def importEntry (pt epoch r version : Nat) (bs : List Byte) (acc : State × Import) (k : Nat) : Option (State × Import) :=
  let s := acc.1
  let m := acc.2
  let e := tabEntry bs k
  let parent : Option Nat := if e.parent = 0xFFFFFFFF then some 0x3FFFFFF else lget m.map e.parent none
  match dirFind s pt e.hash e.depth with
  | some i => some (s, { m with map := m.map ++ [some i], skipped := m.skipped + 1 })
  | none =>
    let same := (profileAt s epoch e.profile).any fun p => p.owner == pt && profHead p == e.prof
    match parent, same with
    | some up, true =>
      match takeSlot s pt e.hash (m.map.filterMap id) with
      | none => none
      | some (i, s) =>
        match allocCpns s pt e.layers with
        | none => none
        | some (cpns, s) =>
          let s := importPages s r ((List.range e.layers).map fun l => tabFw bs (e.fw + l)) cpns
          let s := makeLive s i { pt := pt, hash := e.hash, depth := e.depth, parent := up, profile := e.profile, cpns := cpns,
                                  version := version, region := r }
          some (s, { m with map := m.map ++ [some i], made := m.made ++ [i] })
    | _, _ => some (s, { m with map := m.map ++ [none], skipped := m.skipped + 1 })

/-- Import a table: the last state reached, the progress, and whether all entries were done. -/
def importTable (pt epoch r version : Nat) (bs : List Byte) : List Nat → State × Import → State × Import × Bool
  | [], a => (a.1, a.2, true)
  | k :: ks, a =>
    match importEntry pt epoch r version bs a k with
    | none => (a.1, a.2, false)
    | some b => importTable pt epoch r version bs ks b

/-- A version is open for a partition, with the slots its import made. -/
def addOpen (s : State) (o : OpenVersion) : State := { s with cxh := { s.cxh with opens := s.cxh.opens ++ [o] } }
def dropOpen (s : State) (pt r : Nat) : State :=
  { s with cxh := { s.cxh with opens := s.cxh.opens.filter fun o => !(o.pt == pt && o.region == r) } }

/-- READERS + 1, then the import; a shortage undoes the import, and READERS falls by an update of its own. Answer what the command reports. -/
def openRecord (s : State) (pt epoch r i : Nat) : State × Comp :=
  let v := recVersion s r i
  let s := rput s r (recOff i + 20) 4 (recReaders s r i + 1)
  if rBad s r (recTable s r i * frameBytes) (recTableFrames s r i * frameBytes) then (failRegion s r, failWith .poisoned)
  else
    let bs := tabBytes s r i
    let x := importTable pt epoch r v bs (List.range (tabCount bs)) (s, {})
    let s := addOpen x.1 { pt := pt, region := r, version := v, slot := i, imported := x.2.1.made }
    if x.2.2 then (s, { detail0 := x.2.1.skipped, result := v })
    else (dropOpen (x.2.1.made.reverse.foldl reclaim s) pt r, failWith .nospace)

/-! ### CLOSE and RELEASE (R310, R311) -/

/-- Does an issued command other than `acc` hold the region's version: by a reference into it, or as a publication (R239, R310)? -/
def versionHeld (s : State) (pt r acc : Nat) : Bool :=
  s.dep.nodes.any fun e =>
    let n := e.2
    n.issued && n.outcome.isNone && n.acc != acc && ringPt n.ring == pt
      && ((refsOf s n.hdr pt n.cmd).any (fun x => refSpace x.2.1 == 3 && refRegion x.2.1 == r)
        || (match n.cmd with
          | .prefixPublish _ _ true _ q _ => q == r
          | .region 1 q _ _ => q == r
          | _ => false))

/-- The slots of a list, deepest first. -/
def deepestFirst (s : State) (is : List Nat) : List Nat := sortBy is fun a b => decide ((s.slot b).depth ≤ (s.slot a).depth)

/-- The imported entries of a version: idle ones are reclaimed, the others stay as local entries without the hold (R310). -/
def closeImports (s : State) (o : OpenVersion) : State :=
  (deepestFirst s o.imported).foldl (fun s i =>
    if dirIdle (s.slot i) then reclaim s i
    else dropImport ((s.slot i).cpns.foldl (fun s c => dropRef s c) s) i) s

def closeStart (s : State) (n : Node) (r : Nat) (o : Option OpenVersion) : State :=
  match o with
  | none => finish s n.acc (invalidAt 16)
  | some o =>
    if versionHeld s o.pt r n.acc then finish s n.acc (failWith .busy)
    else if rBad s r (recOff o.slot) 64 then regionPoison s n r
    else askLine s o.pt r (.closeRec n.acc o.slot) (.leave o.slot)

def execRegionClose (acc : Nat) (s : State) : Host.Outcome State Fault Refusal :=
  .next (match liveNode s acc with
    | some n =>
      match n.cmd with
      | .region 2 r _ _ => onRegion s n r fun s o => closeStart s n r o
      | _ => s
    | none => s)

def releaseStart (s : State) (n : Node) (r v : Nat) (o : Option OpenVersion) : State :=
  match o with
  | none => finish s n.acc (invalidAt 16)
  | some o =>
    if rBad s r 0 64 ∨ rBad s r 0x10000 0x40000 then regionPoison s n r
    else
      match findVersion s r v with
      | none => finish s n.acc (invalidAt 24)
      | some i =>
        if headRec s r = i then finish s n.acc (invalidAt 24) else askLine s o.pt r (.releaseRec n.acc i) (.retire i)

def execRegionRelease (acc : Nat) (s : State) : Host.Outcome State Fault Refusal :=
  .next (match liveNode s acc with
    | some n =>
      match n.cmd with
      | .region 3 r v _ => onRegion s n r fun s o => releaseStart s n r v o
      | _ => s
    | none => s)

/-! ### PUBLISH (R309) -/

/-- The end of a publication: a PREFIX_PUBLISH gives its lock back and settles its pin (R145, R146). [DEDUCED, log 94] -/
def poolEnd (s : State) (n : Node) (top : Nat) (c : Comp) : State :=
  let s := { s with cxh := { s.cxh with news := tdel s.cxh.news n.acc } }
  match n.cmd with
  | .prefixPublish q _ _ pin _ _ =>
    let s := dropLock s q
    let c := if c.status = .ok then { c with result := handleOf s top } else c
    let mine := fun (p : CamPass) => p.pinSlot == some top && p.pinAcc.isNone
    let set := fun (p : CamPass) => if mine p then { p with pinAcc := some n.acc } else p
    if c.status ≠ .ok ∨ ¬ pin ∨ (s.slot top).pinned then finish s n.acc c
    else if s.chn.banks.any fun b => (b.running.toList ++ b.queue).any mine then
      { s with chn := { s.chn with banks := s.chn.banks.map fun b => { b with running := b.running.map set, queue := b.queue.map set } } }
    else finish s n.acc { c with status := .nospace }
  | _ => finish s n.acc c

/-- Is an entry of this hash and depth in a table? -/
def tabHas (es : List TabEntry) (d : DirSlot) : Bool := es.any fun e => e.hash == d.hash && e.depth == d.depth

/-- Is an entry's parent in the table or in the delta? -/
def parentOk (s : State) (es : List TabEntry) (delta : List Nat) (i : Nat) : Bool :=
  let p := (s.slot i).parent
  p == 0x3FFFFFF || delta.contains p || tabHas es (s.slot p)

/-- n free frames of a region from a start on, wrapping; the first count is of the frames still to look at. -/
def takeFrames (free : Nat → Bool) (start total : Nat) : Nat → Nat → Option (List Nat)
  | 0, n => if n = 0 then some [] else none
  | fuel + 1, n =>
    if n = 0 then some []
    else
      let f := (start + total - (fuel + 1)) % total
      if free f then (takeFrames free start total fuel (n - 1)).map (f :: ·) else takeFrames free start total fuel n

/-- The first of n contiguous free frames of a region, from a start on. -/
def takeRun (free : Nat → Bool) (start total n : Nat) : Option Nat :=
  ((List.range total).find? fun k =>
    let f := (start + k) % total
    (List.range n).all fun j => free (f + j)).map fun k => (start + k) % total

/-- The frames of step 1: one for each layer page, and a contiguous run for the table. [DEDUCED, log 62] -/
def stepFrames (s : State) (r pt pages table : Nat) : Option (List Nat × Nat) :=
  let lines := ceilDiv (rgnFrames s r) 512
  let total := lines * 512
  let start := (s.fab.devId * 8 + pt) % lines * 512
  let free := fun (f : Nat) => decide (f < rgnFrames s r) && !frameSet s r f
  match takeFrames free start total total pages with
  | none => none
  | some fs => (takeRun (fun f => free f && !fs.contains f) start total table).map fun t => (fs, t)

/-- Write a page into a region frame: its header names the frame; compressed with COMP_T2. Answer whether it is compressed. -/
def writeRegionPage (s : State) (pt r frame cpn : Nat) : Bool × State :=
  let page := poke (pageBytes s cpn) 4 (toLe 5 frame)
  let packed := if (ptPolicy s pt).compT2 then (pageProfile s cpn).bind fun p => packPage p frame page else none
  match packed with
  | some bs => (true, regionWrite s r (frame * frameBytes) bs)
  | none => (false, regionWrite s r (frame * frameBytes) page)

/-- Write the pages of a delta; answer the frame words. -/
def writeRegionPages (s : State) (pt r : Nat) : List (Nat × Nat) → State × List Nat
  | [] => (s, [])
  | (cpn, f) :: l =>
    let w := writeRegionPage s pt r f cpn
    let x := writeRegionPages w.2 pt r l
    (x.1, (f + b2n w.1 * 2 ^ 31) :: x.2)

/-- The new table: the open version's entries and frame words, then the delta's (R304). -/
def newTable (s : State) (epoch : Nat) (old : List Byte) (version : Nat) (delta : List Nat) (words : List Nat) : List Byte :=
  let n0 := tabCount old
  let f0 := field old 16 4
  let es := tabEntries old
  let go := fun (acc : List Byte × Nat) (i : Nat) =>
    let d := s.slot i
    let parent := if d.parent = 0x3FFFFFF then 0xFFFFFFFF
      else
        match delta.findIdx? (· == d.parent) with
        | some k => n0 + k
        | none => ((es.findIdx? fun e => e.hash == (s.slot d.parent).hash && e.depth == (s.slot d.parent).depth)).getD 0
    let prof := ((profileAt s epoch d.profile).map profHead).getD (zeros 16)
    (acc.1 ++ toLe 12 d.hash ++ toLe 2 d.depth ++ toLe 2 d.profile ++ toLe 1 d.cpns.length ++ zeros 3 ++ toLe 4 parent
      ++ toLe 4 acc.2 ++ zeros 4 ++ prof ++ zeros 16, acc.2 + d.cpns.length)
  let n := n0 + delta.length
  toLe 4 0x54425451 ++ toLe 8 version ++ toLe 4 n ++ toLe 4 (f0 + words.length) ++ toLe 4 64 ++ toLe 4 (64 + 64 * n) ++ zeros 36
    ++ (old.drop 64).take (64 * n0) ++ (delta.foldl go ([], f0)).1 ++ (old.drop (field old 24 4)).take (4 * f0)
    ++ words.flatMap (toLe 4)

/-- The named entries take a version (R309); with a region, that too. -/
def setVersions (s : State) (slots : List Nat) (v : Nat) (region : Option Nat) : State :=
  slots.foldl (fun s i => s.setSlot i fun d => { d with version := v, region := region.getD d.region }) s

/-- A FREE version record. -/
def freeRec (s : State) (r : Nat) : Option Nat := (List.range 4096).find? fun i => recState s r i == 0 && headRec s r != i

/-- The bytes of the table of a delta of entries with a number of frame words (R304). -/
def tableSize (old : List Byte) (entries words : Nat) : Nat := 64 + 64 * (tabCount old + entries) + 4 * (field old 16 4 + words)

/-- Step 1 for a delta whose pages lie in T0 and T1: the bitmap lines of its frames are asked for, one after another (R305). [DEDUCED, log 62] -/
def publishSteps (s : State) (n : Node) (o : OpenVersion) (old : List Byte) (delta : List Nat) (top : Nat) : State :=
  let cpns := delta.flatMap fun i => (s.slot i).cpns
  let tf := ceilDiv (tableSize old delta.length cpns.length) frameBytes
  match stepFrames s o.region o.pt cpns.length tf, freeRec s o.region with
  | some (fs, t), some _ =>
    askLines s o.pt o.region (.publish n.acc { pages := fs, table := t, tableFrames := tf, delta := delta, top := top })
      ((byLine (fs ++ (List.range tf).map (t + ·))).map .claim)
  | _, _ => poolEnd s n top (failWith .nospace)

/-- A publication of the named entries against the version the partition has open. -/
def publishDelta (s : State) (n : Node) (o : OpenVersion) (named : List Nat) (top : Nat) : State :=
  let r := o.region
  if rBad s r 0 64 ∨ rBad s r 0x10000 0x40000 ∨ rBad s r 0x50000 (ceilDiv (rgnFrames s r) 8)
      ∨ rBad s r (recTable s r o.slot * frameBytes) (recTableFrames s r o.slot * frameBytes) then
    poolEnd (failRegion s r) n top (failWith .poisoned)
  else
    let old := tabBytes s r o.slot
    let es := tabEntries old
    if ¬ named.all (parentOk s es named) then poolEnd s n top (invalidAt 32)
    else
      let delta := (deepestFirst s (named.filter fun i => !tabHas es (s.slot i))).reverse
      let cpns := delta.flatMap fun i => (s.slot i).cpns
      let low := cpns.filter fun c => !upper (s.loc c) || (s.loc c).state == .moving
      if delta.isEmpty then
        poolEnd (setVersions s named o.version none) n top { detail0 := o.version % 2 ^ 32, result := o.version }
      else if cpns.any (pagePoisoned s) then poolEnd s n top (failWith .poisoned)
      else if ¬ low.isEmpty then low.foldl (fun s c => callUp s c n.acc 0 none) s
      else publishSteps s n o old delta top

/-- PUBLISH with its delta's handles. -/
def publishHandles (s : State) (n : Node) (o : OpenVersion) (hs : List Nat) : State :=
  match hs.mapM fun h => (handleSlot s h).bind fun x => if x.2.pt = o.pt then some x.1 else none with
  | none => finish s n.acc (invalidAt 32)
  | some named => publishDelta s n o named.eraseDups 0

def publishStart (s : State) (n : Node) (src : Nat) (o : Option OpenVersion) : State :=
  match o with
  | none => finish s n.acc (invalidAt 16)
  | some o =>
    match readRef s n src 16 with
    | .error e => finish e.1 n.acc e.2
    | .ok h =>
      let k := field h 0 4
      if ¬ refInArea s n.hdr o.pt src (16 + 4 * k) then finish s n.acc (failWith .perm)
      else
        match readRef s n src (16 + 4 * k) with
        | .error e => finish e.1 n.acc e.2
        | .ok bs => publishHandles s n o ((List.range k).map fun i => field bs (16 + 4 * i) 4)

def execRegionPublish (acc : Nat) (s : State) : Host.Outcome State Fault Refusal :=
  .next (match liveNode s acc with
    | some n =>
      match n.cmd with
      | .region 1 r _ src => onRegion s n r fun s o => publishStart s n src o
      | _ => s
    | none => s)

/-- The delta of a PREFIX_PUBLISH: the entries that it has made; of one that finds every entry of its chain present, the chain (R146, R309).
[DEDUCED, log 62] -/
def poolDelta (s : State) (n : Node) (top : Nat) : List Nat :=
  match tgetD s.cxh.news n.acc [] with
  | [] => chainSlots s (s.slot top).depth top
  | l => l

/-- The pool step of PREFIX_PUBLISH: its delta, less what the table holds (R146, R309). -/
def poolStep (n : Node) (region : Nat) (s : State) (top : Nat) (made : List Nat) : State :=
  let s := if made.isEmpty then s else { s with cxh := { s.cxh with news := tset s.cxh.news n.acc made } }
  if lineWaits s n.acc then s
  else
    match openVersion s (ringPt n.ring) region with
    | none => poolEnd s n top (invalidAt 24)
    | some o =>
      if s.cxh.failed.contains region then poolEnd s n top (failWith .poisoned)
      else if ¬ lineRoom s (rgnPort s region) then s
      else publishDelta s n o (poolDelta s n top) top

def execPrefixPublish (c : Try) (s : State) : Host.Outcome State Fault Refusal :=
  .next (contended s c.acc c.rivals fun s n =>
    match n.cmd with
    | .prefixPublish q b pool pin r t => leafGate s c.acc none fun s =>
      if sweeping s (ringPt n.ring) 5 then s else runPublish s n q b pool pin r t fun s top made => poolStep n r s top made
    | _ => s)

/-! ### Grants and snoops (R298, R305) -/

/-- A command that has been accepted and has not ended. -/
def openNode (s : State) (acc : Nat) : Option Node := (s.node acc).filter fun n => n.outcome.isNone

/-- The command that a row of line updates serves ends. -/
def lineEnd (s : State) (use : LineUse) (top : Nat) (c : Comp) : State :=
  match use.acc.bind (openNode s) with
  | some n => poolEnd s n top c
  | none => s

/-- Poison on a control line: the region is failed and the command completes with POISONED (R316). -/
def lineFail (s : State) (l : LineReq) : State := lineEnd (failRegion s l.region) l.use 0 (failWith .poisoned)

/-- Go on with the updates that follow; a line in an extent that takes no requests reads as poison at once (R315). -/
def goOn (s : State) (l : LineReq) (use : LineUse) (ops : List LineOp) : State :=
  match ops with
  | [] => s
  | op :: _ => if rBad s l.region (lineOff op.line) 64 then lineFail s { l with use := use } else askLines s l.pt l.region use ops

/-- Return the frames that a publication has taken, with other updates first, and end it, or let it try again. [DEDUCED, log 62] -/
def giveBack (s : State) (l : LineReq) (acc : Nat) (j : PubJob) (first : List LineOp) (c : Option Comp) : State :=
  let ops := first ++ (byLine j.taken).map .clear
  if ops.isEmpty then
    match c with
    | some c => lineEnd s l.use j.top c
    | none => s
  else goOn s l (.back acc j.top c) ops

/-- Does a frame of a region lie in an extent that takes requests (R315)? -/
def frameTakes (s : State) (r f : Nat) : Bool := (regionPlace s r (f * frameBytes)).any fun k => extTakes s k.1 k.2.1 && !(s.cport k.1).failed

/-- Steps 2 to 4: the pages and the table are written, and a record is asked for. A refused write fails the publication (R315). [DEDUCED, log 62] -/
def publishWrite (s : State) (l : LineReq) (n : Node) (acc : Nat) (j : PubJob) : State :=
  match openVersion s l.pt l.region, freeRec s l.region with
  | some o, some i =>
    if ¬ j.taken.all (frameTakes s l.region) then giveBack s l acc j [] (some (failWith .revoked))
    else
      let cpns := j.delta.flatMap fun i => (s.slot i).cpns
      let w := writeRegionPages s l.pt l.region (cpns.zip j.pages)
      let tab := newTable w.1 n.hdr.epoch (tabBytes s l.region o.slot) (o.version + 1) j.delta w.2
      goOn (regionWrite w.1 l.region (j.table * frameBytes) tab) l (.publish acc j) [.stage i]
  | none, _ => giveBack s l acc j [] (some (failWith .revoked))
  | _, none => giveBack s l acc j [] (some (failWith .nospace))

/-- A row of updates has ended. -/
def linesDone (s : State) (l : LineReq) : State :=
  match l.use with
  | .publish acc j =>
    match openNode s acc, openVersion s l.pt l.region with
    | some n, some o =>
      match l.op with
      | .claim _ => publishWrite s l n acc j
      | _ => poolEnd (setVersions s j.delta o.version (some l.region)) n j.top { detail0 := o.version % 2 ^ 32, result := o.version }
    | some _, none => giveBack s l acc j [] (some (failWith .revoked))
    | none, _ => s
  | .back _ top (some c) => lineEnd s l.use top c
  | .closeRec _ _ | .releaseRec _ _ => lineEnd s l.use 0 {}
  | .openRec _ _ | .back _ _ none | .reopen _ | .tidy => s

/-- The updates that are left follow; after the last the row has ended. -/
def lineNext (s : State) (l : LineReq) (use : LineUse) (rest : List LineOp) : State :=
  if rest.isEmpty then linesDone s { l with use := use } else goOn s l use rest

/-- Frames are claimed (step 1 of R309): where another publication has taken one meanwhile, what was taken is returned and the command tries again. [DEDUCED, log 62] -/
def claimFrames (s : State) (l : LineReq) (fs : List Nat) : State :=
  match l.use with
  | .publish acc j =>
    if fs.any (frameSet s l.region) then giveBack s l acc j [] none
    else lineNext (setFrames s l.region true fs) l (.publish acc { j with taken := j.taken ++ fs }) l.rest
  | _ => s

/-- Step 4: the record is written as STAGED, or another FREE one is asked for; step 6 follows. [DEDUCED, log 62] -/
def stageRec (s : State) (l : LineReq) (i : Nat) : State :=
  match l.use with
  | .publish acc j =>
    match openVersion s l.pt l.region, freeRec s l.region with
    | some o, some k =>
      if recState s l.region i ≠ 0 ∨ headRec s l.region = i then goOn s l l.use [.stage k]
      else
        let old := tabBytes s l.region o.slot
        goOn (regionWrite s l.region (recOff i) (toLe 8 (o.version + 1) ++ toLe 8 o.version ++ [1, 0] ++ toLe 2 (s.fab.devId + l.pt * 4096)
          ++ toLe 4 1 ++ toLe 4 j.table ++ toLe 4 j.tableFrames ++ toLe 4 (tabCount old + j.delta.length) ++ zeros 28)) l l.use [.head i]
    | none, _ => giveBack s l acc j [] (some (failWith .revoked))
    | _, none => giveBack s l acc j [] (some (failWith .nospace))
  | _ => s

/-- Steps 6 to 8: the head line names the record where HEAD_VERSION is the record's BASE; otherwise all is given back. [DEDUCED, log 62] -/
def swapHead (s : State) (l : LineReq) (i : Nat) : State :=
  let r := l.region
  let base := rget s r (recOff i + 8) 8
  match l.use with
  | .publish acc j =>
    match openVersion s l.pt r with
    | some o =>
      if headVersion s r = base then goOn (rput (rput s r 16 8 (base + 1)) r 12 4 i) l (.publish acc { j with slot := i }) [.live i, .leave o.slot]
      else giveBack (count s pgCxh 5 l.pt) l acc j [.drop i] (some (failWith .conflict 0 0 (headVersion s r)))
    | none => giveBack s l acc j [.drop i] (some (failWith .revoked))
  | _ => s

/-- A version is opened: the record must still be live and of the version asked for, and none of the region open meanwhile (R306, R307). -/
def joinRec (s : State) (l : LineReq) (i : Nat) : State :=
  let r := l.region
  let fits := fun (want : Nat) => recLive s r i && (want == 0 || recVersion s r i == want)
  let taken := (openVersion s l.pt r).isSome
  match l.use with
  | .openRec acc _ =>
    match openNode s acc with
    | none => s
    | some n =>
      let want := match n.cmd with
        | .region _ _ v _ => v
        | _ => 0
      if taken then finish s acc (invalidAt 16)
      else if rBad s r 0 64 then lineFail s l
      else if ¬ fits want then finish s acc (invalidAt 24)
      else
        let x := openRecord s l.pt n.hdr.epoch r i
        if x.2.status = .nospace then goOn x.1 l (.back acc 0 (some x.2)) [.leave i] else finish x.1 acc x.2
  | _ =>
    if taken ∨ rBad s r 0 64 ∨ ¬ fits 0 then s
    else
      let x := openRecord s l.pt s.dep.epoch r i
      if x.2.status = .nospace then goOn x.1 l .tidy [.leave i] else x.1

/-- READERS falls by 1: a CLOSE first treats its imports (R310); after a publication the partition's open version is the new one (R309). -/
def leaveLine (s : State) (l : LineReq) (i : Nat) : State :=
  let r := l.region
  match l.use with
  | .closeRec acc _ =>
    match openVersion s l.pt r with
    | none => finish s acc (invalidAt 16)
    | some o =>
      if versionHeld s l.pt r acc then finish s acc (failWith .busy)
      else
        let x := leaveRec (dropOpen (closeImports s o) o.pt r) r i
        lineNext x.1 l l.use x.2
  | .publish _ j =>
    let x := leaveRec s r i
    let opens := x.1.cxh.opens.map fun o => if o.pt = l.pt ∧ o.region = r then { o with version := o.version + 1, slot := j.slot } else o
    lineNext { x.1 with cxh := { x.1.cxh with opens := opens } } l l.use (x.2 ++ l.rest)
  | _ =>
    let x := leaveRec s r i
    lineNext x.1 l l.use (x.2 ++ l.rest)

/-- One update of a granted line. -/
def lineUpdate (s : State) (l : LineReq) : State :=
  let r := l.region
  match l.op with
  | .claim fs => claimFrames s l fs
  | .clear fs => lineNext (setFrames s r false fs) l l.use l.rest
  | .stage i => stageRec s l i
  | .head i => swapHead s l i
  | .live i => lineNext (setRecState s r i 2) l l.use l.rest
  | .drop i => lineNext (setRecState s r i 0) l l.use l.rest
  | .join i => joinRec s l i
  | .leave i => leaveLine s l i
  | .retire i =>
    if rBad s r 0 64 then lineFail s l
    else if ¬ recLive s r i ∨ headRec s r = i then lineEnd s l.use 0 (invalidAt 24)
    else lineNext (setRecState s r i 3) l l.use l.rest

/-- The lines that a snoop names that an update under way holds. -/
def snoopMeets (s : State) (port region line n : Nat) : Bool :=
  s.cxh.lines.any fun l => l.port == port && l.region == region && decide (line ≤ l.op.line ∧ l.op.line < line + n)

/-- Snoops whose lines no update under way holds any more are answered. -/
def answerSnoops (s : State) (port : Nat) : State :=
  s.setCport port fun c => { c with snoops := c.snoops.filter fun x => snoopMeets s port x.1 x.2.1 x.2.2 }

/-- CTRL_LINE_GRANT: the line is updated, counted and written back, or its data is poison; snoops that waited for it are answered. -/
def lineGrant (s : State) (port id : Nat) (poison : Bool) : State :=
  match s.cxh.lines.find? fun l => l.port == port && l.id == id with
  | none => s
  | some l =>
    let s := { s with cxh := { s.cxh with lines := s.cxh.lines.filter fun x => x.id != id } }
    let s := if poison ∨ rBad s l.region (lineOff l.op.line) 64 then lineFail s l
      else if s.cxh.failed.contains l.region then lineEnd s l.use 0 (failWith .poisoned)
      else lineUpdate (countLine s l.pt) l
    answerSnoops s port

def execCtrlLineGrant (port : Nat) (grant : Grant) (s : State) : Host.Outcome State Fault Refusal :=
  .next (if s.boot.fatal then s else lineGrant s port grant.id grant.poison)

/-- BISNP_RX: a snoop of one to four lines of an HDM-DB range is answered at once, or after the update of a line of its that is under way. The three
kinds are answered alike, for a line is held only while it is updated (R298). A snoop beyond 64 outstanding waits in the link. [DEDUCED, log 94] -/
def snoopRx (s : State) (port region line n : Nat) : State :=
  if ¬ (s.cport port).up then s
  else
    let s := count s pgCxh 3 15
    if snoopMeets s port region line n then
      s.setCport port fun c => { c with snoops := c.snoops ++ [(region, line, n)] }
    else s

def execBisnpRx (port : Nat) (_kind : SnoopKind) (lines : SnoopLines) (s : State) : Host.Outcome State Fault Refusal :=
  .next (if s.boot.fatal then s else snoopRx s port lines.region lines.line lines.n)

/-! ### Extents (R299, R315) -/

/-- The first host address of the 4 TiB window at which n units are free. -/
def windowBase (c : CxlPort) (n : Nat) : Option Nat :=
  let live := c.exts.filter (·.valid)
  (sortBy (0 :: live.map fun e => e.base + e.size) fun a b => decide (a ≤ b)).find? fun b =>
    decide (b + n ≤ 65536) && !(live.any fun e => overlaps b n e.base e.size)

/-- The index a new spill extent of a partition gets (R300): past those accepted before, then the lowest that none uses. [DEDUCED, log 64] -/
def spillIndex (s : State) (pt : Nat) : Option Nat :=
  let mine := (allExts s).filter fun e => e.2.2.kind == 1 && e.2.2.pt == pt
  let next := mine.foldl (fun m e => max m (e.2.2.rbase + 1)) 0
  if next < 4096 then some next
  else (List.range 4096).find? fun i => !(mine.any fun e => e.2.2.valid && e.2.2.rbase == i)

/-- Put an extent into a port's list: at its end, or in the place of one given back. [DEDUCED, log 64] -/
def addExt (c : CxlPort) (e : Extent) : CxlPort :=
  if c.exts.length < 4096 then { c with exts := c.exts ++ [e] }
  else
    match c.exts.findIdx? fun x => !x.valid with
    | some i => { c with exts := c.exts.set i e }
    | none => c

/-- Does an offer's tag name something the device takes (R299)? -/
def tagOk (s : State) (kind pt region : Nat) : Bool :=
  match kind with
  | 1 | 3 => (s.mapOf pt).valid
  | 2 => (rgnSlot s region).isSome
  | _ => false

/-- EXTENT_OFFER: accepted into the window, or refused without effect. [DEDUCED, log 64] -/
def extentOffer (s : State) (port dc : Nat) (tag : List Byte) (base size : Nat) : State :=
  let c := s.cport port
  let kind := field tag 0 1
  let pt := field tag 1 1 % 8
  let region := field tag 4 4 % 2 ^ 20
  if ¬ c.up ∨ c.failed ∨ base % unitBytes ≠ 0 ∨ size % unitBytes ≠ 0 ∨ ¬ tagOk s kind pt region
      ∨ 4096 ≤ (c.exts.filter (·.valid)).length then s
  else
    let n := size / unitBytes
    let index : Option Nat := if kind = 1 then spillIndex s pt else if kind = 2 then some (field tag 8 4) else some 0
    match windowBase c n, index with
    | some w, some i =>
      let e : Extent := { dc := dc, tag := padTo 16 tag, kind := kind, pt := pt, region := region, rbase := i, base := w, size := n }
      wakeHands (s.setCport port fun c => addExt c e) pt
    | _, _ => s

def execExtentOffer (port dc : Nat) (tag : List Byte) (range : DpaRange) (s : State) : Host.Outcome State Fault Refusal :=
  .next (if s.boot.fatal then s else extentOffer s port dc tag range.base range.size)

def setExt (s : State) (port i : Nat) (f : Extent → Extent) : State :=
  s.setCport port fun c => { c with exts := lmod c.exts i f }

/-- The extent at an index of a port, while it is accepted. -/
def extAt (s : State) (port i : Nat) : Option Extent := ((s.cport port).exts[i]?).filter (·.valid)

/-- New requests to an extent are refused, and its drain begins (R315). -/
def extDrain (s : State) (port i : Nat) : State :=
  match extAt s port i with
  | none => s
  | some e =>
    if e.draining then s
    else setExt s port i fun e => { e with draining := true, drainAt := s.time + s.reg pgCxh 0x20C * 1000 }

def execExtentReleaseReq (port index : Nat) (s : State) : Host.Outcome State Fault Refusal :=
  .next (if s.boot.fatal then s else extDrain s port index)

/-- An outstanding request of a move completes as poison, a write as failed (R107, R315). [DEDUCED, log 94] -/
def reqPoison (s : State) (q : CxlReq) : State :=
  let s := { s with cxh := { s.cxh with reqs := s.cxh.reqs.filter fun x => x.id != q.id } }
  if q.write then failMove s q.cpn false else sourceFailed s q.cpn false

/-- The location leaves that lie in an extent: their partition fails (R290, R316). -/
def leafLost (s : State) (e : Extent) : State :=
  if e.kind = 1 ∧ s.blw.leaves.any (fun l => l.2.inT2 && l.1 / 2 ^ 21 == e.pt && bits l.2.addr 32 15 == e.rbase) then
    partitionFail s e.pt
  else s

/-- Does the line of an outstanding ownership read lie in an extent? -/
def lineIn (s : State) (port i : Nat) (l : LineReq) : Bool :=
  (regionPlace s l.region (lineOff l.op.line)).any fun k => k.1 == port && k.2.1 == i

/-- An outstanding ownership read completes as poison. -/
def linePoison (s : State) (l : LineReq) : State :=
  answerSnoops (lineFail { s with cxh := { s.cxh with lines := s.cxh.lines.filter fun x => x.id != l.id } } l) l.port

/-- A spill extent's frames that stayed marked as faulty go with it. -/
def dropFaulty (s : State) (e : Extent) : State :=
  if e.kind ≠ 1 then s
  else
    { s with blw := { s.blw with t2 := s.blw.t2.filter fun x =>
      !(x.2 == .faulty && x.1 / 2 ^ 48 == e.pt && bits x.1 32 15 == e.rbase) } }

/-- The extent is given back with Release Dynamic Capacity: what is still outstanding completes as poison. [DEDUCED, log 94] -/
def extReturn (s : State) (port i : Nat) : State :=
  match extAt s port i with
  | none => s
  | some e =>
    let s := (s.cxh.reqs.filter fun q => q.port == port && q.ext == i).foldl reqPoison s
    let s := (s.cxh.lines.filter (lineIn s port i)).foldl linePoison s
    dropFaulty (leafLost (setExt s port i fun e => { e with valid := false, draining := false, evac := false }) e) e

/-- Pages and mute copies with a frame in a spill extent, or a move that goes there. -/
def extPages (s : State) (e : Extent) : List Nat :=
  s.blw.t2.filterMap fun x =>
    if x.1 / 2 ^ 48 = e.pt ∧ bits x.1 32 15 = e.rbase then
      match x.2 with
      | .page c => some c
      | _ => none
    else none

/-- Leaves that stand in a spill extent return to T1. -/
def recallLeaves (s : State) (e : Extent) : State :=
  (s.blw.leaves.filter fun l => l.2.inT2 && l.1 / 2 ^ 21 == e.pt && bits l.2.addr 32 15 == e.rbase).foldl
    (fun s l => leafChange s l.1) s

/-- Every page of a spill extent moves to T1 in class 1 (R272, R315). -/
def evacuate (s : State) (e : Extent) : State :=
  (extPages s e).foldl (fun s c => queueTo s c .t1 1 0) (recallLeaves s e)

/-- EXTENT_DRAIN_END: nothing is outstanding on the extent. An extent that is evacuated is given back when its pages are gone. -/
def drainEnd (s : State) (port i : Nat) : State :=
  match extAt s port i with
  | none => s
  | some e =>
    if (s.cxh.reqs.any fun q => q.port == port && q.ext == i) ∨ s.cxh.lines.any (lineIn s port i) then s
    else if e.evac ∧ ¬ e.draining then
      if (extPages s e).all fun c => (s.loc c).state == .poisoned || (s.loc c).state == .retired then extReturn s port i
      else evacuate s e
    else if e.draining then extReturn s port i
    else s

def execExtentDrainEnd (port index : Nat) (s : State) : Host.Outcome State Fault Refusal :=
  .next (if s.boot.fatal then s else drainEnd s port index)

/-- EXTENT_DRAIN_TIMEOUT: CXH_DRAIN_US have passed. -/
def execExtentDrainTimeout (port index : Nat) (s : State) : Host.Outcome State Fault Refusal :=
  .next (if s.boot.fatal then s
    else
      match extAt s port index with
      | some e => if e.draining then extReturn (s.reach e.drainAt) port index else s
      | none => s)

/-- The extent that CXH_PORT_SEL and CXH_EXT_SEL name. -/
def selExt (s : State) : Nat × Nat := (s.reg pgCxh 0x200, s.reg pgCxh 0x210)

def execExtRelease (req : Requester) (s : State) : Host.Outcome State Fault Refusal :=
  .next (secureOnly s req pgCxh 0x21C fun s => extDrain s (selExt s).1 (selExt s).2)

/-- A release with EVAC: a spill extent's pages move out first. -/
def extEvac (s : State) (port i : Nat) : State :=
  match extAt s port i with
  | none => s
  | some e => if e.kind = 1 then evacuate (setExt s port i fun e => { e with evac := true }) e else extDrain s port i

def execExtReleaseEvac (req : Requester) (s : State) : Host.Outcome State Fault Refusal :=
  .next (secureOnly s req pgCxh 0x21C fun s => extEvac s (selExt s).1 (selExt s).2)

/-! ### Responses and failures (R296, R316) -/

/-- The 64-byte lines of a page's stored form. -/
def pageLines (s : State) (cpn : Nat) (m : Option Move) (write : Bool) : Nat :=
  match m with
  | some m => if write then (if m.compress then ceilDiv m.clen 64 else 1024)
      else if m.srcCompressed then ceilDiv (s.loc cpn).clen 64 else 1024
  | none => 1024

/-- The response to a move's request. One that nothing waits for is discarded (R315). -/
def moveResponse (s : State) (port id : Nat) (poison media : Bool) : State :=
  match s.cxh.reqs.find? fun q => q.port == port && q.id == id with
  | none => s
  | some q =>
    let s := { s with cxh := { s.cxh with reqs := s.cxh.reqs.filter fun x => x.id != id } }
    let s := count s pgCxh (b2n q.write) (cpnPt q.cpn) (pageLines s q.cpn (moveOf s q.cpn) q.write)
    if ¬ poison then s
    else
      let s := count s pgCxh 2 (cpnPt q.cpn)
      if q.write then failMove s q.cpn media else sourceFailed s q.cpn media

/-- The response to any other read, a command's or a channel's, for the line at an address of the port: poison stands in the line until it is
written, and what reads it meets it (R296, R316). [DEDUCED, log 94] -/
def lineResponse (s : State) (port addr : Nat) (poison : Bool) : State :=
  let k := poolKey port addr / 64
  if poison ∧ ¬ s.mems.badLines.contains k then { count s pgCxh 2 15 with mems := { s.mems with badLines := s.mems.badLines ++ [k] } } else s

/-- CXL_MEM_RESPONSE. -/
def memResponse (s : State) (port : Nat) (what : CxlAns) (poison media : Bool) : State :=
  match what with
  | .move id => moveResponse s port id poison media
  | .line addr => lineResponse s port addr poison

/-- [DESIGN CHOICE, log 1] -/
def execCxlMemResponse (port : Nat) (what : CxlAns) (poison media : Bool) (s : State) : Host.Outcome State Fault Refusal :=
  .next (if s.boot.fatal then s else memResponse s port what poison media)

/-- The port of a partition's checkpoint extent. -/
def ckptPort (s : State) (pt : Nat) : Option (Nat × Extent) :=
  (allExts s).findSome? fun e => if e.2.2.valid ∧ e.2.2.kind = 3 ∧ e.2.2.pt = pt then some (e.1, e.2.2) else none

def setCkpt (s : State) (pt : Nat) (f : Ckpt → Ckpt) : State := { s with cxh := { s.cxh with ckpt := lmod s.cxh.ckpt pt f } }

/-- A port is failed (R316): every outstanding request completes as poison, its regions are failed, a leaf on it fails its
partition, a checkpoint in progress fails. Event 0x40. [DEDUCED, log 94] -/
def portFail (s : State) (port : Nat) : State :=
  if (s.cport port).failed then s
  else
    let s := s.setCport port fun c => { c with failed := true, up := false, snoops := [] }
    let s := errEvent s 0x40 4 pgCxh 4 0 0 (16 + port) []
    let s := (s.cxh.reqs.filter fun q => q.port == port).foldl reqPoison s
    let s := (s.cxh.lines.filter fun l => l.port == port).foldl linePoison s
    let s := ((s.cport port).exts.filter (·.valid)).foldl leafLost s
    (List.range 8).foldl (fun s pt =>
      if ckptRuns s pt ∧ (ckptPort s pt).any (fun e => e.1 == port) then setCkpt s pt fun k => { k with state := 5 } else s) s

def execCxlPortFail (port : Nat) (s : State) : Host.Outcome State Fault Refusal :=
  .next (if s.boot.fatal then s else portFail s port)

/-- CXL_PORT_UP (R296, R571): a port out of PERST and not failed has trained; WIDTH 0 is ×16. [DEDUCED, log 94] -/
def portUp (s : State) (port width : Nat) (lopt : Bool) : State :=
  if (s.cport port).failed ∨ ¬ lget s.boot.perst (16 + port) false then s
  else s.setCport port fun c => { c with up := true, width := width % 4, lopt := lopt }

def execCxlPortUp (port width : Nat) (lopt : Bool) (s : State) : Host.Outcome State Fault Refusal :=
  .next (if s.boot.fatal then s else portUp s port width lopt)

/-! ### Formatting a region (R301 to R303, R319) -/

/-- Location entries of this device that name a frame of a region. -/
def regionPages (s : State) (r : Nat) : Nat :=
  (s.seq.locs.filter fun e => inRegion e.2 && bits e.2.addr 27 20 == r && e.2.state != .free).length

/-- Zero n bytes of a region. -/
def regionZero (s : State) (r off n : Nat) : State :=
  (pieces (n / frameBytes + 2) off n).foldl (fun s p =>
    match regionPlace s r (p.1 * frameBytes + p.2.1) with
    | some k =>
      { s with mems := { s.mems with
        pool := mclear s.mems.pool k.2.2 p.2.2,
        badLines := s.mems.badLines.filter fun l => ¬ (ceilDiv k.2.2 64 ≤ l ∧ l < (k.2.2 + p.2.2) / 64) } }
    | none => s) s

/-- The structures of a region of a number of frames: version 1 in slot 0, whose empty table takes frame 512. -/
def writeFormat (s : State) (r frames : Nat) : State :=
  let s := regionZero s r 0 (0x50000 + 0x1000000)
  let s := regionWrite s r 0 (toLe 4 0x52474E51 ++ toLe 2 1 ++ zeros 2 ++ toLe 4 r ++ toLe 4 0 ++ toLe 8 1 ++ toLe 4 frames ++ zeros 36)
  let s := regionWrite s r 0x10000 (toLe 8 1 ++ toLe 8 0 ++ [2, 0] ++ toLe 2 s.fab.devId ++ toLe 4 0 ++ toLe 4 512 ++ toLe 4 1 ++ toLe 4 0
    ++ zeros 28)
  let s := regionWrite s r 0x50000 (List.replicate 64 0xFF ++ [1])
  let s := regionWrite s r (512 * frameBytes) (toLe 4 0x54425451 ++ toLe 8 1 ++ toLe 4 0 ++ toLe 4 0 ++ toLe 4 64 ++ toLe 4 64 ++ zeros 36)
  { s with cxh := { s.cxh with failed := s.cxh.failed.filter (· != r) } }

/-- A CXH_RGN_CTRL write for the selected slot. -/
def rgnFormat (s : State) (rq : Requester) (v : Nat) : State :=
  let c := s.reg pgCxh 0x224 (s.reg pgCxh 0x220)
  let r := bits c 0 20
  if ¬ bit c 20 then s
  else if s.cxh.opens.any (fun o => o.region == r) ∨ regionPages s r ≠ 0 then logErr s pgCxh 0x06 0 0x228 0 rq
  else writeFormat s r (bits v 0 27)

def execRgnFormat (req : Requester) (val : Word) (s : State) : Host.Outcome State Fault Refusal :=
  .next (secureOnly s req pgCxh 0x228 fun s => rgnFormat s req val.toNat)

/-! ### Directory checkpoints (R317, R318) -/

/-- A checkpoint starts: issue and moves of the partition stop while STATE = 1. -/
def ckptStart (s : State) (pt : Nat) : State :=
  match ckptPort s pt with
  | none => setCkpt s pt fun k => { k with state := 4, last := s.time }
  | some (p, _) =>
    if (s.cport p).failed ∨ ¬ (s.cport p).up then setCkpt s pt fun k => { k with state := 5, last := s.time }
    else setCkpt s pt fun k => { k with state := 1, last := s.time, waitFrom := s.time }

def execCkptGo (req : Requester) (s : State) : Host.Outcome State Fault Refusal :=
  .next (secureOnly s req pgCxh 0x238 fun s =>
    let pt := s.reg pgCxh 0x230
    if ckptRuns s pt then logErr s pgCxh 0x06 0 0x238 0 req else ckptStart s pt)

/-- CKPT_TIMER: CKPT_MS after the last start. -/
def ckptTimer (s : State) (pt : Nat) : State :=
  let ms := bits (s.reg pgCxh 0x234 pt) 0 16
  if ms = 0 ∨ ckptRuns s pt then s
  else ckptStart (s.reach ((lget s.cxh.ckpt pt {}).last + ms * 1000000)) pt

def execCkptTimer (pt : Nat) (s : State) : Host.Outcome State Fault Refusal :=
  .next (if s.boot.fatal then s else ckptTimer s pt)

/-- Have the partition's running operations and moves ended? -/
def ptQuiet (s : State) (pt : Nat) : Bool :=
  !(s.dep.nodes.any fun n => n.2.issued && n.2.outcome.isNone && ringPt n.2.ring == pt)
    && !(s.blw.moves.any fun m => movePt m.1 == pt)

/-- The sections of a partition's checkpoint (R317). -/
def takeCkpt (s : State) (pt gen : Nat) : Checkpoint :=
  let m := lget s.dep.cfg.pmap.pts pt {}
  let cs := s.seq.ctxs.filter fun c => c.2.pt == pt && c.2.state == .open_
  { gen := gen, pt := pt, dev := s.fab.devId, epoch := s.dep.epoch, time := s.time, seqBase := m.seqBase, seqCount := m.seqCount,
    profiles := s.dep.cfg.profiles.filter fun p => p.2.owner == pt, ctxs := cs,
    rows := s.seq.rows.filter fun r => tmem cs (r.1 / 256), locs := s.seq.locs.filter fun l => cpnPt l.1 == pt,
    dir := s.chn.dir.filter fun d => d.2.state == .live && d.2.pt == pt,
    opens := (s.cxh.opens.filter fun o => o.pt == pt).map fun o => (o.region, o.version),
    tags := (spillExts s pt).map fun e => e.2.tag }

/-- The lengths of the sections in bytes. -/
def ckptLengths (c : Checkpoint) : List Nat :=
  [64 * c.profiles.length, 256 * c.ctxs.length, 256 * (c.ctxs.map fun x => x.2.layers).sum,
   4096 * (c.rows.map fun r => ceilDiv r.2.ptes.length 512).sum, 2 ^ 20 * (c.locs.map fun l => l.1 / 65536).eraseDups.length,
   64 * c.dir.length, 12 * c.opens.length, 16 * c.tags.length]

/-- The 256-byte header. -/
def ckptHeader (c : Checkpoint) : List Byte :=
  let ls := ckptLengths c
  toLe 4 0x50544B43 ++ toLe 4 c.gen ++ toLe 1 c.pt ++ [0] ++ toLe 2 c.dev ++ toLe 2 c.epoch ++ zeros 2 ++ toLe 8 c.time
    ++ toLe 4 c.seqBase ++ toLe 4 c.seqCount ++ zeros 32
    ++ (List.range 8).flatMap (fun i => toLe 8 (256 + (ls.take i).sum) ++ toLe 8 (lget ls i 0)) ++ zeros 64

/-- The pool place of a half of a checkpoint extent. -/
def halfKey (p : Nat) (e : Extent) (h : Nat) : Nat := poolKey p (e.base * unitBytes + h * (e.size * unitBytes / 2))

/-- The checkpoint whose header stands in a half of the extent; none where there is no header, or where its lines or its sections meet
poison (R317). [DEDUCED, log 63] -/
def halfCkpt (s : State) (p : Nat) (e : Extent) (h : Nat) : Option Checkpoint :=
  let st := Store.pool (halfKey p e h)
  if hdrField s st 0 4 ≠ 0x50544B43 then none
  else
    (tget s.mems.ckpts (halfKey p e h)).filter fun c =>
      c.gen == hdrField s st 4 4 && !storeBad s st 0 (256 + (ckptLengths c).sum)

/-- The half of the extent that holds the last good checkpoint, the one with the higher GEN, and that checkpoint. [DEDUCED, log 63] -/
def bestCkpt (s : State) (p : Nat) (e : Extent) : Option (Nat × Checkpoint) :=
  match halfCkpt s p e 0, halfCkpt s p e 1 with
  | some a, some b => if a.gen < b.gen then some (1, b) else some (0, a)
  | some a, none => some (0, a)
  | none, some b => some (1, b)
  | none, none => none

/-- The end of a checkpoint's wait for the partition's operations and moves (R317). [DEDUCED, log 104] -/
def ckptBound (s : State) (pt : Nat) : Nat := (lget s.cxh.ckpt pt {}).waitFrom + bits (s.reg pgCxh 0x234 pt) 16 16 * 1000

/-- CKPT_WAIT_TIMEOUT: the partition resumes; STATE reads BUSY. -/
def ckptTimeout (s : State) (pt : Nat) : State :=
  if ckptRuns s pt then setCkpt (s.reach (ckptBound s pt)) pt fun k => { k with state := 3 } else s

/-- CKPT_QUIESCED: the sections and the header are written, and the partition resumes. -/
def ckptWrite (s : State) (pt : Nat) : State :=
  if ¬ ckptRuns s pt ∨ ¬ ptQuiet s pt then s
  else if ckptBound s pt < s.time then ckptTimeout s pt
  else
    match ckptPort s pt with
    | none => setCkpt s pt fun k => { k with state := 4 }
    | some (p, e) =>
      let last := bestCkpt s p e
      let gen := (max (lget s.cxh.ckpt pt {}).gen ((last.map (·.2.gen)).getD 0) + 1) % 2 ^ 29
      let c := takeCkpt s pt gen
      let key := halfKey p e (if last.any (·.1 == 0) then 1 else 0)
      let s := { s with mems := { s.mems with ckpts := tset s.mems.ckpts key c } }
      setCkpt (storeWrite s pt (.pool key) 0 (ckptHeader c)) pt fun k => { k with state := 2, gen := gen }

def execCkptQuiesced (pt : Nat) (s : State) : Host.Outcome State Fault Refusal :=
  .next (if s.boot.fatal then s else ckptWrite s pt)

def execCkptWaitTimeout (pt : Nat) (s : State) : Host.Outcome State Fault Refusal :=
  .next (if s.boot.fatal then s else ckptTimeout s pt)

/-- May the checkpoint be loaded here (R318)? Its IDs must be free of other partitions' use. [DEDUCED, log 63] -/
def ckptFits (s : State) (pt : Nat) (c : Checkpoint) : Bool :=
  let m := lget s.dep.cfg.pmap.pts pt {}
  m.valid && m.seqBase == c.seqBase && m.seqCount == c.seqCount && (spillExts s pt).map (fun e => e.2.tag) == c.tags
    && (c.profiles.all fun p => match tget s.dep.cfg.profiles p.1 with
      | some q => q == p.2
      | none => true)
    && (c.dir.all fun d => (s.slot d.1).state != .live || (s.slot d.1).pt == pt)

/-- Is what a frame holds the partition's? -/
def usePt (pt : Nat) : FrameUse → Bool
  | .page c | .mute c => cpnPt c == pt
  | _ => false

/-- What the partition holds here goes before a restore. [DEDUCED, log 63] -/
def forgetPt (s : State) (pt : Nat) : State :=
  let keep := fun (t : Tbl FrameUse) => t.filter fun e => !usePt pt e.2
  let gone := (s.chn.dir.filter fun d => d.2.pt == pt && d.2.state == .live).map (·.1)
  { s with
    seq := { s.seq with ctxs := s.seq.ctxs.filter fun c => c.2.pt != pt,
                        rows := s.seq.rows.filter fun r => (s.ctx (r.1 / 256)).pt != pt,
                        locs := s.seq.locs.filter fun l => cpnPt l.1 != pt,
                        stage := s.seq.stage.filter fun e => e.2.pt != pt },
    chn := { s.chn with dir := s.chn.dir.filter fun d => !(d.2.pt == pt && d.2.state == .live),
                        banks := s.chn.banks.map fun b => { b with words := b.words.filter fun w => !gone.contains w.2.slot } },
    blw := { s.blw with t1 := keep s.blw.t1, t0 := keep s.blw.t0, t2 := keep s.blw.t2, th := keep s.blw.th,
                        queue := s.blw.queue.filter fun r => r.pt != pt } }

/-- A restored location entry: a T2 page is kept, one of another tier is POISONED with no frame; mute copies are gone. [DEDUCED, log 63] -/
def restoreLoc (e : Loc) : Loc :=
  if e.state = .retired ∨ e.state = .poisoned then { e with mute := none }
  else if e.tier = .t2 then { e with mute := none }
  else { e with state := .poisoned, hard := false, hardMute := false, mute := none, addr := 2 ^ 40 - 1 }

/-- A restored context: no lock, no readers, a staging tile chosen again, LENGTH by R52. -/
def restoreCtx (s : State) (c : Checkpoint) (q : Nat) (x : Ctx) : State :=
  let rows := c.rows.filter fun r => r.1 / 256 == q
  let len := rows.foldl (fun m r => max m (r.2.tokens - r.2.staged)) 0
  let tile := chooseTile s (tilesAt s s.dep.epoch c.pt)
  s.setCtx q fun _ => { x with lockOwner := none, lockRing := 0, readers := 0, stageTile := tile, length := len }

/-- Load a checkpoint's sections. -/
def loadCkpt (s : State) (c : Checkpoint) : State :=
  let s := forgetPt s c.pt
  let s := { s with dep := { s.dep with cfg := { s.dep.cfg with
    profiles := c.profiles.foldl (fun t (p : Nat × Profile) => tset t p.1 p.2) s.dep.cfg.profiles } } }
  let s := c.locs.foldl (fun s l => s.setLoc l.1 fun _ => restoreLoc l.2) s
  let spill := c.locs.filter fun l => l.2.tier == Tier.t2 && !inRegion l.2 && l.2.state != .free
  let s := { s with
    blw := { s.blw with t2 := spill.foldl (fun t (l : Nat × Loc) => tset t (ptKey c.pt l.2.addr) (.page l.1)) s.blw.t2 },
    seq := { s.seq with
      rows := c.rows.foldl (fun t (r : Nat × LayerRow) => tset t r.1 { r.2 with tokens := r.2.tokens - r.2.staged, staged := 0 }) s.seq.rows,
      nextCpn := lset s.seq.nextCpn c.pt (c.locs.foldl (fun m (l : Nat × Loc) => max m (l.1 % 2 ^ 37 + 1)) 0) } }
  let s := c.ctxs.foldl (fun s x => restoreCtx s c x.1 x.2) s
  { s with chn := { s.chn with dir := c.dir.foldl (fun t d => tset t d.1 { d.2 with inCam := false }) s.chn.dir } }

/-- Open a region's version again (R307), without a command: its record is asked for. [DEDUCED, log 63] -/
def reopen (s : State) (pt : Nat) (o : Nat × Nat) : State :=
  if s.cxh.failed.contains o.1 ∨ rBad s o.1 0 64 ∨ rBad s o.1 0x10000 0x40000 then failRegion s o.1
  else
    match findVersion s o.1 o.2 with
    | some i => askLine s pt o.1 (.reopen i) (.join i)
    | none => s

/-- CKPT_RESTORE. [DEDUCED, log 63] -/
def ckptRestore (s : State) (pt : Nat) : State :=
  let fail := fun (s : State) (st : Nat) => setCkpt s pt fun k => { k with state := st }
  match ckptPort s pt with
  | none => fail s 4
  | some (p, e) =>
    if (s.cport p).failed ∨ ¬ (s.cport p).up then fail s 5
    else
      match bestCkpt s p e with
      | none => fail s 6
      | some (_, c) =>
        if ¬ ckptFits s pt c ∨ ¬ ptQuiet s pt then fail s 6
        else
          let mine := s.cxh.opens.filter fun o => o.pt == pt
          let s := mine.foldl (fun s o => leaveVersion (dropOpen s pt o.region) o) s
          let s := c.opens.foldl (fun s o => reopen s pt o) (loadCkpt s c)
          setCkpt s pt fun k => { k with state := 2, gen := c.gen }

def execCkptRestore (req : Requester) (s : State) : Host.Outcome State Fault Refusal :=
  .next (secureOnly s req pgCxh 0x238 fun s =>
    let pt := s.reg pgCxh 0x230
    if ckptRuns s pt then logErr s pgCxh 0x06 0 0x238 0 req else ckptRestore s pt)

end Sys2Proof.Machine
end

