-- ==== Sys2Proof/Machine/WarmImage.lean ====
section
/-!
DEFINITION. The program image of a WARM: the header and its tables (R230 to R232, R240), where the image and its tensors lie (R231,
R232, R239), the checks of R234 with the kernels' operands (R241 to R247), and the blocks of the weight window (R233, R237, R238).
-/

namespace Sys2Proof.Machine

/-- What a WARM runs with: its node, the profile of its target, the map of its epoch, and NTOK. -/
structure WarmCtx where
  node : Node
  prof : Profile
  seq : Nat
  ntok : Nat
  imageRef : Nat
  deriving DecidableEq, Repr

def WarmCtx.pt (x : WarmCtx) : Nat := ringPt x.node.ring
def WarmCtx.map (s : State) (x : WarmCtx) : PtMap := mapAt s x.node.hdr.epoch

/-! ### Reading -/

/-- Bytes of the space that holds the image: the working area, or the pool region's frames. -/
def imgSpace (s : State) (x : WarmCtx) : Nat :=
  if refSpace x.imageRef = 3 then rgnFrames s (refRegion x.imageRef) * frameBytes else waSize (x.map s) x.pt
/-- The image's address in its space. -/
def imgAddr (x : WarmCtx) : Nat := if refSpace x.imageRef = 3 then refOff x.imageRef else refAddr x.imageRef

/-- What a revoked region gives (R251). -/
def warmRevoked : Comp := failWith .revoked 24

/-- Read n bytes at offset off of the image. -/
def imgRead (s : State) (x : WarmCtx) (off n : Nat) : Except Comp (List Byte) :=
  match refRead s x.node.ring x.node.hdr.epoch (x.imageRef + off) n with
  | .data bs => .ok bs
  | .revoked => .error warmRevoked
  | _ => .error (failWith .poisoned)

/-- Read n bytes at offset off of the working area. -/
def areaRead (s : State) (x : WarmCtx) (off n : Nat) : Except Comp (List Byte) :=
  if waBad s (x.map s) x.pt off n then .error (failWith .poisoned) else .ok (waRead s (x.map s) x.pt off n)

/-- Read at a matrix's offset: in the image's space, or in the working area with SRC = 1 (R232). -/
def matRead (s : State) (x : WarmCtx) (m : WMat) (off n : Nat) : Except Comp (List Byte) :=
  if m.inArea then areaRead s x off n else imgRead s x off n

/-! ### The header and the tables -/

def parseImg (bs : List Byte) : WImg :=
  let nk := field bs 26 2
  { ntiles := field bs 6 1 % 64, window := field bs 7 1 % 16, prof := (bs.drop 8).take 16, layers := field bs 24 1,
    lastNk := if field bs 25 1 = 0 then nk else field bs 25 1, nkern := nk, nmat := field bs 28 2, nten := field bs 30 2,
    maxTok := field bs 32 4, spadBytes := field bs 36 4, winBytes := field bs 40 4, embOut := field bs 44 2,
    tenOff := field bs 48 8, kernOff := field bs 56 8, matOff := field bs 64 8, imgLen := field bs 72 8 }

def parseTen (bs : List Byte) : WTen :=
  let fmt := field bs 0 1 % 16
  let cols := field bs 4 4
  { fmt := fmt, rmul := field bs 1 1, radd := field bs 2 2, cols := cols, off := field bs 8 8 % 2 ^ 40,
    stride := if field bs 16 4 = 0 then rowStride fmt cols else field bs 16 4 }

def parseMat (bs : List Byte) : WMat :=
  let b := field bs 0 1
  { fmt := b % 16, atUse := bit b 4, inArea := bit b 5, rows := field bs 4 4, cols := field bs 8 4, nblk := field bs 12 4,
    idxOff := field bs 16 8, dataOff := field bs 24 8 }

def parseKern (bs : List Byte) : WKern where
  kop := field bs 0 1
  sr := bit (field bs 1 1) 0
  in0 := field bs 2 2
  in1 := field bs 4 2
  in2 := field bs 6 2
  out := field bs 8 2
  out2 := field bs 10 2
  wmat := field bs 12 2
  bmat := field bs 14 2
  raw := bs

/-- Rows of a tensor (R231). -/
def WTen.rows (t : WTen) (ntok : Nat) : Nat := ntok * t.rmul + t.radd
/-- S of a matrix (R232). -/
def WMat.stride (m : WMat) : Nat := rowStride m.fmt m.cols
/-- A kernel's parameter of n bytes at byte i. -/
def WKern.par (k : WKern) (i n : Nat) : Nat := field k.raw i n
def WImage.ten (g : WImage) (i : Nat) : Option WTen := g.tens[i]?
/-- The matrix entry of slot s in layer l, and the embedding matrix. -/
def WImage.mat (g : WImage) (l i : Nat) : Option WMat := if i < g.hdr.nmat then g.mats[l * g.hdr.nmat + i]? else none
def WImage.emb (g : WImage) : Option WMat := g.mats[g.hdr.layers * g.hdr.nmat]?
/-- Kernels of a layer (R236). -/
def WImage.kernsOf (g : WImage) (l : Nat) : List WKern :=
  if l + 1 = g.hdr.layers then g.kerns.take g.hdr.lastNk else g.kerns

/-! ### Checks (R234) -/

/-- A failed check of the image: INVALID, FORMAT or PERM with the byte offset in the image. [DEDUCED, log 80] -/
def imgBad (st : Status) (off : Nat) : Comp := failWith st 24 off
/-- The first failed check of a list, in the list's order. -/
def firstFail (l : List (Bool × Comp)) : Except Comp Unit :=
  match l.find? (·.1) with
  | some x => .error x.2
  | none => .ok ()

/-- Is a format one that a tensor or a weight may have: 0x0 to 0xD? -/
def warmFmt (f : Nat) : Bool := decide (f ≤ 0xD)

/-- The header's ranges (R230), in byte order. -/
def imgHdrBad (bs : List Byte) (p : Profile) (ctxLayers : Nat) : List (Bool × Comp) :=
  let i := parseImg bs
  let v := fun (b : Bool) (off : Nat) => (b, imgBad .invalid off)
  [v (field bs 0 4 != 0x57524D49) 0, v (field bs 4 2 != 1) 4, v (decide (i.ntiles = 0 ∨ 48 < i.ntiles ∨ 64 ≤ field bs 6 1)) 6,
   v (decide (i.window = 0 ∨ 8 < i.window ∨ 16 ≤ field bs 7 1)) 7, (i.prof != profHead p, imgBad .format 8),
   v (decide (i.layers = 0 ∨ i.layers ≠ ctxLayers)) 24, v (decide (i.nkern < field bs 25 1)) 25,
   v (decide (i.nkern = 0 ∨ 256 < i.nkern)) 26, v (decide (i.nmat = 0 ∨ 4096 < i.nmat)) 28,
   v (decide (i.nten = 0 ∨ 1024 < i.nten)) 30, v (decide (i.maxTok = 0 ∨ 262144 < i.maxTok)) 32,
   v (decide (i.spadBytes % 65536 ≠ 0)) 36, v (decide (i.winBytes % 4096 ≠ 0)) 40, v (decide (i.nten ≤ i.embOut)) 44,
   v (field bs 46 2 != 0) 46, v (decide (i.tenOff % 64 ≠ 0)) 48, v (decide (i.kernOff % 64 ≠ 0)) 56,
   v (decide (i.matOff % 64 ≠ 0)) 64, v (!allZero bs 80 176) 80]

/-- The image and its tables lie in their space. -/
def imgPlaceBad (s : State) (x : WarmCtx) (i : WImg) : List (Bool × Comp) :=
  let out := fun (off n : Nat) => decide (i.imgLen < off + n)
  [(decide (i.imgLen < 256 ∨ imgSpace s x < imgAddr x + i.imgLen), imgBad .perm 72),
   (out i.tenOff (32 * i.nten), imgBad .perm 48), (out i.kernOff (64 * i.nkern), imgBad .perm 56),
   (out i.matOff (32 * (i.layers * i.nmat + 1)), imgBad .perm 64)]

/-- A tensor entry's checks (R231); `at_` is the entry's offset. -/
def tenBad (size ntok at_ : Nat) (bs : List Byte) : List (Bool × Comp) :=
  let t := parseTen bs
  let rows := t.rows ntok
  let v := fun (b : Bool) (off : Nat) => (b, imgBad .invalid (at_ + off))
  [v (decide (16 ≤ field bs 0 1)) 0, (!warmFmt t.fmt, imgBad .format at_), v (decide (8 < t.rmul)) 1,
   v (decide (t.cols = 0 ∨ 65536 < t.cols) || (isMx t.fmt && decide (t.cols % 32 ≠ 0))) 4, v (decide (2 ^ 40 ≤ field bs 8 8)) 8,
   v (decide (t.stride % 16 ≠ 0 ∨ t.stride < rowStride t.fmt t.cols)) 16, v (!allZero bs 20 12) 20,
   (decide (size < t.off + (if rows = 0 then 0 else (rows - 1) * t.stride + rowBytes t.fmt t.cols)), imgBad .perm at_)]

/-- A matrix entry's checks (R232). -/
def matBad (s : State) (x : WarmCtx) (at_ : Nat) (bs : List Byte) : List (Bool × Comp) :=
  let m := parseMat bs
  let v := fun (b : Bool) (off : Nat) => (b, imgBad .invalid (at_ + off))
  let limit := if m.inArea then waSize (x.map s) x.pt else imgSpace s x - imgAddr x
  [v (decide (64 ≤ field bs 0 1)) 0, (!warmFmt m.fmt, imgBad .format at_), v (!allZero bs 1 3) 1, v (decide (m.rows = 0)) 4,
   v (decide (m.cols = 0) || (isMx m.fmt && decide (m.cols % 32 ≠ 0))) 8,
   v (decide (m.nblk ≠ ceilDiv (m.rows * m.stride) 4096)) 12, v (!m.inArea && decide (m.idxOff % 64 ≠ 0)) 16,
   (decide (limit < m.idxOff + 8 * m.nblk ∨ limit < m.dataOff), imgBad .perm at_)]

/-- The two tensors have the same rows; the same shape. -/
def sameRows (a b : WTen) : Bool := decide (a.rmul = b.rmul ∧ a.radd = b.radd)
def sameShape (a b : WTen) : Bool := sameRows a b && decide (a.cols = b.cols)
/-- One row for each token; k rows for each token. -/
def perTok (t : WTen) (k : Nat := 1) : Bool := decide (t.rmul = k ∧ t.radd = 0)
/-- A matrix that is a vector of c elements (R232). -/
def isVec (m : WMat) (c : Nat) : Bool := decide (m.rows = 1 ∧ m.cols = c)

/-- The defined bits of a kernel's bytes 16 to 63 (R241). -/
def kernRuns : Nat → List Run
  | 0x01 => [⟨16, 1, 0xFF⟩, ⟨17, 1, 0x01⟩, ⟨18, 2, 0xFF⟩]
  | 0x02 | 0x03 => [⟨16, 4, 0xFF⟩]
  | 0x05 | 0x06 => [⟨16, 1, 0xFF⟩]
  | 0x07 => [⟨16, 3, 0xFF⟩, ⟨19, 1, 0x01⟩, ⟨20, 8, 0xFF⟩, ⟨32, 8, 0xFF⟩]
  | 0x09 => [⟨16, 6, 0xFF⟩]
  | 0x0A => [⟨18, 1, 0xFF⟩]
  | 0x0B => [⟨17, 1, 0xFF⟩]
  | _ => []

/-- Grouped GEMM, and the number of its experts (1 for a plain one). -/
def WKern.grouped (k : WKern) : Bool := k.kop == 1 && bit (k.par 17 1) 0
def WKern.nexp (k : WKern) : Nat := if k.grouped then k.par 18 2 else 1

/-- The range checks of a kernel's parameters: the failing byte. -/
def parBad (k : WKern) (sck : Nat) : List (Bool × Nat) :=
  let b := fun (i : Nat) => k.par i 1
  let range := fun (i lo hi : Nat) => (decide (b i < lo ∨ hi < b i), i)
  match k.kop with
  | 0x01 => [range 16 0 4, (k.grouped && decide (k.par 18 2 = 0 ∨ 256 < k.par 18 2), 18)]
  | 0x02 | 0x03 => [(!f32Positive (k.par 16 4), 16)]
  | 0x05 => [range 16 0 1]
  | 0x06 => [range 16 1 128]
  | 0x07 =>
    [range 16 1 128, range 17 1 128, (decide (b 17 ≠ 0 ∧ b 16 % b 17 ≠ 0), 16), range 18 0 1, (f32Bad (k.par 20 4), 20),
     (bit (b 19) 0 && decide (sck < 0x00800000 ∨ 0x7F800000 ≤ sck), 24)]
  | 0x09 => [range 18 1 8, range 19 0 2, (decide (k.par 20 2 = 0 ∨ 256 < k.par 20 2 ∨ k.par 20 2 < b 18), 20)]
  | 0x0A => [range 18 1 8]
  | _ => []

/-- Do a GEMM's matrices have the right shapes in every layer that runs it (R241, R243)? -/
def gemmMats (g : WImage) (k : WKern) (ls : List Nat) (n c : Nat) : Bool :=
  ls.all fun l => (List.range k.nexp).all fun e =>
    ((g.mat l (k.wmat + e)).any fun m => decide (m.rows = n ∧ m.cols = c))
      && (k.bmat == 0xFFFF || (g.mat l (k.bmat + e)).any fun m => isVec m n)
/-- Is a matrix slot a vector of c elements in every layer? -/
def vecMat (g : WImage) (ls : List Nat) (i c : Nat) : Bool := ls.all fun l => (g.mat l i).any fun m => isVec m c

/-- The operands of a kernel (R241 to R247): the first one that does not fit, by the byte of its field. -/
def operandBad (g : WImage) (p : Profile) (k : WKern) (ls : List Nat) : Option Nat :=
  let need := fun (l : List (Bool × Nat)) => (l.find? fun c => !c.1).map (·.2)
  let t := fun (i : Nat) => g.ten i
  match k.kop with
  | 0x01 =>
    match t k.in0, t k.out with
    | none, _ => some 2
    | _, none => some 8
    | some a, some o =>
      need [(!k.grouped || (t k.in1).any fun w => decide (w.rmul = 0 ∧ w.radd = k.nexp + 1), 4), (sameRows a o, 8),
            (gemmMats g k ls o.cols a.cols, 12)]
  | 0x02 | 0x03 =>
    match t k.in0, t k.out with
    | none, _ => some 2
    | _, none => some 8
    | some a, some o =>
      need [(sameShape a o, 8), (vecMat g ls k.wmat a.cols, 12), (k.kop == 2 || vecMat g ls k.bmat a.cols, 14)]
  | 0x04 | 0x08 =>
    match t k.in0, t k.in1, t k.out with
    | some a, some b, some o => need [(sameShape a b, 4), (sameShape a o, 8)]
    | none, _, _ => some 2
    | _, none, _ => some 4
    | _, _, none => some 8
  | 0x05 | 0x0C =>
    match t k.in0, t k.out with
    | some a, some o => need [(sameShape a o, 8)]
    | none, _ => some 2
    | _, none => some 8
  | 0x06 =>
    match t k.in0, t k.out with
    | some a, some o => need [(perTok a && decide (a.cols = k.par 16 1 * p.hdim), 2), (sameShape a o, 8)]
    | none, _ => some 2
    | _, none => some 8
  | 0x07 =>
    let q := k.par 16 1 * p.hdim
    let kv := k.par 17 1 * p.hdim
    need [((t k.in0).any fun a => perTok a && decide (a.cols = q), 2), ((t k.in1).any fun a => perTok a && decide (a.cols = kv), 4),
          ((t k.in2).any fun a => perTok a && decide (a.cols = kv), 6), ((t k.out).any fun a => perTok a && decide (a.cols = q), 8)]
  | 0x09 =>
    let kk := k.par 18 1
    let e := k.par 20 2
    match t k.in1 with
    | none => some 4
    | some h =>
      need [((t k.in0).any fun a => perTok a && decide (a.cols = e), 2), (perTok h, 4),
            ((t k.out).any fun a => perTok a && decide (a.cols = 4 * kk), 8),
            ((t k.out2).any fun a => perTok a kk && decide (a.cols = h.cols), 10),
            ((t (k.par 16 2)).any fun a => decide (a.rmul = 0 ∧ a.radd = e + 1), 16)]
  | 0x0A =>
    let kk := k.par 18 1
    match t k.in0 with
    | none => some 2
    | some a =>
      need [(perTok a kk, 2), ((t k.in1).any fun r => perTok r && decide (r.cols = 4 * kk), 4),
            ((t k.out).any fun o => perTok o && decide (o.cols = a.cols), 8)]
  | 0x0B =>
    let c := k.par 17 1 * p.hdim
    need [((t k.in0).any fun a => perTok a && decide (a.cols = c), 2), ((t k.in1).any fun a => perTok a && decide (a.cols = c), 4)]
  | _ => some 0

/-- A tensor of 32-bit words in another format (R243, R245, R246): expert offsets, logits, the route table, OFFS; by the byte of its field. [DEDUCED, log 80] -/
def wordsBad (g : WImage) (k : WKern) : Option Nat :=
  let bad := fun (i : Nat) => (g.ten i).any fun t => t.fmt != 0
  let first := fun (l : List (Bool × Nat)) => (l.find? (·.1)).map (·.2)
  match k.kop with
  | 0x01 => first [(k.grouped && bad k.in1, 4)]
  | 0x09 => first [(bad k.in0, 2), (bad k.out, 8), (bad (k.par 16 2), 16)]
  | 0x0A => first [(bad k.in1, 4)]
  | _ => none

/-- R186's check of a prefill bitmap at a working-area offset: 0 good, 1 bad, 2 beyond the area. -/
def warmBitmap (s : State) (x : WarmCtx) (off : Nat) : Except Comp Nat :=
  let size := waSize (x.map s) x.pt
  if size < off + 16 then .ok 2
  else
    match areaRead s x off 16 with
    | .error e => .error e
    | .ok h =>
      let n := 16 + 4 * x.ntok * bmWord h 8
      if bmWord h 4 = 0 ∨ bmWord h 8 < ceilDiv (bmWord h 4) 32 ∨ (attnAt s x.node.hdr.epoch x.pt).bitmapMax < n
          ∨ field h 12 1 / 2 ≠ 0 ∨ ¬ allZero h 13 3 then .ok 1
      else if size < off + n then .ok 2 else .ok 0

/-- One kernel descriptor's checks; `at_` is its offset, `ls` the layers that run it. -/
def kernCheck (s : State) (x : WarmCtx) (g : WImage) (at_ : Nat) (k : WKern) (ls : List Nat) : Except Comp Unit :=
  let bad := fun (off : Nat) => Except.error (imgBad .invalid (at_ + off))
  if k.kop = 0 ∨ 0x0C < k.kop then bad 0
  else if 2 ≤ k.par 1 1 ∨ (k.sr ∧ k.kop ≠ 0x0B ∧ k.kop ≠ 0x0C) then bad 1
  else
    match reservedByte (kernRuns k.kop) k.raw 16 64 with
    | some i => bad i
    | none =>
      match (parBad k (k.par 24 4)).find? (·.1) with
      | some b => bad b.2
      | none =>
        match operandBad g x.prof k ls with
        | some off => bad off
        | none =>
          if (wordsBad g k).isSome then .error (imgBad .format (at_ + (wordsBad g k).getD 0))
          else if k.kop = 0x0B ∧ k.par 17 1 < x.prof.kvhBase + x.prof.kvh then .error (imgBad .format (at_ + 17))
          else if k.kop = 0x07 ∧ k.par 18 1 = 1 then
            match warmBitmap s x (k.par 32 8) with
            | .error e => .error e
            | .ok 0 => .ok ()
            | .ok 1 => bad 32
            | .ok _ => .error (imgBad .perm (at_ + 32))
          else .ok ()

/-- Check every entry of a table of n-byte entries. -/
def tableCheck (n off : Nat) (f : Nat → List Byte → List (Bool × Comp)) (bs : List Byte) (count : Nat) : Except Comp Unit :=
  (List.range count).foldl (fun acc i =>
    match acc with
    | .error e => .error e
    | .ok () => firstFail (f (off + n * i) ((bs.drop (n * i)).take n))) (.ok ())

/-- The kernel descriptors' checks, and that one KV_WRITE stands among those that every layer runs. [DEDUCED, log 80] -/
def kernsCheck (s : State) (x : WarmCtx) (g : WImage) : Except Comp Unit :=
  let r := g.kerns.zipIdx.foldl (fun (acc : Except Comp Unit) k =>
    match acc with
    | .error e => .error e
    | .ok () =>
      let ls := if k.2 < g.hdr.lastNk then List.range g.hdr.layers else List.range (g.hdr.layers - 1)
      kernCheck s x g (g.hdr.kernOff + 64 * k.2) k.1 ls) (.ok ())
  match r with
  | .error e => .error e
  | .ok () =>
    let writes := (g.kerns.take g.hdr.lastNk).filter fun k => k.kop == 0x0B
    match writes with
    | [_] => .ok ()
    | _ => .error (imgBad .invalid 26)

/-- The embedding's operands: EMB_OUT holds a row for each token, as wide as the embedding matrix. -/
def embCheck (g : WImage) : Except Comp Unit :=
  match g.ten g.hdr.embOut, g.emb with
  | some t, some m => if perTok t ∧ t.cols = m.cols then .ok () else .error (imgBad .invalid 44)
  | _, _ => .error (imgBad .invalid 44)

/-- The token IDs (R225). -/
def warmTokens (s : State) (x : WarmCtx) (tokensRef : Nat) : Except Comp (List Nat) :=
  match refRead s x.node.ring x.node.hdr.epoch tokensRef (4 * x.ntok) with
  | .data bs => .ok ((List.range x.ntok).map fun i => field bs (4 * i) 4)
  | .revoked => .error warmRevoked
  | _ => .error (failWith .poisoned)

/-- Each token is below the embedding matrix's ROWS. -/
def tokensCheck (toks : List Nat) (g : WImage) : Except Comp Unit :=
  match toks.zipIdx.find? fun t => (g.emb).any fun m => decide (m.rows ≤ t.1) with
  | some t => .error (failWith .invalid 32 t.2)
  | none => .ok ()

/-- The checks of a WARM that name its tiles: TILES (R226), none of them taken away before it began (R229), NTOK (R225), SPAD_BYTES (R227). -/
def warmFits (s : State) (x : WarmCtx) (i : WImg) (tiles : Nat) : List (Bool × Comp) :=
  let ts := tilesAt s x.node.hdr.epoch x.pt
  [(decide ((tiles ≠ 0 ∧ tiles ≠ i.ntiles) ∨ ts.length < i.ntiles), invalidAt 19),
   ((ts.take i.ntiles).any (fun t => !(nodeTiles s x.node).contains t), failWith .revoked 19),
   (decide (x.ntok = 0 ∨ i.maxTok < x.ntok), invalidAt 20),
   ((ts.take i.ntiles).any (fun t => decide (s.reg (pgTil t) 0x600 * 65536 < i.spadBytes)), failWith .nospace 36)]

/-- R234: read and check the whole image, its tokens included. [DEDUCED, log 80] -/
def warmValidate (s : State) (x : WarmCtx) (tiles tokensRef : Nat) : Except Comp WImage := do
  let hb ← imgRead s x 0 256
  let i := parseImg hb
  firstFail (imgHdrBad hb x.prof (s.ctx x.seq).layers)
  firstFail (imgPlaceBad s x i)
  firstFail (warmFits s x i tiles)
  let nm := i.layers * i.nmat + 1
  let tb ← imgRead s x i.tenOff (32 * i.nten)
  tableCheck 32 i.tenOff (tenBad (waSize (x.map s) x.pt) x.ntok) tb i.nten
  let mb ← imgRead s x i.matOff (32 * nm)
  tableCheck 32 i.matOff (matBad s x) mb nm
  let kb ← imgRead s x i.kernOff (64 * i.nkern)
  let cut := fun (n : Nat) (bs : List Byte) (c : Nat) => (List.range c).map fun j => (bs.drop (n * j)).take n
  let g : WImage := { hdr := i, tens := (cut 32 tb i.nten).map parseTen, mats := (cut 32 mb nm).map parseMat,
                      kerns := (cut 64 kb i.nkern).map parseKern }
  embCheck g
  kernsCheck s x g
  let toks ← warmTokens s x tokensRef
  tokensCheck toks g
  return g

/-! ### Blocks of matrices (R233, R238) -/

/-- A failed index entry (R233), by its byte offset. -/
def entryBad (m : WMat) (b : Nat) : Comp := imgBad .invalid (m.idxOff + 8 * b)

/-- Block b of a matrix as stored: CODER, FILL and the stored bytes. `at_` is the matrix entry's offset. -/
def blockStored (s : State) (x : WarmCtx) (m : WMat) (at_ b : Nat) : Except Comp (Nat × Byte × List Byte) := do
  let eb ← matRead s x m (m.idxOff + 8 * b) 8
  let e := leNat eb
  let off := bits e 0 40
  let len := bits e 40 13
  let coder := bits e 53 3
  let limit := if m.inArea then waSize (x.map s) x.pt else imgSpace s x - imgAddr x
  if (coder = 0 ∧ len = 4096) ∨ (coder = 1 ∧ 1 ≤ len ∧ len ≤ 4095) ∨ (coder = 2 ∧ len = 0) then
    if limit < m.dataOff + off + len then .error (imgBad .perm at_)
    else
      let d ← matRead s x m (m.dataOff + off) len
      return (coder, BitVec.ofNat 8 (bits e 56 8), d)
  else .error (entryBad m b)

/-- The 4,096 bytes of a stored block. -/
def blockExpand (m : WMat) (b : Nat) (st : Nat × Byte × List Byte) : Except Comp (List Byte) :=
  match st.1 with
  | 0 => .ok st.2.2
  | 1 =>
    match expandStream 4096 st.2.2 with
    | some d => if d.length = 4096 then .ok d else .error (entryBad m b)
    | none => .error (entryBad m b)
  | _ => .ok (List.replicate 4096 st.2.1)

/-- The blocks that cover rows lo to hi − 1 of a matrix. -/
def blocksOf (m : WMat) (lo hi : Nat) : List Nat :=
  if hi ≤ lo then []
  else
    let f := lo * m.stride / 4096
    (List.range ((hi * m.stride - 1) / 4096 + 1 - f)).map (f + ·)

/-- Tile i's share of n things among `of` tiles (R235, R241). -/
def shareLo (of i n : Nat) : Nat := i * n / of
/-- The logical tile whose share holds thing r. -/
def shareOwner (of n r : Nat) : Nat :=
  ((List.range of).find? fun i => decide (shareLo of i n ≤ r ∧ r < shareLo of (i + 1) n)).getD 0

/-- The blocks of layer l that tile i's kernels read: (matrix entry, block). -/
def layerBlocks (g : WImage) (l i : Nat) : List (Nat × Nat) :=
  let whole := fun (slot : Nat) =>
    match g.mat l slot with
    | some m => (List.range m.nblk).map fun b => (l * g.hdr.nmat + slot, b)
    | none => []
  ((g.kernsOf l).flatMap fun k =>
    (List.range k.nexp).flatMap fun e =>
      (if k.wmat = 0xFFFF ∨ k.kop = 0 ∨ 3 < k.kop then []
       else if k.kop = 1 then
         match g.mat l (k.wmat + e) with
         | some m => (blocksOf m (shareLo g.hdr.ntiles i m.rows) (shareLo g.hdr.ntiles (i + 1) m.rows)).map
             fun b => (l * g.hdr.nmat + k.wmat + e, b)
         | none => []
       else whole k.wmat)
        ++ (if k.bmat = 0xFFFF ∨ (k.kop ≠ 1 ∧ k.kop ≠ 3) then [] else whole (k.bmat + (if k.kop = 1 then e else 0)))).eraseDups

/-- The key of a block in the window. -/
def winKey (m b : Nat) : Nat := m * 2 ^ 32 + b

/-- The bytes a tile's slot holds for a block. -/
def slotBytesOf (m : WMat) (stored : List Byte) : Nat := if m.atUse then stored.length else 4096

/-- Read the blocks of a list into the window: for MODE = 0 expanded, for MODE = 1 as stored with a leading CODER and FILL. -/
def loadBlocks (s : State) (x : WarmCtx) (g : WImage) : List (Nat × Nat) → Tbl (List Byte) → Except Comp (Tbl (List Byte))
  | [], t => .ok t
  | (mi, b) :: rest, t =>
    match g.mats[mi]? with
    | none => loadBlocks s x g rest t
    | some m =>
      match blockStored s x m (g.hdr.matOff + 32 * mi) b with
      | .error e => .error e
      | .ok st =>
        if m.atUse then loadBlocks s x g rest (tset t (winKey mi b) (BitVec.ofNat 8 st.1 :: st.2.1 :: st.2.2))
        else
          match blockExpand m b st with
          | .error e => .error e
          | .ok d => loadBlocks s x g rest (tset t (winKey mi b) d)

/-- The bytes that a tile's needs for a layer come to (R238). -/
def tileNeed (g : WImage) (t : Tbl (List Byte)) (l i : Nat) : Nat :=
  (layerBlocks g l i).foldl (fun v mb =>
    match g.mats[mb.1]? with
    | some m => v + (if m.atUse then ((tget t (winKey mb.1 mb.2)).map (·.length - 2)).getD 0 else 4096)
    | none => v) 0

/-- Load layer l: its blocks on every tile, or the failure that ends the WARM. -/
def loadLayer (s : State) (x : WarmCtx) (g : WImage) (l : Nat) (t : Tbl (List Byte)) : Except Comp (Tbl (List Byte)) := do
  let all := ((List.range g.hdr.ntiles).flatMap (layerBlocks g l)).eraseDups
  let t ← loadBlocks s x g all t
  if (List.range g.hdr.ntiles).any (fun i => decide (g.hdr.winBytes < tileNeed g t l i)) then .error (failWith .invalid 24 40)
  else return t

/-- The bytes of a window block. -/
def winBlock (t : Tbl (List Byte)) (m : WMat) (mi b : Nat) : Except Comp (List Byte) :=
  match tget t (winKey mi b) with
  | none => .ok (zeros 4096)
  | some d =>
    if m.atUse then
      match d with
      | c :: f :: st => blockExpand m b (c.toNat, f, st)
      | _ => .error (entryBad m b)
    else .ok d

/-- Row n of a matrix, from blocks that `blk` gives. -/
def matRow (m : WMat) (blk : Nat → Except Comp (List Byte)) (n : Nat) : Except Comp (List Val) := do
  let ds ← (blocksOf m n (n + 1)).mapM blk
  return decodeRow m.fmt m.cols ((ds.flatten.drop (n * m.stride % 4096)).take m.stride)

end Sys2Proof.Machine
end

