-- ==== Sys2Proof/Machine/WarmKern.lean ====
section
/-!
DEFINITION. The kernels of a WARM (R235, R240 to R248): what each computes from its tensors and matrices, in FP32 (R242) or on the Reed
(R243), and how it is divided among the tiles.
-/

namespace Sys2Proof.Machine

/-! ### Tensors -/

/-- Row r of a tensor as stored. -/
def tenRow (s : State) (x : WarmCtx) (t : WTen) (r : Nat) : Except Comp (List Byte) :=
  areaRead s x (t.off + r * t.stride) (rowBytes t.fmt t.cols)

/-- The rows of a tensor, decoded exactly (R242). -/
def tenVals (s : State) (x : WarmCtx) (t : WTen) : Except Comp (List (List Val)) :=
  (List.range (t.rows x.ntok)).mapM fun r => do
    let bs ← tenRow s x t r
    return decodeRow t.fmt t.cols bs

/-- The rows of a tensor as FP32. -/
def tenF32 (s : State) (x : WarmCtx) (t : WTen) : Except Comp (List (List Nat)) := do
  let vs ← tenVals s x t
  return vs.map fun r => r.map toF32

/-- The rows of a tensor of 32-bit words. -/
def tenWords (s : State) (x : WarmCtx) (t : WTen) : Except Comp (List (List Nat)) :=
  (List.range (t.rows x.ntok)).mapM fun r => do
    let bs ← tenRow s x t r
    return (List.range t.cols).map fun c => field bs (4 * c) 4

/-- What a kernel writes into one tensor: its rows as stored, and the NaNs that each element's conversion made zero, by row and
column. -/
structure TenOut where
  ten : WTen
  rows : List (List Byte)
  nans : List (Nat × Nat)
  deriving DecidableEq, Repr

/-- Rows of values for a tensor, converted (R164, R165); `rnd` gives the random number of an element, if any (R171). -/
def outVals (t : WTen) (rnd : Nat → Nat → Option Nat) (rows : List (List Val)) : TenOut where
  ten := t
  rows := rows.zipIdx.map fun r => encodeRow t.fmt (rnd r.2) r.1
  nans := rows.zipIdx.flatMap fun r => (r.1.zipIdx.filter fun v => nanZeroed t.fmt v.1).map fun v => (r.2, v.2)

/-- Rows of FP32 results for a tensor, rounded to nearest. -/
def outF32 (t : WTen) (rows : List (List Nat)) : TenOut := outVals t (fun _ _ => none) (rows.map fun r => r.map v32)

/-- Rows of 32-bit words for a tensor. -/
def outWords (t : WTen) (rows : List (List Nat)) : TenOut := { ten := t, rows := rows.map fun r => r.flatMap (toLe 4), nans := [] }

/-- Write a kernel's output. Bytes of a row beyond its elements stay as they are. -/
def putTen (s : State) (x : WarmCtx) (o : TenOut) : State :=
  o.rows.zipIdx.foldl (fun s r =>
    waWrite s (x.map s) x.pt (o.ten.off + r.2 * o.ten.stride) (r.1.take (rowBytes o.ten.fmt o.ten.cols))) s

/-! ### Functions of one element (R242) -/

def siluOf (v : Nat) : Nat := fdivUlp v (fadd f32One (fexp (fneg v)))
def geluTanh (v : Nat) : Nat :=
  let cube := fmul (fmul v v) v
  let inner := fmul 0x3F4C422A (fadd v (fmul 0x3D372713 cube))
  fmul (fmul 0x3F000000 v) (fadd f32One (ftanh inner))
def geluErf (v : Nat) : Nat := fmul (fmul 0x3F000000 v) (fadd f32One (ferf (fmul 0x3F3504F3 v)))
def reluOf (v : Nat) : Nat := if (v32 v).isNan then v else if flt f32Zero v then v else f32Zero
/-- ACT of a GEMM (R241). -/
def actOf (a v : Nat) : Nat :=
  match a with
  | 1 => reluOf v
  | 2 => siluOf v
  | 3 => geluTanh v
  | 4 => geluErf v
  | _ => v
def sigmoidOf (v : Nat) : Nat := fdivUlp f32One (fadd f32One (fexp (fneg v)))
/-- A count as FP32. -/
def natF32 (n : Nat) : Nat := rn32 (.fin false n 0)

/-! ### Row kernels -/

def rmsRow (eps : Nat) (g v : List Nat) : List Nat :=
  let ss := fmaChain (v.map fun a => (a, a))
  let r := frsqrt (fadd (fdivUlp ss (natF32 v.length)) eps)
  (v.zip g).map fun a => fmul (fmul a.1 r) a.2

def layerNormRow (eps : Nat) (g b v : List Nat) : List Nat :=
  let c := natF32 v.length
  let mu := fdivUlp (v.foldl fadd f32Zero) c
  let d := v.map fun a => fsub a mu
  let r := frsqrt (fadd (fdivUlp (fmaChain (d.map fun a => (a, a))) c) eps)
  (d.zip (g.zip b)).map fun a => fadd (fmul (fmul a.1 r) a.2.1) a.2.2

/-- Rotate a row of heads at position t (R98). -/
def rotaryRow (p : Profile) (t : Nat) (row : List Val) : List Val := (parts p.hdim row).flatMap (rotate p t)

/-! ### GEMM (R243, R175, R176) -/

/-- Is the format an integer one that accumulates in INT32 with another of its kind? -/
def intFmt (f : Nat) : Bool := decide (f = 8 ∨ f = 9)
/-- The integer that a decoded integer element stands for. -/
def valInt : Val → Int
  | .fin n m e => (if n then -1 else 1) * (m * 2 ^ e.toNat : Nat)
  | _ => 0
/-- A dot product in INT32: group sums enter without rounding and saturate; answer the value and the saturations. [DEDUCED, log 81] -/
def intDot (ps : List (Val × Val)) : Int × Nat :=
  (chunks 32 (ps.length / 32 + 1) ps).foldl (fun acc g =>
    let v := acc.1 + (g.map fun p => valInt p.1 * valInt p.2).sum
    if v < -(2 ^ 31) then (-(2 ^ 31), acc.2 + 1) else if 2 ^ 31 - 1 < v then (2 ^ 31 - 1, acc.2 + 1) else (v, acc.2)) (0, 0)

/-- One output element: the accumulator, the bias added with one rounding, ACT; and the saturations of R176. Without a bias and
ACT an INT32 accumulator is converted as it stands. [DEDUCED, log 51; DEDUCED, log 81] -/
def gemmElem (fa fb act : Nat) (a b : List Val) (bias : Option Nat) : Val × Nat :=
  let ps := a.zip b
  if intFmt fa ∧ intFmt fb then
    let d := intDot ps
    let v : Val := .fin (decide (d.1 < 0)) d.1.natAbs 0
    match bias with
    | none => (if act = 0 then v else v32 (actOf act (rn32 v)), d.2)
    | some c => (v32 (actOf act (rn32 (v.add (v32 c)))), d.2)
  else
    let d := if fa = 0 ∨ fb = 0 then fmaChain (ps.map fun p => (toF32 p.1, toF32 p.2)) else reedDot 0 ps fun _ => .one
    match bias with
    | none => (v32 (actOf act d), 0)
    | some c => (v32 (actOf act (fadd d c)), 0)

/-- A matrix whole, as rows of values. -/
def matRows (m : WMat) (blk : Nat → Except Comp (List Byte)) : Except Comp (List (List Val)) :=
  (List.range m.rows).mapM (matRow m blk)

/-- The one row of a vector matrix as FP32. [DEDUCED, log 81] -/
def matVec (m : WMat) (blk : Nat → Except Comp (List Byte)) : Except Comp (List Nat) := do
  let r ← matRow m blk 0
  return r.map toF32

/-- Slot i of layer l, with its window blocks; a slot of 0xFFFF, or none, gives nothing. -/
def slotMat (g : WImage) (w : Tbl (List Byte)) (l i : Nat) : Option (WMat × (Nat → Except Comp (List Byte))) :=
  if i = 0xFFFF then none else (g.mat l i).map fun m => (m, winBlock w m (l * g.hdr.nmat + i))

/-- Rows lo to hi − 1 of the input through one matrix. Answer the rows and the saturations by column. -/
def gemmPart (k : WKern) (fa : Nat) (rows : List (List Val)) (m : WMat) (ws : List (List Val)) (bias : Option (List Nat)) :
    List (List (Val × Nat)) :=
  rows.map fun a => ws.zipIdx.map fun b => gemmElem fa m.fmt (k.par 16 1) a b.1 (bias.map fun c => lget c b.2 0)

/-! ### Attention over a prefill (R244) -/

/-- The attention operands as an ATTEND would carry them: head dimension from the profile, formats from the tensors. -/
def prefillCmd (x : WarmCtx) (k : WKern) (qFmt : Nat) : AttendCmd where
  seq := x.seq
  layer := 0
  qrows := x.ntok
  gqa := 1
  maskKind := if k.par 18 1 = 1 then 3 else 1
  outFp32 := true
  softcapEn := bit (k.par 19 1) 0
  dlp := 0
  qFmt := qFmt
  deadlineUs := 0
  kvhFirst := 0
  kvhCount := 0
  scale := k.par 20 4
  softcap := k.par 24 4
  qpos0 := 0
  qRef := 0
  outRef := 0
  mask := 0

/-- O of one query row and head over blocks of 64 key positions, in ascending order (R188, R189). -/
def prefillHead (p : Profile) (a : AttendCmd) (bm : List Byte) (t : Nat) (q : List Val) (ks vs : List (List Val)) : List Nat :=
  let kv := (ks.zip vs).zipIdx
  let units := (chunks 64 (kv.length / 64 + 1) kv).map fun u =>
    unitPartial p a q ((u.zipIdx.filter fun e => visible a bm t e.1.2).map fun e => (e.2, e.1.1.1, e.1.1.2))
  let r := units.foldl fold {}
  if r.empty then List.replicate p.hdim 0 else r.u.map fun u => fdiv u.toNat r.l.toNat

/-- Channels of head h of each row. -/
def headOf (p : Profile) (h : Nat) (rows : List (List Val)) : List (List Val) := rows.map fun r => (r.drop (h * p.hdim)).take p.hdim

def prefillRows (x : WarmCtx) (k : WKern) (fq fk fv : Nat) (bm : List Byte) (q kk v : List (List Val)) : List (List Nat) :=
  let p := { x.prof with kFmt := fk, vFmt := fv }
  let a := prefillCmd x k fq
  let nqh := k.par 16 1
  let nkvh := k.par 17 1
  q.zipIdx.map fun row =>
    (List.range nqh).flatMap fun j =>
      let h := j * nkvh / nqh
      prefillHead p a bm row.2 ((row.1.drop (j * p.hdim)).take p.hdim) (headOf p h kk) (headOf p h v)

/-! ### Mixture of experts (R245, R246) -/

/-- Does logit a (expert i) rank before logit b (expert j)? -/
def logitBefore (a b : Nat × Nat) : Bool :=
  let na := (v32 a.1).isNan
  let nb := (v32 b.1).isNan
  if na ∧ nb then decide (a.2 ≤ b.2)
  else if na then false
  else if nb then true
  else flt b.1 a.1 || (!flt a.1 b.1 && decide (a.2 ≤ b.2))

/-- The K selected experts of a row, best first, with their weights. -/
def routeRow (k norm : Nat) (logits : List Nat) : List (Nat × Nat) :=
  let sel := (sortBy logits.zipIdx logitBefore).take k
  let soft := fun (all : List Nat) =>
    let m := all.foldl fmax f32NegInf
    let l := (all.map fun v => fexp (fsub v m)).foldl fadd f32Zero
    sel.map fun e => (e.2, fdiv (fexp (fsub e.1 m)) l)
  match norm with
  | 0 => soft logits
  | 1 => soft (sel.map (·.1))
  | _ => sel.map fun e => (e.2, sigmoidOf e.1)

/-- The dispatch order: (expert, token, rank) ascending, with the weight. -/
def dispatchOrder (routes : List (List (Nat × Nat))) : List (Nat × Nat × Nat) :=
  let all := routes.zipIdx.flatMap fun t => t.1.zipIdx.map fun e => (e.1.1, t.2, e.2)
  sortBy all fun a b => decide (a.1 < b.1 ∨ (a.1 = b.1 ∧ (a.2.1 < b.2.1 ∨ (a.2.1 = b.2.1 ∧ a.2.2 ≤ b.2.2))))

/-! ### One kernel -/

/-- The tensor of a field; validation has found it. -/
def needTen (g : WImage) (i : Nat) : Except Comp WTen :=
  match g.ten i with
  | some t => .ok t
  | none => .error (imgBad .invalid 0)

/-- What a kernel does: its tensor outputs, and the saturations of R176 by output column. -/
structure KernOut where
  outs : List TenOut := []
  sats : List (Nat × Nat) := []
  deriving DecidableEq, Repr

/-- A row-by-row kernel of one input. -/
def mapKern (s : State) (x : WarmCtx) (g : WImage) (k : WKern) (f : List Nat → List Nat) : Except Comp KernOut := do
  let a ← needTen g k.in0
  let o ← needTen g k.out
  let v ← tenF32 s x a
  return { outs := [outF32 o (v.map f)] }

/-- A kernel of two inputs, element by element. -/
def zipKern (s : State) (x : WarmCtx) (g : WImage) (k : WKern) (f : Nat → Nat → Nat) : Except Comp KernOut := do
  let a ← needTen g k.in0
  let b ← needTen g k.in1
  let o ← needTen g k.out
  let va ← tenF32 s x a
  let vb ← tenF32 s x b
  return { outs := [outF32 o ((va.zip vb).map fun r => (r.1.zip r.2).map fun e => f e.1 e.2)] }

/-- GEMM, plain or grouped (R243). -/
def gemmKern (s : State) (x : WarmCtx) (g : WImage) (w : Tbl (List Byte)) (l : Nat) (k : WKern) : Except Comp KernOut := do
  let a ← needTen g k.in0
  let o ← needTen g k.out
  let v ← tenVals s x a
  let offs : List Nat ←
    (if k.grouped then do
      let t ← needTen g k.in1
      let ws ← tenWords s x t
      return ws.map fun r => lget r 0 0
    else return [0, v.length] : Except Comp (List Nat))
  let pieces ← (List.range k.nexp).mapM fun e => do
    let lo := lget offs e 0
    let hi := lget offs (e + 1) 0
    let rows := (v.drop lo).take (hi - lo)
    if rows.isEmpty then return ([] : List (Nat × List (Val × Nat)))
    else
      match slotMat g w l (k.wmat + e) with
      | none => return []
      | some m =>
        let ws ← matRows m.1 m.2
        let bias : Option (List Nat) ← match slotMat g w l (if k.bmat = 0xFFFF then 0xFFFF else k.bmat + e) with
          | some b => (matVec b.1 b.2).map some
          | none => pure none
        return ((gemmPart k a.fmt rows m.1 ws bias).zipIdx.map fun r => (lo + r.2, r.1))
  let done : List (Nat × List (Val × Nat)) := pieces.flatten
  let ncol := o.cols
  let rows : List (Option (List Val)) := (List.range v.length).map fun r =>
    match done.find? (fun (e : Nat × List (Val × Nat)) => e.1 == r) with
    | some e => some (e.2.map (·.1))
    | none => none
  let sats := done.flatMap fun r => r.2.zipIdx.filterMap fun c => if c.1.2 = 0 then none else some (c.2, c.1.2)
  let old ← (List.range v.length).mapM fun r => tenRow s x o r
  return { outs := [{ ten := o,
                      rows := (rows.zip old).map fun r => match r.1 with
                        | some vs => encodeRow o.fmt (fun _ => none) (vs.take ncol)
                        | none => r.2,
                      nans := (rows.zipIdx).flatMap fun r => match r.1 with
                        | some vs => (vs.zipIdx.filter fun v => nanZeroed o.fmt v.1).map fun v => (r.2, v.2)
                        | none => [] }],
           sats := sats }

/-- MOE_ROUTE (R245): the route table, the offsets and the dispatched rows. -/
def routeKern (s : State) (x : WarmCtx) (g : WImage) (k : WKern) : Except Comp KernOut := do
  let a ← needTen g k.in0
  let h ← needTen g k.in1
  let o ← needTen g k.out
  let o2 ← needTen g k.out2
  let ot ← needTen g (k.par 16 2)
  let lg ← tenF32 s x a
  let hid := decoded (← tenVals s x h)
  let routes := lg.map (routeRow (k.par 18 1) (k.par 19 1))
  let order := dispatchOrder routes
  let rowOf := fun (e t r : Nat) => (order.findIdx? fun d => d == (e, t, r)).getD 0
  let table := routes.zipIdx.map fun t => t.1.zipIdx.flatMap fun e => [e.1.1, rowOf e.1.1 t.2 e.2, e.1.2, 0]
  let first := fun (e : Nat) => (order.filter fun d => decide (d.1 < e)).length
  return { outs := [outWords o table, outVals o2 (fun _ _ => none) (order.map fun d => lget hid d.2.1 []),
                    outWords ot ((List.range (k.par 20 2 + 1)).map fun e =>
                      first e :: List.replicate (ot.cols - 1) 0)] }

/-- MOE_GATHER (R246). -/
def gatherKern (s : State) (x : WarmCtx) (g : WImage) (k : WKern) : Except Comp KernOut := do
  let a ← needTen g k.in0
  let rt ← needTen g k.in1
  let o ← needTen g k.out
  let v ← tenF32 s x a
  let tab ← tenWords s x rt
  let row := fun (r : List Nat) => (List.range a.cols).map fun c =>
    (List.range (k.par 18 1)).foldl (fun acc j =>
      fadd acc (fmul (lget r (4 * j + 2) 0) (lget (lget v (lget r (4 * j + 1) 0) []) c 0))) f32Zero
  return { outs := [outF32 o (tab.map row)] }

/-- ATTN_PREFILL (R244). -/
def prefillKern (s : State) (x : WarmCtx) (g : WImage) (k : WKern) : Except Comp KernOut := do
  let a ← needTen g k.in0
  let b ← needTen g k.in1
  let c ← needTen g k.in2
  let o ← needTen g k.out
  let q ← tenVals s x a
  let kk ← tenVals s x b
  let v ← tenVals s x c
  let bm : List Byte ←
    (if k.par 18 1 = 1 then do
      let h ← areaRead s x (k.par 32 8) 16
      areaRead s x (k.par 32 8) (16 + 4 * x.ntok * bmWord h 8)
    else return [] : Except Comp (List Byte))
  return { outs := [outF32 o (prefillRows x k a.fmt b.fmt c.fmt bm q kk v)] }

/-- A kernel other than KV_WRITE, descriptor index d, in layer l (R242 to R248). -/
def runKern (s : State) (x : WarmCtx) (g : WImage) (w : Tbl (List Byte)) (l d : Nat) (k : WKern) : Except Comp KernOut :=
  match k.kop with
  | 0x01 => gemmKern s x g w l k
  | 0x02 => do
    let m : List Nat ← match slotMat g w l k.wmat with
      | some m => matVec m.1 m.2
      | none => pure []
    mapKern s x g k (rmsRow (k.par 16 4) m)
  | 0x03 => do
    let m : List Nat ← match slotMat g w l k.wmat with
      | some m => matVec m.1 m.2
      | none => pure []
    let b : List Nat ← match slotMat g w l k.bmat with
      | some b => matVec b.1 b.2
      | none => pure []
    mapKern s x g k (layerNormRow (k.par 16 4) m b)
  | 0x04 => zipKern s x g k fun a b => fmul (siluOf a) b
  | 0x05 => mapKern s x g k fun r => r.map (if k.par 16 1 = 0 then geluTanh else geluErf)
  | 0x06 => do
    let a ← needTen g k.in0
    let o ← needTen g k.out
    let v ← tenVals s x a
    return { outs := [outVals o (fun _ _ => none) (v.zipIdx.map fun r => rotaryRow x.prof r.2 (r.1.map fun e => v32 (toF32 e)))] }
  | 0x07 => prefillKern s x g k
  | 0x08 => zipKern s x g k fadd
  | 0x09 => routeKern s x g k
  | 0x0A => gatherKern s x g k
  | 0x0C => do
    let a ← needTen g k.in0
    let o ← needTen g k.out
    let v ← tenVals s x a
    let rnd := fun (r c : Nat) =>
      if k.sr ∧ 3 ≤ o.fmt then some (srRand x.node.seed (2 ^ 63 + d * 2 ^ 40 + l * 2 ^ 32 + r) c) else none
    return { outs := [outVals o rnd (decoded v)] }
  | _ => return {}

/-- The logical tile that computes element (row, column) of a kernel's output (R241). -/
def kernOwner (g : WImage) (p : Profile) (k : WKern) (o : TenOut) (r c : Nat) : Nat :=
  match k.kop with
  | 0x01 => shareOwner g.hdr.ntiles o.ten.cols c
  | 0x07 => shareOwner g.hdr.ntiles (k.par 16 1) (c / p.hdim)
  | 0x09 => 0
  | _ => shareOwner g.hdr.ntiles o.rows.length r

/-- Put a kernel's outputs and count its events on the tiles that computed them (R167, R176). -/
def putKern (s : State) (x : WarmCtx) (g : WImage) (k : WKern) (tiles : List Nat) (o : KernOut) : State :=
  let s := o.outs.foldl (fun s t => putTen s x t) s
  let tileAt := fun (i : Nat) => lget tiles i 0
  let s := o.outs.foldl (fun s t => t.nans.foldl (fun s e => tileCount s (tileAt (kernOwner g x.prof k t e.1 e.2)) 22) s) s
  match o.outs with
  | t :: _ => o.sats.foldl (fun s e => tileCount s (tileAt (shareOwner g.hdr.ntiles t.ten.cols e.1)) 23 e.2) s
  | [] => s

/-- The embedding (R235): row t of EMB_OUT is row TOKEN[t] of the embedding matrix. -/
def embedRows (s : State) (x : WarmCtx) (g : WImage) (toks : List Nat) : Except Comp KernOut :=
  match g.emb, g.ten g.hdr.embOut with
  | some m, some o => do
    let at_ := g.hdr.matOff + 32 * (g.hdr.layers * g.hdr.nmat)
    let blk := fun (b : Nat) => do
      let st ← blockStored s x m at_ b
      blockExpand m b st
    let rows ← toks.mapM (matRow m blk)
    return { outs := [outVals o (fun _ _ => none) (decoded rows)] }
  | _, _ => return {}

end Sys2Proof.Machine
end

