-- ==== Sys2Proof/Machine/Warm.lean ====
section
/-!
DEFINITION. WARM from its issue to its end: the slots and reservations (R226, R227), the checks of the command (R225, R234), the weight
window (R237, R238), steps and barriers (R228, R229, R236), KV_WRITE (R247), completion and failure (R250, R251).
-/

namespace Sys2Proof.Machine

/-! ### Operation slots (R31, R61) -/

/-- Has the tile a free operation slot? -/
def slotRoom (s : State) (t : Nat) : Bool := (s.tile t).slots.any (·.isNone)

/-- The command takes the lowest free slot of the tile. [DESIGN CHOICE, log 34] -/
def slotTake (s : State) (t acc : Nat) : State :=
  s.setTile t fun u =>
    match lfind u.slots (·.isNone) with
    | some i => { u with slots := lset u.slots i (some acc) }
    | none => u

/-- A command gives back the slots it holds. -/
def slotDrop (s : State) (acc : Nat) : State :=
  { s with tiles := s.tiles.map fun u => { u with slots := u.slots.map fun a => if a = some acc then none else a } }

/-! ### The operation -/

def warmOpOf (s : State) (acc : Nat) : Option WarmOp := s.warm.ops.find? fun o => o.acc == acc
def setWarmOp (s : State) (acc : Nat) (f : WarmOp → WarmOp) : State :=
  { s with warm := { s.warm with ops := s.warm.ops.map fun o => if o.acc = acc then f o else o } }

/-- The context of a WARM whose profile is at hand. -/
def warmCtx (s : State) (n : Node) (q ntok imageRef : Nat) : Option WarmCtx :=
  (seqProfile s n.hdr.epoch q).map fun p => { node := n, prof := p, seq := q, ntok := ntok, imageRef := imageRef }

/-- The header as the dependency tracker reads it at issue; none where it cannot be read. -/
def warmHeader (s : State) (n : Node) (imageRef : Nat) : Option WImg :=
  match refRead s n.ring n.hdr.epoch imageRef 256 with
  | .data bs => some (parseImg bs)
  | _ => none

/-- The tiles and scratchpad units that a WARM needs at issue (R226, R227). None: it cannot run at all, and its own row ends it. [DEDUCED, log 80] -/
def warmNeeds (s : State) (n : Node) (tiles imageRef : Nat) : Option (List Nat × Nat) :=
  let ts := tilesAt s n.hdr.epoch (ringPt n.ring)
  match warmHeader s n imageRef with
  | none => none
  | some i =>
    if i.ntiles = 0 ∨ ts.length < i.ntiles ∨ (tiles ≠ 0 ∧ tiles ≠ i.ntiles) then none
    else if (ts.take i.ntiles).any (fun t => decide (s.reg (pgTil t) 0x600 * 65536 < i.spadBytes) || !(nodeTiles s n).contains t) then none
    else some (ts.take i.ntiles, i.spadBytes / 65536)

/-- May the WARM be issued: a free slot on each tile, and the reservation beside those of the running WARMs? [DEDUCED, log 80] -/
def warmRoom (s : State) (need : Option (List Nat × Nat)) : Bool :=
  match need with
  | none => true
  | some (ts, u) => ts.all fun t => slotRoom s t && decide ((s.tile t).reserved + u ≤ 256)

/-- The T0 pages in a tile's reserved range. [DEDUCED, log 80] -/
def reservedPages (s : State) (t : Nat) : List Nat :=
  s.blw.t0.filterMap fun e =>
    match e.2 with
    | .page cpn => if e.1 / 256 = t ∧ e.1 % 256 < (s.tile t).reserved then some cpn else none
    | _ => none

/-- The WARM is issued: slots, reservation, a cleared stall count, and evacuations of T0 pages from the reserved range. -/
def warmIssued (s : State) (n : Node) (q ntok imageRef tokensRef : Nat) (need : Option (List Nat × Nat)) : State :=
  match need with
  | none => s
  | some (ts, u) =>
    let s := ts.foldl (fun s t => (slotTake s t n.acc).setTile t fun v => { v with reserved := v.reserved + u, stall := 0 }) s
    let s := ts.foldl (fun s t => (reservedPages s t).foldl (fun s cpn => queueTo s cpn .t1 1 t) s) s
    { s with warm := { s.warm with ops := s.warm.ops ++
      [{ acc := n.acc, pt := ringPt n.ring, seq := q, ntok := ntok, imageRef := imageRef, tokensRef := tokensRef, tiles := ts,
         spadUnits := u }] } }

/-- The operation leaves its tiles: reservations and slots go back. -/
def warmRelease (s : State) (acc : Nat) : State :=
  match warmOpOf s acc with
  | none => s
  | some o =>
    let s := o.tiles.foldl (fun s t => s.setTile t fun v => { v with reserved := v.reserved - o.spadUnits }) s
    { slotDrop s acc with warm := { s.warm with ops := s.warm.ops.filter fun p => p.acc != acc } }

/-- Drop a WARM whose node has ended otherwise: its pages' references, its tiles, its lock (R250). -/
def warmDrop (s : State) (acc : Nat) : State :=
  match warmOpOf s acc with
  | none => s
  | some o =>
    let s := warmRelease (allocDone s acc) acc
    let s := o.pages.foldl (fun s p => dropRef s p.2.cpn) s
    if (s.ctx o.seq).lockOwner = some acc then dropLock s o.seq else s

/-- A WARM fails (R250). Poison that it met is recorded. -/
def warmFail (s : State) (n : Node) (q : Nat) (c : Comp) : State :=
  let s := if c.status = .poisoned then
      match warmOpOf s n.acc with
      | some o => recPoison s n 0 o.imageRef
      | none => s
    else s
  let s := warmDrop s n.acc
  let s := if (s.ctx q).lockOwner = some n.acc then dropLock s q else s
  finish s n.acc c

/-! ### The command (R225, R226, R234) -/

/-- Does the target hold no tokens in any layer? -/
def targetEmpty (s : State) (q : Nat) : Bool := (List.range (s.ctx q).layers).all fun l => decide ((s.row q l).tokens = 0)

def warmStart (s : State) (n : Node) (q tiles ntok imageRef tokensRef : Nat) : State :=
  if ¬ (s.ctx q).warmTarget ∨ ¬ targetEmpty s q then warmFail s n q (invalidAt 16)
  else
    match warmCtx s n q ntok imageRef with
    | none => warmFail s n q (invalidAt 16)
    | some x =>
      match warmValidate s x tiles tokensRef with
      | .error c => warmFail s n q c
      | .ok g =>
        match warmOpOf s n.acc with
        | none => warmFail s n q (invalidAt 19)
        | some o =>
          if o.tiles.length ≠ g.hdr.ntiles ∨ o.spadUnits * 65536 ≠ g.hdr.spadBytes then warmFail s n q (invalidAt 19)
          else setWarmOp (takeLock s q n.acc n.ring) n.acc fun o => { o with image := some g }

def runWarm (s : State) (n : Node) (q tiles ntok imageRef tokensRef : Nat) : State :=
  if (s.ctx q).lockOwner = some n.acc then s
  else
    let t := onSequence s n q fun s => warmStart s n q tiles ntok imageRef tokensRef
    match t.node n.acc with
    | some m => if m.outcome.isSome then warmDrop t n.acc else t
    | none => t

/-- WARM: its checks; then it runs at its tiles' steps. -/
def execWarm (c : Try) (s : State) : Host.Outcome State Fault Refusal :=
  .next (contended s c.acc c.rivals fun s n =>
    match n.cmd with
    | .warm q t k i r => leafGate s c.acc none fun s => runWarm s n q t k i r
    | _ => s)

/-! ### The window (R237, R238) -/

/-- Tile cycles of a time in ns at a tile's step (R26). -/
def tileCycles (t : Tile) (ns : Nat) : Nat := ns * (200 + 25 * t.step) / 1000

/-- The wait of a layer's first kernel ends: it is counted on every tile. -/
def countStall (s : State) (o : WarmOp) : State :=
  match o.waitFrom with
  | none => s
  | some t0 =>
    let s := o.tiles.foldl (fun s t =>
      let c := tileCycles (s.tile t) (s.time - t0)
      tileCount (s.setTile t fun v => { v with stall := (v.stall + c) % 2 ^ 32 }) t 21 c) s
    setWarmOp s o.acc fun o => { o with waitFrom := none }

/-- The next layer has loaded on every tile. -/
def windowLoaded (s : State) (n : Node) (o : WarmOp) (l : Nat) : State :=
  match o.image, warmCtx s n o.seq o.ntok o.imageRef with
  | some g, some x =>
    if l ≠ o.loaded ∨ g.hdr.layers ≤ l ∨ o.layer + g.hdr.window ≤ l then s
    else
      match loadLayer s x g l o.win with
      | .error c => warmFail s n o.seq c
      | .ok w =>
        let s := setWarmOp s n.acc fun o => { o with loaded := l + 1, win := w }
        if l = o.layer then countStall s o else s
  | _, _ => s

def execWindowLayerLoaded (acc layer : Nat) (s : State) : Host.Outcome State Fault Refusal :=
  .next (match liveNode s acc, warmOpOf s acc with
    | some n, some o => windowLoaded s n o layer
    | _, _ => s)

/-! ### KV_WRITE (R247) -/

/-- Heads of a token's row, from model KV head `base` on. -/
def kvHeads (p : Profile) (row : List Val) : List (List Val) :=
  (List.range p.kvh).map fun h => (row.drop ((p.kvhBase + h) * p.hdim)).take p.hdim

/-- What a KV_WRITE comes to. -/
inductive KvRes where
  | done (s : State) (pages : List Pte)
  | wait
  | fail (c : Comp)
  deriving DecidableEq, Repr

/-- Write one page of the target. `tile` writes it. -/
def kvPage (s : State) (x : WarmCtx) (p : Profile) (l tile : Nat) (toks : List StagedTok) : Option (Pte × State) :=
  let y : NewPage := { prof := p, profId := (s.ctx x.seq).profile, seq := x.seq, layer := l, pos := (toks.head?.map (·.pos)).getD 0,
                       epoch := x.node.hdr.epoch, home := homeTile s x.seq, warmed := true }
  match newPage s x.pt y with
  | none => none
  | some (cpn, s) =>
    let s := fillPage s cpn { y with home := tile } x.node.seed 0 toks
    let s := if toks.length = p.tpp then tierHint (setEff s cpn .resident) x.seq cpn else s
    some ({ cpn := cpn, fill := toks.length }, s)

def kvPages (s : State) (x : WarmCtx) (p : Profile) (l : Nat) : List (Nat × List StagedTok) → List Pte → Option (List Pte × State)
  | [], ps => some (ps, s)
  | (tile, toks) :: rest, ps =>
    match kvPage s x p l tile toks with
    | none => none
    | some (e, s) => kvPages s x p l rest (ps ++ [e])

/-- KV_WRITE of layer l: its frames are reserved before anything is written (R260). -/
def kvWrite (s : State) (x : WarmCtx) (g : WImage) (tiles : List Nat) (l : Nat) (k : WKern) : KvRes :=
  let p := { x.prof with rotEn := false, sr := k.sr }
  let np := ceilDiv x.ntok p.tpp
  if 15360 < np then .fail (failWith .nospace)
  else if ptFree s x.pt < np * p.framesPerPage then .wait
  else
    match g.ten k.in0, g.ten k.in1 with
    | some a, some b =>
      match tenVals s x a, tenVals s x b with
      | .ok ks, .ok vs =>
        let toks := ((ks.zip vs).zipIdx).map fun t =>
          stageTok p x.node.seed x.seq l t.2 (decoded (kvHeads p t.1.1))
            (decoded (kvHeads p t.1.2))
        let nans := fun (t : List Val × List Val) => nanCount p.kStage (kvHeads p t.1) + nanCount p.vFmt (kvHeads p t.2)
        let owner := fun (i : Nat) => lget tiles (shareOwner g.hdr.ntiles np i) 0
        match kvPages s x p l ((chunks p.tpp (np + 1) toks).zipIdx.map fun c => (owner c.2, c.1)) [] with
        | none => .wait
        | some (ps, s) => .done ((ks.zip vs).zipIdx.foldl (fun s t => tileCount s (owner (t.2 / p.tpp)) 22 (nans t.1)) s) ps
      | .error c, _ => .fail c
      | _, .error c => .fail c
    | _, _ => .fail (imgBad .invalid 0)

/-! ### Kernels in order (R236) -/

/-- R250: the last kernel has ended. -/
def warmComplete (s : State) (n : Node) (o : WarmOp) (tpp : Nat) : State :=
  let q := o.seq
  let ls := (s.ctx q).layers
  let s := (List.range ls).foldl (fun s l =>
    addChunks (s.setRow q l fun r => { r with tokens := o.ntok, staged := 0, ptes := (o.pages.filter fun p => p.1 == l).map (·.2) }) q l) s
  let s := s.setCtx q fun c => { c with length := o.ntok, tokensIn := (c.tokensIn + ls * o.ntok) % 2 ^ 64 }
  finish (dropLock (warmRelease s n.acc) q) n.acc { result := ceilDiv o.ntok tpp }

/-- The current kernel has ended on every tile and its effect stands: the next kernel, the next layer, or the end. -/
def warmNext (s : State) (n : Node) (o : WarmOp) (g : WImage) (tpp : Nat) : State :=
  if o.kernel + 1 < (g.kernsOf o.layer).length then
    setWarmOp s n.acc fun o => { o with kernel := o.kernel + 1, finished := [] }
  else if o.layer + 1 < g.hdr.layers then
    let l := o.layer + 1
    setWarmOp s n.acc fun o =>
      { o with layer := l, kernel := 0, finished := [],
               win := o.win.filter fun e => e.1 / 2 ^ 32 / g.hdr.nmat != o.layer,
               waitFrom := if o.loaded ≤ l then some s.time else none }
  else
    match warmOpOf s n.acc with
    | some o => warmComplete s n o tpp
    | none => s

/-- The effect of the kernel that every tile has finished: the gather of embeddings, KV_WRITE, or another kernel. -/
def warmEffect (s : State) (n : Node) (o : WarmOp) (g : WImage) (x : WarmCtx) : State :=
  if ¬ o.embedded then
    match warmTokens s x o.tokensRef with
    | .error c => warmFail s n o.seq c
    | .ok toks =>
      match embedRows s x g toks with
      | .error c => warmFail s n o.seq c
      | .ok r =>
        setWarmOp (putKern s x g (parseKern (zeros 64)) o.tiles r) n.acc fun o =>
          { o with embedded := true, finished := [], waitFrom := if o.loaded = 0 then some s.time else none }
  else
    match (g.kernsOf o.layer)[o.kernel]? with
    | none => warmFail s n o.seq (imgBad .invalid 0)
    | some k =>
      if k.kop = 0x0B then
        match kvWrite s x g o.tiles o.layer k with
        | .wait => allocWait s n
        | .fail c => warmFail s n o.seq c
        | .done t ps =>
          let t := setWarmOp (allocDone t n.acc) n.acc fun o => { o with pages := o.pages ++ ps.map fun p => (o.layer, p) }
          warmNext t n o g x.prof.tpp
      else
        match runKern s x g o.win o.layer o.kernel k with
        | .error c => warmFail s n o.seq c
        | .ok r => warmNext (putKern s x g k o.tiles r) n o g x.prof.tpp

/-- Has every tile finished the kernel? Then its effect comes about. -/
def warmBarrier (s : State) (n : Node) : State :=
  match warmOpOf s n.acc with
  | none => s
  | some o =>
    if o.finished.length < o.tiles.length then s
    else
      match o.image, warmCtx s n o.seq o.ntok o.imageRef with
      | some g, some x => warmEffect s n o g x
      | _, _ => s

/-! ### Steps (R228, R229) -/

/-- Has a WARM a step that can end on the tile? Its image is valid, no page lies in its reservation, and its layer is loaded. -/
def warmSteps (s : State) (t acc : Nat) : Bool :=
  match warmOpOf s acc, liveNode s acc with
  | some o, some _ =>
    o.image.isSome && o.tiles.contains t && !o.finished.contains t && (!o.embedded || decide (o.layer < o.loaded))
      && o.tiles.all fun u => (reservedPages s u).isEmpty
  | _, _ => false

/-- Has the committed map taken the tile from the partition (R229)? [DEDUCED, log 80] -/
def tileLost (s : State) (pt t : Nat) : Bool := !bit (lget s.dep.cfg.pmap.pts pt {}).tiles t

/-- Is the region of the image gone: no version of it is open any more (R239)? [DEDUCED, log 80] -/
def regionLost (s : State) (o : WarmOp) : Bool :=
  refSpace o.imageRef == 3 && (openVersion s o.pt (refRegion o.imageRef)).isNone

/-- One step of the picked WARM ends on the tile. How many steps of at most 20 µs its kernel takes there the spec leaves open: a free value says
whether this one is the last (R228). [DEDUCED, log 80] -/
def warmStep (s : State) (t : Nat) (n : Node) (o : WarmOp) : State :=
  if tileLost s o.pt t then warmFail s n o.seq (failWith .revoked 19)
  else if regionLost s o then warmFail s n o.seq warmRevoked
  else
    let d := draw s
    if d.1 % 2 = 1 then d.2
    else warmBarrier (setWarmOp d.2 n.acc fun o => { o with finished := o.finished ++ [t] }) n

/-- Has the operation in a slot work for the tile: a WARM a step, an ATTEND a unit (R27)? -/
def slotWorks (s : State) (t acc : Nat) : Bool :=
  warmSteps s t acc || (tget s.att.ops acc).any fun o => o.begun && !o.todo.isEmpty

/-- KERNEL_STEP_END: the tile's pointer picks the operation whose turn it is (R228), and a WARM's step ends; an ATTEND's turn shows in the rows of
its units. The pointer moves where several have work (R69). -/
def stepEnd (s : State) (t : Nat) : State :=
  let ready := (List.range 16).filter fun i =>
    match lget (s.tile t).slots i none with
    | some acc => slotWorks s t acc
    | none => false
  match ptrPick 16 (s.tile t).slotPtr ready with
  | none => s
  | some i =>
    let s := if 2 ≤ ready.length then s.setTile t fun u => { u with slotPtr := ptrNext 16 i } else s
    let s := tileCount s t 25
    match (lget (s.tile t).slots i none).bind (liveNode s), (lget (s.tile t).slots i none).bind (warmOpOf s) with
    | some n, some o => warmStep s t n o
    | _, _ => s

def execKernelStepEnd (tile : Nat) (s : State) : Host.Outcome State Fault Refusal :=
  .next (if s.boot.fatal then s else stepEnd s tile)

/-- WARM_TILE_REVOKED: every WARM with a tile that the committed map takes from its partition ends (R229). -/
def warmRevokeTiles (s : State) : State :=
  s.warm.ops.foldl (fun s o =>
    if o.tiles.any (tileLost s o.pt) then
      match liveNode s o.acc with
      | some n => warmFail s n o.seq (failWith .revoked 19)
      | none => s
    else s) s

/-! ### The tile's warm registers (R255) -/

/-- The lowest accepted WARM on a tile. -/
def warmShown (s : State) (t : Nat) : Option WarmOp := minBy (·.acc) (s.warm.ops.filter fun o => o.tiles.contains t)

/-- TIL_WARM_STAT. -/
def warmStat (s : State) (t : Nat) : Nat :=
  match warmShown s t with
  | none => b2n ((s.tile t).slots.any fun a => (a.bind (liveNode s)).any fun n => n.hdr.opcode == 0x0D)
  | some o => 1 + o.layer % 256 * 2 + o.kernel % 256 * 2 ^ 9 + (o.loaded - o.layer) % 16 * 2 ^ 17

end Sys2Proof.Machine
end

