-- ==== Sys2Proof/Machine/Tracker.lean ====
section
/-!
DEFINITION. The dependency tracker: acceptance (R60, R38, R66, R67), issue (R61, R31, R75, R226, R227), completion, aborts and graph
entries (R62 to R65), NOP and FENCE, and the resumption of commands that waited for frames (R260, R102).
-/

namespace Sys2Proof.Machine

/-! ### Acceptance (R60) -/

/-- Nodes and graphs of a ring that have not completed. -/
def openWork (s : State) (ring : Nat) : List Nat :=
  ((s.dep.nodes.filter fun n => n.2.ring == ring).map (·.1)) ++ (s.dep.graphs.filter fun g => g.2.ring == ring).map (·.1)

/-- Has the standalone command or graph of an acceptance number completed? -/
def accDone (s : State) (acc : Nat) : Bool := !tmem s.dep.nodes acc && !tmem s.dep.graphs acc

/-- The FENCEs of a ring that have not completed: every later command waits for them (R67). -/
def openFences (s : State) (ring : Nat) : List Nat :=
  (s.dep.nodes.filter fun n => n.2.ring == ring && (match n.2.cmd with | .fence _ => true | _ => false)).map (·.1)

/-- What a command or graph of a ring waits for at acceptance: FENCEs, and with ORD = 1 the one accepted before it (R66). -/
def ringWaits (s : State) (ring : Nat) : List Nat :=
  let r := s.subRing ring
  let prev := match r.lastAcc with
    | some a => if r.ord ∧ ¬ accDone s a then [a] else []
    | none => []
  openFences s ring ++ prev

/-- Put an accepted node into the store, with its CMD record. An ATTEND's page list goes to the Bellows (R271). -/
def putNode (s : State) (n : Node) (raw : List Byte) : State :=
  let s := recCmd s n.ring n.acc 0xFFFF raw
  let s := { s with dep := { s.dep with nodes := tset s.dep.nodes n.acc n } }
  match n.cmd with
  | .attend a => attendAccepted s n a
  | _ => s

/-- Accept one standalone command. -/
def acceptSingle (s : State) (ring : Nat) (h : Header) (c : Cmd) (raw : List Byte) : State :=
  let waits := match c with
    | .fence _ => (openWork s ring ++ ringWaits s ring).eraseDups
    | _ => ringWaits s ring
  let a := takeAcc s
  let s := putNode a.2 { acc := a.1, ring := ring, hdr := h, cmd := c, waits := waits, accTime := s.time,
                         seed := (s.part (ringPt ring)).seed } raw
  s.setSubRing ring fun r => { r with lastAcc := some a.1 }

/-- Mark a node of a graph as completed with a status. -/
def markDone (s : State) (g idx : Nat) (st : Status) : State :=
  match tget s.dep.graphs g with
  | some x => { s with dep := { s.dep with graphs := tset s.dep.graphs g { x with done := x.done ++ [(idx, st)] } } }
  | none => s

/-- Report the end of a node of a graph, or of a standalone command. -/
def reportEnd (s : State) (acc ring : Nat) (h : Header) (g : Option Nat) (c : Comp) : State :=
  match g.bind (tget s.dep.graphs) with
  | some x => markDone (reportNode s acc ring h x.graphId x.cmode h.node c) x.acc h.node c.status
  | none => reportNode s acc ring h 0 false h.node c

/-- Accept the nodes of a graph in order; one that failed its own checks completes at once (R56). -/
def acceptNodes (s : State) (ring g : Nat) (waits : List Nat) : List FetchedNode → State
  | [] => s
  | f :: fs =>
    let a := takeAcc s
    let t := match f.cmd with
      | some c => putNode a.2 { acc := a.1, ring := ring, hdr := f.hdr, cmd := c, graph := some g, waits := waits, accTime := s.time,
                                seed := (s.part (ringPt ring)).seed } f.raw
      | none => reportEnd (recCmd a.2 ring a.1 f.bad.status.code f.raw) a.1 ring f.hdr (some g) f.bad
    acceptNodes t ring g waits fs

/-! ### Aborts and graph entries (R62, R64) -/

/-- The nodes of a graph in index order. -/
def graphNodesOf (s : State) (g : Nat) : List Node :=
  sortBy ((s.dep.nodes.filter fun n => n.2.graph == some g).map (·.2)) fun a b => decide (a.hdr.node ≤ b.hdr.node)

/-- Has a node a predecessor that failed? -/
def predFailed (x : Graph) (n : Node) : Bool := n.hdr.deps.any fun d => x.done.any fun e => e.1 == d && !e.2.success

/-- A node leaves the store. -/
def dropNode (s : State) (acc : Nat) : State := { s with dep := { s.dep with nodes := tdel s.dep.nodes acc } }

/-- NODE_ABORT: one pass over a graph's nodes in index order ends every unissued node with a failed predecessor and ANYWAY = 0. A node's
dependences have lower indices, so the pass carries aborts on. -/
def abortPass (s : State) : List Node → State
  | [] => s
  | n :: ns =>
    let t := match n.graph.bind (tget s.dep.graphs) with
      | some x =>
        if ¬ n.issued ∧ ¬ n.hdr.anyway ∧ predFailed x n ∧ n.outcome.isNone then
          count (reportEnd (dropNode s n.acc) n.acc n.ring n.hdr (some x.acc) (failWith .aborted)) pgDep 2 (ringPt n.ring)
        else s
      | none => s
    abortPass t ns

/-- The status of a graph's entry (R64). -/
def graphComp (x : Graph) : Comp :=
  let fails := x.done.filter fun e => !e.2.success && e.2 != .aborted
  match minBy (·.1) fails with
  | some e => { status := e.2, detail1 := e.1 }
  | none => { detail0 := (x.done.filter fun e => e.2.success && e.2 != .ok).length }

/-- GRAPH_ENTRY_POST: after the last node the graph is complete; with CMODE = 1 its entry is posted. -/
def graphEnd (s : State) (g : Nat) : State :=
  match tget s.dep.graphs g with
  | none => s
  | some x =>
    if x.done.length < x.nnodes then s
    else
      let s := { s with dep := { s.dep with graphs := tdel s.dep.graphs g } }
      if x.cmode then reportNode s x.acc x.ring { x.hdr with silent := false } x.graphId false 0xFFF (graphComp x) else s

/-- After a node of a graph has ended: aborts, then the graph's end. -/
def graphStep (s : State) (g : Option Nat) : State :=
  match g with
  | none => s
  | some g => graphEnd (abortPass s (graphNodesOf s g)) g

/-- Accept a whole graph. -/
def acceptGraph (s : State) (ring : Nat) (h : Header) (nn id : Nat) (cm : Bool) (raw : List Byte) (ns : List FetchedNode) : State :=
  let waits := ringWaits s ring
  let a := takeAcc s
  let s := recCmd a.2 ring a.1 0xFFFF raw
  let x : Graph := { acc := a.1, ring := ring, hdr := h, nnodes := nn, graphId := id, cmode := cm }
  let s := { s with dep := { s.dep with graphs := tset s.dep.graphs a.1 x } }
  let s := s.setSubRing ring fun r => { r with lastAcc := some a.1 }
  graphStep (acceptNodes s ring a.1 waits ns) (some a.1)

/-- Nodes that a fetched item takes in the store. -/
def itemNodes : Fetched → Nat
  | .single _ _ _ => 1
  | .graph _ _ _ _ _ _ ns => (ns.filter fun f => f.cmd.isSome).length
  | .done => 0

/-- The header and the bytes of a fetched command, or of a fetched graph's GRAPH_BEGIN once it is framed. -/
def itemHead : Fetched → Option (Header × List Byte)
  | .single h _ raw | .graph h _ _ _ true raw _ => some (h, raw)
  | _ => none

/-- Has a fetched item room: a graph's was kept when it was taken (R60)? -/
def itemRoom (s : State) (pt : Nat) (it : Fetched) : Bool :=
  match it with
  | .single _ _ _ => storeRoom s pt 1
  | _ => storeFits s (ptUse s) pt (itemNodes it)

/-- Accept the first item of a ring, if it fits; its slots are released (R38). A commit made since the fetch may have made its epoch too
old: then steps 2 and 3 of R56 reject it now, a graph by its GRAPH_BEGIN, so that no third epoch is ever live (R73). -/
def acceptFirst (s : State) (ring : Nat) : State :=
  match (s.subRing ring).buf with
  | (k, it) :: rest =>
    let free := fun (s : State) => releaseDone (s.setSubRing ring fun r => { r with head := (r.head + k) % r.size, buf := rest }) ring 16
    match itemHead it with
    | none => s
    | some (h, raw) =>
    match check23 s h with
    | some e => free (rejectSingle s ring raw e)
    | none =>
    if ¬ itemRoom s (ringPt ring) it then s
    else
      match it with
      | .single h c raw => count (acceptSingle (free s) ring h c raw) pgDep 0 (ringPt ring)
      | .graph h nn id cm true raw ns => count (acceptGraph (free s) ring h nn id cm raw ns) pgDep 0 (ringPt ring)
      | _ => s
  | [] => s

/-- May commands of the ring be accepted: its partition is ACTIVE, or it is a manager ring of one that has not failed (R505)? -/
def mayAccept (s : State) (ring : Nat) : Bool :=
  let st := (s.part (ringPt ring)).state
  !s.boot.fatal && (st == .active || ((s.subRing ring).mgr && st != .failed && st != .scrubbing))

/-- GRAPH_ACCEPT: the next command or whole graph that stands fetched in the ring. -/
def execGraphAccept (ring : Nat) (s : State) : Host.Outcome State Fault Refusal :=
  .next (if mayAccept s ring then acceptFirst (releaseDone s ring 16) ring else s)

/-! ### Issue (R61) -/

/-- Have the command's predecessors completed, and with success unless ANYWAY = 1? -/
def depsMet (s : State) (n : Node) : Bool :=
  n.waits.all (accDone s) && match n.graph.bind (tget s.dep.graphs) with
  | some x => n.hdr.deps.all fun d => x.done.any fun e => e.1 == d && (e.2.success || n.hdr.anyway)
  | none => true

/-- Does the tracker carry the command out alone, without a tile (R61)? [DEDUCED, log 83] -/
def noTile : Cmd → Bool
  | .nop | .fence _ | .epochCommit _ _ => true
  | _ => false

/-- The tile on which a command takes its slot: for an ATTEND its sequence's staging tile, for any other the lowest tile with a free
slot. None: no slot is free now. [DESIGN CHOICE, log 34] -/
def issueTile (s : State) (n : Node) (ts : List Nat) : Option Nat :=
  let low := ts.find? (slotRoom s)
  match n.cmd with
  | .attend a =>
    let t := (s.ctx a.seq).stageTile
    if ts.contains t then (if slotRoom s t then some t else none) else low
  | _ => low

/-- Is another WARM of the partition, accepted earlier, waiting to be issued (R227)? [DEDUCED, log 80] -/
def warmBefore (s : State) (n : Node) : Bool :=
  s.dep.nodes.any fun e =>
    decide (e.1 < n.acc) && !e.2.issued && e.2.outcome.isNone && ringPt e.2.ring == ringPt n.ring && depsMet s e.2
      && (match e.2.cmd with | .warm _ _ _ _ _ => true | _ => false)

/-- The queue pair of a command that sends requests (R452). -/
def nodeQp : Cmd → Option Nat
  | .putPage x | .getPage x => some x.qpn
  | .send q _ _ => some q
  | _ => none

/-- The counts R105 notes for an ATTEND, for its ISSUE record. -/
def issueCounts (s : State) (acc : Nat) : Nat × Nat :=
  match s.attend acc with
  | some o => (o.flushed, o.staged.length)
  | none => (0, 0)

/-- The ISSUE record (R520). [DEDUCED, log 83] -/
def recIssue (s : State) (n : Node) (tile : Option Nat) : State :=
  let pt := ringPt n.ring
  let c := issueCounts s n.acc
  let s := recNow s 0x02 pt n.acc (toLe 1 (tile.getD 0x3F) ++ zeros 3 ++ toLe 4 c.1 ++ toLe 4 c.2 ++ zeros 4) (ringSecure s n.ring)
  if recorded s pt then { s with rec_ := { s.rec_ with issues := lmod s.rec_.issues pt (· + 1) } } else s

/-- What a unit notes when its command is issued. -/
def unitIssued (s : State) (n : Node) : State :=
  match n.cmd with
  | .attend a => attendIssued s n a
  | .headGather c => if c.isCollector then collectorIssued s n c false else s
  | .spanMerge c => if c.isCollector then collectorIssued s n c true else s
  | c =>
    match nodeQp c with
    | some q => qpIssued s q n.acc
    | none => s

/-- Mark the node issued, on a tile or on none. [DEDUCED, log 83] -/
def markIssued (s : State) (n : Node) (tile : Option Nat) : State :=
  let s := s.setNode n.acc fun m => { m with issued := true, tile := tile }
  let s := unitIssued s { n with issued := true, tile := tile }
  let pt := ringPt n.ring
  let s := recIssue (count s pgDep 1 pt) n tile
  if unitsReady s n then s else noteHeld s n

/-- Issue a node whose dependences are met, if it can be issued now. [DEDUCED, log 83] -/
def issueNode (s : State) (n : Node) : State :=
  let ts := nodeTiles s n
  if noTile n.cmd then markIssued s n none
  else
    match n.cmd with
    | .warm q tiles ntok img toks =>
      let need := if ts = [] then none else warmNeeds s n tiles img
      if warmBefore s n ∨ ¬ warmRoom s need then s
      else
        match need with
        | some w => markIssued (warmIssued s n q ntok img toks need) n w.1.head?
        | none =>
          match ts.find? (slotRoom s) with
          | some t => markIssued (slotTake s t n.acc) n (some t)
          | none => if ts = [] then markIssued s n none else s
    | _ =>
      if ¬ (nodeQp n.cmd).all (qpRoom s) then s
      else if ts = [] then markIssued s n none
      else
        match issueTile s n ts with
        | some t => markIssued (slotTake s t n.acc) n (some t)
        | none => s

/-- Must a node of the committed epoch wait for its issue (R75): until the tracker has applied it, and, where it takes a tile's slot, until
the tiles have applied its partition map? -/
def issueHeld (s : State) (n : Node) : Bool := unitLags s n 1 || (!noTile n.cmd && unitLags s n 3)

/-- NODE_ISSUE: not while the partition's completion buffer is full (R40) or its checkpoint runs (R317); a replay issues its nodes itself (R524). -/
def execNodeIssue (acc : Nat) (s : State) : Host.Outcome State Fault Refusal :=
  .next (match s.node acc with
    | some n =>
      let pt := ringPt n.ring
      if n.issued ∨ n.outcome.isSome ∨ s.boot.fatal ∨ ¬ depsMet s n ∨ 256 ≤ (lget s.dep.cbuf pt []).length ∨ ckptRuns s pt ∨ replaying s pt then s
      else if issueHeld s n then noteHeld s n
      else issueNode s n
    | none => s)

/-! ### NOP and FENCE -/

def execNop (acc : Nat) (s : State) : Host.Outcome State Fault Refusal :=
  .next (match liveNode s acc with
    | some n =>
      match n.cmd with
      | .nop => finish s acc {}
      | _ => s
    | none => s)

/-- Does a host port still hold write frames of an origin, or has it sent some that are not acknowledged? -/
def writesOut (s : State) (port origin : Nat) : Bool :=
  let t := s.sched port
  let mine := fun (f : QFrame) => f.origin == origin
  t.qs.any (fun q => q.frames.any mine) || t.stalled.any mine || (s.link port).unacked.any fun w => w.2 == origin

/-- FENCE: it was issued once every earlier command of its ring had completed; with ARRIVE = 1 it waits for their writes. -/
def execFence (acc : Nat) (s : State) : Host.Outcome State Fault Refusal :=
  .next (match liveNode s acc with
    | some n =>
      match n.cmd with
      | .fence arrive => if arrive ∧ writesOut s (ringPort s n.ring) (1 + n.ring) then s else finish s acc {}
      | _ => s
    | none => s)

/-! ### Completion (R65) -/

/-- What a command that ended holds no longer: its lock, its waits, its place on the tiles, its attention state. -/
def releaseAll (s : State) (n : Node) : State :=
  let s := warmDrop (allocDone s n.acc) n.acc
  let s := match s.attend n.acc with
    | some o => endAttend s o (n.outcome.getD {})
    | none => s
  let s := match lockSeq n.cmd with
    | some q => if (s.ctx q).lockOwner = some n.acc then dropLock s q else s
    | none => s
  let mine := fun (a : Nat) => a == n.acc
  let s := { s with att := { s.att with collectors := s.att.collectors.filter (fun c => !mine c.acc),
                                        contribs := s.att.contribs.filter (fun c => !mine c.acc) } }
  slotDrop s n.acc

/-- A node with an outcome leaves the store: its completion, its successors, its graph. -/
def completeNode (s : State) (n : Node) (c : Comp) : State :=
  let s := dropNode (releaseAll s n) n.acc
  graphStep (reportEnd s n.acc n.ring n.hdr n.graph c) n.graph

/-- [DESIGN CHOICE, log 1] -/
def execNodeComplete (acc : Nat) (s : State) : Host.Outcome State Fault Refusal :=
  .next (match s.node acc with
    | some n =>
      match n.outcome with
      | some c => if s.boot.fatal then s else completeNode s n c
      | none => s
    | none => s)

/-! ### Waits for frames and granules -/

/-- A command that waited for frames or granules goes on (R260, R102). -/
def resumeAlloc (s : State) (n : Node) : State :=
  match n.cmd with
  | .append a => runAppend s n a
  | .flush q l => runFlush s n q l
  | .seqFork c h p l => runFork s n c h p l
  | .getPage x => runGet s n x
  | .warm _ _ _ _ _ => warmBarrier s n
  | _ => s

/-- [DEDUCED, log 41] -/
def execAllocWaitGranted (acc : Nat) (s : State) : Host.Outcome State Fault Refusal :=
  .next (match liveNode s acc with
    | some n => if allocWaiting s acc then resumeAlloc s n else s
    | none => s)

/-- ALLOC_WAIT_US is over: NOSPACE. A GET's request goes with it, and a WARM fails under R250. -/
def waitTimeout (s : State) (n : Node) : State :=
  if ¬ allocWaiting s n.acc then s
  else
    match n.cmd with
    | .getPage x => allocTimeout (cancelReq s x.qpn n.acc) n
    | .warm q _ _ _ _ =>
      match s.seq.allocWaits.find? fun w => w.acc == n.acc with
      | some w => warmFail (count (s.reach w.until_) pgBlw 8 (ringPt n.ring)) n q (failWith .nospace)
      | none => s
    | _ => allocTimeout s n

def execAllocWaitTimeout (acc : Nat) (s : State) : Host.Outcome State Fault Refusal :=
  .next (match liveNode s acc with
    | some n => waitTimeout s n
    | none => s)

end Sys2Proof.Machine
end

