-- ==== Sys2Proof/Machine/Partition.lean ====
section
/-!
DEFINITION. A partition's keys (R484, R485), its salt and seed (R126, R173), and its entry into ACTIVE (R474) with the records that
start its recording (R516, R520).
-/

namespace Sys2Proof.Machine

/-! ### Keys -/

/-- PRK of a partition: device-keyed from DRK, tenant-keyed from TS (R485). -/
def derivePrk (pt pepoch : Nat) : Option (List Byte) → List Byte
  | none => kdf Config.deviceRootKey (ascii "QK PARTITION") (toLe 1 pt ++ toLe 8 pepoch) 256
  | some ts => kdf ts (ascii "QK TENANT PRK") (toLe 8 pepoch) 256

/-- The key check value (R485). -/
def keyCheckValue (prk : List Byte) : List Byte := kdf prk (ascii "QK CHECK") [] 64

/-- n bytes of the random generator. -/
def drawBytes (s : State) : Nat → List Byte × State
  | 0 => ([], s)
  | n + 1 =>
    let d := draw s
    let r := drawBytes d.2 n
    (toLe 8 d.1 ++ r.1, r.2)

/-- Load a salt and a seed from the random generator (R126, R173). -/
def loadSalt (s : State) (pt : Nat) : State :=
  let d := drawBytes s 4
  let s := d.2
  { s with chn := { s.chn with salt := lset s.chn.salt pt d.1, saltSrc := lset s.chn.saltSrc pt false } }
def setSeed (s : State) (pt seed : Nat) : State := s.setPart pt fun p => { p with seed := seed, seedLo := seed % 2 ^ 32 }
def loadSeed (s : State) (pt : Nat) : State :=
  let d := draw s
  setSeed d.2 pt d.1

/-! ### Records of a partition's configuration -/

/-- The 128 bytes of a partition's entry in a staged map. -/
def entryBytes (m : PtMap) (pt : Nat) : List Byte := padTo 128 ((m.raw.drop (128 + 128 * pt)).take 128)

/-- The SEED record (R520). -/
def recSeed (s : State) (pt : Nat) : State := recNow s 0x07 pt pt (toLe 8 (s.part pt).seed ++ zeros 8) true
/-- The PTCFG record. -/
def recPtcfg (s : State) (pt : Nat) : State :=
  recNow s 0x0A pt pt (entryBytes s.dep.cfg.pmap pt ++ toLe 2 s.dep.epoch ++ zeros 14) true

/-! ### The state machine of R474 -/

/-- A partition becomes ACTIVE. With RECORD and ARM its replayable recording begins (R516). -/
def enterActive (s : State) (pt : Nat) : State :=
  let s := s.setPart pt fun p => { p with state := .active }
  let v := s.reg pgRec 0x20C
  let s := if s.rec_.state = 1 ∧ bit v pt ∧ bit v (8 + pt) then
      { s with rec_ := { s.rec_ with
        running := (s.rec_.running.filter (· != pt)) ++ [pt], replayable := (s.rec_.replayable.filter (· != pt)) ++ [pt],
        issues := lset s.rec_.issues pt 0 } }
    else s
  recSeed (recPtcfg s pt) pt

/-- A partition map with a VALID entry is applied to an EMPTY partition: salt and seed are loaded; it is ACTIVE, or KEYING with
TKEY = 1. [DEDUCED, log 10] -/
def configurePt (s : State) (pt : Nat) (tkey : Bool) : State :=
  let s := loadSeed (loadSalt s pt) pt
  if tkey then recSeed (recPtcfg (s.setPart pt fun p => { p with state := .keying }) pt) pt
  else
    let s := s.setPart pt fun p => { p with prk := derivePrk pt p.pepoch none }
    enterActive s pt

end Sys2Proof.Machine
end

