-- ==== Sys2Proof/Machine/Report.lean ====
section
/-!
DEFINITION. Errors, counters, snapshots and the recorder as their own commands see them: error entries (R503), the counter gatherer with
its comparators (R511 to R513), the programmable counters (R510), the common header (R346 to R354), and the recorder's segments and
registers (R516 to R526).
-/

namespace Sys2Proof.Machine

/-! ### Error entries (R503) -/

/-- The completion ring of an error ring: the partition and ring of CNT_PT_ERR, or of CNT_SEC_ERR for ring 8. -/
def errRing (s : State) (ring : Nat) : Nat × Nat :=
  if ring = 8 then (bits (s.reg pgCnt 0x20C) 0 3, bits (s.reg pgCnt 0x20C) 3 6) else (ring, bits (s.reg pgCnt 0x220 ring) 0 6)

/-- The oldest entry of an error buffer is written into a returned slot; its SQ_HEAD gives the entries dropped before it. -/
def postErr (s : State) (ring : Nat) : State :=
  let at_ := errRing s ring
  let c := s.cplRing at_.1 at_.2
  let b := lget s.cnt.bufs ring {}
  match b.entries with
  | [] => s
  | e :: rest =>
    if ¬ cqRoom c then s
    else
      let s := { s with cnt := { s.cnt with bufs := lset s.cnt.bufs ring { entries := rest, lost := 0 } } }
      coalesce (writeCq s at_.1 at_.2 (errBytes e b.lost c.phase)) at_.1 at_.2 false

def execErrorEntryPost (ring : Nat) (s : State) : Host.Outcome State Fault Refusal :=
  .next (if s.boot.fatal then s else postErr s ring)

/-- A device-fatal error with its cause (R506). [DEDUCED, log 90] -/
def execDeviceFatal (cause : Nat) (s : State) : Host.Outcome State Fault Refusal := .next (fatal s cause 0)

/-! ### Counters (R507 to R513) -/

/-- The counter indices of a block: TIL leaves out 9 to 15. -/
def counterIdx (type : Nat) : List Nat :=
  (List.range (numCounters type)).filter fun i => !(type == 0x13 && decide (9 ≤ i ∧ i < 16))

/-- A counter as its area shows it: a tile's cycles, its programmable counters, or the sum over the partitions (R507). -/
def counterValue (s : State) (page i : Nat) : Nat :=
  if pageType page = 0x13 ∧ i = 0 then (s.tile (pageInst page)).cycles
  else if pageType page = 0x13 ∧ 1 ≤ i ∧ i ≤ 8 then lget (s.tile (pageInst page)).pmc (i - 1) 0
  else counterSum s page i

/-- Does a counter keep one value per partition (R508)? [DEDUCED, log 20] -/
def perPartition (type i : Nat) : Bool :=
  match type with
  | 0x06 | 0x05 | 0x08 | 0x12 | 0x0C => true
  | 0x07 => i != 5
  | 0x09 => decide (i < 2)
  | 0x0A => i != 3
  | 0x0B => i != 0
  | _ => false

/-- A 16-byte entry of a gather record (R512). [DEDUCED, log 20] -/
def gatherEntry (page i pt v : Nat) : List Byte := toLe 2 page ++ toLe 1 i ++ toLe 1 pt ++ zeros 4 ++ toLe 8 v

/-- The entries of the secure record: every counter, and every partition's value. -/
def secEntries (s : State) : List (List Byte) :=
  snapPages.flatMap fun page => (counterIdx (pageType page)).flatMap fun i =>
    gatherEntry page i 0xFF (counterValue s page i)
      :: (if perPartition (pageType page) i then (List.range 8).map fun p => gatherEntry page i p (counterOf s page i p) else [])

/-- The entries of a partition's record: its own values, and the counters of its tiles. -/
def ptEntries (s : State) (pt : Nat) : List (List Byte) :=
  snapPages.flatMap fun page =>
    if pageType page = 0x13 then
      if tileOwner s.appliedMap (pageInst page) = pt then
        (counterIdx 0x13).map fun i => gatherEntry page i 0xFF (counterValue s page i)
      else []
    else ((counterIdx (pageType page)).filter (perPartition (pageType page))).map fun i => gatherEntry page i pt (counterOf s page i pt)

/-- A gather record (R512). [DEDUCED, log 20] -/
def gatherRecord (s : State) (es : List (List Byte)) : List Byte :=
  toLe 4 0x52544E43 ++ toLe 4 es.length ++ toLe 8 s.cnt.gatherNo ++ toLe 8 s.time ++ zeros 40 ++ es.flatten

/-- Where a ring's slot of this gather lies: slots of 64 KiB, as no rule gives their size. [DESIGN CHOICE, log 27] -/
def gatherSlot (s : State) (nrec : Nat) : Nat := if nrec = 0 then 0 else s.cnt.gatherNo % nrec * 65536

/-- The counter that a comparator watches, as it stands. -/
def watched (s : State) (n : Nat) : Nat :=
  let v := s.reg pgCnt 0x22C n
  if bit v 23 then counterOf s (bits v 0 12) (bits v 12 8) (bits v 20 3) else counterValue s (bits v 0 12) (bits v 12 8)

/-- A comparator looks at its counter: a rise from below VAL to VAL or above fires it once (R513). Answer whether one has fired. [DEDUCED, log 19] -/
def comparator (r : State × Bool) (n : Nat) : State × Bool :=
  let s := r.1
  let v := watched s n
  let src := s.reg pgCnt 0x22C n
  let val := s.reg64 pgCnt 0x230 n
  let old := lget s.cnt.thrLast n 0
  let s := { s with cnt := { s.cnt with thrLast := lset s.cnt.thrLast n v } }
  if bit src 24 ∧ old < val ∧ val ≤ v then
    (setIrq (s.setReg pgCnt 0x22C n (setBits src 24 1 0)) (bits src 0 12) 2, true)
  else (s, r.2)

/-- All eight comparators look; those that fire in one cycle make one trigger (R352). [DEDUCED, log 19] -/
def comparators (s : State) : State :=
  let r := (List.range 8).foldl comparator (s, false)
  if r.2 then counterTrigger r.1 else r.1

/-- The state whose counters a gather reads: its instant has come, and the events that no row shows have been counted (R511).
[DEDUCED, log 92] -/
def gatherDue (s : State) : State := snapPages.foldl growHidden (s.reach (s.cnt.gatherAt + bits (s.reg pgCnt 0x200) 0 16 * 1000))

/-- The gatherer reads every counter and writes its records (R511). [DEDUCED, log 19; DEDUCED, log 20] -/
def gatherAll (s : State) : State :=
  let s := gatherDue s
  let base := s.reg pgCnt 0x204 + bits (s.reg pgCnt 0x208) 0 8 * 2 ^ 32
  let sec := gatherRecord s (secEntries s)
  let recs := (List.range 8).map fun p => gatherRecord s (ptEntries s p)
  let s := hbmWrite s (base + gatherSlot s (bits (s.reg pgCnt 0x208) 8 16)) sec
  let s := (List.range 8).foldl (fun s p =>
    let hi := s.reg pgCnt 0x21C p
    if bit hi 24 then
      waWrite s s.dep.cfg.pmap p (s.reg pgCnt 0x218 p + bits hi 0 8 * 2 ^ 32 + gatherSlot s (bits hi 8 16)) (lget recs p [])
    else s) s
  let s := { s with cnt := { s.cnt with gatherNo := (s.cnt.gatherNo + 1) % 2 ^ 64, gatherAt := s.time } }
  comparators (assertLine s 1)

/-- [DESIGN CHOICE, log 27] -/
def execCounterGather (s : State) : Host.Outcome State Fault Refusal :=
  .next (if s.boot.fatal ∨ bits (s.reg pgCnt 0x200) 0 16 = 0 then s else gatherAll s)

/-! ### Programmable counters (R510) -/

/-- May the requester write a tile's TIL_PMC_CFG? The secure world, or the owner while its GLB_PERF_USER bit is 1. -/
def mayPerf (s : State) (rq : Requester) (tile : Nat) : Bool :=
  mayReach s rq (pgTil tile) && (rq.secure || (tileOwner s.appliedMap tile == rq.pt && bit (s.reg pgGlb 0x214) rq.pt))

/-- CLR of TIL_PMC_CFGn. -/
def clearPmc (s : State) (tile n : Nat) : State := s.setTile tile fun t => { t with pmc := lset t.pmc n 0 }

def execPmcClr (req : Requester) (tile n : Nat) (s : State) : Host.Outcome State Fault Refusal :=
  .next (if s.boot.fatal ∨ 48 ≤ tile ∨ 8 ≤ n then s
    else if mayPerf s req tile then clearPmc s tile n
    else logErr s (pgTil tile) 0x03 0 (0x610 + 4 * n) 0 req)

/-- A write of TIL_PMC_CFGn: its fields, and CLR. -/
def writePmcCfg (s : State) (rq : Requester) (tile n w : Nat) : State :=
  if mayPerf s rq tile then
    let s := storeFields s rq (pgTil tile) (0x610 + 4 * n) 0 w
    if bit w 9 then clearPmc s tile n else s
  else logErr s (pgTil tile) 0x03 0 (0x610 + 4 * n) 0 rq

/-! ### The common header (R346 to R354) -/

/-- A write of the common header that only the secure world makes: on no page of R339 it is an access to an unmapped page (R340). -/
def onHeader (s : State) (rq : Requester) (page off : Nat) (f : State → State) : State :=
  if pageType page = 0 then logErr s pgGlb 0x04 0 off page rq else secureOnly s rq page off f

/-- SNAP_REL: the page's snapshot is released (R353). -/
def relSnap (s : State) (page : Nat) : State := s.setPage page fun p => { p with snap := none }
/-- LOG_REL: the page's error log is unlocked and cleared (R348). -/
def relLog (s : State) (page : Nat) : State := s.setPage page fun p => { p with log := none }

/-- BLK_WORLD (R350): while LOCK = 1 a differing SECURE is refused; otherwise SECURE is set, and LOCK with it. -/
def writeWorld (s : State) (rq : Requester) (page v : Nat) : State :=
  let p := s.page page
  if p.lock then (if bit v 0 = p.secure then s else logErr s page 0x06 0 0x38 0 rq)
  else s.setPage page fun p => { p with secure := bit v 0, lock := bit v 1 }

def execSnapRel (req : Requester) (page : Nat) (s : State) : Host.Outcome State Fault Refusal :=
  .next (if s.boot.fatal then s else onHeader s req page 0x18 fun s => relSnap s page)
def execLogRel (req : Requester) (page : Nat) (s : State) : Host.Outcome State Fault Refusal :=
  .next (if s.boot.fatal then s else onHeader s req page 0x18 fun s => relLog s page)
def execBlkWorld (req : Requester) (page : Nat) (val : Word) (s : State) : Host.Outcome State Fault Refusal :=
  .next (if s.boot.fatal then s else onHeader s req page 0x38 fun s => writeWorld s req page val.toNat)

/-- SNP_TRIG.GO: a software trigger when SW_EN = 1 (R352). -/
def softTrigger (s : State) : State := if bit (s.reg pgSnp 0x200) 0 then snapTrigger s 1 else s
/-- SNP_RELEASE.ALL: the snapshot of every block is released (R353). -/
def relAll (s : State) : State := snapPages.foldl relSnap s

def execSnpTrig (req : Requester) (s : State) : Host.Outcome State Fault Refusal :=
  .next (if s.boot.fatal then s else secureOnly s req pgSnp 0x204 softTrigger)
def execSnpRelease (req : Requester) (s : State) : Host.Outcome State Fault Refusal :=
  .next (if s.boot.fatal then s else secureOnly s req pgSnp 0x208 relAll)

/-! ### The recorder (R516 to R526) -/

/-- REC_MARK: one record that carries the written value, in the stream of every recorded partition. -/
def execRecMark (req : Requester) (val : Word) (s : State) : Host.Outcome State Fault Refusal :=
  .next (if s.boot.fatal then s else secureOnly s req pgRec 0x220 fun s => recAll s 0x0C val.toNat [])

/-- The oldest buffered record does not fit into the segment: the segment completes, and buffered records go to the next one. -/
def segDone (s : State) : State :=
  match s.rec_.buf with
  | [] => s
  | r :: _ =>
    if s.rec_.state ≠ 1 ∨ recFits s r then s
    else
      let s := segClose s
      recDrain s s.rec_.buf

def execRecSegmentDone (s : State) : Host.Outcome State Fault Refusal := .next (if s.boot.fatal then s else segDone s)

/-- The first partition with dropped records for which the buffer has room gets its LOSS record (R517). [DEDUCED, log 18] -/
def lossRecord (s : State) : State :=
  match (List.range 8).find? fun p => decide (0 < lget s.rec_.lostPending p 0) && recRoom s p 16 with
  | none => s
  | some p =>
    if s.rec_.state ≠ 1 then s
    else
      let n := lget s.rec_.lostPending p 0
      let s := recPush s { rtype := 0x0D, pt := p, ref := n % 2 ^ 32, time := s.time, body := [] }
      { s with rec_ := { s.rec_ with lostPending := lset s.rec_.lostPending p 0 } }

def execRecLossRecord (s : State) : Host.Outcome State Fault Refusal := .next (if s.boot.fatal then s else lossRecord s)

/-- EN of REC_CFG rises: recording of the partitions with RECORD and without ARM begins, in segment 0 (R516). -/
def recStart (s : State) : State :=
  let v := s.reg pgRec 0x20C
  { s with rec_ := { s.rec_ with
    state := 1, running := (List.range 8).filter fun p => bit v p && !bit v (8 + p), replayable := [], buf := [], segNo := 0, used := 0,
    count := 0, segTime := 0, lostPending := List.replicate 8 0, issues := List.replicate 8 0 } }

/-- EN falls: the buffered records go to the ring, the segment they end in completes, and recording stops. [DEDUCED, log 18] -/
def recStop (s : State) : State :=
  let s := recFlush s s.rec_.buf
  let s := if s.rec_.state = 1 ∧ s.rec_.used ≠ 0 then segClose s else s
  { s with rec_ := { s.rec_ with state := 0, running := [], buf := [], lostPending := List.replicate 8 0 } }

/-- A write of REC_CFG (R526, R529 notes 1 and 6). -/
def writeRecCfg (s : State) (rq : Requester) (w : Nat) : State :=
  let en := bit (s.reg pgRec 0x200) 0
  let bad := (en && bit w 0) || (s.rec_.replay == 1 && bit w 0)
    || (bit w 1 && !(strictPortOwner s (bits w 8 2)).isEmpty)
  if bad then logErr s pgRec 0x06 0 0x200 0 rq
  else
    let s := if en then recStop s else s
    let s := storeFields s rq pgRec 0x200 0 w
    if ¬ en ∧ bit w 0 then recStart s else s

/-- A write of REC_PT: a partition whose RECORD is cleared ends its stream; one whose RECORD is set without ARM begins it. -/
def writeRecPt (s : State) (rq : Requester) (w : Nat) : State :=
  let s := storeFields s rq pgRec 0x20C 0 w
  let keep := s.rec_.running.filter (bit w)
  let more := if s.rec_.state = 1 then
      (List.range 8).filter fun p => bit w p && !bit w (8 + p) && !keep.contains p
    else []
  { s with rec_ := { s.rec_ with running := keep ++ more, replayable := s.rec_.replayable.filter (bit w),
                                 issues := more.foldl (fun l p => lset l p 0) s.rec_.issues } }

/-! ### The seed register (R174) -/

/-- SEQ_SR_SEED_HI: the partition's new 64-bit seed takes effect, and a SEED record is written (R173). -/
def writeSeedHi (s : State) (v : Nat) : State :=
  let pt := bits (s.reg pgSeq 0x218) 0 3
  recSeed (setSeed s pt ((s.part pt).seedLo + v * 2 ^ 32)) pt

def execSeqSrSeedHi (req : Requester) (val : Word) (s : State) : Host.Outcome State Fault Refusal :=
  .next (if s.boot.fatal then s else secureOnly s req pgSeq 0x244 fun s => writeSeedHi s val.toNat)

end Sys2Proof.Machine
end

