-- ==== Sys2Proof/Machine/Clock.lean ====
section
/-!
DEFINITION. The passing of one reference-clock cycle: the time base (R356), the tiles' cycle counters (R508) and the counter
comparators (R513).
-/

namespace Sys2Proof.Machine

/-- A tile counts its own clock's cycles: a tile at step k runs at 200 + 25 k MHz (R26), the reference at 156.25 MHz, so
(8 + k) × 4 / 25 cycles pass in one reference cycle. -/
def tileTick (t : Tile) : Tile :=
  { t with cycles := (t.cycles + (t.cycAcc + (8 + t.step) * 4) / 25) % 2 ^ 64,
           cycAcc := (t.cycAcc + (8 + t.step) * 4) % 25 }

/-- SLOTS_FULL of a tile whose 16 slots are held counts the cycles that pass (R508). -/
def countFull (s : State) (t : Nat) : State :=
  let u := s.tile t
  if u.slots.all (·.isSome) then tileCount s t 24 ((u.cycAcc + (8 + u.step) * 4) / 25) else s

/-- One reference-clock cycle passes. While the reference clock is lost nothing counts (R557); after a device-fatal error the tiles
stand (R506). [DESIGN CHOICE, log 2; DEDUCED, log 19] -/
def idleTick (s : State) : State :=
  if s.clk.refOk then
    let s := { s with time := s.time + refNs s.phase, phase := (s.phase + 1) % 5 }
    if s.boot.fatal then s
    else
      let s := (List.range 48).foldl countFull s
      comparators { s with tiles := s.tiles.map tileTick }
  else s

end Sys2Proof.Machine
end

