-- ==== Sys2Proof/Machine/Bellows.lean ====
section
/-!
DEFINITION. The Bellows' own work: sweep hands (R265 to R268, R270), the sketch's decay (R269), idle leaves (R261), and HINT (R273,
R274).
-/

namespace Sys2Proof.Machine

/-! ### Destinations (R266) -/

/-- The tier of a SPILL_ORDER code. -/
def orderTier : Nat → Option Tier
  | 1 => some .t2 | 2 => some .t3 | 3 => some .th
  | _ => none

/-- Where a page spilled from a tier goes. `allowed`: the tiers open to this hand. -/
def spillDest (s : State) (cpn : Nat) (src : Tier) (allowed : List Tier) : Option Tier :=
  let pt := cpnPt cpn
  let p := ptPolicy s pt
  let staging := (s.loc cpn).state == .staging
  let order := (p.order.filterMap orderTier).filter fun t => allowed.contains t
  let first := if p.coldT3En ∧ estimate s cpn ≤ p.coldT3 ∧ ¬ staging ∧ order.contains .t3 then [Tier.t3] else []
  (first ++ order).find? fun t => t != src && !(t == .t3 && staging) && tierFree s pt t

/-! ### Hands (R265) -/

/-- What a visit does to a page, by its AGE. -/
inductive Visit where
  | skip | age (n : Nat) | guard | spill
  deriving DecidableEq, Repr

/-- The rule of R265 for a page at hand. -/
def visitPage (s : State) (cpn guarded : Nat) : Visit :=
  let e := s.loc cpn
  let p := ptPolicy s (cpnPt cpn)
  if ¬ [PgState.staging, .resident, .sharedRo].contains e.state then .skip
  else if e.age = 0xFE then .skip
  else if e.age = 0xFF then .spill
  else if p.spillAge ≤ e.age then
    if p.hotKeep ≤ estimate s cpn ∧ guarded < (blwPolicy s).hotSkipMax then .guard else .spill
  else .age (min (e.age + 1) 0xFD)

/-- Carry out a visit: the state, and the hand's guarded count and whether the lap is to go on. -/
def carryVisit (s : State) (h : Hand) (cpn : Nat) (v : Visit) (spill : State → State × Bool) : State × Hand :=
  match v with
  | .skip => (s, h)
  | .age n => (setAge s cpn n, { h with dirty := true })
  | .guard => (setAge s cpn 0, { h with guarded := h.guarded + 1, dirty := h.dirty || (s.loc cpn).age != 0 })
  | .spill =>
    let r := spill s
    (r.1, { h with guarded := 0, dirty := h.dirty || r.2 })

/-- Queue a spill to the destination R266 gives, or count it blocked. -/
def queueSpill (s : State) (cpn : Nat) (src : Tier) (allowed : List Tier) (cls home : Nat) : State × Bool :=
  match spillDest s cpn src allowed with
  | some t => queueMove s { cpn := cpn, kind := .page t, cls := cls, home := home }
  | none => (count s pgBlw 2 (cpnPt cpn), false)

/-- The hand stands at a frame that it visits; where its lap begins there, that is the lap's frame. [DEDUCED, log 78] -/
def visitAt (h : Hand) (f : Nat) : Hand := if h.frame = h.lapFrom then { h with frame := f, lapFrom := f } else { h with frame := f }

/-- Does the way from the hand's frame on to `next`, with the wrap at the end, come to where the lap began? [DEDUCED, log 78] -/
def endsLap (h : Hand) (next : Nat) : Bool :=
  if h.frame < next then decide (h.frame < h.lapFrom ∧ h.lapFrom ≤ next) else decide (h.frame < h.lapFrom ∨ h.lapFrom ≤ next)

/-- The hand moves on to `next`. A lap that ends without a spill or a change of AGE stops it. [DEDUCED, log 78] -/
def advanceHand (h : Hand) (next : Nat) : Hand :=
  if endsLap h next then { h with frame := next, lapFrom := next, stopped := !h.dirty, dirty := false }
  else { h with frame := next }

/-- A hand resumes or rests by the free frames it watches, in per mille. [DEDUCED, log 78] -/
def handRun (h : Hand) (free total low high : Nat) : Hand :=
  { h with running := if high * total ≤ free * 1000 then false else if free * 1000 < low * total then true else h.running }

/-- The next frame of the partition in a stack's pool after f, wrapping. -/
def nextFrame (s : State) (pt m f : Nat) : Option Nat :=
  match t1Pool s m with
  | none => none
  | some (a, l) =>
    match nthOwned (pcMask s pt m) (max f a) 0 with
    | some x => if x ≤ l then some x else nthOwned (pcMask s pt m) a 0
    | none => none

/-- SWEEP_VISIT of a (partition, stack). -/
def sweepVisit (s : State) (pt m : Nat) : State :=
  let p := ptPolicy s pt
  let free := ptFreeIn s pt m
  let total := ptFramesIn s pt m
  let h := handRun (tgetD s.blw.hands (handKey pt m) {}) free total p.lowPm p.highPm
  let put := fun (s : State) (h : Hand) => { s with blw := { s.blw with hands := tset s.blw.hands (handKey pt m) h } }
  if h.stopped ∨ ¬ h.running then put s h
  else
    match nextFrame s pt m h.frame with
    | none => put s h
    | some f =>
      let h := visitAt h f
      let cls := if free * 1000 < p.minPm * total then 2 else 5
      let r := match frameHolder s (m * 2 ^ 20 + f) with
        | some (cpn, false) =>
          let e := s.loc cpn
          if e.tier = Tier.t1 ∧ e.addr = m * 2 ^ 20 + f then
            carryVisit s h cpn (visitPage s cpn h.guarded) fun s => queueSpill s cpn .t1 [.t2, .t3, .th] cls 0
          else (s, h)
        | _ => (s, h)
      let next := (nextFrame r.1 pt m (f + 1)).getD f
      let stopped := (tgetD r.1.blw.hands (handKey pt m) {}).stopped
      put r.1 (advanceHand { r.2 with stopped := stopped } next)

def execSweepVisit (pt stack : Nat) (s : State) : Host.Outcome State Fault Refusal :=
  .next (if s.boot.fatal then s else sweepVisit s pt stack)

/-- The next spill frame of a partition after ADDR a, through its extents by index, wrapping. -/
def nextSpill (s : State) (pt a : Nat) : Option Nat :=
  let es := (spillExts s pt).map (·.2)
  let here := es.find? fun e => e.rbase == a / 2 ^ 32 && decide (a % 2 ^ 32 < e.size * 996)
  match here with
  | some _ => some a
  | none =>
    match minBy (fun e => e.rbase) (es.filter fun e => decide (a / 2 ^ 32 < e.rbase)) with
    | some e => some (e.rbase * 2 ^ 32)
    | none => (minBy (fun e => e.rbase) es).map fun e => e.rbase * 2 ^ 32

/-- SWEEP_T2_VISIT (R267). [DEDUCED, log 78] -/
def sweepT2 (s : State) (pt : Nat) : State :=
  let p := ptPolicy s pt
  let free := t2Free s pt
  let total := t2Frames s pt
  let h := handRun (tgetD s.blw.t2Hands pt {}) free total p.lowPm p.highPm
  let put := fun (s : State) (h : Hand) => { s with blw := { s.blw with t2Hands := tset s.blw.t2Hands pt h } }
  if h.stopped ∨ ¬ h.running then put s h
  else
    match nextSpill s pt h.frame with
    | none => put s h
    | some a =>
      let h := visitAt h a
      let cls := if free * 1000 < p.minPm * total then 2 else 5
      let r := match tget s.blw.t2 (ptKey pt a) with
        | some (.page cpn) =>
          let e := s.loc cpn
          if e.tier = Tier.t2 ∧ e.addr = a then
            carryVisit s h cpn (visitPage s cpn h.guarded) fun s => queueSpill s cpn .t2 [.t3, .th] cls 0
          else (s, h)
        | _ => (s, h)
      let next := (nextSpill r.1 pt (a + 1)).getD a
      let stopped := (tgetD r.1.blw.t2Hands pt {}).stopped
      put r.1 (advanceHand { r.2 with stopped := stopped } next)

def execSweepT2Visit (pt : Nat) (s : State) : Host.Outcome State Fault Refusal :=
  .next (if s.boot.fatal then s else leafGate s s.dep.accNext none fun s => sweepT2 s pt)

/-- Does a queued promotion want a slot of the tile? -/
def wantsSlot (s : State) (tile : Nat) : Bool :=
  s.blw.queue.any fun r => r.home == tile && (match r.kind with | .page .t0 => true | _ => false)

/-- SWEEP_T0_VISIT (R265, R270): the tile's Bellows slots, counted down from the top; a spill is a demotion to T1. [DEDUCED, log 78] -/
def sweepT0 (s : State) (tile : Nat) : State :=
  let pt := tileOwner s.appliedMap tile
  let n := (ptPolicy s pt).t0Slots
  let h := tgetD s.blw.t0Hands tile {}
  let put := fun (s : State) (h : Hand) => { s with blw := { s.blw with t0Hands := tset s.blw.t0Hands tile h } }
  let freeSlot := (List.range n).any fun i => decide ((s.tile tile).reserved ≤ 255 - i) && !tmem s.blw.t0 (tile * 256 + (255 - i))
  if n = 0 ∨ h.stopped ∨ freeSlot ∨ ¬ wantsSlot s tile then s
  else
    let k := h.frame % n
    let h := visitAt h k
    let a := tile * 256 + (255 - k)
    let r := match tget s.blw.t0 a with
      | some (.page cpn) =>
        let e := s.loc cpn
        if e.tier = Tier.t0 ∧ e.addr = a then
          carryVisit s h cpn (visitPage s cpn h.guarded) fun s =>
            queueMove s { cpn := cpn, kind := .page .t1, cls := 7, home := tile }
        else (s, h)
      | _ => (s, h)
    let stopped := (tgetD r.1.blw.t0Hands tile {}).stopped
    put r.1 (advanceHand { r.2 with stopped := stopped } ((k + 1) % n))

def execSweepT0Visit (tile : Nat) (s : State) : Host.Outcome State Fault Refusal :=
  .next (if s.boot.fatal then s else sweepT0 s tile)

/-! ### The sketch and the leaves -/

/-- SKETCH_DECAY (R269): every counter is halved, every DECAY_MS. -/
def sketchDecay (s : State) : State :=
  let s := s.reach s.blw.decayAt
  let sk := (s.blw.sketch.map fun e => (e.1, e.2 / 2)).filter fun e => e.2 != 0
  { s with blw := { s.blw with sketch := sk, decayAt := s.time + (blwPolicy s).decayMs * 1000000 } }

def execSketchDecay (s : State) : Host.Outcome State Fault Refusal :=
  .next (if s.boot.fatal then s else sketchDecay s)

/-- LEAF_IDLE: LEAF_IDLE_MS after the last change of a leaf that may go to T2, its move is queued; what lets it go is looked at again when
it starts. [DEDUCED, log 59] -/
def leafIdle (s : State) (n : Nat) : State :=
  let ms := (blwPolicy s).leafIdleMs
  let f := tgetD s.blw.leaves n {}
  let queued := s.blw.queue.any fun r => r.cpn == n && isLeaf r.kind
  if ms = 0 ∨ f.inT2 ∨ f.moving ∨ queued ∨ ¬ tmem s.blw.leaves n ∨ ¬ leafCold s n then s
  else
    let s := s.reach (f.changed + ms * 1000000)
    let r : MoveReq := { cpn := n, kind := .leaf true, cls := 8, ord := s.blw.reqNext }
    { s with blw := { s.blw with queue := s.blw.queue ++ [r], reqNext := s.blw.reqNext + 1 } }

def execLeafIdle (leaf : Nat) (s : State) : Host.Outcome State Fault Refusal :=
  .next (if s.boot.fatal then s else leafIdle s leaf)

/-! ### HINT (R273, R274) -/

/-- The CPNs that the PTEs of a range of layers name. [DEDUCED, log 57] -/
def hintPages (s : State) (q first n : Nat) : List Nat :=
  ((List.range n).flatMap fun i => (s.row q (first + i)).ptes.map (·.cpn)).eraseDups

/-- Kept pages of a partition (BLW_PT_KEPT). -/
def keptPages (s : State) (pt : Nat) : Nat := (s.seq.locs.filter fun e => cpnPt e.1 == pt && e.2.age == 0xFE).length

/-- What a HINT has done so far: the state, the pages marked, the moves queued. -/
structure HintAcc where
  s : State
  marked : Nat
  queued : Nat
  deriving DecidableEq, Repr

/-- Mark a page's AGE. -/
def HintAcc.mark (a : HintAcc) (cpn age : Nat) : HintAcc := { a with s := setAge a.s cpn age, marked := a.marked + 1 }
/-- Queue a move; a request already as urgent does not count. -/
def HintAcc.queue (a : HintAcc) (cpn : Nat) (t : Tier) (cls home : Nat) : HintAcc :=
  let r := queueMove a.s { cpn := cpn, kind := .page t, cls := cls, home := home }
  { a with s := r.1, queued := a.queued + b2n r.2 }

/-- The tier of a HINT's TIER field. -/
def hintTier (t : Nat) : Tier := if t = 1 then .t2 else if t = 2 then .t3 else .th

/-- A demote's effect on one page, as KIND 3 of a HINT counts it. -/
def HintAcc.demote (a : HintAcc) (cpn : Nat) (t : Tier) (home : Nat) : HintAcc :=
  let r := demotePage a.s cpn t home
  { s := r.1, marked := a.marked + b2n r.2.2, queued := a.queued + b2n r.2.1 }

/-- One page of a HINT: each that a PTE names is marked, and those that a move may read are queued. [DEDUCED, log 56; DEDUCED, log 57] -/
def hintPage (kind tier home : Nat) (a : HintAcc) (cpn : Nat) : HintAcc :=
  let e := a.s.loc cpn
  let below := pageLive e && !upper e && e.state != .moving
  match kind with
  | 0 =>
    let a := a.mark cpn 0xFE
    if below then a.queue cpn .t1 4 home else a
  | 1 => a.mark cpn 0xFF
  | 2 =>
    let a := if e.age = 0xFE then a else a.mark cpn 0
    if below then a.queue cpn .t1 4 home else a
  | _ => a.demote cpn (hintTier tier) home

/-- HINT past the checks of its unit. -/
def hintCmd (s : State) (n : Node) (q first cnt kind tier : Nat) : State :=
  let pt := ringPt n.ring
  let layers := (s.ctx q).layers
  let cnt := if cnt = 0 then layers - first else cnt
  let pages := hintPages s q first cnt
  if kind = 3 ∧ ¬ tierHas s pt (hintTier tier) then finish s n.acc (invalidAt 21)
  else if kind = 0 ∧ (ptPolicy s pt).keepQ < keptPages s pt + (pages.filter fun c => (s.loc c).age != 0xFE).length then
    finish s n.acc (failWith .nospace)
  else
    let a := pages.foldl (hintPage kind tier (homeTile s q)) { s := s, marked := 0, queued := 0 }
    finish a.s n.acc { detail0 := a.marked, detail1 := a.queued }

def execHint (acc : Nat) (s : State) : Host.Outcome State Fault Refusal :=
  .next (match liveNode s acc with
    | some n =>
      match n.cmd, beginCheck s n with
      | .hint _ _ _ _ _, some c => finish s acc c
      | .hint q f c k t, none => leafGate s acc none fun s => hintCmd s n q f c k t
      | _, _ => s
    | none => s)

end Sys2Proof.Machine
end

