-- ==== Sys2Proof/Machine/Flash.lean ====
section
/-!
DEFINITION. The NVMe host controller: bring-up (R322, R323, R327), commands and their outcomes (R330 to R332), failures of drives
(R333), REINIT and DETACH (R334), latencies (R336).
-/

namespace Sys2Proof.Machine

/-! ### Bring-up -/

/-- The first condition of R322 that a drive fails, 0 for none. -/
def driveCause (d : DriveInfo) : Nat :=
  if ¬ d.trains32 then 1
  else if ¬ d.nsid1Ok then 2
  else if ¬ d.mdtsOk then 3
  else if ¬ d.queuesOk then 4
  else if d.sectors < 263 * 16 + 256 then 5
  else if d.fatal then 6
  else 0

/-- Groups and slots of a drive of C sectors (R327). -/
def driveGroups (c : Nat) : Nat := (c - 256) / 263
def driveSlots (s : State) (c : Nat) : Nat := min (16 * driveGroups c) (2 ^ bits (s.reg pgNvh 0x200) 2 5)

/-- The label of sector 0 (R327). -/
def driveLabel (s : State) (np g n : Nat) : List Byte :=
  toLe 4 0x46535451 ++ toLe 2 s.fab.devId ++ toLe 1 np ++ [0] ++ toLe 8 g ++ toLe 8 n ++ zeros (4096 - 24)

/-- The slot table (R328): two bits for each slot, 0 free, 1 in use, 2 lost, 3 retired, the part of drive n at n × 2^(SLOT_LOG2 − 2) from
NVH_SLOT_BASE. The model holds its entries in `Drive.slot`. [DEDUCED, log 10] -/
def slotPart (s : State) (np : Nat) : Nat × Nat :=
  let n := 2 ^ (bits (s.reg pgNvh 0x200) 2 5 - 2)
  (s.reg64 pgNvh 0x208 + np * n, n)
/-- The byte of the table that holds a slot's entry, and its lowest bit there. [DEDUCED, log 10] -/
def slotEntry (s : State) (np l : Nat) : Nat × Nat := ((slotPart s np).1 + l / 4, l % 4 * 2)

/-- The admin commands of bring-up, in order (R321 to R323). [DEDUCED, log 53] -/
def bringSteps : List AdminOp :=
  [.identifyController, .identifyNamespace, .setQueueCount] ++ ((List.range 4).flatMap fun n => [.createCompletionQueue n, .createSubmissionQueue n])
    ++ [.setWriteCache, .getWriteCache, .asyncEvent]

/-- Submit an admin command. -/
def adminSubmit (s : State) (np : Nat) (op : AdminOp) : State := nvmeSubmit s np 4 (.admin op) 0 0xFFFFFFFF 0 0

/-- A drive is refused with its cause (R322). Event 0x45. -/
def refuseDrive (s : State) (np c : Nat) : State :=
  let s := s.setDrive np fun x => { x with state := .refused, cause := c, steps := [], cmds := [], sqWait := [] }
  errEvent s 0x45 4 pgNvh 4 0 c (32 + np) []

/-- Bring up the drive of a port whose link has trained: refused where it trains too slowly, else its admin commands begin. Lost slots stay lost
(R334) and retired ones retired (R332). [DEDUCED, log 53] -/
def bringUp (s : State) (np : Nat) (d : DriveInfo) : State :=
  let s := s.setDrive np fun x => { x with info := some d, width := d.width, gen5 := d.gen5, cause := 0 }
  if ¬ d.present then s.setDrive np fun x => { x with state := .absent, info := none }
  else if ¬ d.trains32 then refuseDrive s np 1
  else
    let s := s.setDrive np fun x => { x with
      state := .initialising, detaching := false, cmds := [], sqWait := [], steps := bringSteps.drop 1,
      slot := x.slot.filter fun e => e.2 == 2 || e.2 == 3 }
    adminSubmit s np .identifyController

/-- The drive's geometry, and its label, written before it is used (R327). -/
def writeLabel (s : State) (np : Nat) (d : DriveInfo) : State :=
  let g := driveGroups d.sectors
  let n := driveSlots s d.sectors
  let s := s.setDrive np fun x => { x with fua := d.cacheStays, sectors := d.sectors, groups := g, slots := n }
  nvmeSubmit (s.setFlash (mwrites s.mems.flash (np * 2 ^ 48) (driveLabel s np g n))) np 0 .label 0 0xFFFFFFFF 0 0

/-- An admin command of bring-up has completed: the next one is submitted. Once the queues are counted, a condition that the drive fails refuses it;
after the last the label is written. An event of a ready drive has its log page read and is asked for again. [DEDUCED, log 53; PRESUMED, log 87] -/
def adminEnded (s : State) (np : Nat) (op : AdminOp) (bad : Bool) : State :=
  let d := s.drive np
  match d.state, d.info with
  | .initialising, some i =>
    if bad then refuseDrive s np 6
    else if op = .setQueueCount ∧ driveCause i ≠ 0 then refuseDrive s np (driveCause i)
    else
      match d.steps with
      | .asyncEvent :: _ =>
        let s := s.setDrive np fun d => { d with steps := [] }
        writeLabel (adminSubmit s np .asyncEvent) np i
      | op :: rest => adminSubmit (s.setDrive np fun d => { d with steps := rest }) np op
      | [] => s
  | .ready, _ => if op = .asyncEvent then adminSubmit (adminSubmit s np .getLogPage) np .asyncEvent else s
  | _, _ => s

/-- The label is on the media: every slot of the drive that is neither lost nor retired is free in the slot table, and the drive is ready (R335). [DEDUCED, log 53] -/
def labelEnded (s : State) (np : Nat) (bad : Bool) : State :=
  if (s.drive np).state ≠ .initialising then s
  else if bad then refuseDrive s np 6
  else structAccess s (slotPart s np).1 (slotPart s np).2 fun s => s.setDrive np fun d => { d with state := .ready }

/-- NVH_ENABLE: a write of NVH_CFG (R337). Setting EN releases PERST_N (R560) and brings up every drive whose link has trained; the others train.
SLOT_LOG2 changes only while EN = 0, and a value outside 24 to 31 is a reserved encoding (R338): then it alone is kept (R17). -/
def nvhEnable (s : State) (rq : Requester) (v : Nat) : State :=
  let old := s.reg pgNvh 0x200
  let k := bits v 2 5
  let bad := k < 24 ∨ 31 < k
  let s := if bad then logErr s pgNvh 0x02 2 0x200 0 rq
    else if bit old 0 ∧ k ≠ bits old 2 5 then logErr s pgNvh 0x06 2 0x200 0 rq
    else s
  let v := if bad ∨ bit old 0 then setBits v 2 5 (bits old 2 5) else v
  let s := s.setReg pgNvh 0x200 0 (v % 128)
  if bit v 0 ∧ ¬ bit old 0 then
    let s := { s with boot := { s.boot with perst := s.boot.perst.zipIdx.map fun e =>
      e.1 || (decide (e.2 < 16) && !tmem s.boot.portReset (32 + e.2)) } }
    (List.range 16).foldl (fun s np =>
      match (s.drive np).state, (s.drive np).info with
      | .failed, _ => s
      | _, some d => bringUp s np d
      | _, none => s.setDrive np fun x => { x with state := .training }) s
  else s

def execNvhEnable (req : Requester) (flags slotLog2 : Nat) (s : State) : Host.Outcome State Fault Refusal :=
  .next (secureOnly s req pgNvh 0x200 fun s => nvhEnable s req (flags % 4 + 4 * (slotLog2 % 32)))

/-- NVME_LINK_UP: the link of a drive out of PERST has trained. With NVH_CFG.EN it is brought up; without, it waits for EN. A failed drive
waits for REINIT. -/
def nvmeLinkUp (s : State) (np : Nat) (d : DriveInfo) : State :=
  if s.boot.fatal ∨ ¬ lget s.boot.perst np false ∨ (s.drive np).state = .failed ∨ (s.drive np).state = .initialising
      ∨ (s.drive np).state = .ready then s
  else if bit (s.reg pgNvh 0x200) 0 then bringUp s np d
  else s.setDrive np fun x =>
    { x with state := if d.present then .training else .absent, width := d.width, gen5 := d.gen5, info := if d.present then some d else none }

def execNvmeLinkUp (np : Nat) (drive : DriveInfo) (s : State) : Host.Outcome State Fault Refusal :=
  .next (nvmeLinkUp s np drive)

/-! ### Outcomes of commands -/

/-- A command's share of its page transfer has ended. -/
def stepXfer (s : State) (np : Nat) (c : NvmeCmd) (bad media : Bool) : State :=
  s.setDrive np fun d =>
    { d with xfers := d.xfers.map fun x =>
        if x.cpn = c.cpn ∧ x.slot = c.slot then { x with left := x.left - 1, bad := x.bad || bad, media := x.media || media } else x }

/-- A page buffer is free: the oldest move out of T3 that waits for one submits its reads. -/
def nextBuf (s : State) (np : Nat) : State :=
  match (s.drive np).bufWait with
  | [] => s
  | c :: cs =>
    let s := s.setDrive np fun d => { d with bufWait := cs }
    match moveOf s c with
    | some m => readFlash s np (bits m.srcAddr 0 31) c m
    | none => s

/-- A page transfer with nothing left ends: the page of a read that failed is POISONED; the destination of a write that failed is
discarded (R332). -/
def settleXfer (s : State) (np cpn slot : Nat) : State :=
  match (s.drive np).xfers.find? fun x => x.cpn == cpn && x.slot == slot with
  | none => s
  | some x =>
    if x.left ≠ 0 then s
    else
      let s := s.setDrive np fun d => { d with xfers := d.xfers.filter (· != x) }
      let live := (moveOf s cpn).any fun m =>
        if x.write then m.kind.dest == .t3 && m.dst == np * 2 ^ 31 + slot else m.srcTier == .t3 && m.srcAddr == np * 2 ^ 31 + slot
      let s := if ¬ live ∨ ¬ x.bad then s else if x.write then failMove s cpn x.media else sourceFailed s cpn x.media
      nextBuf s np

/-- Give a group's lock to the oldest that waits for it, whose MAC read then leaves on its own slice's queue (R324, R330). -/
def releaseGroup (s : State) (np slot cpn : Nat) : State :=
  let g := slot / 16
  let s := s.setDrive np fun d => { d with locks := d.locks.filter (· != (g, cpn)) }
  match (s.drive np).lockWait.find? fun w => w.1 == g with
  | none => s
  | some w =>
    let s := s.setDrive np fun d => { d with lockWait := d.lockWait.erase w, locks := d.locks ++ [w] }
    match (s.drive np).xfers.find? fun x => x.cpn == w.2 && x.write with
    | some x => nvmeSubmit s np x.queue .macReadForWrite w.2 x.slot 0 x.buf
    | none => s

/-- The tweak of unit u of a slot (R481). -/
def flashTweak (s : State) (np l pt u : Nat) : Nat := ((np * 2 ^ 31 + l) * 256 + u) + 3 * 2 ^ 48 + (s.part pt).pepoch * 2 ^ 64

/-- A slot's MAC record: 7 bytes for each unit that was written, zeros for the others (R327, R330). [DEDUCED, log 10] -/
def macRecord (s : State) (np l pt units : Nat) : List Byte :=
  (List.range 256).flatMap fun u =>
    if u < units then
      (List.range 7).map (Config.unitMac (s.part pt).pepoch (flashTweak s np l pt u) (mreads s.mems.flash (flashKey np l + 256 * u) 256))
    else zeros 7

/-- The record is replaced in its group's sectors, which are written back (R330). [DEDUCED, log 10] -/
def writeMacs (s : State) (np : Nat) (c : NvmeCmd) : State :=
  let units := match (moveOf s c.cpn) with
    | some m => 16 * pageSectors m.compress m.clen
    | none => 256
  let d := s.drive np
  let at_ := np * 2 ^ 48 + (256 + 256 * d.groups + 7 * (c.slot / 16)) * 4096 + c.slot % 16 * 1792
  let s := s.setFlash (mwrites s.mems.flash at_ (macRecord s np c.slot (cpnPt c.cpn) units))
  nvmeSubmit s np c.queue .macWrite c.cpn c.slot 0 c.buf

/-- Slots that wait only for commands of theirs are settled. [PRESUMED, log 87] -/
def settleSlots (s : State) (np : Nat) : State := (s.drive np).freeing.foldl (fun s l => slotSettle s np l.1 l.2) s

/-- A status is a failure: whether it is, and whether it is a media error. -/
def badStatus : NvmeStatus → Bool × Bool
  | .success => (false, false)
  | .macMismatch => (true, false)
  | .mediaError => (true, true)
  | .otherError => (true, false)

/-- Nanoseconds of the last 256 completed data commands of a kind, whatever their status (R336). -/
def addLat (l : List Nat) (ns : Nat) : List Nat := (ns :: l).take 256

/-- The latency of a completed data command is kept (R336). -/
def keepLat (s : State) (np : Nat) (c : NvmeCmd) : State :=
  let ns := s.time - c.at_
  match c.kind with
  | .dataRead => s.setDrive np fun d => { d with readNs := addLat d.readNs ns }
  | .dataWrite => s.setDrive np fun d => { d with writeNs := addLat d.writeNs ns }
  | _ => s

/-- What follows a command's end with a status. -/
def cmdEnded (s : State) (np : Nat) (c : NvmeCmd) (st : NvmeStatus) : State :=
  let b := badStatus st
  let s := if b.1 then count s pgNvh 2 15 else s
  let s := if st = .macMismatch then count s pgSec 1 15 else s
  match c.kind with
  | .dataRead => settleXfer (stepXfer (if b.1 then s else count s pgNvh 0 15) np c b.1 b.2) np c.cpn c.slot
  | .macRead => settleXfer (stepXfer s np c b.1 b.2) np c.cpn c.slot
  | .dataWrite => settleXfer (stepXfer (if b.1 then s else count s pgNvh 1 15) np c b.1 b.2) np c.cpn c.slot
  | .macReadForWrite =>
    if b.1 then settleXfer (stepXfer (releaseGroup s np c.slot c.cpn) np c b.1 b.2) np c.cpn c.slot else writeMacs s np c
  | .macWrite => settleXfer (stepXfer (releaseGroup s np c.slot c.cpn) np c b.1 b.2) np c.cpn c.slot
  | .trim => slotFree s np c.slot
  | .label => labelEnded s np b.1
  | .admin op => adminEnded s np op b.1
  | .abort k => s.setDrive np fun d => { d with cmds := d.cmds.filter fun x => x.cid != k }

/-- NVH_TIMEOUT.MS in nanoseconds. -/
def nvmeBound (s : State) : Nat := s.reg pgNvh 0x204 * 1000000

def isAbort : NvmeKind → Bool
  | .abort _ => true
  | _ => false

/-- NVME_CMD_TIMEOUT: an Abort is sent, and the command is failed as "any other error" (R332). -/
def cmdTimeout (s : State) (np cid : Nat) : State :=
  match (s.drive np).cmds.find? fun c => c.cid == cid && !c.timedOut && !isAbort c.kind with
  | none => s
  | some c =>
    let s := count (s.reach (c.at_ + nvmeBound s)) pgNvh 3 15
    let s := s.setDrive np fun d => { d with cmds := d.cmds.map fun x => if x.cid = cid then { x with timedOut := true } else x }
    cmdEnded (nvmeSubmit s np 4 (.abort cid) 0 0xFFFFFFFF 0 0) np c .otherError

def execNvmeCmdTimeout (np cid : Nat) (s : State) : Host.Outcome State Fault Refusal :=
  .next (if s.boot.fatal then s else cmdTimeout s np cid)

/-! ### Failures of drives (R333) -/

/-- A drive fails: its commands end as "any other error", its slots in use are lost, event 0x42. -/
def failDrive (s : State) (np : Nat) : State :=
  let d := s.drive np
  if d.state = .failed ∨ d.state = .absent then s
  else
    let cs := d.cmds ++ d.sqWait
    let s := s.setDrive np fun d =>
      { d with state := .failed, info := none, steps := [], cmds := [], sqWait := [], bufWait := [], locks := [], lockWait := [],
               slot := d.slot.map fun e => if e.2 = 1 then (e.1, 2) else e }
    let s := cs.foldl (fun s c => match c.kind with
      | .abort _ | .trim | .label | .admin _ => s
      | _ => if c.timedOut then s else cmdEnded s np c .otherError) s
    let s := d.bufWait.foldl (fun s c => sourceFailed s c false) s
    let xs := (s.drive np).xfers.filter (·.sent)
    let s := xs.foldl (fun s x => settleXfer (s.setDrive np fun d =>
      { d with xfers := d.xfers.map fun y => if y = x then { y with left := 0, bad := true } else y }) np x.cpn x.slot) s
    let s := s.setDrive np fun d => { d with cmds := [], sqWait := [], xfers := d.xfers.filter (!·.sent), locks := [], lockWait := [] }
    let s := (s.drive np).freeing.foldl (fun s l => slotFree s np l.1) s
    errEvent s 0x42 4 pgNvh 4 0 0 (32 + np) (strictDriveOwner s np)

/-- A drive's completion entry takes its command off the drive. A command already failed by its time bound has no further effect. -/
def cmdDone (s : State) (np : Nat) (c : NvmeCmd) (st : NvmeStatus) : State :=
  let s := s.setDrive np fun d => { d with cmds := d.cmds.filter fun x => x.cid != c.cid }
  let s := nvmeRefill s np
  settleSlots (if c.timedOut then s else cmdEnded (keepLat s np c) np c st) np

/-- Has the command's time bound passed? [DEDUCED, log 104] -/
def cmdLate (s : State) (c : NvmeCmd) : Bool := !c.timedOut && decide (c.at_ + nvmeBound s < s.time)

/-- NVME_COMPLETION. A completion that comes past the bound finds its command failed by it, or the drive failed for an Abort (R332, R333). -/
def nvmeCompletion (s : State) (np cid : Nat) (st : NvmeStatus) : State :=
  match (s.drive np).cmds.find? fun c => c.cid == cid with
  | none => s
  | some c =>
    if ¬ cmdLate s c then cmdDone s np c st
    else if isAbort c.kind then failDrive s np
    else cmdDone (cmdTimeout s np cid) np { c with timedOut := true } st

def execNvmeCompletion (np cid : Nat) (st : NvmeStatus) (s : State) : Host.Outcome State Fault Refusal :=
  .next (if s.boot.fatal then s else nvmeCompletion s np cid st)

/-- NVME_ABORT_TIMEOUT. -/
def abortTimeout (s : State) (np cid : Nat) : State :=
  match (s.drive np).cmds.find? fun c => c.cid == cid && isAbort c.kind with
  | none => s
  | some c => failDrive (s.reach (c.at_ + nvmeBound s)) np

def execNvmeAbortTimeout (np cid : Nat) (s : State) : Host.Outcome State Fault Refusal :=
  .next (if s.boot.fatal then s else abortTimeout s np cid)

def execNvmeDriveFail (np : Nat) (s : State) : Host.Outcome State Fault Refusal :=
  .next (if s.boot.fatal then s else failDrive s np)

/-! ### REINIT and DETACH (R334) -/

/-- A drive trains for a bring-up; lost slots stay lost (R334), retired ones retired (R332), every other slot is free. [DEDUCED, log 53] -/
def restartDrive (s : State) (np : Nat) : State :=
  s.setDrive np fun d => { d with state := .training, info := none, steps := [], cause := 0, detaching := false, slot := d.slot.filter fun e => e.2 == 2 || e.2 == 3 }

/-- The bring-up that REINIT repeats sees the drive as it was: a failed drive comes back through NVME_LINK_UP. -/
def reinit (s : State) (rq : Requester) : State :=
  let np := s.reg pgNvh 0x210
  if (s.drive np).state = .ready then logErr s pgNvh 0x06 0 0x228 0 rq else restartDrive s np

def execReinit (req : Requester) (s : State) : Host.Outcome State Fault Refusal :=
  .next (secureOnly s req pgNvh 0x228 fun s => reinit s req)

/-- A detaching drive without a slot in use or lost is absent. -/
def settleDetach (s : State) (np : Nat) : State :=
  s.setDrive np fun d =>
    if d.detaching ∧ ¬ d.slot.any (fun e => e.2 == 1 || e.2 == 2) then { d with state := .absent, detaching := false } else d

/-- DETACH: no new slots; with none in use or lost the drive is absent. The command may be given again as slots come free. -/
def detach (s : State) : State :=
  let np := s.reg pgNvh 0x210
  settleDetach (s.setDrive np fun d => { d with detaching := true }) np

def execDetach (req : Requester) (s : State) : Host.Outcome State Fault Refusal :=
  .next (secureOnly s req pgNvh 0x228 fun s => detach s)

end Sys2Proof.Machine
end

