-- ==== Sys2Proof/Machine/Dma.lean ====
section
/-!
DEFINITION. The DMA engine (R360 to R379): descriptors, the memory a channel reaches, arbitration of the movers, beats, completion and
errors.
-/

namespace Sys2Proof.Machine

/-! ### Channels -/

/-- Fields of DMA_CH_CFG. -/
def chanCfg (s : State) (c : Nat) : Nat := s.reg pgDma 0x204 c
def chanPrio (s : State) (c : Nat) : Nat := bits (chanCfg s c) 4 2
def chanBurst (s : State) (c : Nat) : Nat := bits (chanCfg s c) 12 5
def chanPort (s : State) (c : Nat) : Nat := bits (chanCfg s c) 17 2
/-- Is a channel privileged (R360)? -/
def privileged (c : Nat) : Bool := decide (c < 8)
/-- SHARE and BUCKET (R370). -/
def chanShare (s : State) (c : Nat) : Nat := bits (s.reg pgDma 0x220 c) 0 8
def chanBucket (s : State) (c : Nat) : Nat := bits (s.reg pgDma 0x220 c) 8 8
/-- The selected channel. [DEDUCED, log 92] -/
def chanSel (s : State) : Nat := s.reg pgDma 0x200
/-- May a requester select a channel: the secure world, or the partition that owns it (R378)? -/
def maySelectChan (s : State) (rq : Requester) (c : Nat) : Bool :=
  decide (rq.src < 4) && (rq.secure || (!(chanOwner s c).2 && (chanOwner s c).1 == rq.pt))

/-- The descriptor that runs or is to run next, if it has been fetched. -/
def chanHead (c : DmaCh) : Option Desc := c.fetched.head?
/-- Does the channel wait in a FENCE? -/
def inFence (c : DmaCh) : Bool := c.started && (chanHead c).any fun d => d.op == 2
/-- Does the channel run a COPY or a FILL? -/
def inTransfer (c : DmaCh) : Bool := c.started && (chanHead c).any fun d => d.op < 2

/-! ### Memory (R361, R363, R473) -/

/-- What reading bytes answers. -/
inductive DmaRead where
  | data (bs : List Byte)
  | err (code : Nat)
  deriving DecidableEq, Repr

/-- The error of naming a space: 2 for none of R363's, 1 where the owner may not use it, else 0. -/
def spaceErr (a : Nat) (secure : Bool) : Nat :=
  match refSpace a with
  | 0 => 0
  | 1 | 3 => if secure then 1 else 0
  | 4 | 5 => if secure then 0 else 1
  | _ => 2

/-- May the secure world reach a frame with SPACE 0x4: a class 1 frame, or one outside every class 0 range whose pseudo-channel no
partition owns (R473)? -/
def secureFrame (s : State) (m f : Nat) : Bool :=
  frameInClass s 1 m f
    || (!frameInClass s 0 m f && (List.range 8).all fun p => !((s.mapOf p).valid && bit (lget (s.mapOf p).pc m 0) (f % 32)))

/-- Does an HBM range lie in a stack that is not excluded, in frames that the secure world may reach? -/
def hbmRange (s : State) (a n : Nat) : Bool :=
  decide (a / 2 ^ 36 < 12 ∧ a % 2 ^ 36 + n ≤ 36 * 2 ^ 30) && !(s.hb (a / 2 ^ 36)).excluded
    && secureFrame s (a / 2 ^ 36) (a % 2 ^ 36 / frameBytes) && secureFrame s (a / 2 ^ 36) ((a % 2 ^ 36 + n - 1) / frameBytes)

/-- May SPACE 0x5 reach a tile: one that no partition owns (R473)? -/
def freeTile (s : State) (t : Nat) : Bool := (List.range 8).all fun p => !((s.mapOf p).valid && bit (s.mapOf p).tiles t)

/-- What a range of HBM reads as: the MACs of the carve-out are free values. [DEDUCED, log 10] -/
def hbmReads (s : State) (a n : Nat) : List Byte :=
  if inCarve (a + n - 1) then
    (List.range n).map fun i => if inCarve (a + i) then Config.carveByte s.sec.depoch s.mems.hbm (a + i) else mread s.mems.hbm (a + i)
  else mreads s.mems.hbm a n

/-- A write of HBM. One that reaches the carve-out spoils the MACs there: their units read as poison until they are written. [DEDUCED, log 10] -/
def hbmWriteAny (s : State) (a : Nat) (bs : List Byte) : State :=
  let s := hbmWrite s a bs
  if bs.isEmpty ∨ ¬ inCarve (a + bs.length - 1) then s
  else
    let us := (((List.range bs.length).map (a + ·)).filter inCarve).map macUnit
    { s with mems := { s.mems with badUnits := us.foldl (fun l u => if l.contains u then l else l ++ [u]) s.mems.badUnits } }

/-- The bytes that a region has, by its head line (R302); none where that cannot be read. -/
def regionBytes (s : State) (r : Nat) : Option Nat := (regionRead s r 24 4).map fun b => leNat b % 2 ^ 27 * frameBytes

/-- The error of the place of n bytes, before their contents are looked at (R361, R377). [DEDUCED, log 70] -/
def placeErr (s : State) (c a n : Nat) : Nat :=
  let o := chanOwner s c
  if spaceErr a o.2 ≠ 0 then spaceErr a o.2
  else
    match refSpace a with
    | 1 => if refAddr a + n ≤ waSize s.appliedMap o.1 then 0 else 1
    | 3 =>
      if (openVersion s o.1 (refRegion a)).isNone then 1
      else if (regionBytes s (refRegion a)).any fun k => decide (k < refOff a + n) then 1
      else if (regionRead s (refRegion a) (refOff a) n).isNone then 5 else 0
    | 4 => if hbmRange s (refAddr a) n then 0 else 1
    | 5 => if bits a 40 20 < 48 ∧ bits a 24 16 = 0 ∧ bits a 0 24 + n ≤ 2 ^ 24 ∧ freeTile s (bits a 40 6) then 0 else 1
    | _ => 0

/-- Read n bytes for a channel: data, or PERM, POISON or REVOKED. -/
def dmaRead (s : State) (c a n : Nat) : DmaRead :=
  let o := chanOwner s c
  if placeErr s c a n ≠ 0 then .err (placeErr s c a n)
  else
    match refSpace a with
    | 0 => if portActive s (chanPort s c) then .data (hostBytes s (chanPort s c) (refAddr a) n) else .err 3
    | 1 => if waBad s s.appliedMap o.1 (refAddr a) n then .err 3 else .data (waRead s s.appliedMap o.1 (refAddr a) n)
    | 3 =>
      if regionBad s (refRegion a) (refOff a) n then .err 3
      else .data ((regionRead s (refRegion a) (refOff a) n).getD [])
    | 4 => if hbmBad s (refAddr a) n then .err 3 else .data (hbmReads s (refAddr a) n)
    | _ => .data (mreads s.mems.spad (bits a 40 6 * 2 ^ 24 + bits a 0 24) n)

/-- Write bytes for a channel. A host write belongs to the channel's FENCE (R375); one that meets a failed port or a port that is not
ACTIVE fails. -/
def dmaWrite (s : State) (c a : Nat) (bs : List Byte) : State :=
  let o := chanOwner s c
  match refSpace a with
  | 0 =>
    if portActive s (chanPort s c) then hostWrite s (chanPort s c) 3 o.1 o.2 (refAddr a) bs (2 ^ 40 + c)
    else s.setChan c fun x => { x with writeFailed := true }
  | 1 => waWrite s s.appliedMap o.1 (refAddr a) bs
  | 3 =>
    if regionBad s (refRegion a) (refOff a) bs.length ∧ ((regionPlace s (refRegion a) (refOff a)).any fun k => (s.cport k.1).failed) then
      s.setChan c fun x => { x with writeFailed := true }
    else regionWrite s (refRegion a) (refOff a) bs
  | 4 => hbmWriteAny s (refAddr a) bs
  | _ => s.setSpad (mwrites s.mems.spad (bits a 40 6 * 2 ^ 24 + bits a 0 24) bs)

/-! ### Descriptors (R364, R367) -/

/-- Is a wrap code in range? -/
def wrapOk (k : Nat) : Bool := decide (k = 0 ∨ (12 ≤ k ∧ k ≤ 30))
/-- Does LEN stay within a wrap block? -/
def wrapFits (k len : Nat) : Bool := decide (k = 0 ∨ len ≤ 2 ^ k)
/-- The address of byte i of a transfer from A with wrap k. -/
def wrapAddr (a k i : Nat) : Nat := if k = 0 then a + i else a - a % 2 ^ k + (a % 2 ^ k + i) % 2 ^ k

/-- The error that a descriptor's own bytes make: INVALID, or 0. -/
def descErr (bs : List Byte) : Nat :=
  let op := field bs 0 1
  let sw := field bs 1 1
  let dw := field bs 2 1
  let len := field bs 4 4
  let src := field bs 8 8
  let dst := field bs 16 8
  let cont := field bs 3 1
  if 4 ≤ op ∨ 32 ≤ sw ∨ 32 ≤ dw ∨ 4 ≤ cont ∨ ¬ allZero bs 24 8 ∨ ¬ wrapOk sw ∨ ¬ wrapOk dw then 2
  else if op < 2 then
    if len = 0 ∨ 2 ^ 30 < len ∨ ¬ wrapFits dw len ∨ (op = 0 ∧ ¬ wrapFits sw len) ∨ (bit cont 0 ∧ src ≠ 0) ∨ (bit cont 1 ∧ dst ≠ 0) then 2
    else 0
  else if len ≠ 0 ∨ dst ≠ 0 then 2
  else 0

/-- A fetched descriptor. [DEDUCED, log 70] -/
def parseDesc (addr err : Nat) (bs : List Byte) : Desc :=
  let b3 := field bs 3 1
  { op := field bs 0 1, swrap := field bs 1 1, dwrap := field bs 2 1, scont := bit b3 0, dcont := bit b3 1, len := field bs 4 4,
    src := field bs 8 8, dst := field bs 16 8, addr := addr, err := if err ≠ 0 then err else descErr bs }

/-! ### Interrupts and errors (R376, R377) -/

/-- The channel's interrupt: its bit, and with IRQ_EN = 1 the message. -/
def chanIrq (s : State) (c : Nat) : State :=
  let s := s.setChan c fun x => { x with irq := true }
  if bit (chanCfg s c) 19 then hostIrq s (chanPort s c) 3 (chanOwner s c).1 (chanOwner s c).2 (bits (chanCfg s c) 20 8) else s

/-- The owner a channel's events count for; 15 for the secure world. -/
def chanCounts (s : State) (c : Nat) : Nat := if (chanOwner s c).2 then 15 else (chanOwner s c).1

/-- The channel fails: STATE = error with a code, its interrupt, and the log entry. -/
def chanError (s : State) (c code : Nat) : State :=
  let s := s.setChan c fun x =>
    { x with state := .error, err := code, buf := [], want := 0, part := [], mover := false, burst := 0, stopReq := false, drain := false,
             writeFailed := if code = 4 then false else x.writeFailed }
  let s := { s with jlk := s.jlk.map fun l => { l with reads := l.reads.filter fun r => r.use != .dmaBeats c } }
  let s := count s pgDma 2 (chanCounts s c)
  chanIrq (logErr s pgDma (0x40 + code) 0 0x218 c deviceReq) c

/-! ### The start of a descriptor -/

/-- The start addresses of a transfer, or the error of a CONT flag without a transfer before it. -/
def transferBases (c : DmaCh) (d : Desc) : Option (Nat × Nat) :=
  match (if d.scont then (if d.op = 0 then c.srcEnd else c.dstEnd.map fun _ => 0) else some d.src), (if d.dcont then c.dstEnd else some d.dst) with
  | some a, some b => some (a, b)
  | _, _ => none

/-- The state in which a channel goes on. -/
def runState (c : Nat) (x : DmaCh) : ChState :=
  if x.stopReq then .stopping
  else if inFence x then .fencing
  else if inTransfer x ∧ ¬ privileged c ∧ x.burst = 0 ∧ x.pend = 0 ∧ x.buf.isEmpty ∧ x.want = 0 then .waiting
  else if ¬ x.started ∧ ¬ privileged c ∧ x.pend = 0 then .waiting
  else .running

/-- Begin the first fetched descriptor of a channel that runs and is at a descriptor boundary. [DEDUCED, log 70] -/
def beginDesc (s : State) (c : Nat) : State :=
  let x := s.chan c
  if ¬ chanRuns x ∨ x.started ∨ x.count = 0 then s
  else
    match chanHead x with
    | none => s
    | some d =>
      if d.err ≠ 0 then chanError s c d.err
      else if d.op < 2 then
        match transferBases x d with
        | none => chanError s c 2
        | some (a, b) =>
          let o := chanOwner s c
          if d.op = 0 ∧ spaceErr a o.2 ≠ 0 then chanError s c (spaceErr a o.2)
          else if spaceErr b o.2 ≠ 0 then chanError s c (spaceErr b o.2)
          else s.setChan c fun x =>
            let x := { x with started := true, srcBase := a, dstBase := b, rd := 0, wr := 0, burst := 0, drain := false }
            { x with state := runState c x }
      else s.setChan c fun x =>
        let x := { x with started := true }
        { x with state := runState c x }

/-- A descriptor has completed: COUNT falls, DPOS rises; at 0 the channel is idle and raises its interrupt; a stop takes effect. -/
def completeDesc (s : State) (c : Nat) : State :=
  let s := s.setChan c fun x =>
    let x := { x with count := x.count - 1, dpos := (x.dpos + 1) % 2 ^ 24, fetched := x.fetched.drop 1, started := false, burst := 0 }
    if x.count = 0 then { x with state := .idle, mover := false, stopReq := false }
    else if x.stopReq then { x with state := .stopped, mover := false, stopReq := false }
    else { x with state := runState c x }
  if (s.chan c).state = .idle then chanIrq s c else beginDesc s c

/-! ### The registers' operations (R374, R377, R378) -/

/-- START: an idle or stopped channel with COUNT ≠ 0 runs from the next descriptor; its bucket is full. -/
def chanStart (s : State) (c : Nat) : State :=
  let x := s.chan c
  if (x.state ≠ .idle ∧ x.state ≠ .stopped) ∨ x.count = 0 then s
  else
    let s := s.setChan c fun x =>
      let x := { x with state := .running, err := 0, credits := chanBucket s c, srcEnd := none, dstEnd := none, started := false,
                        stopReq := false }
      { x with state := runState c x }
    beginDesc s c

/-- STOP: at the next descriptor boundary. -/
def chanStop (s : State) (c : Nat) : State :=
  if ¬ chanRuns (s.chan c) then s
  else s.setChan c fun x => if x.started then { x with state := .stopping, stopReq := true } else { x with state := .stopped, mover := false }

/-- CLEAR: a channel in error is stopped, and fetches the failing descriptor again. -/
def chanClear (s : State) (c : Nat) : State :=
  if (s.chan c).state ≠ .error then s
  else s.setChan c fun x =>
    { x with state := .stopped, err := 0, started := false, rd := 0, wr := 0, want := 0, part := [],
             fetchAt := ((chanHead x).map (·.addr)).getD x.fetchAt, fetched := [] }

/-- A write of DMA_CH_CTRL's bits acts on the selected channel, for its owner or the secure world; another requester's is ignored. -/
def onChan (s : State) (rq : Requester) (off : Nat) (f : State → Nat → State) : State :=
  guarded s rq pgDma off fun s => if maySelectChan s rq (chanSel s) then f s (chanSel s) else s

def execDmaStart (req : Requester) (s : State) : Host.Outcome State Fault Refusal :=
  .next (if s.boot.fatal then s else onChan s req 0x214 chanStart)

def execDmaStop (req : Requester) (s : State) : Host.Outcome State Fault Refusal :=
  .next (if s.boot.fatal then s else onChan s req 0x214 chanStop)

def execDmaClear (req : Requester) (s : State) : Host.Outcome State Fault Refusal :=
  .next (if s.boot.fatal then s else onChan s req 0x214 chanClear)

/-- DMA_CH_SWREQ adds N requests, whatever line the channel uses (R369). -/
def chanSwreq (s : State) (rq : Requester) (v : Nat) : State :=
  onChan s rq 0x21C fun s c => if privileged c then s else s.setChan c (addRequests (v % 256))

def execDmaChSwreq (req : Requester) (val : Word) (s : State) : Host.Outcome State Fault Refusal :=
  .next (if s.boot.fatal then s else chanSwreq s req val.toNat)

/-- DMA_REQUEST: a periodic line asserts as the time base crosses a multiple of 2^k µs. Lines 1 to 3 assert within the rows of their
sources (R369). -/
def periodicLine (s : State) (line : Nat) : State :=
  if 16 ≤ line ∧ line < 32 then assertLine (s.reach (roundUp s.time (2 ^ (line - 16) * 1000))) line else s

def execDmaRequest (line : Nat) (s : State) : Host.Outcome State Fault Refusal :=
  .next (if s.boot.fatal then s else periodicLine s line)

/-- DMA_CREDIT_REFILL: SHARE credits for every privileged channel, up to BUCKET. -/
def refillCredits (s : State) : State :=
  (List.range 8).foldl (fun s c => s.setChan c fun x => { x with credits := min (chanBucket s c) (x.credits + chanShare s c) }) s

def execDmaCreditRefill (s : State) : Host.Outcome State Fault Refusal :=
  .next (if s.boot.fatal then s else refillCredits s)

/-! ### Fetching (R365, R366) -/

/-- Descriptors that a channel may hold: the running one and four ahead of it, and none past COUNT. -/
def mayFetch (x : DmaCh) : Bool :=
  chanRuns x && decide (x.fetched.length < (if x.started then 5 else 4) ∧ x.fetched.length < x.count)

/-- DMA_DESC_FETCH: the next descriptor arrives and is checked; a LINK redirects what follows. [DEDUCED, log 70] -/
def fetchDesc (s : State) (c : Nat) : State :=
  let a := (s.chan c).fetchAt
  let d := match dmaRead s c a 32 with
    | .data bs => parseDesc a 0 bs
    | .err e => parseDesc a e []
  let s := s.setChan c fun x =>
    { x with fetched := x.fetched ++ [d], fetchAt := if d.op = 3 ∧ d.err = 0 then d.src else a + 32 }
  beginDesc s c

def execDmaDescFetch (ch : Nat) (s : State) : Host.Outcome State Fault Refusal :=
  .next (if mayFetch (s.chan ch) ∧ ¬ s.boot.fatal then fetchDesc s ch else s)

/-! ### Beats (R368, R370 to R373) -/

/-- Bytes of the beat that begins at byte i of the running transfer: to the next 64-byte boundary of the destination, at most to the
transfer's end. [DEDUCED, log 70] -/
def beatLen (x : DmaCh) (d : Desc) (i : Nat) : Nat := min (d.len - i) (64 - wrapAddr x.dstBase d.dwrap i % 64)

/-- May the channel read its next beat? -/
def mayRead (c : Nat) (x : DmaCh) (d : Desc) : Bool :=
  !x.drain && x.want == 0 && decide (x.rd < d.len ∧ x.buf.length < 64) && (privileged c || decide (0 < x.burst ∨ 0 < x.pend))

/-- Has a privileged channel a credit, of at most BUCKET, and a share of the engine (R370)? -/
def hasCredit (s : State) (c : Nat) : Bool := decide (0 < min (chanBucket s c) (s.chan c).credits) && chanShare s c != 0

/-- Has the channel a beat ready (R370, R371)? -/
def beatReady (s : State) (c : Nat) : Bool :=
  let x := s.chan c
  (x.state == .running || x.state == .stopping) && inTransfer x && (!privileged c || hasCredit s c)
    && (!x.buf.isEmpty || (chanHead x).any (mayRead c x))

/-- Channels that hold a mover. -/
def holders (s : State) : List Nat := (List.range 64).filter fun c => (s.chan c).mover

/-- A channel that has no beat ready gives its mover back. -/
def dropMovers (s : State) : State :=
  (holders s).foldl (fun s c => if beatReady s c then s else s.setChan c fun x => { x with mover := false }) s

/-- The channels that ask for a mover with the highest PRIO of all that ask. [DEDUCED, log 70] -/
def topAskers (s : State) : List Nat :=
  let rs := (List.range 64).filter fun c => beatReady s c && !(s.chan c).mover
  let p := rs.foldl (fun v c => max v (chanPrio s c)) 0
  rs.filter fun c => chanPrio s c == p

/-- The channel that asks first: the highest PRIO, then the pointer (R371). -/
def firstAsker (s : State) : Option Nat := ptrPick 64 s.dma.ptr (topAskers s)

/-- The holder that a newcomer replaces: the lowest PRIO, the highest number among equals (R372). -/
def lastHolder (s : State) : Option Nat := minBy (chanPrio s) (holders s).reverse

/-- A channel takes the lowest-numbered free mover; where several of its PRIO asked, the pointer moves to one past it (R69, R371). [DEDUCED, log 70] -/
def takeMover (s : State) (c : Nat) : State :=
  let met := decide (2 ≤ (topAskers s).length)
  let held := (holders s).map fun h => (s.chan h).moverNo
  let no := (([0, 1, 2, 3] : List Nat).find? fun m => !held.contains m).getD 0
  let s := s.setChan c fun x => { x with mover := true, moverNo := no }
  if met then { s with dma := { s.dma with ptr := ptrNext 64 c } } else s

/-- A channel loses its mover to one of a higher PRIO, and keeps its buffer (R372). -/
def preempt (s : State) (c : Nat) : State :=
  count (s.setChan c fun x => { x with mover := false, drain := !x.buf.isEmpty }) pgDma 1 (chanCounts s c)

/-- Grant movers until no channel may take one. -/
def grantMovers : Nat → State → State
  | 0, s => s
  | n + 1, s =>
    match firstAsker s with
    | none => s
    | some c =>
      if (holders s).length < 4 then grantMovers n (takeMover s c)
      else
        match lastHolder s with
        | none => s
        | some h => if chanPrio s h < chanPrio s c then grantMovers n (takeMover (preempt s h) c) else s

/-- The oldest buffered beat is written; a failing place ends the channel. -/
def writeBeat (s : State) (c : Nat) (d : Desc) : State :=
  let x := s.chan c
  match x.buf with
  | [] => s
  | b :: rest =>
    let a := wrapAddr x.dstBase d.dwrap x.wr
    if placeErr s c a b.length ≠ 0 then chanError s c (placeErr s c a b.length)
    else
      let s := dmaWrite s c a b
      let s := s.setChan c fun x =>
        { x with buf := rest, wr := x.wr + b.length, credits := if privileged c then min (chanBucket s c) x.credits - 1 else x.credits,
                 drain := x.drain && !rest.isEmpty }
      count s pgDma 0 (chanCounts s c)

/-- The bytes of a FILL's pattern from byte i on. -/
def patternBytes (p i n : Nat) : List Byte := (List.range n).map fun k => BitVec.ofNat 8 (p / 256 ^ ((i + k) % 8))

/-- A COPY's source bytes i to i + n − 1, which a wrap may split. -/
def sourceBytes (s : State) (c : Nat) (x : DmaCh) (d : Desc) (i n : Nat) : DmaRead :=
  let a := wrapAddr x.srcBase d.swrap i
  let m := if d.swrap = 0 then n else min n (2 ^ d.swrap - a % 2 ^ d.swrap)
  match dmaRead s c a m with
  | .err e => .err e
  | .data bs =>
    if m = n then .data bs
    else
      match dmaRead s c (wrapAddr x.srcBase d.swrap (i + m)) (n - m) with
      | .err e => .err e
      | .data cs => .data (bs ++ cs)

/-- Beats that the channel may read now: to the transfer's end, within the 4 KiB buffer and, with request pacing, within the burst (R368, R372). -/
def beatRoom (s : State) (c : Nat) (x : DmaCh) (d : Desc) : Nat :=
  let left := 1 + ceilDiv (d.len - x.rd - beatLen x d x.rd) 64
  let room := 64 - x.buf.length
  min (min left room) (if privileged c then room else if 0 < x.burst then x.burst else chanBurst s c)

/-- How many beats the channel reads ahead in one cycle, which the spec leaves open: a free value, at least one where the buffer is empty. [DEDUCED, log 70] -/
def beatsAhead (s : State) (c : Nat) (d : Desc) : Nat × State :=
  let x := s.chan c
  let m := beatRoom s c x d
  let v := draw s
  (if x.buf.isEmpty then 1 + v.1 % m else v.1 % (m + 1), v.2)

/-- Bytes of the next k beats. -/
def beatsLen (x : DmaCh) (d : Desc) (k : Nat) : Nat := min (d.len - x.rd) (beatLen x d x.rd + 64 * (k - 1))

/-- Bytes cut into beats: the first one to the 64-byte boundary, the others whole (R368). -/
def cutBeats (x : DmaCh) (d : Desc) (bs : List Byte) : List (List Byte) :=
  let n := beatLen x d x.rd
  bs.take n :: chunks 64 64 (bs.drop n)

/-- Bytes that were read stand in the buffer. -/
def placeBeats (s : State) (c : Nat) (d : Desc) (bs : List Byte) : State :=
  s.setChan c fun x => { x with buf := x.buf ++ cutBeats x d bs, rd := x.rd + bs.length, want := 0, part := [] }

/-- Ask host memory for the next bytes of the beats, up to a 4 KiB boundary (R405). A port that is not ACTIVE fails the read (R407); with 1,024
reads outstanding the channel asks again later. -/
def askHost (s : State) (c : Nat) (d : Desc) : State :=
  let x := s.chan c
  let o := chanOwner s c
  let port := chanPort s c
  let a := wrapAddr x.srcBase d.swrap (x.rd + x.part.length)
  if ¬ portActive s port then chanError s c 3
  else if 1024 ≤ (s.link port).reads.length then s.setChan c fun x => { x with want := 0, part := [] }
  else hostRead s port 3 o.1 o.2 (refAddr a) (min (x.want - x.part.length) (4096 - a % 4096)) (.dmaBeats c)

/-- A host read of a channel has been answered whole. -/
def hostBeats (s : State) (c : Nat) (bs : List Byte) : State :=
  let x := s.chan c
  match chanHead x with
  | none => s
  | some d =>
    if x.want = 0 then s
    else if x.part.length + bs.length < x.want then askHost (s.setChan c fun x => { x with part := x.part ++ bs }) c d
    else (placeBeats s c d (x.part ++ bs)).setChan c fun x => { x with state := runState c x }

/-- The next beats are read into the buffer; a request-paced channel's burst begins with a request (R368). -/
def readBeats (s : State) (c : Nat) (d : Desc) : State :=
  if ¬ mayRead c (s.chan c) d then s
  else
    let v := beatsAhead s c d
    let x := s.chan c
    let n := beatsLen x d v.1
    let s := v.2
    let took := fun (s : State) => s.setChan c fun x =>
      let x := if privileged c ∨ 0 < x.burst then x else { x with burst := chanBurst s c, pend := x.pend - 1 }
      { x with burst := x.burst - v.1 }
    if v.1 = 0 then s
    else if d.op = 1 then placeBeats (took s) c d (patternBytes d.src x.rd n)
    else if refSpace x.srcBase = 0 then
      if 1024 ≤ (s.link (chanPort s c)).reads.length then s
      else askHost ((took s).setChan c fun x => { x with want := n, part := [] }) c d
    else
      match sourceBytes s c x d x.rd n with
      | .err e => chanError s c e
      | .data bs => placeBeats (took s) c d bs

/-- One mover's cycle: a beat is written and the next ones are read; a channel that waits for a request gives its mover back. -/
def moverCycle (s : State) (c : Nat) : State :=
  match chanHead (s.chan c) with
  | none => s
  | some d =>
    let s := writeBeat s c d
    if (s.chan c).state = .error then s
    else
      let s := readBeats s c d
      if (s.chan c).state = .error then s else s.setChan c fun x => { x with state := runState c x }

/-- DMA_BEAT: one DMA cycle. -/
def dmaBeat (s : State) : State :=
  let s := grantMovers 64 (dropMovers s)
  dropMovers ((holders s).foldl moverCycle s)

def execDmaBeat (s : State) : Host.Outcome State Fault Refusal :=
  .next (if s.boot.fatal then s else dmaBeat s)

/-! ### Completion (R375, R376) -/

/-- DMA_DESC_DONE: the last write has left the engine, or the descriptor is a LINK. -/
def descDone (s : State) (c : Nat) : State :=
  let x := s.chan c
  match chanHead x with
  | none => s
  | some d =>
    if ¬ chanRuns x ∨ ¬ x.started then s
    else if d.op = 3 then completeDesc s c
    else if d.op < 2 ∧ x.wr = d.len then
      completeDesc (s.setChan c fun x =>
        { x with srcEnd := if d.op = 0 then some (wrapAddr x.srcBase d.swrap d.len) else x.srcEnd,
                 dstEnd := some (wrapAddr x.dstBase d.dwrap d.len) }) c
    else s

def execDmaDescDone (ch : Nat) (s : State) : Host.Outcome State Fault Refusal :=
  .next (if s.boot.fatal then s else descDone s ch)

/-- DMA_FENCE_DONE: every earlier write of the channel has been confirmed; a failed one is reported here (R377). -/
def fenceDone (s : State) (c : Nat) : State :=
  let x := s.chan c
  if ¬ chanRuns x ∨ ¬ inFence x ∨ (List.range 4).any (fun p => writesOut s p (2 ^ 40 + c)) then s
  else if x.writeFailed then chanError s c 4
  else completeDesc s c

def execDmaFenceDone (ch : Nat) (s : State) : Host.Outcome State Fault Refusal :=
  .next (if s.boot.fatal then s else fenceDone s ch)

end Sys2Proof.Machine
end

