-- ==== Sys2Proof/Machine/Train.lean ====
section
/-!
DEFINITION. Training and states of a Jurola port (R385 to R389), its replay buffer (R393, R394), and what its end leaves behind (R407,
R408, R449).
-/

namespace Sys2Proof.Machine

/-! ### Lane groups (R385) -/

/-- A lane group: its width code and its lanes, as a mask. -/
structure LaneGroup where
  width : Nat
  first : Nat
  mask : Nat
  deriving DecidableEq, Repr

/-- The groups of R385, the widest first, and the lowest-numbered first among equals. -/
def laneGroups : List LaneGroup :=
  [⟨0, 0, 0xFF⟩, ⟨1, 0, 0x0F⟩, ⟨1, 4, 0xF0⟩, ⟨2, 0, 0x03⟩, ⟨2, 2, 0x0C⟩, ⟨2, 4, 0x30⟩, ⟨2, 6, 0xC0⟩]

/-- The best group no wider than a width code whose lanes all stand in a set. -/
def bestGroup (width lanes : Nat) : Option LaneGroup :=
  laneGroups.find? fun g => decide (width ≤ g.width ∧ g.mask &&& lanes = g.mask)

/-- MAX_WIDTH of a port. -/
def maxWidth (s : State) (port : Nat) : Nat := bits (s.reg (pgJlk port) 0x200) 1 2

/-- Has the bound of the port's training state passed, `ns` after it entered the state (R387)? [DEDUCED, log 104] -/
def linkLate (s : State) (port ns : Nat) : Bool := decide ((s.link port).stateAt + ns < s.time)

/-- Uncorrectable codewords of a lane in the 1 ms window that runs (R387, R413). [DEDUCED, log 67] -/
def laneWindow (s : State) (l : Jlk) (lane : Nat) : Nat := if lget l.laneAt lane 0 = s.time / 1000000 then lget l.laneUcw lane 0 else 0

/-- The port enters a training state. -/
def Jlk.enter (l : Jlk) (st : LinkState) (now : Nat) : Jlk := { l with state := st, stateAt := now }

/-! ### Frames held for replay (R393, R394) -/

/-- Every held frame below `next` is acknowledged. -/
def ackUpTo (next now : Nat) (l : Jlk) : Jlk :=
  let kept := l.held.filter fun h => !seqBelow h.fseq next
  if kept.length = l.held.length then l else { l with held := kept, replays := 0, advanceAt := now }

/-- Replay from FSEQ `next` on. Without held frames there is nothing to replay. -/
def startReplay (next now : Nat) (l : Jlk) : Jlk :=
  if l.held.isEmpty then l
  else { l with replayFrom := some next, replayCnt := (l.replayCnt + 1) % 65536, replays := l.replays + 1, advanceAt := now }

/-! ### Failed reads (R407) -/

/-- The partition for which a read was made; none for the secure world's. -/
def readPt (s : State) : ReadUse → List Nat
  | .ringFetch ring => [ringPt ring]
  | .movePage cpn => [cpnPt cpn]
  | .dmaBeats c => if (chanOwner s c).2 then [] else [(chanOwner s c).1]

/-- A host read fails: a ring fetch halts its ring, a TH page becomes POISONED, a DMA channel ends with POISON. -/
def failRead (s : State) (port : Nat) (r : MemRd) (status : Nat) : State :=
  let s := s.setLink port fun l => { l with reads := l.reads.filter (· != r) }
  let s := errEvent s 0x43 4 (pgJlk port) 4 0 status port (readPt s r.use)
  match r.use with
  | .ringFetch ring => if (s.subRing ring).fetch.any (fun f => f.1 == r.tag) then haltRing s ring else s
  | .movePage cpn => sourceFailed s cpn (status = 2)
  | .dmaBeats c => if (s.chan c).want = 0 then s else chanError s c 3

/-! ### A port goes DOWN (R408, R449) -/

/-- What a port forgets with its training: its replay buffer, its keys and session, and what it had to send for itself. -/
def Jlk.clear (l : Jlk) : Jlk :=
  { l with held := [], lanes := 0, replayFrom := none, replays := 0, keyed := false, session := false, spdm := .none, nextRxGen := none, ctl := [],
           mgmt := [], mgmtIn := [], discarding := false, tagFails := (0, 0) }

/-- A frame that R408 discards: a host write, an interrupt message, a read. [DEDUCED, log 67] -/
def discardedDown (f : QFrame) : Bool :=
  match f.frame.body with
  | .txn t => [TxnOp.memWr, .irqMsg, .memRd].contains t.op
  | _ => false

/-- The DMA channels whose host writes are lost: their next FENCE reports it (R377). [DEDUCED, log 67] -/
def failWriters (s : State) (origins : List Nat) : State :=
  let mark := fun (c : DmaCh × Nat) => if origins.contains (2 ^ 40 + c.2) then { c.1 with writeFailed := true } else c.1
  { s with dma := { s.dma with chs := s.dma.chs.zipIdx.map mark } }

/-- The rings of a host port halt with STATE = 2; completions that wait for its completion rings count as written (R408). -/
def haltRings (s : State) (port : Nat) : State :=
  let sqs := (s.dep.sq.filter fun r => r.2.en && !r.2.halted && r.2.port == port).map (·.1)
  let s := sqs.foldl haltRing s
  let cqs := (s.dep.cq.filter fun c => c.2.en && !c.2.halted && c.2.port == port).map (·.1)
  cqs.foldl (fun s k => dropCpls (s.setCplRing (k / 64) (k % 64) fun c => { c with halted := true }) (k / 64) (k % 64)) s

/-- A host port goes DOWN: its rings halt, its reads fail, its unacknowledged writes and messages are discarded. -/
def hostDown (s : State) (port : Nat) : State :=
  let t := s.sched port
  let lost := (t.qs.flatMap (·.frames) ++ t.stalled).filter discardedDown
  let s := failWriters s (lost.map (·.origin) ++ (s.link port).unacked.map (·.2))
  let s := s.setSched port fun t =>
    { t with qs := t.qs.map (fun q => { q with frames := q.frames.filter fun f => !discardedDown f }),
             stalled := t.stalled.filter fun f => !discardedDown f }
  let s := s.setLink port fun l => { l with unacked := [] }
  haltRings ((s.link port).reads.foldl (fun s r => failRead s port r 1) s) port

/-- A fabric port goes DOWN: routes that name it count as 15, and its queued frames are dropped. -/
def fabricDown (s : State) (port : Nat) : State :=
  let t := s.sched port
  let n := (t.qs.map fun q => q.frames.length).sum + t.stalled.length
  let s := s.setSched port fun t => { t with qs := t.qs.map (fun q => { q with frames := [] }), stalled := [] }
  { s with fab := { s.fab with drop := (s.fab.drop + n) % 2 ^ 32,
                               deadPorts := if s.fab.deadPorts.contains (port - 4) then s.fab.deadPorts
                                 else s.fab.deadPorts ++ [port - 4] } }

/-- A port enters DOWN with a cause. [DEDUCED, log 67] -/
def enterDown (s : State) (port cause : Nat) : State :=
  let s := s.setLink port fun l => { (l.clear.enter .down s.time) with cause := cause }
  let s := errEvent s 0x21 2 (pgJlk port) 4 0 cause port (strictPortOwner s port)
  if isHostPort port then hostDown s port else fabricDown s port

/-! ### RECOVER -/

/-- A port enters RECOVER: new frames wait, and the replay buffer stays. -/
def enterRecover (s : State) (port : Nat) (retrain : Bool) : State :=
  s.setLink port fun l =>
    { (l.enter .recover s.time) with recoverCnt := (l.recoverCnt + 1) % 65536, retraining := retrain, replays := 0 }

/-- A port starts a replay; the sixteenth in a row without an advance takes it to RECOVER (R394). [DEDUCED, log 67] -/
def replayOrRecover (s : State) (port next : Nat) : State :=
  let s := s.setLink port (startReplay next s.time)
  if 16 ≤ (s.link port).replays then enterRecover s port false else s

/-! ### The rows of R387 -/

/-- JLK_CFG.EN changes the state: the port powers its lanes, or powers down. [DEDUCED, log 67] -/
def applyEn (s : State) (port : Nat) : State :=
  let en := bit (s.reg (pgJlk port) 0x200) 0
  s.setLink port fun l =>
    if en ∧ l.state = .disabled then l.enter .detect s.time
    else if ¬ en ∧ l.state ≠ .disabled then l.clear.enter .disabled s.time
    else l

/-- A write of JLK_CFG. -/
def writeJlkCfg (s : State) (rq : Requester) (port v : Nat) : State := applyEn (storeFields s rq (pgJlk port) 0x200 0 v) port

/-- JLK_EN. -/
def execJlkEn (req : Requester) (port : Nat) (val : Word) (s : State) : Host.Outcome State Fault Refusal :=
  .next (if 12 ≤ port then s else secureOnly s req (pgJlk port) 0x200 fun s => writeJlkCfg s req port val.toNat)

/-- SIGNAL_DETECT: a signal on ×2 group `group`. -/
def execSignalDetect (port group : Nat) (s : State) : Host.Outcome State Fault Refusal :=
  .next (if (s.link port).state = .detect ∧ group < 4 then s.setLink port fun l => { (l.enter .eq s.time) with passed := 0 } else s)

/-- What the receivers find at the lanes (R380, R385, R413): whether the order of the lanes is reversed, polarities, and signal-to-noise
ratios, as free values. [DEDUCED, log 67] -/
def measureLanes (s : State) (port : Nat) : State :=
  let a := draw s
  let b := draw a.2
  b.2.setLink port fun l =>
    { l with laneInv := (List.range 8).map (bit a.1), lanePhys := (List.range 8).map fun i => if bit a.1 8 then 7 - i else i,
             laneSnr := (List.range 8).map fun i => bits b.1 (8 * i) 8 }

/-- 20 ms pass in EQ without a passing group: CAUSE 2, and back to DETECT. -/
def eqTimeout (s : State) (port : Nat) : State :=
  let s := s.reach ((s.link port).stateAt + 20000000)
  s.setLink port fun l => { (l.enter .detect s.time) with cause := 2 }

/-- EQ_DONE: `lanes` are the lanes that reach lane qualification. What comes past the bound finds it passed. -/
def execEqDone (port lanes : Nat) (s : State) : Host.Outcome State Fault Refusal :=
  .next (
    if (s.link port).state = .eq then
      if linkLate s port 20000000 then eqTimeout s port
      else match bestGroup (maxWidth s port) (lanes % 256) with
      | some g =>
        let s := measureLanes s port
        s.setLink port fun l => { (l.enter .align s.time) with passed := lanes % 256, group := g.first, groupWidth := g.width }
      | none => s
    else s)

/-- EQ_TIMEOUT: 20 ms pass without a passing group. -/
def execEqTimeout (port : Nat) (s : State) : Host.Outcome State Fault Refusal :=
  .next (
    if (s.link port).state = .eq then eqTimeout s port else s)

/-- The configuration block that a port sends (R386): its KIND, the lanes that passed, its nonce, its receive credits, and NEXT_RX. [DEDUCED, log 67] -/
def ownBlock (port lanes nonce nextRx : Nat) : CfgBlock :=
  { kind := if isHostPort port then 1 else 2, lanes := lanes, nonce := nonce, cred := [2048, 2048, 2048, 2048, 64], nextRx := nextRx }

/-- A port draws the nonce of its configuration block and sends the block, with NEXT_RX 0 (R386). [DEDUCED, log 67] -/
def sendBlock (s : State) (port : Nat) : State :=
  let d := draw s
  d.2.setLink port fun l => { l with nonce := d.1, sent := some (ownBlock port l.passed d.1 0) }

/-- The next group after one, narrower and with lanes that passed. -/
def narrowerGroup (width passed : Nat) : Option LaneGroup := bestGroup (width + 1) passed

/-- Lock of the chosen group fails: the next narrower one, or DETECT with CAUSE 3. -/
def lockFailed (s : State) (port : Nat) : State :=
  s.setLink port fun l =>
    match narrowerGroup l.groupWidth l.passed with
    | some g => { (l.enter .align s.time) with group := g.first, groupWidth := g.width }
    | none => { (l.enter .detect s.time) with cause := 3 }

/-- ALIGN_LOCK, within 1 ms; what comes past the bound finds it passed. -/
def execAlignLock (port : Nat) (s : State) : Host.Outcome State Fault Refusal :=
  .next (
    if (s.link port).state = .align then
      if linkLate s port 1000000 then lockFailed s port
      else sendBlock (s.setLink port fun l => l.enter .config s.time) port
    else s)

/-- ALIGN_FAIL. -/
def execAlignFail (port : Nat) (s : State) : Host.Outcome State Fault Refusal :=
  .next (if (s.link port).state = .align then lockFailed s port else s)

/-- Does a far end's KIND suit the port (R389)? -/
def kindSuits (port kind : Nat) : Bool := kind == (if isHostPort port then 0 else 2)

/-- The port after a full training: FSEQ, credits and keys are reset. -/
def Jlk.trained (l : Jlk) (g : LaneGroup) (master : Bool) (cred : List Nat) (now : Nat) : Jlk :=
  { (l.clear.enter .active now) with
    width := g.width, lanes := g.mask, master := master, retraining := false, txSeq := 0, advanceAt := now, rxNext := 0, rxSince := 0,
    ackAt := none, txLimit := (List.range 5).map fun c => lget cred c 0 % 65536, txCount := List.replicate 5 0,
    txUsed := List.replicate 5 0, rxUsed := List.replicate 5 0, rxReturned := List.replicate 5 0, rxSent := List.replicate 5 0,
    owedAt := none, creditAt := now, rxBuf := List.replicate 5 [], txCtr := 0, rxCtr := 0, kgenTx := 0, kgenRx := 0, kgenSince := 0 }

/-- A host port that is ACTIVE ends boot stage 3 (R572); code 0x86 reverts (R573). -/
def bootLinkUp (s : State) : State :=
  if s.boot.stage = 3 ∧ ¬ s.boot.halted ∧ (List.range 4).any (portActive s) then
    { s with boot := { s.boot with stage := 4, stageAt := s.time, code := if s.boot.code = 0x86 then (if s.boot.excl = 0 then 0 else 2)
                                                                          else s.boot.code } }
  else s

/-- Where an SPDM exchange begins (R411): a MASTER fabric port that is ACTIVE sends GET_VERSION once attestation is available. -/
def spdmStart (s : State) (port : Nat) : State :=
  let l := s.link port
  if l.state = .active ∧ l.master ∧ s.boot.attReady ∧ l.spdm = .none then
    s.setLink port fun l => { l with mgmt := l.mgmt ++ [{ mtype := 1, data := [0x10, 0x84, 0, 0] }] }
  else s

/-- CONFIG_BLOCK_RX (R386, R389): the far end's configuration block. Equal nonces are drawn again. A block past the 100 µs of R387, which
gives that bound no row, changes nothing. [DEDUCED, log 67] -/
def configBlock (s : State) (port : Nat) (b : CfgBlock) : State :=
  let l := s.link port
  if ¬ kindSuits port b.kind then enterDown s port 4
  else if linkLate s port 100000 then s
  else if b.nonce = l.nonce then sendBlock s port
  else
    match bestGroup l.groupWidth (l.passed &&& b.lanes) with
    | none => s
    | some g =>
      bootLinkUp (spdmStart (s.setLink port fun l => l.trained g (!isHostPort port && decide (b.nonce < l.nonce)) b.cred s.time) port)

def execConfigBlockRx (port : Nat) (blk : CfgBlock) (s : State) : Host.Outcome State Fault Refusal :=
  .next (if (s.link port).state = .config then configBlock s port blk else s)

/-- LINK_DEGRADE: a lane has exceeded DEG_UCW in its 1 ms window. -/
def execLinkDegrade (port lane : Nat) (s : State) : Host.Outcome State Fault Refusal :=
  .next (
    if (s.link port).state = .active ∧ bits (s.reg (pgJlk port) 0x200) 8 8 < laneWindow s (s.link port) lane then
      enterRecover s port false
    else s)

/-- ROW_LOCK_LOSS. -/
def execRowLockLoss (port : Nat) (s : State) : Host.Outcome State Fault Refusal :=
  .next (if (s.link port).state = .active then enterRecover s port false else s)

/-- The group a recovery chooses: no wider than before, but after RETRAIN; at the former width when DEG_EN = 0 (R388). [DEDUCED, log 67] -/
def recoverGroup (s : State) (port lanes : Nat) : Option LaneGroup :=
  let l := s.link port
  match bestGroup (if l.retraining then maxWidth s port else l.width) (lanes % 256) with
  | some g => if ¬ bit (s.reg (pgJlk port) 0x200) 3 ∧ l.width < g.width then none else some g
  | none => none

/-- The bound of a recovery: 50 µs, or 30 ms with RETRAIN. -/
def recoverNs (s : State) (port : Nat) : Nat := if (s.link port).retraining then 30000000 else 50000

/-- The bound of a recovery passes. -/
def recoverTimeout (s : State) (port : Nat) : State := enterDown (s.reach ((s.link port).stateAt + recoverNs s port)) port 5

/-- RECOVER_DONE: lock on `lanes`, and the far end's NEXT_RX; this end has sent its own (R386). A recovery without a group that may be used
takes the port DOWN, and so does one past its bound. [DEDUCED, log 67] -/
def recoverDone (s : State) (port lanes nextRx : Nat) : State :=
  match recoverGroup s port lanes with
  | none => enterDown s port 5
  | some g =>
    if linkLate s port (recoverNs s port) then recoverTimeout s port
    else
    let s := s.setLink port fun l =>
      let l := { (l.enter .active s.time) with width := g.width, lanes := g.mask, retraining := false, discarding := false,
                                               passed := if l.retraining then lanes % 256 else l.passed,
                                               sent := some (ownBlock port (lanes % 256) l.nonce l.rxNext) }
      startReplay nextRx s.time (ackUpTo nextRx s.time l)
    let s := s.setLink port fun l => { l with replays := 0 }
    let s := errEvent s 0x20 2 (pgJlk port) 4 0 g.width port (strictPortOwner s port)
    if isHostPort port then bootLinkUp s else s

def execRecoverDone (port lanes nextRx : Nat) (s : State) : Host.Outcome State Fault Refusal :=
  .next (if (s.link port).state = .recover then recoverDone s port lanes nextRx else s)

/-- RECOVER_TIMEOUT: 50 µs, or 30 ms with RETRAIN, pass without a passing group. -/
def execRecoverTimeout (port : Nat) (s : State) : Host.Outcome State Fault Refusal :=
  .next (
    if (s.link port).state = .recover then recoverTimeout s port else s)

/-- JLK_CTRL.RETRAIN. -/
def retrainPort (s : State) (port : Nat) : State :=
  match (s.link port).state with
  | .active => enterRecover s port true
  | .down => s.setLink port fun l => l.enter .detect s.time
  | _ => s

/-- JLK_CTRL.DOWN. -/
def downPort (s : State) (port : Nat) : State :=
  match (s.link port).state with
  | .active | .recover => enterDown s port 8
  | _ => s

/-- JLK_CTRL.REKEY. -/
def rekeyPort (s : State) (port : Nat) : State :=
  if (s.link port).keyed then newGeneration s port ((s.link port).kgenTx + 1) else s

def execRetrain (req : Requester) (port : Nat) (s : State) : Host.Outcome State Fault Refusal :=
  .next (if 12 ≤ port then s else secureOnly s req (pgJlk port) 0x204 fun s => retrainPort s port)

def execDown (req : Requester) (port : Nat) (s : State) : Host.Outcome State Fault Refusal :=
  .next (if 12 ≤ port then s else secureOnly s req (pgJlk port) 0x204 fun s => downPort s port)

def execRekey (req : Requester) (port : Nat) (s : State) : Host.Outcome State Fault Refusal :=
  .next (if 12 ≤ port then s else secureOnly s req (pgJlk port) 0x204 fun s => rekeyPort s port)

end Sys2Proof.Machine
end

