-- ==== Sys2Proof/Machine/Boot.lean ====
section
/-!
DEFINITION. Resets (R567 to R571), the stages of boot (R572 to R578) and the PERST_N contacts (R560).
-/

namespace Sys2Proof.Machine

/-! ### Stages -/

/-- Every Jurola port that JLK_CFG.EN allows enters DETECT: training begins (R572). -/
def startTraining (s : State) : State :=
  (List.range 12).foldl applyEn { s with boot := { s.boot with trainAt := s.time } }

/-- A stage begins. -/
def enterStage (s : State) (n : Nat) : State := { s with boot := { s.boot with stage := n, stageAt := s.time } }

/-- Boot halts with a code; a halt in stage 1 lets the ports train (R572 to R574). -/
def haltBoot (s : State) (code : Nat) : State :=
  let s := { s with boot := { s.boot with halted := true, code := code } }
  if s.boot.stage = 1 then startTraining s else s

/-- Does a stage run, neither halted nor stopped by a fatal error? -/
def inStage (s : State) (n : Nat) : Bool := s.boot.stage == n && !s.boot.halted && !s.boot.fatal

/-! ### Cold reset -/

/-- Stage 1 begins once RST_N and PWR_OK are both high. -/
def bootIfPowered (s : State) : State :=
  if s.boot.pwrOk ∧ s.boot.rstN then enterStage { s with boot := { s.boot with startAt := s.time } } 1 else s

/-- A cold reset (R569, R570): every register, table, partition and counter at its reset value. What lies outside the device stays, as do
the pins, an asserted THERMTRIP_N (R555) and the waiting commands; what the ports have sent is theirs who received it. [PRESUMED, log 28; DEDUCED, log 89] -/
def coldReset (s : State) (cause prevStage prevCode : Nat) : State :=
  bootIfPowered
    { State.reset with
      pending := s.pending, fresh := s.fresh, clk := { lock := true, refOk := true },
      mems := { host := s.mems.host, pool := s.mems.pool, flash := s.mems.flash, badLines := s.mems.badLines,
                badHost := s.mems.badHost, ckpts := s.mems.ckpts },
      tsc := s.tsc.map (fun t => { sent := t.sent }),
      pwr := { prochot := s.pwr.prochot, thermtrip := s.pwr.thermtrip },
      boot := { pwrOk := s.boot.pwrOk, rstN := s.boot.rstN, cause := cause, prevStage := prevStage, prevCode := prevCode } }

/-- A cold reset that records the stage and code it met. -/
def coldFrom (s : State) (cause : Nat) : State := coldReset s cause s.boot.stage s.boot.code

/-- PWR_OK_RISE: power-up. [DEDUCED, log 9; PRESUMED, log 28] -/
def execPwrOkRise (s : State) : Host.Outcome State Fault Refusal :=
  .next (if s.boot.pwrOk then s else coldReset { s with boot := { s.boot with pwrOk := true } } 1 0 0)

/-- PWR_OK_FALL: a cold reset at once while RST_N is high (R548). THERMTRIP_N ends (R555). -/
def execPwrOkFall (s : State) : Host.Outcome State Fault Refusal :=
  .next (
    let t := { s with boot := { s.boot with pwrOk := false }, pwr := { s.pwr with thermtrip := false } }
    if s.boot.pwrOk ∧ s.boot.rstN then coldFrom t 3 else t)

/-- RST_N_LOW: the device is held in cold reset. -/
def execRstNLow (s : State) : Host.Outcome State Fault Refusal :=
  .next (if s.boot.rstN then coldFrom { s with boot := { s.boot with rstN := false } } 2 else s)

/-- RST_N_RISE: boot starts at stage 1 if PWR_OK is high. -/
def execRstNRise (s : State) : Host.Outcome State Fault Refusal :=
  .next (if s.boot.rstN then s else bootIfPowered { s with boot := { s.boot with rstN := true } })

/-- GLB_RST_CTRL.COLD. [PRESUMED, log 28] -/
def execCold (req : Requester) (s : State) : Host.Outcome State Fault Refusal :=
  .next (secureAlways s req pgGlb 0x228 fun s => coldFrom s 4)

/-! ### Device warm reset -/

/-- The registers that a device warm reset keeps (R570): the region table, and each stack's HBC_ERR_BASE, HBC_PATROL and HBC_CE_RETIRE. -/
def warmKeepsReg (key : Nat) : Bool :=
  let off := key / 2 ^ 20 % 65536
  let page := key / 2 ^ 36
  (page == pgSec && [0x224, 0x228, 0x22C].contains off)
    || (pageType page == 0x10 && [0x200, 0x204, 0x208, 0x20C].contains off)

/-- A locked page keeps its world: LOCK fixes SECURE until cold reset (R346). [DEDUCED, log 89] -/
def warmPages (s : State) : Tbl Page :=
  (s.pages.filter fun e => e.2.lock).foldl (fun t e => tput (pageReset e.1) t e.1 { secure := e.2.secure, lock := true }) []

/-- A partition after a device warm reset: EMPTY, PEPOCH raised by 1. [DEDUCED, log 89] -/
def warmPart (p : Part) : Part := { pepoch := (p.pepoch + 1) % 2 ^ 64 }

/-- A stack after a device warm reset: its retirement log and its frame counts stay. -/
def warmHbc (h : Hbc) : Hbc := { counts := h.counts, retired := h.retired, log := h.log, ovf := h.ovf }

/-- GLB_RST_CTRL.WARM (R569, R570): boot resumes at stage 2, and every Jurola port trains again. [DEDUCED, log 89] -/
def warmDevice (s : State) : State :=
  startTraining
    { State.reset with
      pending := s.pending, fresh := s.fresh, time := s.time, phase := s.phase, clk := s.clk,
      regs := s.regs.filter (fun e => warmKeepsReg e.1), pages := warmPages s,
      mems := { hbm := s.mems.hbm, host := s.mems.host, pool := s.mems.pool, flash := s.mems.flash, badUnits := s.mems.badUnits,
                badLines := s.mems.badLines, badHost := s.mems.badHost, ckpts := s.mems.ckpts },
      sec := { depoch := s.sec.depoch, drkOk := s.sec.drkOk, attOk := s.sec.attOk, es := s.sec.es, serial := s.sec.serial,
               pts := s.sec.pts.map warmPart },
      hbc := s.hbc.map warmHbc,
      tsc := s.tsc.map (fun t => { sent := t.sent }),
      pwr := { prochot := s.pwr.prochot, thermtrip := s.pwr.thermtrip },
      boot := { stage := 2, cause := 5, prevStage := s.boot.stage, prevCode := s.boot.code, stageAt := s.time, startAt := s.time,
                pwrOk := s.boot.pwrOk, rstN := s.boot.rstN, warmRunning := true } }

/-- A WARM write while a warm reset runs is ignored and logged with code 0x06 (R569). -/
def warmWrite (s : State) (rq : Requester) : State :=
  if s.boot.warmRunning then logErr s pgGlb 0x06 0 0x228 0 rq else warmDevice s

def execWarmReset (req : Requester) (s : State) : Host.Outcome State Fault Refusal :=
  .next (secureAlways s req pgGlb 0x228 fun s => warmWrite s req)

/-! ### Stages 1 to 5 -/

/-- The epochs of stage 1: DEPOCH, then every PEPOCH, from the random generator. -/
def drawEpochs (s : State) : State :=
  let d := draw s
  (List.range 8).foldl (fun s p =>
    let e := draw s
    e.2.setPart p fun q => { q with pepoch := e.1 }) { d.2 with sec := { d.2.sec with depoch := d.1 } }

/-- The end of the running stage's bound (R572), for the stages that have one. Stage 5 has one from a commit of a map until every unit has
applied it. [DEDUCED, log 85] -/
def stageBound (s : State) : Option Nat :=
  match s.boot.stage with
  | 1 | 4 => some (s.boot.stageAt + 2000000)
  | 2 => some (s.boot.stageAt + 50000000)
  | 5 => if bit s.dep.lag 3 then s.dep.made.map fun m => m.2 + 100000 else none
  | _ => none

/-- The work of a stage ends; past the stage's bound it finds boot halted with CODE 0x8F (R573). [DEDUCED, log 104] -/
def stageWork (s : State) (f : State → State) : State :=
  if (stageBound s).any fun b => decide (b < s.time) then haltBoot s 0x8F else f s

/-- FUSE_LOAD: stage 1. -/
def fuseLoad (s : State) (drkOk attOk rngOk : Bool) : State :=
  let s := { s with sec := { s.sec with drkOk := drkOk, attOk := attOk, es := Config.engineeringSample, serial := Config.serial.toNat } }
  if ¬ drkOk then haltBoot s 0x81
  else if ¬ rngOk then haltBoot s 0x82
  else startTraining (enterStage (drawEpochs s) 2)

/-- [DEDUCED, log 9] -/
def execFuseLoad (drkOk attOk rngOk : Bool) (s : State) : Host.Outcome State Fault Refusal :=
  .next (if inStage s 1 then stageWork s fun s => fuseLoad s drkOk attOk rngOk else s)

/-- ROM_SELF_CHECK: the ROM digest, then the PHYs; `failed`: the stacks that do not train, which are excluded (R575). -/
def romCheck (s : State) (same : Bool) (failed : Nat) : State :=
  let excl := failed % 2 ^ 12
  if ¬ same then haltBoot s 0x83
  else
    let s := { s with
      sec := { s.sec with romDigest := Config.romDigest },
      hbc := s.hbc.zipIdx.map (fun h => { h.1 with excluded := bit excl h.2 }),
      boot := { s.boot with romOk := true, excl := excl, code := if excl = 0 then 0 else 2 } }
    if excl = 2 ^ 12 - 1 then haltBoot s 0x84 else s

/-- [DEDUCED, log 9] -/
def execRomSelfCheck (match_ : Bool) (failed : Nat) (s : State) : Host.Outcome State Fault Refusal :=
  .next (if inStage s 2 ∧ ¬ s.boot.romOk then stageWork s fun s => romCheck s match_ failed else s)

/-- The ranges of HBM that the fill leaves: class 1 ranges, and the frame count table of each stack where it lies in a class 0 range
(R570). Each as its first address and its end. [DEDUCED, log 89] -/
def keptRanges (s : State) : List (Nat × Nat) :=
  ((List.range 16).filterMap fun i =>
    let e := rgnEntry s i
    if bit e.1 5 ∧ bit e.1 4 then some (hbmFrame (bits e.1 0 4) e.2.1, hbmFrame (bits e.1 0 4) (e.2.2 + 1)) else none)
  ++ ((List.range 12).filterMap fun m =>
    let a := s.reg64 (pgHbc m) 0x208
    if inClass s 0 a 589824 then some (a, a + 589824) else none)

/-- The all-zero form is written into every frame that is not kept. [DEDUCED, log 89] -/
def fillHbm (s : State) : State :=
  let rs := keptRanges s
  let kept := fun (a : Nat) => rs.any fun r => decide (r.1 ≤ a ∧ a < r.2)
  { s with mems := { s.mems with hbm := s.mems.hbm.filter (fun c => kept c.1), badUnits := s.mems.badUnits.filter (fun u => kept (u * 256)) } }

/-- Set the PERST_N contact of NP0 to NP15 (0 to 15) or CP0, CP1 (16, 17). -/
def setPerst (s : State) (i : Nat) (v : Bool) : State := { s with boot := { s.boot with perst := lset s.boot.perst i v } }

/-- MEMORY_FILL_DONE: CP0 and CP1 leave PERST, and stage 3 begins; a host port that is ACTIVE ends it at once. -/
def fillDone (s : State) : State := bootLinkUp (enterStage (setPerst (setPerst (fillHbm s) 16 true) 17 true) 3)

/-- [DEDUCED, log 9] -/
def execMemoryFillDone (s : State) : Host.Outcome State Fault Refusal :=
  .next (if inStage s 2 ∧ s.boot.romOk then stageWork s fillDone else s)

/-- HOST_PORT_WAIT_TIMEOUT: 25 ms from the start of training without an ACTIVE host port; the wait goes on. [DEDUCED, log 9] -/
def execHostPortWaitTimeout (s : State) : Host.Outcome State Fault Refusal :=
  .next (
    if inStage s 3 then
      let s := s.reach (s.boot.trainAt + 25000000)
      { s with boot := { s.boot with code := 0x86 } }
    else s)

/-- Entry to stage 5: the SPDM responder is open, and fabric ports that are MASTER begin their exchanges (R411). -/
def openSpdm (s : State) : State :=
  let us := min ((s.time - s.boot.startAt) / 1000) (2 ^ 32 - 1)
  let s := enterStage { s with boot := { s.boot with attReady := true, warmRunning := false, bootUs := us } } 5
  (List.range 12).foldl spdmStart s

/-- ATTESTATION_READY: stage 4 ends, or halts without the attestation key. -/
def attested (s : State) : State := if s.sec.attOk then openSpdm s else haltBoot s 0x85

/-- [DEDUCED, log 9] -/
def execAttestationReady (s : State) : Host.Outcome State Fault Refusal :=
  .next (if inStage s 4 then stageWork s attested else s)

/-- BOOT_STAGE_TIMEOUT: the stage's bound passes. -/
def execBootStageTimeout (s : State) : Host.Outcome State Fault Refusal :=
  .next (
    match stageBound s with
    | some t => if s.boot.halted ∨ s.boot.fatal then s else haltBoot (s.reach t) 0x8F
    | none => s)

/-! ### Port warm reset (R571) -/

/-- A Jurola port goes DOWN and back to DETECT; a port without EN stays off. [DEDUCED, log 89] -/
def resetJurola (s : State) (p : Nat) : State :=
  if (s.link p).state = .disabled then s else (enterDown s p 8).setLink p fun l => l.enter .detect s.time

/-- PERST_N of a port is low for 100 µs. -/
def holdPerst (s : State) (i code : Nat) : State :=
  let s := setPerst s i false
  { s with boot := { s.boot with portReset := tset s.boot.portReset code (s.time + 100000) } }

/-- A CXL port fails under R316, forgets its extents, and is no longer FAILED. [DEDUCED, log 94] -/
def resetCxl (s : State) (c : Nat) : State :=
  let s := (portFail s c).setCport c fun p => { p with failed := false, up := false, exts := p.exts.map fun e => { e with valid := false } }
  holdPerst s (16 + c) (16 + c)

/-- A drive fails under R333, if it has not failed already. -/
def resetDrive (s : State) (np : Nat) : State := holdPerst (failDrive s np) np (32 + np)

/-- GLB_PORT_RST: a port code that names no port is logged with code 0x02 (R578), a reset while one runs with code 0x06 (R569). -/
def portResetWrite (s : State) (rq : Requester) (v : Nat) : State :=
  let p := v % 64
  if ¬ (p < 12 ∨ (16 ≤ p ∧ p < 18) ∨ (32 ≤ p ∧ p < 48)) then logErr s pgGlb 0x02 0 0x22C 0 rq
  else if s.boot.warmRunning ∨ tmem s.boot.portReset p then logErr s pgGlb 0x06 0 0x22C 0 rq
  else if p < 12 then resetJurola s p
  else if p < 18 then resetCxl s (p - 16)
  else resetDrive s (p - 32)

def execGlbPortRst (req : Requester) (val : Word) (s : State) : Host.Outcome State Fault Refusal :=
  .next (if s.boot.fatal then s else secureOnly s req pgGlb 0x22C fun s => portResetWrite s req val.toNat)

/-- PERST_HOLD_END: a CXL port leaves PERST and trains; a drive does so with NVH_CFG.EN = 1, for a bring-up as REINIT repeats it. -/
def perstEnd (s : State) (p : Nat) : State :=
  match tget s.boot.portReset p with
  | none => s
  | some t =>
    let s := s.reach t
    let s := { s with boot := { s.boot with portReset := tdel s.boot.portReset p } }
    if p < 18 then setPerst s p true
    else if bit (s.reg pgNvh 0x200) 0 then restartDrive (setPerst s (p - 32) true) (p - 32)
    else s

def execPerstHoldEnd (port : Nat) (s : State) : Host.Outcome State Fault Refusal := .next (if s.boot.fatal then s else perstEnd s port)

end Sys2Proof.Machine
end

