-- ==== Sys2Proof/Machine/Discovery.lean ====
section
/-!
DEFINITION. Device discovery (R442 to R445) and snapshot packets (R465).
-/

namespace Sys2Proof.Machine

/-! ### Bodies (R444) -/

def probeBytes (p : Probe) : List Byte :=
  toLe 8 p.serial ++ toLe 1 p.level ++ toLe 1 p.port ++ toLe 2 (p.id + b2n p.idValid * 2 ^ 15) ++ toLe 2 p.dgen ++ zeros 18

def reportBytes (r : Report) : List Byte :=
  toLe 8 r.serial ++ toLe 1 r.level ++ toLe 1 r.parent ++ toLe 2 r.dgen ++ zeros 4 ++ padTo 64 (r.neighSerial.flatMap (toLe 8))
    ++ padTo 8 (r.neighPort.flatMap (toLe 1)) ++ zeros 8

def assignBytes (a : AssignMsg) : List Byte :=
  toLe 8 a.serial ++ toLe 2 a.id ++ toLe 1 a.level ++ toLe 1 a.nhops ++ toLe 2 a.dgen ++ zeros 2 ++ toLe 8 a.path ++ zeros 8

/-- Send a discovery packet on a fabric port: one link, class 0, VC3 (R439, R440). -/
def sendDisc (s : State) (x : Nat) (t : PType) (bs : List Byte) : State :=
  sendPkt s (4 + x) 0 3 0 true
    { ptype := t, start := true, last := true, dstDev := 0xFFF, srcDev := s.fab.devId, data := bs, frameSecure := true }

def setDisc (s : State) (f : Disc → Disc) : State := { s with fab := { s.fab with disc := f s.fab.disc } }

/-- This device's serial number, and whether it is the root (R442). -/
def mySerial (s : State) : Nat := s.sec.serial
def isRoot (s : State) : Bool := bit (s.reg pgFab 0x200) 0

/-- A PROBE with this device's level on every ACTIVE fabric port. -/
def sendProbes (s : State) (level dgen : Nat) : State :=
  (fabPortsUp s).foldl (fun s x => sendDisc s x .probe (probeBytes
    { serial := mySerial s, level := level, port := x, id := s.fab.devId, idValid := s.fab.idValid, dgen := dgen })) s

/-- FAB_DISC_GO (R443 step 1); on a device that is not the root it is refused with code 0x06 (R470). The root takes ID 0 and level 0
(R442). [DEDUCED, log 74] -/
def discGo (s : State) (rq : Requester) : State :=
  if ¬ isRoot s then logErr s pgFab 0x06 0 0x204 0 rq
  else
    let g := (s.fab.disc.dgen + 1) % 65536
    let s := { s with fab := { s.fab with devId := 0, idValid := true } }
    let s := setDisc s fun d =>
      { d with state := 1, dgen := g, seenDgen := some g, level := some 0, parent := none, startedAt := s.time, lastReport := s.time,
               reports := [], unassigned := 0,
               ids := if d.ids.any (fun i => i.1 == mySerial s) then d.ids else (mySerial s, 0) :: d.ids }
    sendProbes s 0 g

def execFabDiscGo (req : Requester) (s : State) : Host.Outcome State Fault Refusal :=
  .next (guarded s req pgFab 0x204 fun s => discGo s req)

/-- Is a generation newer than the newest seen, modulo 65,536? -/
def newerGen (seen : Option Nat) (g : Nat) : Bool :=
  match seen with
  | none => true
  | some o => decide (1 ≤ subMod g o 16 ∧ subMod g o 16 ≤ 32767)

/-- PROBE_RX (R443 steps 2 and 3). -/
def probeRx (s : State) (port : Nat) (p : Probe) : State :=
  let x := port - 4
  let s := setDisc s fun d => { d with neigh := tset d.neigh x p }
  let s := if newerGen s.fab.disc.seenDgen p.dgen then
      setDisc s fun d => { d with seenDgen := some p.dgen, level := none, parent := none, reportAt := none }
    else s
  let d := s.fab.disc
  if d.seenDgen ≠ some p.dgen ∨ p.level = 0xFF then s
  else
    let l := p.level + 1
    match d.level with
    | some o =>
      if l < o then
        sendProbes (setDisc s fun d => { d with level := some l, parent := some x, reportAt := some (s.time + 20000) }) l p.dgen
      else if l = o ∧ d.parent.any (fun q => decide (x < q)) then setDisc s fun d => { d with parent := some x }
      else s
    | none =>
      sendProbes (setDisc s fun d => { d with level := some l, parent := some x, reportAt := some (s.time + 20000) }) l p.dgen

def execProbeRx (port : Nat) (p : Probe) (s : State) : Host.Outcome State Fault Refusal :=
  .next (if s.boot.fatal ∨ port < 4 then s else probeRx (rxConsume s port (isPktType .probe)) port p)

/-- The REPORT of this device. -/
def myReport (s : State) : Report :=
  let d := s.fab.disc
  { serial := mySerial s, level := d.level.getD 0xFF, parent := d.parent.getD 0xFF, dgen := d.seenDgen.getD 0,
    neighSerial := (List.range 8).map fun x => ((tget d.neigh x).map (·.serial)).getD 0,
    neighPort := (List.range 8).map fun x => ((tget d.neigh x).map (·.port)).getD 0xFF }

/-- DISC_REPORT_TIMER (R443 step 3). -/
def discReport (s : State) : State :=
  match s.fab.disc.reportAt, s.fab.disc.parent with
  | some t, some x =>
    let s := setDisc (s.reach t) fun d => { d with reportAt := none }
    sendDisc s x .report (reportBytes (myReport s))
  | _, _ => s

def execDiscReportTimer (s : State) : Host.Outcome State Fault Refusal :=
  .next (if s.boot.fatal then s else discReport s)

/-- The address of a record of the topology table (R444). -/
def topoRec (s : State) (id : Nat) : Nat := s.reg64 pgFab 0x214 + 128 * id

/-- Write a device's record: its last REPORT, its ID. -/
def writeTopo (s : State) (r : Report) : State :=
  match s.fab.disc.ids.find? fun i => i.1 == r.serial with
  | some i => structAccess s (topoRec s i.2) 128 fun s =>
      hbmWrite s (topoRec s i.2) (reportBytes r ++ toLe 2 (i.2 + 2 ^ 15) ++ zeros 30)
  | none => s

/-- REPORT_RX (R443 steps 4 and 5). [DEDUCED, log 74] -/
def reportRx (s : State) (r : Report) : State :=
  if isRoot s then
    if r.dgen ≠ s.fab.disc.dgen ∨ s.fab.disc.state ≠ 1 then s
    else
      let s := setDisc s fun d =>
        { d with reports := d.reports.filter (fun x => x.serial != r.serial) ++ [r], lastReport := s.time }
      writeTopo s r
  else
    match s.fab.disc.parent with
    | some x => sendDisc s x .report (reportBytes r)
    | none => s

def execReportRx (port : Nat) (r : Report) (s : State) : Host.Outcome State Fault Refusal :=
  .next (if s.boot.fatal ∨ port < 4 then s else reportRx (rxConsume s port (isPktType .report)) r)

/-! ### Assignment (R445) -/

/-- A device found, with what orders it: its parent's ID, its parent's port, its path from the root. -/
structure Found where
  rep : Report
  parentId : Nat
  parentPort : Nat
  path : List Nat
  deriving DecidableEq, Repr

/-- The devices of one level whose parent has an ID, in R445's order. `have_`: serial, ID and path of the devices placed so far. -/
def foundAt (d : Disc) (have_ : List (Nat × Nat × List Nat)) (level : Nat) : List Found :=
  let fs := (d.reports.filter fun r => r.level == level).filterMap fun r =>
    let ps := lget r.neighSerial r.parent 0
    let pp := lget r.neighPort r.parent 0xFF
    (have_.find? fun h => h.1 == ps).map fun h => { rep := r, parentId := h.2.1, parentPort := pp, path := h.2.2 ++ [pp] }
  sortBy fs fun a b => decide (a.parentId < b.parentId ∨ (a.parentId = b.parentId ∧ a.parentPort ≤ b.parentPort))

/-- The lowest ID that no serial holds. [DEDUCED, log 74] -/
def freeId (ids : List (Nat × Nat)) : Nat := firstFree (fun k => ids.any fun i => i.2 == k) 1 (ids.length + 1) 0

/-- The ID of a serial, or the lowest free one, with the table that holds it; none past 4,096. [DEDUCED, log 74] -/
def giveId (ids : List (Nat × Nat)) (serial : Nat) : Option (Nat × List (Nat × Nat)) :=
  match ids.find? fun i => i.1 == serial with
  | some i => some (i.2, ids)
  | none => if freeId ids < 4096 then some (freeId ids, ids ++ [(serial, freeId ids)]) else none

/-- PATH: 4 bits per hop. -/
def pathBits : List Nat → Nat
  | [] => 0
  | p :: ps => p % 16 + 16 * pathBits ps

/-- Assign the devices of levels 1 to 15: the IDs, and the ASSIGNs in order. [DEDUCED, log 74] -/
def assignAll (d : Disc) (root : Nat) : List (Nat × Nat) × List (AssignMsg × Report) :=
  let r := (List.range 15).foldl (fun (acc : List (Nat × Nat) × List (Nat × Nat × List Nat) × List (AssignMsg × Report)) l =>
    (foundAt d acc.2.1 (l + 1)).foldl (fun acc f =>
      match giveId acc.1 f.rep.serial with
      | none => acc
      | some (id, ids) =>
        let a : AssignMsg := { serial := f.rep.serial, id := id, level := l + 1, nhops := f.path.length, dgen := d.dgen,
                               path := pathBits f.path }
        (ids, acc.2.1 ++ [(f.rep.serial, id, f.path)], acc.2.2 ++ [(a, f.rep)])) acc)
    (d.ids, [(root, 0, [])], [])
  (r.1, r.2.2)

/-- Forward an ASSIGN: the lowest 4 bits of PATH are the port, and are removed. [DEDUCED, log 74] -/
def passAssign (s : State) (a : AssignMsg) : State :=
  if a.path % 16 < 8 then sendDisc s (a.path % 16) .assign (assignBytes { a with path := a.path / 16 }) else s

/-- DISC_REPORT_QUIET: the root assigns IDs (R443 steps 6 and 8). -/
def discQuiet (s : State) : State :=
  if ¬ isRoot s ∨ s.fab.disc.state ≠ 1 then s
  else
    let s := s.reach (s.fab.disc.lastReport + 200000)
    let r := assignAll s.fab.disc (mySerial s)
    let s := setDisc s fun d =>
      { d with state := 2, ids := r.1, levels := d.reports.foldl (fun v x => max v (if x.level = 0xFF then 0 else x.level)) 0,
               unassigned := min 2047 (d.reports.length - r.2.length) }
    let s := r.2.foldl (fun s a => passAssign (writeTopo s a.2) a.1) s
    setIrq s pgFab 8

def execDiscReportQuiet (s : State) : Host.Outcome State Fault Refusal :=
  .next (if s.boot.fatal then s else discQuiet s)

/-- ASSIGN_RX (R443 step 7). -/
def assignRx (s : State) (a : AssignMsg) : State :=
  if a.serial = mySerial s then
    setDisc { s with fab := { s.fab with devId := a.id, idValid := true } } fun d => { d with level := some a.level }
  else passAssign s a

def execAssignRx (port : Nat) (a : AssignMsg) (s : State) : Host.Outcome State Fault Refusal :=
  .next (if s.boot.fatal ∨ port < 4 then s else assignRx (rxConsume s port (isPktType .assign)) a)

/-- DISC_TIMEOUT: the 5 ms bound has passed. [DEDUCED, log 74] -/
def discTimeout (s : State) : State :=
  if s.fab.disc.state = 1 then setDisc (s.reach (s.fab.disc.startedAt + 5000000)) fun d => { d with state := 3 } else s

def execDiscTimeout (s : State) : Host.Outcome State Fault Refusal :=
  .next (if s.boot.fatal then s else discTimeout s)

/-- SNAP_PACKET_RX: a trigger with the fabric source while FAB_IN = 1 (R352). -/
def snapRx (s : State) : State := if bit (s.reg pgSnp 0x200) 2 then snapTrigger s 8 else s

def execSnapPacketRx (port _id _dev _stamp : Nat) (s : State) : Host.Outcome State Fault Refusal :=
  .next (if port < 4 then s else snapRx (rxConsume s port (isPktType .snap)))

end Sys2Proof.Machine
end

