-- ==== Sys2Proof/Machine/Tables.lean ====
section
/-!
DEFINITION. The staged tables of an EPOCH_COMMIT (R79): how each section is read, and the byte offset of the first field that breaks
a rule of its owning chapter (R80, R429, R475 to R478, R446, R447, R292, R293, R433, R434, R213).
-/

namespace Sys2Proof.Machine

/-! ### First bad fields -/

/-- The least of some offsets. -/
def leastOf (l : List (Option Nat)) : Option Nat := l.foldl minDl none
/-- The least offset of the conditions that hold. [DEDUCED, log 37] -/
def badAt (l : List (Bool × Nat)) : Option Nat := leastOf (l.map fun x => if x.1 then some x.2 else none)
/-- The first byte from lo to hi − 1 that sets a reserved bit, as an offset from the section's start. -/
def rsvBad (runs : List Run) (bs : List Byte) (base n : Nat) : Option Nat :=
  (reservedByte runs ((bs.drop base).take n) 0 n).map (base + ·)

/-! ### Deadline policies (R80) -/

def dlpBad (bs : List Byte) : Option Nat :=
  (List.range 64).find? fun i => if i % 8 = 0 then decide (2 < field bs i 1) else field bs i 1 != 0
def dlpRead (bs : List Byte) : List Nat := (List.range 8).map fun p => field bs (8 * p) 1 % 4

/-! ### Gate lists (R429) -/

/-- Bytes of one port's section. -/
def gateBytes : Nat := 4160
/-- A port's list. NENT takes its nine defined bits. -/
def gateRead (bs : List Byte) (base : Nat) : GateList where
  baseTime := field bs base 8
  cycle := field bs (base + 8) 4
  entries := (List.range (min 256 (field bs (base + 12) 2 % 512))).map fun i =>
    (field bs (base + 64 + 16 * i) 8, field bs (base + 72 + 16 * i) 4)
/-- CYCLE_NS and DUR_NS count only in a list that has entries (DESIGN CHOICE: R429 calls NENT = 0 no list). -/
def gateBad (bs : List Byte) (base : Nat) : Option Nat :=
  let n := field bs (base + 12) 2 % 512
  badAt ([(decide (0 < n ∧ field bs (base + 8) 4 < 64), base + 8), (decide (256 < n), base + 12)]
    ++ (List.range (min n 256)).map fun i => (field bs (base + 72 + 16 * i) 4 == 0, base + 72 + 16 * i))
def gatesBad (bs : List Byte) : Option Nat := (List.range 12).findSome? fun p => gateBad bs (gateBytes * p)
def gatesRead (bs : List Byte) : List GateList := (List.range 12).map fun p => gateRead bs (gateBytes * p)

/-! ### The partition map (R475 to R478) -/

def entryOff (pt : Nat) : Nat := 128 + 128 * pt

def entryRead (bs : List Byte) (pt : Nat) : MapEntry :=
  let b := entryOff pt
  let f := field bs b 1
  { valid := bit f 0, strict := bit f 1, tkey := bit f 2, hp := field bs (b + 1) 1 % 16, xp := field bs (b + 2) 1,
    banks := field bs (b + 3) 1, np := field bs (b + 4) 2, cp := field bs (b + 6) 1 % 4, tiles := field bs (b + 8) 6,
    pc := (List.range 12).map fun s => field bs (b + 16 + 4 * s) 4, seqBase := field bs (b + 64) 3 % 2 ^ 20,
    seqCount := field bs (b + 68) 3 % 2 ^ 21 }

def mapRead (bs : List Byte) : PtMap where
  wa := (List.range 12).map fun s =>
    let v := field bs (8 * s) 8
    if bit v 63 then some (bits v 0 20, bits v 32 20) else none
  pts := (List.range 8).map (entryRead bs)
  raw := bs

/-- The defined bits of the map's header and of an entry. -/
def mapHeadRuns : List Run := (List.range 12).flatMap fun s => [⟨8 * s, 3, 0x0F⟩, ⟨8 * s + 4, 3, 0x0F⟩, ⟨8 * s + 7, 1, 0x80⟩]
def mapEntryRuns : List Run :=
  [⟨0, 1, 0x07⟩, ⟨1, 1, 0x0F⟩, ⟨2, 4, 0xFF⟩, ⟨6, 1, 0x03⟩, ⟨8, 6, 0xFF⟩, ⟨16, 48, 0xFF⟩, ⟨64, 3, 0x0F⟩, ⟨68, 3, 0x1F⟩]

/-- A working-area window ends before it begins, overlaps an enabled pool or a region-table range, reaches HBC_FRAMES, or lies in an excluded stack (R478,
R575). [DEDUCED, log 86] -/
def waWindowBad (s : State) (m : PtMap) (k : Nat) : Bool :=
  match lget m.wa k none with
  | none => false
  | some (f, l) =>
    decide (l < f ∨ hbcFrames ≤ l) || (s.hb k).excluded
      || (match t1Pool s k with | some (pf, pl) => decide (f ≤ pl ∧ pf ≤ l) | none => false)
      || (List.range 16).any fun i =>
        let e := rgnEntry s i
        bit e.1 5 && bits e.1 0 4 == k && decide (f ≤ e.2.2 ∧ e.2.1 ≤ l)

/-- Has a stack a VALID class 0 range? -/
def classZeroOn (s : State) (k : Nat) : Bool :=
  (List.range 16).any fun i => let e := rgnEntry s i; bit e.1 5 && !bit e.1 4 && bits e.1 0 4 == k

/-- Does another partition hold a share of a drive (R328)? -/
def foreignShare (s : State) (np pt : Nat) : Bool :=
  (List.range 8).any fun q => q != pt && decide (0 < (shareOf s np q).2)

/-- Does an open sequence of the partition lie outside a range (R121)? [DEDUCED, log 86] -/
def seqLeft (s : State) (pt : Nat) (e : MapEntry) : Bool :=
  s.seq.ctxs.any fun c => c.2.state != .free && c.2.pt == pt && !decide (e.seqBase ≤ c.1 ∧ c.1 < e.seqBase + e.seqCount)

/-- The fields of one entry that break a rule by themselves or against the device's state. [DEDUCED, log 86] -/
def mapEntryBad (s : State) (bs : List Byte) (pt : Nat) : Option Nat :=
  let b := entryOff pt
  let e := entryRead bs pt
  let old := lget s.dep.cfg.pmap.pts pt {}
  let loose := if e.valid then none
    else ((List.range 128).find? fun i => if i = 0 then field bs b 1 / 2 != 0 else field bs (b + i) 1 != 0).map (b + ·)
  let r := s.reg pgRec 0x200
  leastOf [rsvBad mapEntryRuns bs b 128, loose, badAt
    ([(!e.strict && e.xp != 0, b + 2), (!e.strict && e.banks != 0, b + 3), (!e.strict && e.np != 0, b + 4),
      (!e.strict && e.cp != 0, b + 6), (decide (0xFFFFF < e.seqBase + e.seqCount), b + 68),
      ((s.part pt).state != .empty && (e.valid, e.strict, e.tkey) != (old.valid, old.strict, old.tkey), b),
      (seqLeft s pt e, b + 64),
      (e.valid && e.strict && bit r 0 && bit r 1 && bit e.hp (bits r 8 2), b + 1),
      (e.valid && s.rec_.replay == 1 && pt != bits (s.reg pgRec 0x224) 1 3, b),
      (e.valid && e.strict && (List.range 16).any fun n => bit e.np n && foreignShare s n pt, b + 4)]
    ++ (List.range 12).map fun k =>
      let pc := lget e.pc k 0
      (e.valid && pc != 0 && ((s.hb k).excluded || (e.strict && (pc != 2 ^ 32 - 1 || classZeroOn s k))), b + 16 + 4 * k))]

/-- What entry j shares with an earlier VALID entry i, as offsets in j (R476, R478). -/
def shareBad (m : PtMap) (i j : Nat) : Option Nat :=
  let a := lget m.pts i {}
  let e := lget m.pts j {}
  let b := entryOff j
  if ¬ (a.valid ∧ e.valid) then none
  else badAt ([(a.tiles &&& e.tiles != 0, b + 8),
      (decide (max a.seqBase e.seqBase < min (a.seqBase + a.seqCount) (e.seqBase + e.seqCount)), b + 64),
      ((a.strict || e.strict) && a.hp &&& e.hp != 0, b + 1), (a.xp &&& e.xp != 0, b + 2), (a.banks &&& e.banks != 0, b + 3),
      (a.np &&& e.np != 0, b + 4), (a.cp &&& e.cp != 0, b + 6)]
    ++ (List.range 12).map fun k => (lget a.pc k 0 &&& lget e.pc k 0 != 0, b + 16 + 4 * k))

/-- The STRICT byte of the first strict entry, if the map breaks the power sum (R551). [DEDUCED, log 23] -/
def powerBad (s : State) (m : PtMap) : Option Nat :=
  match (List.range 8).find? fun p => let e := lget m.pts p {}; e.valid && e.strict with
  | some p => if powerFits m (ptCeil s) (bits (s.reg pgPwr 0x200) 0 11) then none else some (entryOff p)
  | none => none

/-- [DEDUCED, log 37] -/
def mapBad (s : State) (bs : List Byte) : Option Nat :=
  let m := mapRead bs
  leastOf ([rsvBad mapHeadRuns bs 0 128, badAt ((List.range 12).map fun k => (waWindowBad s m k, 8 * k)), powerBad s m]
    ++ (List.range 8).map (mapEntryBad s bs) ++ (List.range 8).flatMap fun j => (List.range j).map fun i => shareBad m i j)

/-! ### The route table (R446, R447) -/

def routesRead (bs : List Byte) : Routes where
  portUp := field bs 0 1
  out := ((List.range 36864).zip (bs.drop 64)).filterMap fun e => if e.2 = 15 then none else some (e.1, e.2.toNat % 16)

/-- Is the entry of table n for some destination bad? -/
def routeBad (up n v : Nat) : Bool :=
  decide (15 < v ∨ (8 ≤ v ∧ v < 15)) || (decide (n < 8) && (v == n || (bit up n && decide (v < 8) && bit up v)))
def routesBad (bs : List Byte) : Option Nat :=
  let up := field bs 0 1
  match rsvBad [⟨0, 1, 0xFF⟩] bs 0 64 with
  | some i => some i
  | none => (((List.range 36864).zip (bs.drop 64)).find? fun e => routeBad up (e.1 / 4096) e.2.toNat).map (64 + ·.1)

/-! ### The migration policy table (R292, R293) -/

def policyPtRead (bs : List Byte) (b : Nat) : PolicyPt :=
  let o := field bs (b + 10) 1
  let f := field bs (b + 11) 1
  { lowPm := field bs b 1, highPm := field bs (b + 1) 1, minPm := field bs (b + 2) 1, spillAge := field bs (b + 3) 1,
    hotKeep := field bs (b + 4) 2, t0Hot := field bs (b + 6) 2, coldT3 := field bs (b + 8) 2,
    order := [bits o 0 2, bits o 2 2, bits o 4 2], compT2 := bit f 0, compT3 := bit f 1, coldT3En := bit f 2, prefetchEn := bit f 3,
    keepQ := field bs (b + 12) 3, t0Slots := field bs (b + 16) 2 % 512, allocWaitUs := field bs (b + 18) 2 }

def policyRead (bs : List Byte) : Policy where
  sampleLog2 := field bs 0 1 % 16
  hotSkipMax := field bs 1 1
  decayMs := field bs 2 2
  leafIdleMs := field bs 4 2
  pts := (List.range 8).map fun p => policyPtRead bs (64 + 64 * p)

def policyHeadRuns : List Run := [⟨0, 1, 0x0F⟩, ⟨1, 5, 0xFF⟩]
def policyPtRuns : List Run := [⟨0, 10, 0xFF⟩, ⟨10, 1, 0x3F⟩, ⟨11, 1, 0x0F⟩, ⟨12, 3, 0xFF⟩, ⟨16, 2, 0x01⟩, ⟨18, 2, 0xFF⟩]

/-- Is a non-zero tier repeated? -/
def tierTwice (l : List Nat) : Bool := let k := l.filter (· != 0); decide (k.eraseDups.length < k.length)

def policyPtBad (s : State) (bs : List Byte) (pt : Nat) : Option Nat :=
  let b := 64 + 64 * pt
  let e := policyPtRead bs b
  leastOf [rsvBad policyPtRuns bs b 64, badAt
    [(decide (e.lowPm = 0 ∨ 250 < e.lowPm), b), (decide (e.highPm ≤ e.lowPm ∨ 250 < e.highPm), b + 1),
     (decide (e.lowPm ≤ e.minPm), b + 2), (decide (e.spillAge = 0 ∨ 0xFD < e.spillAge), b + 3), (e.hotKeep == 0, b + 4),
     (tierTwice e.order, b + 10), (decide (e.keepQ < keptPages s pt), b + 12), (decide (256 < e.t0Slots), b + 16),
     (e.allocWaitUs == 0, b + 18)]]
/-- [DEDUCED, log 37] -/
def policyBad (s : State) (bs : List Byte) : Option Nat :=
  let h := policyRead bs
  leastOf ([rsvBad policyHeadRuns bs 0 64,
      badAt [(decide (10 < h.sampleLog2), 0), (h.hotSkipMax == 0, 1), (h.decayMs == 0, 2)]]
    ++ (List.range 8).map (policyPtBad s bs))

/-! ### The traffic table (R433, R434) -/

/-- Bytes of one port's section. -/
def trafficBytes : Nat := 2240

def queueRead (bs : List Byte) (b : Nat) : QueueCfg :=
  let f := field bs b 1
  let g := field bs (b + 1) 1
  { pt := bits f 0 3, en := bit f 3, vc := bits f 4 2, band := bits g 0 2, yband := bits g 2 2, shapeEn := bit g 4, mtype := bits g 5 2,
    demote := bit g 7, quantum := field bs (b + 2) 2 % 4096, idleRate := field bs (b + 4) 4 % 2 ^ 18,
    hiCredit := field bs (b + 8) 3, cir := field bs (b + 12) 4 % 2 ^ 18, cbs := field bs (b + 16) 3,
    pir := field bs (b + 20) 4 % 2 ^ 18, ebsPbs := field bs (b + 24) 3 }

def trafficRead (bs : List Byte) (base : Nat) : TrafficCfg where
  compat := bit (field bs base 1) 0
  ovh := field bs (base + 1) 1
  queues := (List.range 64).map fun q => queueRead bs (base + 64 + 32 * q)
  map := (List.range 128).map fun k =>
    let v := field bs (base + 2112 + k) 1
    if bit v 7 then some (bits v 0 6) else none

def queueRuns : List Run :=
  [⟨0, 1, 0x3F⟩, ⟨1, 1, 0xFF⟩, ⟨2, 2, 0x0F⟩, ⟨4, 3, 0x03⟩, ⟨8, 3, 0xFF⟩, ⟨12, 3, 0x03⟩, ⟨16, 3, 0xFF⟩, ⟨20, 3, 0x03⟩, ⟨24, 3, 0xFF⟩]

/-- The strict owner of a Jurola port under a map (R476). [DEDUCED, log 86] -/
def portOwner (m : PtMap) (port : Nat) : Option Nat :=
  (List.range 8).find? fun p =>
    let e := lget m.pts p {}
    e.valid && e.strict && (if isHostPort port then bit e.hp port else bit e.xp (port - 4))

def queueBad (m : PtMap) (port : Nat) (bs : List Byte) (b : Nat) : Option Nat :=
  let q := queueRead bs b
  let metered := q.mtype != 0
  leastOf [rsvBad queueRuns bs b 32, badAt
    [(q.en && (match portOwner m port with | some p => p != q.pt | none => false), b),
     (decide (q.yband < q.band ∨ q.mtype = 3), b + 1), (decide (q.quantum < 70), b + 2),
     (q.shapeEn && decide (q.idleRate = 0 ∨ 200000 < q.idleRate), b + 4),
     (metered && decide (q.cir = 0 ∨ 200000 < q.cir), b + 12), (metered && decide (q.cbs < 4416), b + 16),
     (if q.mtype = 2 then decide (q.pir < q.cir) else q.pir != 0, b + 20), (q.mtype == 2 && decide (q.ebsPbs < 4416), b + 24)]]

/-- A map byte: bit 6, a queue of another key or a disabled one, or no queue although the partition owns enabled queues. [DEDUCED, log 86] -/
def keyBad (c : TrafficCfg) (bs : List Byte) (b k : Nat) : Bool :=
  bit (field bs (b + k) 1) 6 || match lget c.map k none with
  | some q => let e := lget c.queues q { pt := 0, vc := 0, band := 0, yband := 0 }; e.pt != k / 16 || e.vc != k / 4 % 4 || !e.en
  | none => c.queues.any fun e => e.en && e.pt == k / 16

def portTrafficBad (m : PtMap) (bs : List Byte) (port : Nat) : Option Nat :=
  let base := trafficBytes * port
  let c := trafficRead bs base
  leastOf ([rsvBad [⟨0, 1, 0x01⟩, ⟨1, 1, 0xFF⟩] bs base 64] ++ (List.range 64).map (fun q => queueBad m port bs (base + 64 + 32 * q))
    ++ [((List.range 128).find? (keyBad c bs (base + 2112))).map (base + 2112 + ·)])
def trafficBad (m : PtMap) (bs : List Byte) : Option Nat := (List.range 12).findSome? (portTrafficBad m bs)
def trafficReadAll (bs : List Byte) : List TrafficCfg := (List.range 12).map fun p => trafficRead bs (trafficBytes * p)

/-! ### The attention tables (R213) -/

def groupRead (bs : List Byte) (b : Nat) : Group :=
  let f := field bs (b + 4) 1
  { id := field bs b 2, span := bit (field bs (b + 2) 1) 0, ndev := field bs (b + 3) 1, outFp32 := bit f 0, hdimCode := bits f 1 3,
    members := (List.range 64).map fun k =>
      let v := field bs (b + 128 + 2 * k) 2
      if bit v 15 then bits v 0 12 * 8 + bits v 12 3 else noMember }

def attnRead (bs : List Byte) (b : Nat) : AttnTable where
  statOff := field bs b 4
  bitmapMax := field bs (b + 4) 4
  holdUs := field bs (b + 10) 2
  blockPages := field bs (b + 12) 1 % 64
  landOff := field bs (b + 16) 5
  landSize := field bs (b + 24) 4
  groups := (List.range (field bs (b + 8) 2)).map fun g => groupRead bs (b + 64 + 256 * g)

/-- The offset and length of a partition's table in the section's directory. -/
def attnDir (bs : List Byte) (pt : Nat) : Nat × Nat := (field bs (8 * pt) 4, field bs (8 * pt + 4) 4)

/-- A table's own fields. R213 checks ranges; it states no check of reserved bits (R18). -/
def attnTableBad (bs : List Byte) (b : Nat) : Option Nat :=
  let n := field bs (b + 8) 2
  let ids := fun (g : Nat) => field bs (b + 64 + 256 * g) 2
  leastOf [badAt [(field bs b 4 % 64 != 0, b), (decide (256 < n), b + 8), (field bs (b + 10) 2 == 0, b + 10),
      (decide (field bs (b + 12) 1 % 64 = 0 ∨ 32 < field bs (b + 12) 1 % 64), b + 12), (field bs (b + 16) 5 % 65536 != 0, b + 16)],
    (List.range n).findSome? fun g =>
      let e := groupRead bs (b + 64 + 256 * g)
      badAt [((List.range g).any (fun h => ids h == ids g), b + 64 + 256 * g),
        (decide (e.ndev < 2 ∨ 64 < e.ndev ∨ (e.members.filter (· != noMember)).length < e.ndev), b + 64 + 256 * g + 3),
        (decide (4 < e.hdimCode), b + 64 + 256 * g + 4)]]

def attnBad (bs : List Byte) (len : Nat) : Option Nat :=
  leastOf ((List.range 8).map fun pt =>
    let d := attnDir bs pt
    if d.2 = 0 then none
    else if d.1 % 64 ≠ 0 ∨ len < d.1 + d.2 then some (8 * pt)
    else if d.2 ≠ 64 + 256 * field bs (d.1 + 8) 2 then some (8 * pt + 4)
    else attnTableBad bs d.1)

/-- The tables of all partitions; a length of 0 carries the present one over (R79). -/
def attnReadAll (old : List AttnTable) (bs : List Byte) : List AttnTable :=
  (List.range 8).map fun pt => let d := attnDir bs pt; if d.2 = 0 then lget old pt {} else attnRead bs d.1

/-- The LEN that the section of scope 7 must have. -/
def attnLen (bs : List Byte) : Nat := 64 + ((List.range 8).map fun pt => roundUp (attnDir bs pt).2 64).sum

/-! ### Sections of a bundle (R79) -/

/-- LEN of a section whose length is fixed. [DEDUCED, log 37] -/
def sectionLen : Nat → Nat
  | 0 => 0 | 1 => 64 | 2 => 49920 | 3 => 1152 | 4 => 36928 | 5 => 576 | _ => 26880

/-- The first bad field of a section; `m`: the partition map that will hold with the commit. [DEDUCED, log 37] -/
def sectionBad (s : State) (m : PtMap) (n : Nat) (bs : List Byte) : Option Nat :=
  match n with
  | 0 => none
  | 1 => dlpBad bs
  | 2 => gatesBad bs
  | 3 => mapBad s bs
  | 4 => routesBad bs
  | 5 => policyBad s bs
  | 6 => trafficBad m bs
  | _ => attnBad bs bs.length

/-- The tables with a section's contents. -/
def sectionRead (c : EpochCfg) (n : Nat) (bs : List Byte) : EpochCfg :=
  match n with
  | 0 => c
  | 1 => { c with dlp := dlpRead bs }
  | 2 => { c with gates := gatesRead bs }
  | 3 => { c with pmap := mapRead bs }
  | 4 => { c with routes := routesRead bs }
  | 5 => { c with policy := policyRead bs }
  | 6 => { c with traffic := trafficReadAll bs }
  | _ => { c with attn := attnReadAll c.attn bs }

end Sys2Proof.Machine
end

