-- ==== Sys2Proof/Machine/Epochs.lean ====
section
/-!
DEFINITION. Epochs: EPOCH_COMMIT and its bundle (R72, R74, R79, R81), the making of a commit (R73), its application by each unit class
(R71, R75 to R77) with what each table brings about (R101, R151, R270, R272, R431, R435, R449, R474, R576), and the staging registers.
-/

namespace Sys2Proof.Machine

/-! ### The staging area (R81) -/

def stageBase (s : State) : Nat := s.reg64 pgDep 0x234
def stageLen (s : State) : Nat := s.reg pgDep 0x23C

/-- Bytes of the staging area, and whether a read of them meets poison. -/
def stageRead (s : State) (off n : Nat) : List Byte := mreads s.mems.hbm (stageBase s + off) n
/-- [DEDUCED, log 84] -/
def stageBad (s : State) (off n : Nat) : Bool := hbmBad s (stageBase s + off) n

/-- DEP_STAGE_LEN: a multiple of 64 KiB, inside one VALID class 1 entry, and not while a commit is held. [DEDUCED, log 93] -/
def writeStageLen (s : State) (rq : Requester) (v : Nat) : State :=
  if s.dep.held.isSome then logErr s pgDep 0x06 0 0x23C 0 rq
  else if v % 65536 ≠ 0 then logErr s pgDep 0x02 0 0x23C 0 rq
  else if v ≠ 0 ∧ ¬ inClass s 1 (stageBase s) v then logErr s pgDep 0x06 0 0x23C 0 rq
  else s.setReg pgDep 0x23C 0 v

def execDepStageLen (req : Requester) (val : Word) (s : State) : Host.Outcome State Fault Refusal :=
  .next (secureOnly s req pgDep 0x23C fun s => writeStageLen s req val.toNat)

/-- DEP_STAGE_BASE: not while a commit is held or an area is named. -/
def writeStageBase (s : State) (rq : Requester) (off v : Nat) : State :=
  if s.dep.held.isSome ∨ stageLen s ≠ 0 then logErr s pgDep 0x06 0 off 0 rq else storeFields s rq pgDep off 0 v

/-! ### Reading a bundle (R79) -/

/-- OFF and LEN of a section in the directory. -/
def dirEntry (dir : List Byte) (n : Nat) : Nat × Nat := (field dir (8 * n) 4, field dir (8 * n + 4) 4)

/-- The first bad field of the directory, for the bits that SCOPE sets. A section's place is judged before its length; scope 0 has no section, and its
LEN is 0. [DEDUCED, log 37] -/
def dirBad (s : State) (base scope : Nat) (dir : List Byte) : Option Nat :=
  let ns := bitList scope 8
  leastOf (ns.map fun n =>
    let e := dirEntry dir n
    let clash := ns.any fun m => decide (0 < m ∧ m < n) && (let f := dirEntry dir m; overlaps e.1 e.2 f.1 f.2)
    if n = 0 then (if e.2 ≠ 0 then some 4 else none)
    else if e.1 % 64 ≠ 0 ∨ stageLen s < base + e.1 + e.2 ∨ clash then some (8 * n)
    else
      let want := if n = 7 then attnLen (stageRead s (base + e.1) 64) else sectionLen n
      if e.2 ≠ want then some (8 * n + 4) else none)

/-- The sections that SCOPE names, with their bits, in bit order. [DEDUCED, log 84] -/
def bundle (s : State) (base scope : Nat) (dir : List Byte) : List (Nat × List Byte) :=
  (bitList scope 8).map fun n => (n, stageRead s (base + (dirEntry dir n).1) (dirEntry dir n).2)

/-- Why a commit cannot be held, or the commit as it is held. [DEDUCED, log 84] -/
def readBundle (s : State) (n : Node) (scope base : Nat) : Except Comp HeldCommit :=
  let dir := stageRead s base 64
  if stageBad s base 64 then .error (failWith .poisoned)
  else
    match dirBad s base scope dir with
    | some i => .error (invalidAt i 0xFF)
    | none =>
      if (bitList scope 8).any fun k => stageBad s (base + (dirEntry dir k).1) (dirEntry dir k).2 then .error (failWith .poisoned)
      else
        let secs := bundle s base scope dir
        let m := match secs.find? (·.1 == 3) with | some x => mapRead x.2 | none => s.dep.cfg.pmap
        match secs.find? fun x => (sectionBad s m x.1 x.2).isSome with
        | some x => .error (invalidAt ((sectionBad s m x.1 x.2).getD 0) x.1)
        | none =>
          .ok { acc := n.acc, epoch := n.hdr.epoch, scope := scope, secs := secs.map (·.2),
                cfg := secs.foldl (fun c x => sectionRead c x.1 x.2) s.dep.cfg }

/-- EPOCH_COMMIT: D + 1 alone (R72), a staging area and a reference inside it (R49, R81), no other commit held (R74), a bundle that
keeps every rule. Then it is held. [DEDUCED, log 84] -/
def epochCommit (s : State) (n : Node) (scope ref : Nat) : State :=
  if n.hdr.epoch ≠ (s.dep.epoch + 1) % 65536 then finish s n.acc (invalidAt 4)
  else if stageLen s = 0 then finish s n.acc (invalidAt 24)
  else if stageLen s < refAddr ref + 64 then finish s n.acc (failWith .perm)
  else if s.dep.held.isSome then finish s n.acc (failWith .busy)
  else
    match readBundle s n scope (refAddr ref) with
    | .error c => finish (if c.status = .poisoned then recPoison s n 0 ref else s) n.acc c
    | .ok h => { s with dep := { s.dep with held := some h } }

/-- Is the node's commit held or made already? -/
def commitRuns (s : State) (acc : Nat) : Bool :=
  s.dep.held.any (fun h => h.acc == acc) || s.dep.made.any (fun m => m.1 == acc)

def execEpochCommit (acc : Nat) (s : State) : Host.Outcome State Fault Refusal :=
  .next (match liveNode s acc with
    | some n =>
      match n.cmd with
      | .epochCommit scope ref => if commitRuns s acc ∨ replaying s (ringPt n.ring) then s else epochCommit s n scope ref
      | _ => s
    | none => s)

/-! ### Making a commit (R73) -/

/-- The EPOCH records of a commit: each carries as many of the tables as stay below 64 KiB (R520). [DEDUCED, log 38] -/
def recCommit (s : State) (epoch scope : Nat) (secs : List (List Byte)) : State :=
  let tabs := (secs.filter fun b => !b.isEmpty).map fun b => toLe 4 b.length ++ b
  let packs := tabs.foldl (fun (l : List (List Byte)) t =>
    match l.getLast? with
    | some p => if p.length + t.length ≤ 65472 then l.dropLast ++ [p ++ t] else l ++ [t]
    | none => [t]) []
  (if packs.isEmpty then [[]] else packs).foldl (fun s p => recAll s 0x06 epoch (toLe 1 0 ++ toLe 1 scope ++ zeros 14 ++ p)) s

/-- Pages and mute copies in T1 frames that the committed map takes from their partition are evacuated in class 1, before the HBM
controllers apply it (R272). -/
def stray (s : State) (e : Nat × FrameUse) : Bool :=
  let out := fun (pt : Nat) => !bit (lget (lget s.dep.cfg.pmap.pts pt {}).pc (e.1 / 2 ^ 20) 0) (e.1 % 32)
  match e.2 with
  | .page c | .mute c => out (cpnPt c)
  | _ => false

/-- [DEDUCED, log 40] -/
def evacFrames (s : State) : State :=
  (s.blw.t1.filter (stray s)).foldl (fun s e =>
    match e.2 with
    | .page c => (queueMove s { cpn := c, kind := .page .t1, cls := 1, retire := false }).1
    | .mute c => (queueMove s { cpn := c, kind := .evacMute, cls := 1, retire := false }).1
    | _ => s) s

/-- T0 pages on tiles that the committed map takes from their partition. -/
def lostSlot (s : State) (e : Nat × FrameUse) : Bool :=
  match e.2 with
  | .page c => tileLost s (cpnPt c) (e.1 / 256)
  | _ => false
/-- [DEDUCED, log 40] -/
def evacSlots (s : State) (lost : Nat × FrameUse → Bool) : State :=
  (s.blw.t0.filter lost).foldl (fun s e =>
    match e.2 with
    | .page c => queueTo s c .t1 1 (e.1 / 256)
    | _ => s) s

/-- May the held commit be made: every unit has applied D, no node carries D − 1, and with scope 3 no partition is being scrubbed? [DEDUCED, log 85] -/
def mayMake (s : State) (h : HeldCommit) : Bool :=
  s.dep.lag == 0 && s.dep.nodes.all (fun n => n.2.hdr.epoch != s.dep.prev)
    && !(bit h.scope 3 && s.sec.pts.any fun p => p.state == .scrubbing)

/-- The commit completes OK once DEP_EPOCH_LAG reads 0, or with TIMEOUT where that took more than 1 ms (R77). [DEDUCED, log 85; DEDUCED, log 104] -/
def endIfApplied (s : State) : State :=
  match s.dep.made with
  | some m =>
    let t := finish s m.1 (if m.2 + 1000000 < s.time then failWith .timeout else {})
    if s.dep.lag = 0 then { t with dep := { t.dep with made := none } } else s
  | none => s

/-- D + 1 becomes the latest committed epoch. [DEDUCED, log 85; DEDUCED, log 86] -/
def makeCommit (s : State) (h : HeldCommit) : State :=
  let c := { h.cfg with profiles :=
    (if bit h.scope 0 then s.dep.staged else []).foldl (fun t (p : Nat × Profile) => tset t p.1 p.2) s.dep.cfg.profiles }
  let c := if bit h.scope 3 then { c with pmap := { c.pmap with epoch := h.epoch } } else c
  let s := { s with dep := { s.dep with
    cfgPrev := s.dep.cfg, cfg := c, prev := s.dep.epoch, epoch := h.epoch, lag := h.scope, held := none,
    staged := if bit h.scope 0 then [] else s.dep.staged, made := some (h.acc, s.time) } }
  let s := recCommit s h.epoch h.scope h.secs
  let s := if bit h.scope 3 then evacSlots (evacFrames s) (lostSlot s) else s
  endIfApplied s

/-- EPOCH_COMMIT_MAKE. A held commit whose command has ended otherwise is dropped. [DEDUCED, log 39] -/
def commitMake (s : State) : State :=
  match s.dep.held with
  | none => s
  | some h =>
    if (s.node h.acc).all (·.outcome.isSome) then { s with dep := { s.dep with held := none } }
    else if mayMake s h then makeCommit s h
    else s

def execEpochCommitMake (s : State) : Host.Outcome State Fault Refusal :=
  .next (if s.boot.fatal then s else commitMake s)

/-- EPOCH_COMMIT_TIMEOUT: 1 ms after the commit was made, with units still lagging; the commit stays in effect (R77). [DEDUCED, log 85] -/
def commitTimeout (s : State) : State :=
  match s.dep.made with
  | some m =>
    let s := finish (s.reach (m.2 + 1000000)) m.1 (failWith .timeout)
    { s with dep := { s.dep with made := none } }
  | none => s

def execEpochCommitTimeout (s : State) : Host.Outcome State Fault Refusal :=
  .next (if s.boot.fatal then s else commitTimeout s)

/-! ### Application by the schedulers (R431, R435) -/

/-- A port's gate list becomes its pending list. -/
def applyGates (s : State) : State :=
  (List.range 12).foldl (fun s p =>
    let g := lget s.dep.cfg.gates p {}
    s.setSched p fun t => { schedSync t s.time with pending := some (g, takeOver g s.time) }) s

/-- A queue under its new configuration: clamped levels, and full buckets of a meter that is newly enabled. -/
def clampQueue (old new : QueueCfg) (e : EgQueue) : EgQueue :=
  let fresh := old.mtype == 0 && new.mtype != 0
  { e with
    deficit := min e.deficit (new.quantum * 64)
    credit := min e.credit (new.hiCredit * 1000)
    tc := if fresh then new.cbs * 1000 else min e.tc (new.cbs * 1000)
    tx := if fresh then new.ebsPbs * 1000 else min e.tx (new.ebsPbs * 1000) }

def applyTraffic (s : State) : State :=
  (List.range 12).foldl (fun s p =>
    s.setSched p fun t =>
      let t := schedSync t s.time
      let u := { t with cfg := lget s.dep.cfg.traffic p .reset }
      refill { u with qs := t.qs.zipIdx.map fun e => clampQueue (queueCfg t e.2) (queueCfg u e.2) e.1 }) s

/-! ### Application of a partition map (R474 to R478, R101, R151) -/

/-- Has a tile that leaves a partition an operation of it, or staged tokens of it? [DEDUCED, log 44] -/
def tileBusyFor (s : State) (t : Nat) : Bool :=
  (slotNodes s t).any (fun n => match n with | some h => tileLost s (ringPt h.ring) t | none => false)
    || s.seq.stage.any (fun e => e.2.tile == t && tileLost s e.2.pt t)

/-- Does a port hold a frame of a partition that leaves it (R71)? -/
def portBusyFor (s : State) (p : Nat) : Bool :=
  let gone := fun (pt : Nat) =>
    let had := s.mapOf pt
    let has_ := lget s.dep.cfg.pmap.pts pt {}
    if isHostPort p then bit had.hp p && !bit has_.hp p else bit had.xp (p - 4) && !bit has_.xp (p - 4)
  (s.sched p).qs.any fun q => q.frames.any fun f => gone (f.key / 16)

/-- May the tiles, link blocks and HBM controllers apply the committed map? [DEDUCED, log 40] -/
def mapReady (s : State) : Bool :=
  !(s.blw.t1.any (stray s)) && !(s.blw.t0.any (lostSlot s)) && (List.range 48).all (fun t => !tileBusyFor s t)
    && (List.range 12).all fun p => !portBusyFor s p

/-- Sequences whose staging tile leaves their partition get another one of it (R101). -/
def restage (s : State) : State :=
  (s.seq.ctxs.filter fun c => c.2.state != .free && decide (c.2.stageTile < 48) && tileLost s c.2.pt c.2.stageTile).foldl
    (fun s c => let t := chooseTile s (bitList (lget s.dep.cfg.pmap.pts c.2.pt {}).tiles 48); s.setCtx c.1 fun x => { x with stageTile := t }) s

/-- OWNER and STRICT of the banks of strict partitions (R476); a bank that no strict partition holds is not strict. The new value
takes effect when the bank next has no pass running (R151). -/
def applyBanks (s : State) : State :=
  (List.range 8).foldl (fun s b =>
    s.setBank b fun k =>
      let was := (k.cfgNext.getD k.cfg).toNat
      let v := match (List.range 8).find? fun p => let e := lget s.dep.cfg.pmap.pts p {}; e.valid && e.strict && bit e.banks b with
        | some p => setBits (setBits was 5 3 p) 8 1 1
        | none => setBits was 8 1 0
      if k.running.isNone then { k with cfg := BitVec.ofNat 32 v, cfgNext := none } else { k with cfgNext := some (BitVec.ofNat 32 v) }) s

/-- Each VALID entry: an EMPTY partition is configured; the others' records show their new entries. -/
def applyEntries (s : State) : State :=
  (List.range 8).foldl (fun s pt =>
    let e := lget s.dep.cfg.pmap.pts pt {}
    if ¬ e.valid then s
    else if (s.part pt).state = .empty then configurePt s pt e.tkey
    else recPtcfg s pt) s

def applyMap (s : State) : State := setLimits (applyEntries (applyBanks (restage s)))

/-! ### EPOCH_APPLY -/

/-- T0 pages in slots that T0_SLOTS no longer covers (R270). -/
def beyondSlots (s : State) (e : Nat × FrameUse) : Bool :=
  match e.2 with
  | .page c => decide (e.1 % 256 + (ptPolicy s (cpnPt c)).t0Slots < 256)
  | _ => false

/-- The migration policy: slots removed are emptied, and the hands resume (R265). -/
def applyPolicy (s : State) : State :=
  (List.range 8).foldl wakeHands (evacSlots s (beyondSlots s))

/-- What a unit class does as it applies its part, after its lag bit has cleared. [DEDUCED, log 85] -/
def applyUnit (s : State) : Nat → State
  | 2 => applyGates s
  | 3 => applyMap s
  | 4 => { s with fab := { s.fab with deadPorts := [] } }
  | 5 => applyPolicy s
  | 6 => applyTraffic s
  | _ => s

/-- Entry to stage 6: a map with a VALID entry stands applied by every unit (R572, R576). -/
def bootReady (s : State) : State :=
  if s.boot.stage = 5 ∧ s.dep.lag = 0 ∧ s.dep.cfg.pmap.pts.any (·.valid) then
    { s with boot := { s.boot with stage := 6, stageAt := s.time } }
  else s

/-- A unit class at its boundary. WARMs on tiles that leave their partition stop first (R229); a map waits until no operation, frame or
page of a partition is left where it no longer holds. -/
def epochApply (s : State) (unit : Nat) : State :=
  let s := if unit = 3 ∧ bit s.dep.lag 3 then warmRevokeTiles s else s
  if ¬ bit s.dep.lag unit ∨ (unit = 3 ∧ ¬ mapReady s) then s
  else
    let s := applyUnit { s with dep := { s.dep with lag := setBits s.dep.lag unit 1 0 } } unit
    let s := recAll s 0x06 s.dep.epoch (toLe 1 1 ++ toLe 1 (2 ^ unit) ++ zeros 14)
    bootReady (endIfApplied s)

def execEpochApply (unit : Nat) (s : State) : Host.Outcome State Fault Refusal :=
  .next (if s.boot.fatal ∨ 8 ≤ unit ∨ s.rec_.replay = 1 then s else epochApply s unit)

end Sys2Proof.Machine
end

