-- ==== Sys2Proof/Machine/Receive.lean ====
section
/-!
DEFINITION. What a Jurola port does with the frames it receives: control frames (R393, R394, R396, R399, R400), DATA and MGMT frames
(R384, R392, R393, R401, R402, R491), the answers of host memory (R405 to R407), and the timers that send control frames.
-/

namespace Sys2Proof.Machine

/-- RX_FRAMES and RX_BYTES (R508). [DEDUCED, log 65] -/
def countRx (s : State) (port len : Nat) : State := count (count s (pgJlk port) 1 15) (pgJlk port) 3 15 len

/-! ### Control frames -/

/-- A control frame on an ACTIVE port: dropped where the port is keyed and its tag fails; else its count is taken, and it acts (R399). -/
def onCtl (s : State) (port ctr : Nat) (authOk : Bool) (f : State → State) : State :=
  let l := s.link port
  if l.state ≠ .active then s
  else
    let s := countRx s port (if l.keyed then 48 else 32)
    if ¬ l.keyed then f s
    else if ¬ authOk then authFailed s port true
    else f (s.setLink port fun l => { l with rxCtr := l.rxCtr + subMod ctr (l.rxCtr % 2 ^ 32) 32 + 1 })

/-- JLK_ACK_RX. -/
def execJlkAckRx (port next ctr : Nat) (authOk : Bool) (s : State) : Host.Outcome State Fault Refusal :=
  .next (onCtl s port ctr authOk fun s => s.setLink port (ackUpTo next s.time))

/-- JLK_NAK_RX. -/
def execJlkNakRx (port next ctr : Nat) (authOk : Bool) (s : State) : Host.Outcome State Fault Refusal :=
  .next (onCtl s port ctr authOk fun s =>
    replayOrRecover ((count s (pgJlk port) 5 15).setLink port (ackUpTo next s.time)) port next)

/-- The send limit of a channel after a cumulative count (R396). -/
def creditStep (l : Jlk) (counts : List Nat) (c : Nat) : Nat := lget l.txLimit c 0 + subMod (lget counts c 0) (lget l.txCount c 0) 16

/-- CREDIT_RX. -/
def execCreditRx (port : Nat) (counts : List Nat) (ctr : Nat) (authOk : Bool) (s : State) : Host.Outcome State Fault Refusal :=
  .next (onCtl s port ctr authOk fun s => s.setLink port fun l =>
    { l with txLimit := (List.range 5).map (creditStep l counts), txCount := (List.range 5).map fun c => lget counts c 0 % 65536 })

/-- KEY_RX: the new generation begins with the first frame from FROM on. -/
def execKeyRx (port newKgen fromSeq ctr : Nat) (authOk : Bool) (s : State) : Host.Outcome State Fault Refusal :=
  .next (onCtl s port ctr authOk fun s => s.setLink port fun l => { l with nextRxGen := some (newKgen % 256, fromSeq % 2 ^ 32) })

/-! ### Lost frames -/

/-- A frame is lost: a NAK carrying NEXT, and everything up to the next row with SYNC = 1 is discarded (R393). [DEDUCED, log 65; DEDUCED, log 95] -/
def frameLost (s : State) (port : Nat) : State :=
  if (s.link port).discarding then s
  else
    let s := count s (pgJlk port) 4 15
    s.setLink port fun l => { l with discarding := true, ctl := l.ctl ++ [.nak l.rxNext] }

/-- CODEWORD_UNCORRECTABLE (R384, R387): the frames that overlap the codeword are lost. [DEDUCED, log 95] -/
def codewordLost (s : State) (port lane : Nat) : State :=
  let win := s.time / 1000000
  let s := s.setLink port fun l =>
    let n := if lget l.laneAt lane 0 = win then lget l.laneUcw lane 0 else 0
    { l with fecUncorr := (l.fecUncorr + 1) % 2 ^ 32, laneAt := lset l.laneAt lane win, laneUcw := lset l.laneUcw lane (min 65535 (n + 1)) }
  frameLost s port

def execCodewordUncorrectable (port lane : Nat) (s : State) : Host.Outcome State Fault Refusal :=
  .next (if (s.link port).state = .active then codewordLost s port lane else s)

/-- Does LEN keep the table of R391, does a DATA frame stand on a VC of the port, and does it carry the layout of the port (R392, R403,
R438)? -/
def frameOk (port : Nat) (f : Frame) : Bool :=
  let inLen := fun (hi : Nat) => decide (32 ≤ f.len ∧ f.len ≤ hi ∧ f.len % 16 = 0)
  match f.body with
  | .txn _ => isHostPort port && inLen 4144 && decide (f.vc < 3)
  | .pkt _ => !isHostPort port && inLen 4160 && decide (f.vc < 4)
  | .mgmt _ _ _ _ => inLen 4144
  | .reserved _ => false
  | _ => true

/-- A DATA or MGMT frame whose tag fails; the eighth failure on one FSEQ takes the port DOWN (R401). [DEDUCED, log 95] -/
def tagFail (s : State) (port fseq : Nat) : State :=
  let s := authFailed s port true
  let s := s.setLink port fun l => { l with tagFails := (fseq, if l.tagFails.1 = fseq then l.tagFails.2 + 1 else 1) }
  if 8 ≤ (s.link port).tagFails.2 then enterDown s port 6 else frameLost s port

/-! ### Accepted frames -/

/-- Is the frame a DATA frame? -/
def isData (f : Frame) : Bool := frameType f.body == 8

/-- Why an accepted frame is refused or dropped (R402, R438): none, or whether JLK_AUTH_FAIL counts it. -/
def frameRefused (s : State) (port : Nat) (f : Frame) : Option Bool :=
  let l := s.link port
  let cfg := s.reg (pgJlk port) 0x200
  if f.enc then none
  else if l.keyed ∧ bit cfg 5 then some true
  else if ¬ isData f then none
  else if f.secure then some false
  else if ¬ isHostPort port ∧ ¬ l.keyed then some false
  else if ¬ l.keyed ∧ ¬ bit cfg 4 then some false
  else none

/-- A refused MMIO_RD is answered with STATUS 3 (R402, R491); one of a partition being scrubbed by the secure world. -/
def answerRefused (s : State) (port : Nat) (f : Frame) : State :=
  match f.body with
  | .txn t => if t.op = .mmioRd then sendTxn s port 0 f.pt (f.secure || (s.part f.pt).state == .scrubbing) { op := .mmioRsp, status := 3, tag := t.tag, bytes := 4, data := zeros 4 }
    else s
  | _ => s

/-- The receiver accepts the frame with FSEQ = NEXT (R393, R396, R400). -/
def acceptFrame (now : Nat) (f : Frame) (l : Jlk) : Jlk :=
  let ch := frameChannel f
  let l := { l with rxNext := (l.rxNext + 1) % 2 ^ 32, discarding := false, tagFails := (0, 0), rxSince := l.rxSince + f.len,
                    ackAt := some (l.ackAt.getD now), rxUsed := lmod l.rxUsed ch (· + ceilDiv f.len 64) }
  let l := match l.nextRxGen with
    | some (g, n) => if seqBelow f.fseq n then l else { l with kgenRx := g, nextRxGen := none }
    | none => l
  if 65536 ≤ l.rxSince then { l with rxSince := 0, ackAt := none, ctl := l.ctl ++ [.ack l.rxNext] } else l

/-- A part of a management message; one whose message would pass 4,096 bytes is dropped (R409). The message stands until a row of the
management channel answers it. [DEDUCED, log 65] -/
def mgmtPart (f : Frame) (l : Jlk) : Jlk :=
  match f.body with
  | .mgmt _ som _ d =>
    let m := if som then d else l.mgmtIn ++ d
    if m.length ≤ 4096 then { l with mgmtIn := m } else l
  | _ => l

/-- The frame leaves the receive buffer at once. -/
def freeCredits (s : State) (port : Nat) (f : Frame) : State :=
  s.setLink port (giveCredits s.time (frameChannel f) (ceilDiv f.len 64))

/-- An accepted frame is refused, discarded for a scrub (R491), assembled, dropped for a reserved PTYPE (R439), or put into the receive
buffer for its row. -/
def deliverFrame (s : State) (port : Nat) (f : Frame) : State :=
  match frameRefused s port f with
  | some counted => answerRefused (freeCredits (authFailed s port counted) port f) port f
  | none =>
    if ¬ isData f then freeCredits (s.setLink port (mgmtPart f)) port f
    else if (s.part f.pt).state = .scrubbing ∧ ¬ f.secure then answerRefused (freeCredits s port f) port f
    else
      let s := recFrame s port false f
      if reservedPkt f then fabDrop (freeCredits s port f)
      else s.setLink port fun l => { l with rxBuf := lmod l.rxBuf (frameChannel f) (· ++ [f]) }

/-- Has the frame a reserved TYPE (R392)? [DEDUCED, log 65] -/
def reservedFrame (f : Frame) : Bool :=
  match f.body with
  | .reserved _ => true
  | _ => false

/-- DATA_FRAME_RX: a DATA or MGMT frame, or one of a reserved TYPE, which is lost (R392). A frame with FSEQ = NEXT that comes while the receiver discards begins the replay's row. [DEDUCED, log 65; DEDUCED, log 95] -/
def dataFrame (s : State) (port : Nat) (f : Frame) (authOk : Bool) : State :=
  let l := s.link port
  if l.discarding ∧ f.fseq ≠ l.rxNext then s
  else
    let s := s.setLink port fun l => { l with discarding := false }
    if ¬ frameOk port f then frameLost s port
    else
      let s := countRx s port f.len
      if f.enc ∧ ¬ (l.keyed ∧ authOk) then tagFail s port f.fseq
      else if f.fseq = l.rxNext then deliverFrame (s.setLink port (acceptFrame s.time f)) port f
      else if seqBelow f.fseq l.rxNext then s
      else frameLost s port

def execDataFrameRx (port : Nat) (frame : Frame) (authOk : Bool) (s : State) : Host.Outcome State Fault Refusal :=
  .next (if (s.link port).state = .active ∧ (8 ≤ frameType frame.body ∨ reservedFrame frame) then dataFrame s port frame authOk else s)

/-! ### Timers -/

/-- REPLAY_TIMEOUT: 10 µs without an advance while frames are held. -/
def replayTimeout (s : State) (port : Nat) : State :=
  let l := s.link port
  match l.held with
  | [] => s
  | h :: _ => replayOrRecover (s.reach (l.advanceAt + 10000)) port h.fseq

/-- [DEDUCED, log 8] -/
def execReplayTimeout (port : Nat) (s : State) : Host.Outcome State Fault Refusal :=
  .next (if (s.link port).state = .active then replayTimeout s port else s)

/-- ACK_TIMER: 1 µs after the first frame accepted since the last ACK. -/
def ackTimer (s : State) (port : Nat) : State :=
  match (s.link port).ackAt with
  | none => s
  | some t => (s.reach (t + 1000)).setLink port fun l => { l with rxSince := 0, ackAt := none, ctl := l.ctl ++ [.ack l.rxNext] }

def execAckTimer (port : Nat) (s : State) : Host.Outcome State Fault Refusal :=
  .next (if (s.link port).state = .active then ackTimer s port else s)

/-- When the next CREDIT frame is due: 0.5 µs after a credit became owed, at the latest 5 µs after the last one (R396). -/
def creditDue (l : Jlk) : Nat :=
  match l.owedAt with
  | some t => min (t + 500) (l.creditAt + 5000)
  | none => l.creditAt + 5000

/-- CREDIT_TIMER. -/
def execCreditTimer (port : Nat) (s : State) : Host.Outcome State Fault Refusal :=
  .next (if (s.link port).state = .active then (s.reach (creditDue (s.link port))).setLink port queueCredit else s)

/-! ### Answers of host memory -/

/-- A read is complete: a ring fetch is taken and checked; a page's bytes stand ready for its move. [DEDUCED, log 68] -/
def readDone (s : State) (port : Nat) (r : MemRd) : State :=
  let s := s.setLink port fun l => { l with reads := l.reads.filter (·.tag != r.tag) }
  match r.use with
  | .ringFetch ring =>
    match (s.subRing ring).fetch with
    | some (t, n) => if t = r.tag then ingest (s.setSubRing ring fun q => { q with fetch := none }) ring n else s
    | none => s
  | .movePage _ => s
  | .dmaBeats c => hostBeats s c r.got

/-- A part of an answer, in ascending order (R406): host memory reads as the answer says. [DEDUCED, log 68] -/
def readPart (s : State) (port : Nat) (r : MemRd) (data : List Byte) : State :=
  let bs := data.take (r.bytes - r.got.length)
  let r' := { r with got := r.got ++ bs }
  let s := s.setHost (mwrites s.mems.host (port * 2 ^ 64 + r.addr + r.got.length) bs)
  let s := s.setLink port fun l => { l with reads := l.reads.map fun x => if x = r then r' else x }
  if r'.got.length = r.bytes then readDone s port r' else s

/-- When a read without a complete answer fails: JLK_CPL_TO after it was sent (R405). -/
def readBound (s : State) (port : Nat) (r : MemRd) : Nat := r.at_ + bits (s.reg (pgJlk port) 0x230) 0 16 * 1000

/-- A part of the answer to an outstanding read. One that comes past the read's bound finds it failed (R405). [DEDUCED, log 104] -/
def readAnswer (s : State) (port : Nat) (r : MemRd) (off status : Nat) (data : List Byte) : State :=
  if readBound s port r < s.time then failRead s port r 1
  else if status = 1 ∨ status = 2 then failRead s port r status
  else if status = 0 ∧ off = r.got.length then readPart s port r data
  else s

/-- The 64-byte lines of a port's host memory that n bytes from an address touch. [DEDUCED, log 6] -/
def hostLines (port addr n : Nat) : List Nat :=
  (List.range (if n = 0 then 0 else (addr % 64 + n + 63) / 64)).map fun i => (port * 2 ^ 64 + addr) / 64 + i

/-- The answer of host memory to a read of a command's buffer (R407): with STATUS 1 or 2 a command that reads the line fails from then on,
until an answer gives its bytes. [DEDUCED, log 6] -/
def bufferAnswer (s : State) (port addr pt status : Nat) (data : List Byte) : State :=
  if status = 1 ∨ status = 2 then
    let l := (port * 2 ^ 64 + addr) / 64
    let s := if s.mems.badHost.contains l then s else { s with mems := { s.mems with badHost := s.mems.badHost ++ [l] } }
    errEvent s 0x43 4 (pgJlk port) 4 0 status port [pt]
  else if status = 0 then
    let ls := hostLines port addr data.length
    let s := s.setHost (mwrites s.mems.host (port * 2 ^ 64 + addr) data)
    { s with mems := { s.mems with badHost := s.mems.badHost.filter fun l => !ls.contains l } }
  else s

/-- Is the frame an answer of host memory? -/
def isMemCpl (f : Frame) : Bool :=
  match f.body with
  | .txn t => t.op == .memCpl
  | _ => false

/-- MEM_CPL. [DEDUCED, log 68] -/
def memCpl (s : State) (port : Nat) (ans : HostAns) (off status : Nat) (data : List Byte) : State :=
  match ans with
  | .read tag =>
    let s := rxConsume s port (isTxn .memCpl tag)
    match (s.link port).reads.find? fun r => r.tag == tag with
    | none => s
    | some r => readAnswer s port r off status data
  | .buffer addr pt => bufferAnswer (rxConsume s port isMemCpl) port (addr + off) pt status data

/-- [DEDUCED, log 6] -/
def execMemCpl (port : Nat) (ans : HostAns) (off status : Nat) (data : List Byte) (s : State) : Host.Outcome State Fault Refusal :=
  .next (if portActive s port ∧ port < 4 ∧ ¬ s.boot.fatal then memCpl s port ans off status data else s)

/-- MEM_RD_TIMEOUT: no complete answer within JLK_CPL_TO (R405). -/
def memRdTimeout (s : State) (port tag : Nat) : State :=
  match (s.link port).reads.find? fun r => r.tag == tag with
  | none => s
  | some r => failRead (s.reach (readBound s port r)) port r 1

def execMemRdTimeout (port tag : Nat) (s : State) : Host.Outcome State Fault Refusal :=
  .next (if port < 4 ∧ ¬ s.boot.fatal then memRdTimeout s port tag else s)

/-- The writes left after the one numbered `tag` and every earlier one are acknowledged. [DEDUCED, log 68] -/
def ackWrites (tag : Nat) (ws : List (Nat × Nat)) : List (Nat × Nat) :=
  if ws.any (fun w => w.1 == tag) then (ws.dropWhile fun w => w.1 != tag).drop 1 else ws

/-- WR_ACK. [DEDUCED, log 6] -/
def execWrAck (port tag : Nat) (s : State) : Host.Outcome State Fault Refusal :=
  .next (
    if portActive s port ∧ port < 4 then
      (rxConsume s port (isTxn .wrAck tag)).setLink port fun l => { l with unacked := ackWrites tag l.unacked }
    else s)

end Sys2Proof.Machine
end

