-- ==== Sys2Proof/Machine/Replay.lean ====
section
/-!
DEFINITION. The replay of a recording (R523 to R525): its start, how its records are found in the ring (R517, R519), and what each record
makes the device do.
-/

namespace Sys2Proof.Machine

/-! ### Reading the recording -/

/-- n bytes of the ring: HBM, or host memory through PORT. -/
def recRead (s : State) (a n : Nat) : List Byte :=
  let v := s.reg pgRec 0x200
  if bit v 1 then hostBytes s (bits v 8 2) a n else mreads s.mems.hbm a n

/-- Bytes used in segment n, if the ring holds that segment. -/
def segUsed (s : State) (n : Nat) : Option Nat :=
  let h := recRead s (recSegAddr s n) 40
  if field h 0 4 = 0x31434552 ∧ field h 8 8 = n then some (field h 32 4) else none

/-- The GLB_DEV_ID that segment n names: the device on which the recording was made. -/
def segDevice (s : State) (n : Nat) : Nat := field (recRead s (recSegAddr s n) 8) 6 2 % 4096

/-- The record at an offset of segment n: the record, its length and its body. -/
def recordAt (s : State) (n off : Nat) : Option (Record × Nat) :=
  let h := recRead s (recSegAddr s n + off) 16
  let len := field h 2 2
  if len < 16 ∨ recSegBytes s < off + len then none
  else some ({ rtype := field h 0 1, pt := bits (field h 1 1) 0 3, secure := bit (field h 1 1) 3, ref := field h 4 4, time := field h 8 8,
               body := recRead s (recSegAddr s n + off + 16) (len - 16) }, len)

/-- The record at or after a position, segment × its size + offset, with where it stands and where the next begins. The used bytes and the PAD
records of a segment lead to the next one. -/
def nextRecord (s : State) (pos : Nat) : Option (Record × Nat × Nat) :=
  let sb := recSegBytes s
  let at_ := fun (n off : Nat) =>
    match segUsed s n with
    | none => none
    | some used =>
      if used ≤ off then none
      else
        match recordAt s n off with
        | some (r, len) => if r.rtype = 0x0F then none else some (r, n * sb + off, n * sb + off + len)
        | none => none
  match at_ (pos / sb) (max 64 (pos % sb)) with
  | some x => some x
  | none => at_ (pos / sb + 1) 64

/-- Every record from a position on that satisfies p, in order, at most n of them. -/
def scanRecords (s : State) (p : Record → Bool) : Nat → Nat → Nat → List Record
  | 0, _, _ => []
  | fuel + 1, n, pos =>
    if n = 0 then []
    else
      match nextRecord s pos with
      | none => []
      | some (r, _, next) => if p r then r :: scanRecords s p fuel (n - 1) next else scanRecords s p fuel n next

/-- The most records a search passes. -/
def scanFuel : Nat := 2 ^ 24

/-- The replayed partition. -/
def replayPt (s : State) : Nat := bits (s.reg pgRec 0x224) 1 3

/-- The first record of a type and REF of the replayed partition from where the replay stands. -/
def findRecord (s : State) (rtype ref : Nat) : Option Record :=
  (scanRecords s (fun r => r.rtype == rtype && r.ref == ref && r.pt == replayPt s) scanFuel 1 s.rec_.pos).head?

/-! ### Start and end -/

/-- Are the partition's rings disabled? -/
def ringsOff (s : State) (pt : Nat) : Bool :=
  s.dep.sq.all (fun e => ringPt e.1 != pt || !e.2.en) && s.dep.cq.all fun e => e.1 / 64 != pt || !e.2.en

/-- The conditions of R523. [DEDUCED, log 17] -/
def replayReady (s : State) : Bool :=
  let pt := replayPt s
  let cfg := (scanRecords s (fun r => r.rtype == 0x0A && r.pt == pt) scanFuel 1 0).head?
  !bit (s.reg pgRec 0x200) 0 && (List.range 8).all (fun p => p == pt || (s.part p).state == .empty) && (s.part pt).state == .active
    && ringsOff s pt && cfg.any fun r => r.body.take 128 == entryBytes s.dep.cfg.pmap pt

/-- Every pointer of the device is 0 (R533). -/
def zeroPointers (s : State) : State :=
  { s with
    ptrs := [],
    pages := s.pages.map (fun e => (e.1, { e.2 with ptr := 0 })),
    dep := { s.dep with turn := [0, 0, 0, 0] },
    seq := { s.seq with locPtr := [], ctxs := s.seq.ctxs.map fun e => (e.1, { e.2 with lockPtr := 0 }) },
    tiles := s.tiles.map (fun t => { t with slotPtr := 0 }),
    cnt := { s.cnt with ptr := 0 },
    dma := { s.dma with ptr := 0 },
    fab := { s.fab with keys := s.fab.keys.map (fun e => (e.1, { e.2 with ptr := 0 })) } }

/-- Every tile runs at STEP, pinned (R523). -/
def pinTiles (s : State) (step : Nat) : State := { s with tiles := s.tiles.map fun t => { t with step := step, pinned := true } }

/-- The replay begins. [DEDUCED, log 17] -/
def replayStart (s : State) : State :=
  let s := zeroPointers (pinTiles s (bits (s.reg pgRec 0x224) 4 5))
  { s with rec_ := { s.rec_ with replay := 1, pos := 0, replayIssues := 0, late := [], div := none, own := [], readAddr := [], graph := none } }

/-- The replay ends with a state of REC_REPLAY_STAT; the clocks are no longer pinned. [DEDUCED, log 17] -/
def replayEnd (s : State) (state : Nat) : State :=
  { s with tiles := s.tiles.map fun t => { t with pinned := false }, rec_ := { s.rec_ with replay := state } }

/-- A write of REC_REPLAY: EN starts a replay or refuses it; EN = 0 ends one. While one runs only a write that ends it is taken. [DEDUCED, log 17] -/
def writeReplay (s : State) (rq : Requester) (w : Nat) : State :=
  if s.rec_.replay = 1 ∧ bit w 0 then logErr s pgRec 0x06 0 0x224 0 rq
  else
    let s := storeFields s rq pgRec 0x224 0 w
    if ¬ bit w 0 then replayEnd s 0
    else if replayReady s then replayStart s
    else replayEnd s 4

def execRecReplay (req : Requester) (val : Word) (s : State) : Host.Outcome State Fault Refusal :=
  .next (if s.boot.fatal then s else secureOnly s req pgRec 0x224 fun s => writeReplay s req val.toNat)

/-! ### Commands -/

/-- The statuses that a replay forces (R524). [DEDUCED, log 16] -/
def forcedStatus (st : Status) : Bool :=
  ([.busy, .retry, .timeout, .revoked, .nospace, .conflict, .poisoned, .device] : List Status).contains st

/-- What a CPL record says. -/
def compOf (b : List Byte) : Comp :=
  { status := statusOf (field b 2 1), detail0 := field b 12 4, detail1 := field b 16 4, result := field b 20 8 }

/-- The recorded completion of an acceptance number, still to come. -/
def cplOf (s : State) (acc : Nat) : Option Comp := (findRecord s 0x03 acc).map fun r => compOf r.body

/-- The layer that a POISONED command marks (R116). -/
def poisonOf (s : State) : Cmd → State
  | .append a => poisonLayer s a.seq a.layer
  | .attend a => poisonLayer s a.seq a.layer
  | .flush q l => if l = 0xFF then s else poisonLayer s q l
  | _ => s

/-- A command ends with its recorded status, whose effect it takes. [DEDUCED, log 16] -/
def forceEnd (s : State) (n : Node) (c : Comp) : State :=
  let s := if c.status = .poisoned then poisonOf s n.cmd else s
  match n.cmd with
  | .warm q _ _ _ _ => warmFail s n q c
  | _ => finish s n.acc c

/-- The outcome of a node that its CPL record fixes: a forced status, or an EPOCH_COMMIT that was not made. -/
def forcedOf (s : State) (n : Node) : Option Comp :=
  match cplOf s n.acc with
  | some c =>
    let unmade : Bool := match n.cmd with | .epochCommit _ _ => c.status != .ok | _ => false
    if forcedStatus c.status || unmade then some c else none
  | none => none

/-- A graph node of the recording. -/
def replayNode (s : State) (b : List Byte) : FetchedNode :=
  let raw := b.take 64
  let st := field b 68 2
  { hdr := parseHeader raw, raw := raw,
    cmd := if st = 0xFFFF then some (parseCmd raw) else none,
    bad := (cplOf s (field b 64 4)).getD { status := statusOf st } }

/-- The nodes of the graph that is being taken have come: it is accepted. -/
def replayGraph (s : State) (ring acc : Nat) (bs : List (List Byte)) : State :=
  match bs with
  | [] => s
  | b :: ns =>
    match parseCmd (b.take 64) with
    | .graphBegin n id cm =>
      if ns.length < n then { s with rec_ := { s.rec_ with graph := some (ring, acc, bs) } }
      else
        let s := { s with rec_ := { s.rec_ with graph := none }, dep := { s.dep with accNext := acc } }
        acceptGraph s ring (parseHeader b) n id cm (b.take 64) (ns.map (replayNode s))
    | _ => s

/-- A CMD record: the command is accepted with its ACC, or completes with its RSTAT and the details of its CPL. -/
def replayCmd (s : State) (r : Record) : State :=
  let raw := r.body.take 64
  let acc := field r.body 64 4
  let st := field r.body 68 2
  let b := r.body.take 72
  match s.rec_.graph with
  | some (ring, g, bs) => replayGraph s ring g (bs ++ [b])
  | none =>
    let s := { s with dep := { s.dep with accNext := acc } }
    if st ≠ 0xFFFF then
      rejectSingle s r.ref raw ((cplOf s acc).getD { status := statusOf st })
    else
      match parseCmd raw with
      | .graphBegin _ _ _ => replayGraph s r.ref acc [b]
      | c => acceptSingle s r.ref (parseHeader raw) c raw

/-! ### Issue -/

/-- The late set of an ATTEND (R207): page index and MUTED. -/
def lateRead (b : List Byte) : List (Nat × Bool) :=
  (List.range (field b 0 4)).map fun i =>
    let v := field b (16 + 4 * i) 4
    (v % 2 ^ 31, bit v 31)

/-- The late set that an ATTEND's LATE record gives, empty without one. [DEDUCED, log 46] -/
def replayLate (s : State) (acc : Nat) : State :=
  match findRecord s 0x04 acc with
  | some r => { s with rec_ := { s.rec_ with late := tset s.rec_.late acc (lateRead r.body) } }
  | none => { s with rec_ := { s.rec_ with late := tset s.rec_.late acc [] } }

/-- An ATTEND covers the counts that its ISSUE record gives. -/
def coverAs (s : State) (n : Node) (flushed staged : Nat) : State :=
  match n.cmd, s.attend n.acc with
  | .attend a, some o =>
    match seqProfile s n.hdr.epoch a.seq with
    | some p =>
      if o.flushed = flushed ∧ o.staged.length = staged then s
      else setAttend s n.acc fun o =>
        { o with flushed := flushed, staged := o.staged.take staged, todo := unitsOf a o.bitmap flushed staged p.tpp }
    | none => s
  | _, _ => s

/-- An ATTEND takes its recorded late set at once, so that no page of it is read at full precision (R207). [DEDUCED, log 46] -/
def replayTake (s : State) (acc : Nat) : State :=
  match attendParts s acc with
  | some (n, a, o, p) => if o.deadlineTaken then s else deadline s n o a p.tpp
  | none => s

/-- Issue a node on its recorded tile. None: it cannot be issued yet. -/
def issueOn (s : State) (n : Node) (tile : Nat) : Option State :=
  match n.cmd with
  | .warm _ _ _ _ _ =>
    let t := issueNode s n
    if (t.node n.acc).any (·.issued) then some t else none
  | _ =>
    if ¬ (nodeQp n.cmd).all (qpRoom s) then none
    else if 48 ≤ tile then some (markIssued s n none)
    else if slotRoom s tile then some (markIssued (slotTake s tile n.acc) n (some tile))
    else none

/-- An ISSUE record. None: the node's dependences are not met yet, or it finds no room yet. -/
def replayIssue (s : State) (r : Record) : Option State :=
  let one := fun (s : State) => { s with rec_ := { s.rec_ with replayIssues := s.rec_.replayIssues + 1 } }
  match s.node r.ref with
  | none => some (one s)
  | some n =>
    if n.outcome.isSome then some (one s)
    else if ¬ depsMet s n then none
    else
      match forcedOf s n with
      | some c => some (one (forceEnd (s.setNode n.acc fun m => { m with issued := true }) n c))
      | none => (issueOn (replayLate s n.acc) n (field r.body 0 1)).map fun t =>
        one (replayTake (coverAs t n (field r.body 4 4) (field r.body 8 4)) n.acc)

/-! ### Completions -/

/-- Is a command's completion compared by STATUS only (R529 note 9)? -/
def statusOnly (s : State) (b : List Byte) : Bool :=
  !bit (s.reg pgRec 0x20C) (16 + replayPt s) && [0x07, 0x09].contains (field b 3 1)

/-- Does the replay's own completion agree with the recorded one (R525)? -/
def sameCpl (s : State) (own b : List Byte) : Bool :=
  field own 2 1 == field b 2 1
    && (statusOnly s b || ((own.drop 12).take 16 == (b.drop 12).take 16 && (own.drop 32).take 8 == (b.drop 32).take 8))

/-- A divergence at a position: it is counted, its place is kept if it is the first, and STOP ends the replay. -/
def diverge (s : State) (at_ : Nat) : State :=
  let sb := recSegBytes s
  let s := count s pgRec 3 15
  let s := { s with rec_ := { s.rec_ with div := some (s.rec_.div.getD (at_ / sb, at_ % sb)) } }
  if bit (s.reg pgRec 0x224) 10 then replayEnd s 3 else s

/-- A CPL record. Without a completion of its own the replay waits while the command runs; a forced status ends it. The answer says whether
the record has been taken. [DEDUCED, log 16] -/
def replayCpl (s : State) (r : Record) (at_ : Nat) : State × Bool :=
  match tget s.rec_.own r.ref with
  | some o =>
    let t := { s with rec_ := { s.rec_ with own := tdel s.rec_.own r.ref } }
    (if sameCpl s o r.body then t else diverge t at_, true)
  | none =>
    match s.node r.ref with
    | some n =>
      let c := compOf r.body
      (if n.outcome.isNone ∧ forcedStatus c.status then forceEnd s n c else s, false)
    | none => if tmem s.dep.graphs r.ref then (s, false) else (diverge s at_, true)

/-! ### Flushes and epochs -/

/-- A FLUSH record. An AFTER that is not the number of ISSUE records taken shows that input is missing. [DEDUCED, log 17] -/
def replayFlush (s : State) (r : Record) : State × Bool :=
  let l := field r.body 0 1
  if field r.body 4 4 ≠ s.rec_.replayIssues then (replayEnd s 5, true)
  else if (stageOf s r.ref l).isNone ∨ (s.row r.ref l).poisoned then (s, true)
  else
    match selfFlush s r.ref l (field r.body 1 1) with
    | some t => (t, true)
    | none => (s, false)

/-- The tables that follow one another, each with its length. -/
def splitTables : Nat → List Byte → List (List Byte)
  | 0, _ => []
  | fuel + 1, bs =>
    let n := field bs 0 4
    if bs.length < 4 ∨ n = 0 then [] else (bs.drop 4).take n :: splitTables fuel (bs.drop (4 + n))

/-- The tables of a commit, bit by bit; a bit without a table has none. -/
def giveTables : List Nat → List (List Byte) → List (Nat × List Byte)
  | [], _ => []
  | b :: bs, ts =>
    if sectionLen b = 0 then (b, []) :: giveTables bs ts
    else
      match ts with
      | [] => []
      | t :: ts => (b, t) :: giveTables bs ts

/-- The EPOCH_COMMIT that waits to be made, or 0. -/
def commitNode (s : State) : Nat :=
  ((s.dep.nodes.find? fun n => n.2.issued && n.2.outcome.isNone && (match n.2.cmd with | .epochCommit _ _ => true | _ => false)).map (·.1)).getD 0

/-- An EPOCH record of a commit: the recorded tables become the tables of the epoch. Later records of the same commit add nothing. -/
def replayCommit (s : State) (epoch scope : Nat) : State :=
  if s.dep.epoch = epoch then s
  else
    let rs := scanRecords s (fun r => r.rtype == 6 && r.ref == epoch && r.pt == replayPt s && field r.body 0 1 == 0) scanFuel 8 s.rec_.pos
    let secs := giveTables (bitList scope 8) (rs.flatMap fun r => splitTables 8 (r.body.drop 16))
    makeCommit s { acc := commitNode s, epoch := epoch, scope := scope, secs := secs.map (·.2),
                   cfg := secs.foldl (fun c x => sectionRead c x.1 x.2) s.dep.cfg }

/-- An EPOCH record of applications: units apply; false while one cannot. -/
def replayApply (s : State) (units : Nat) : State × Bool :=
  let t := (bitList units 8).foldl epochApply s
  (t, t.dep.lag &&& units == 0)

/-! ### Frames -/

/-- The packet of a FRAME record's body after the frame header (R438). -/
def parsePkt (f b : List Byte) : Option Packet :=
  (([.send, .put, .getReq, .getData, .ack, .coll, .collAns, .probe, .report, .assign, .snap] : List PType).find? fun t =>
    ptypeCode t == field b 0 1).map fun t =>
    let fl := field b 1 1
    let arg := field b 16 4
    let seg := field b 14 2
    let n := match t with
      | .put | .getData => 4096
      | .send | .coll => min 4096 (arg - 4096 * seg)
      | .collAns => 32
      | _ => 0
    { ptype := t, hops := bits fl 0 5, start := bit fl 5, last := bit fl 6, retx := bit fl 7, dstDev := bits (field b 2 2) 0 12,
      dstPt := bits (field b 2 2) 12 3, srcDev := bits (field b 4 2) 0 12, dstQpn := field b 6 2, srcQpn := field b 8 2,
      psn := field b 10 3, answer := bits (field b 13 1) 0 4, seg := seg, arg := arg, cpn := field b 20 5, data := (b.drop 32).take n,
      framePt := bits (field f 1 1) 0 3, frameSecure := bit (field f 1 1) 3 }

/-- A collective message from its bytes (R215). -/
def parseColl (p : Packet) (b : List Byte) : CollMsg :=
  { type := field b 0 1, member := bits (field b 1 1) 0 6, group := field b 2 2, opId := field b 4 4, srcDev := bits (field b 8 2) 0 12,
    srcPt := bits (field b 8 2) 12 3, epoch := field b 10 2, len := field b 12 4, nrec := field b 16 2, ndev := field b 18 1,
    answer := field b 19 1, dstPt := p.dstPt, retx := p.retx, data := b.drop 32 }

/-- The packet of a received FRAME record of mode 2 on a fabric port. -/
def recPacket (r : Record) : Option Packet :=
  if r.rtype = 8 ∧ 4 ≤ bits r.ref 0 4 ∧ ¬ bit r.ref 8 ∧ bits r.ref 9 2 = 2 then parsePkt (r.body.take 16) (r.body.drop 16) else none

/-- The bytes of a collective message: its first packet and those that follow it in the recording. -/
def collData (s : State) (p : Packet) : List Byte :=
  let more := scanRecords s (fun r => (recPacket r).any fun q => q.ptype == .coll && q.srcDev == p.srcDev && q.dstPt == p.dstPt
    && q.arg == p.arg && q.framePt == p.framePt) scanFuel (ceilDiv p.arg 4096) s.rec_.pos
  (more.filterMap recPacket).flatMap (·.data)

/-- A received packet takes its place as it was recorded. -/
def replayPkt (s : State) (p : Packet) : State :=
  match p.ptype with
  | .send | .put | .getReq => targetPkt s p
  | .getData => getDataRx s p
  | .ack => ackRx s p
  | .coll => if p.start then collRx s (parseColl p (collData s p)) else s
  | .collAns => collAnsRx s (parseColl p p.data)
  | _ => s

/-- A FRAME record. On a host port a read's address is kept, and the parts that answered it stand in host memory; on a fabric port a packet for
the recorded device is delivered, and one whose bytes were not recorded is missing. [DEDUCED, log 17] -/
def replayFrame (s : State) (r : Record) (at_ : Nat) : State :=
  let port := bits r.ref 0 4
  let full := decide (bits r.ref 9 2 = 2)
  let b := r.body.drop 16
  if port < 4 then
    let key := port * 65536 + field b 2 2
    let op := field b 0 1
    if ¬ full then s
    else if bit r.ref 8 then
      (if op = 0x10 then { s with rec_ := { s.rec_ with readAddr := tset s.rec_.readAddr key (field b 8 8) } } else s)
    else if op = 0x12 then
      match tget s.rec_.readAddr key with
      | some a => s.setHost (mwrites s.mems.host (port * 2 ^ 64 + a + field b 8 8) ((b.drop 16).take (field b 4 2)))
      | none => s
    else s
  else if bit r.ref 8 then s
  else
    match recPacket r with
    | some p => if p.dstDev = segDevice s (at_ / recSegBytes s) then replayPkt s p else s
    | none => if full then s else replayEnd s 5

/-! ### The step -/

/-- One record of the replayed partition; the answer says whether it has been taken. -/
def replayRecord (s : State) (r : Record) (at_ : Nat) : State × Bool :=
  match r.rtype with
  | 0x01 => (replayCmd s r, true)
  | 0x02 =>
    match replayIssue s r with
    | some t => (t, true)
    | none => (s, false)
  | 0x03 => replayCpl s r at_
  | 0x05 => replayFlush s r
  | 0x06 =>
    if field r.body 0 1 = 0 then (replayCommit s r.ref (field r.body 1 1), true) else replayApply s (field r.body 1 1)
  | 0x07 => (setSeed s (replayPt s) (field r.body 0 8), true)
  | 0x08 => (replayFrame s r at_, true)
  | 0x0D => (replayEnd s 5, true)
  | _ => (s, true)

/-- REPLAY_STEP: the next record of the recording takes effect. At the recording's end STATE is 2. -/
def replayStep (s : State) : State :=
  match nextRecord s s.rec_.pos with
  | none => replayEnd s 2
  | some (r, at_, next) =>
    let t := if r.pt = replayPt s then replayRecord s r at_ else (s, true)
    if t.2 then { t.1 with rec_ := { t.1.rec_ with pos := next } } else t.1

def execReplayStep (s : State) : Host.Outcome State Fault Refusal :=
  .next (if s.boot.fatal ∨ s.rec_.replay ≠ 1 then s else replayStep s)

end Sys2Proof.Machine
end

