-- ==== Sys2Proof/Machine/Scrub.lean ====
section
/-!
DEFINITION. The scrub of a partition (R490): its eight steps, what each stops, clears and erases (R362, R436, R467, R492), and the
background sweeps after it (R493, R494).
-/

namespace Sys2Proof.Machine

/-! ### What is the partition's -/

/-- Is an HBM frame the partition's: a frame of its pseudo-channels outside the class ranges (R480)? -/
def frameOwned (s : State) (pt m f : Nat) : Bool :=
  bit (lget (s.mapOf pt).pc m 0) (f % 32) && !frameInClass s 0 m f && !frameInClass s 1 m f
def byteOwned (s : State) (pt a : Nat) : Bool := frameOwned s pt (a / 2 ^ 36) (a % 2 ^ 36 / frameBytes)

/-- The partition's tiles. -/
def ptTiles (s : State) (pt : Nat) : List Nat := bitList (s.mapOf pt).tiles 48

/-- The units of 256 bytes that cells stand in, each once. -/
def cellUnits (cs : List Host.Cell) : List Nat :=
  (cs.foldl (fun (l : List Nat) c => if l.head? = some (c.1 / 256) then l else (c.1 / 256) :: l) []).reverse

/-! ### Step 1: its work stops -/

/-- A scheduler discards the partition's queued frames and sets its queues back; they take no frame until the scrub ends (R436). -/
def scrubSched (pt : Nat) (t : Tsc) : Tsc :=
  let mine := fun (q : Nat) => (queueCfg t q).pt == pt
  let back := fun (e : EgQueue × Nat) =>
    if mine e.2 then
      { e.1 with frames := [], deficit := 0, credit := 0, tc := (queueCfg t e.2).cbs * 1000, tx := (queueCfg t e.2).ebsPbs * 1000 }
    else e.1
  { t with qs := t.qs.zipIdx.map back, hold := t.hold.zipIdx.map (fun h => h.1 && !mine (lget t.cur h.2 63)),
           stalled := t.stalled.filter (fun f => f.key / 16 != pt), scrubbing := t.scrubbing.filter (· != pt) ++ [pt] }

/-- Its rings are disabled, and what stands fetched in them is gone. -/
def disableRings (s : State) (pt : Nat) : State :=
  let offSq := fun (r : Nat × SubRing) => if ringPt r.1 = pt then (r.1, { r.2 with en := false, buf := [], fetch := none }) else r
  let offCq := fun (c : Nat × CplRing) => if c.1 / 64 = pt then (c.1, { c.2 with en := false }) else c
  { s with dep := { s.dep with sq := s.dep.sq.map offSq, cq := s.dep.cq.map offCq } }

/-- Step 1. A recording of the partition ends here (R529). [DEDUCED, log 88] -/
def scrubStep1 (s : State) (pt : Nat) : State :=
  let s := haltChans (disableRings s pt) pt
  { s with tsc := s.tsc.map (fun t => scrubSched pt (schedSync t s.time)),
           rec_ := { s.rec_ with running := s.rec_.running.filter (· != pt), replayable := s.rec_.replayable.filter (· != pt) } }

/-! ### Step 2: its nodes and moves end -/

/-- Its accepted nodes end without a completion, and its waiting completions are gone. -/
def dropNodes (s : State) (pt : Nat) : State :=
  let s := (s.dep.nodes.filter fun n => ringPt n.2.ring == pt).foldl (fun s n => dropNode (releaseAll s n.2) n.1) s
  { s with dep := { s.dep with graphs := s.dep.graphs.filter (fun g => ringPt g.2.ring != pt), cbuf := lset s.dep.cbuf pt [],
                               cbufFull := lset s.dep.cbufFull pt none } }

/-- An ownership read of a scrubbed partition: what returns frames or readers goes on without a command, and a publication that has swapped the head
line makes its record LIVE and leaves it; the others are dropped. [DEDUCED, log 88] -/
def orphanLine (pt : Nat) (l : LineReq) : Option LineReq :=
  if l.pt ≠ pt then some l
  else
    match l.op, l.use with
    | .live i, .publish _ _ => some { l with use := .tidy, rest := [.leave i] }
    | .leave _, .publish _ j => some { l with use := .tidy, op := .leave j.slot, rest := [] }
    | .clear _, _ | .drop _, _ | _, .tidy | _, .back _ _ _ => some { l with use := .tidy }
    | _, _ => none

/-- Its moves end, and its requests, with what they wait for, are gone. -/
def dropMoves (s : State) (pt : Nat) : State :=
  let s := { s with blw := { s.blw with queue := s.blw.queue.filter fun r => r.pt != pt },
                    seq := { s.seq with heldFlush := s.seq.heldFlush.filter fun k => (s.ctx (k.1 / 256)).pt != pt } }
  let s := ((s.blw.moves.map (·.1)).filter fun c => movePt c == pt).foldl endAny s
  let mine := fun (r : MemRd) => match r.use with
    | .movePage c => cpnPt c == pt
    | .ringFetch _ | .dmaBeats _ => false
  { s with
    cxh := { s.cxh with reqs := s.cxh.reqs.filter (fun r => cpnPt r.cpn != pt), lines := s.cxh.lines.filterMap (orphanLine pt) },
    nvh := { s.nvh with drives := s.nvh.drives.map fun d => { d with xfers := d.xfers.filter fun x => cpnPt x.cpn != pt } },
    jlk := s.jlk.map fun l => { l with reads := l.reads.filter fun r => !mine r } }

/-! ### Step 3: its keys and its pairs -/

/-- A transfer that assembles is discarded and answered REVOKED. [DEDUCED, log 88] -/
def revokeAsm (s : State) (a : Assembly) : State :=
  let c := s.qp a.qpn
  let s := { s with fab := { s.fab with asms := s.fab.asms.filter (· != a) } }
  let s := if a.isPut ∧ a.ok then releaseFrame s c.pt .t1 a.frame else s
  answer s { ptype := .put, srcDev := c.peerDev, dstPt := c.pt, framePt := c.peerPt, srcQpn := c.peerQpn, dstQpn := a.qpn, psn := a.psn } 6

/-- Held GETs are answered RETRY, assembling transfers REVOKED; then every key of the partition is revoked (R467). -/
def scrubKeys (s : State) (pt : Nat) : State :=
  let s := (s.fab.holds.filter fun h => (s.qp h.qpn).pt == pt).foldl (fun s h =>
    endHold s h fun s =>
      let x := odpHint s
      answer (keyDown x.2 h.key) h.pkt 7 x.1) s
  let s := (s.fab.asms.filter fun a => (s.qp a.qpn).pt == pt).foldl revokeAsm s
  ((s.fab.keys.filter fun k => k.2.owner == pt && k.2.state != .free).map (·.1)).foldl (fun s k =>
    keyRevoked (s.setKey k fun x => { x with state := .revoking, inflight := 0 }) k) s

/-! ### Step 4: its tiles -/

/-- A tile loses its scratchpad, staging buffer, registers, slots and counters (R490, R507). [DEDUCED, log 88] -/
def clearTile (s : State) (t : Nat) : State :=
  let s := s.setSpad (mclear s.mems.spad (t * 2 ^ 24) (2 ^ 24))
  let s := s.setTile t fun u => { step := u.step, limit := u.limit, nbr := u.nbr, pinned := u.pinned, diffHold := u.diffHold }
  { s with regs := s.regs.filter (fun r => r.1 / 2 ^ 20 / 65536 != pgTil t),
           seq := { s.seq with stage := s.seq.stage.filter (fun e => e.2.tile != t), kept := s.seq.kept.filter fun k => k.tile != t },
           blw := { s.blw with t0 := s.blw.t0.filter (fun e => e.1 / 256 != t), t0Hands := tdel s.blw.t0Hands t },
           cnt := { s.cnt with vals := s.cnt.vals.filter fun v => v.1 / 16 / 256 != pgTil t } }

/-! ### Step 5: its tables -/

/-- Is a sequence the partition's? -/
def seqOwned (s : State) (pt q : Nat) : Bool :=
  decide ((s.mapOf pt).seqBase ≤ q ∧ q < (s.mapOf pt).seqBase + (s.mapOf pt).seqCount) || (tget s.seq.ctxs q).any fun c => c.pt == pt

/-- Its sequences, layers, pages, and its place on die. -/
def clearSequences (s : State) (pt : Nat) : State :=
  let own := seqOwned s pt
  { s with seq := { s.seq with
    ctxs := s.seq.ctxs.filter (fun c => !own c.1), rows := s.seq.rows.filter (fun r => !own (r.1 / 256)),
    locs := s.seq.locs.filter (fun l => cpnPt l.1 != pt), locPtr := s.seq.locPtr.filter (fun l => cpnPt l.1 != pt),
    stage := s.seq.stage.filter (fun e => e.2.pt != pt), cached := s.seq.cached.filter (fun q => !own q),
    fetching := s.seq.fetching.filter (fun q => !own q), cursor := lset s.seq.cursor pt 0, nextCpn := lset s.seq.nextCpn pt 0,
    freed := lset s.seq.freed pt [] } }

/-- Its T1 frames, its leaves, its hands. -/
def clearFrames (s : State) (pt : Nat) : State :=
  let held := fun (u : FrameUse) => match u with
    | .page c | .mute c => cpnPt c == pt
    | .leaf n => n / 2 ^ 21 == pt
    | .reserved _ | .faulty => false
  { s with blw := { s.blw with
    t1 := s.blw.t1.filter (fun e => !(held e.2 || byteOwned s pt (hbmFrame (e.1 / 2 ^ 20) (e.1 % 2 ^ 20)))),
    leaving := s.blw.leaving.filter (fun e => cpnPt e.1 != pt), leaves := s.blw.leaves.filter (fun e => e.1 / 2 ^ 21 != pt),
    hands := s.blw.hands.filter (fun h => h.1 / 16 != pt), t2Hands := tdel s.blw.t2Hands pt } }

/-- Its words and queued insertions of a CAM bank; a pass that runs ends, and its words of the partition are invalidated (R529). -/
def clearBank (pt : Nat) (b : Bank) : Bank :=
  { b with words := b.words.filter (fun w => w.2.pt != pt), queue := b.queue.filter (fun p => p.pt != pt),
           running := b.running.map fun p => if p.pt = pt then { pt := pt, words := [] } else p }

/-- Its queue pairs. -/
def clearPairs (s : State) (pt : Nat) : State :=
  let own := qpnInRange s pt
  { s with fab := { s.fab with
    qps := s.fab.qps.filter (fun q => !own q.1), cached := s.fab.cached.filter (fun q => !own q),
    fetching := s.fab.fetching.filter (fun q => !own q), miss := s.fab.miss.filter (fun m => !own m.1),
    gets := s.fab.gets.filter fun g => !own g.qpn } }

/-- What waits for it in its collectives, its own counter values, and its error entries. -/
def clearValues (s : State) (pt : Nat) : State :=
  { s with
    att := { s.att with landed := s.att.landed.filter (fun l => l.pt != pt), ended := s.att.ended.filter fun e => e.1 != pt },
    cnt := { s.cnt with vals := s.cnt.vals.filter (fun v => v.1 % 16 != pt), bufs := lset s.cnt.bufs pt {} } }

/-- The profiles that it owns leave the table and what is staged for it (R82). [DEDUCED, log 88] -/
def clearProfiles (s : State) (pt : Nat) : State :=
  let keep := fun (t : Tbl Profile) => t.filter fun p => p.2.owner != pt
  { s with dep := { s.dep with cfg := { s.dep.cfg with profiles := keep s.dep.cfg.profiles },
                               cfgPrev := { s.dep.cfgPrev with profiles := keep s.dep.cfgPrev.profiles },
                               staged := keep s.dep.staged } }

/-- Step 5. -/
def scrubStep5 (s : State) (pt : Nat) : State :=
  let s := clearValues (clearPairs (clearFrames (clearSequences (clearProfiles s pt) pt) pt) pt) pt
  { s with chn := { s.chn with banks := s.chn.banks.map (clearBank pt),
                               dir := s.chn.dir.map fun e => if e.2.pt = pt then (e.1, { e.2 with inCam := false, pinned := false }) else e } }

/-! ### Steps 6 and 7: its versions and its keys -/

/-- Step 6: open versions are closed as CLOSE does (R312); the imports go with the directory's sweep. -/
def closeOpens (s : State) (pt : Nat) : State :=
  (s.cxh.opens.filter fun o => o.pt == pt).foldl (fun s o => leaveVersion (dropOpen s o.pt o.region) o) s

/-- What its keys protected can no longer be read: every unit that was written reads as poison until it is written again. [DEDUCED, log 10; DEDUCED, log 88] -/
def eraseUnits (s : State) (pt : Nat) : State :=
  let mine := s.mems.hbm.filter fun c => byteOwned s pt c.1
  let bad := (cellUnits mine).filter fun u => !s.mems.badUnits.contains u
  { s with mems := { s.mems with hbm := s.mems.hbm.filter (fun c => !byteOwned s pt c.1), badUnits := s.mems.badUnits ++ bad } }

/-- Step 7: PEPOCH rises; TS, the derived keys, the salt and the seed are gone. -/
def scrubStep7 (s : State) (pt : Nat) : State :=
  let s := s.setPart pt fun p =>
    { p with pepoch := (p.pepoch + 1) % 2 ^ 64, provEpoch := none, ts := none, prk := [], seed := 0, seedLo := 0 }
  let s := { s with chn := { s.chn with salt := lset s.chn.salt pt (zeros 32), saltSrc := lset s.chn.saltSrc pt false } }
  eraseUnits s pt

/-! ### Step 8: the pattern stream -/

/-- The stream has written zeros into the partition's frames below index n of each pseudo-channel: they are in the all-zero form (R492). [DEDUCED, log 88] -/
def streamed (s : State) (pt n : Nat) : State :=
  let hit := fun (a : Nat) => byteOwned s pt a && decide (a % 2 ^ 36 / frameBytes / 32 < n)
  { s with mems := { s.mems with hbm := s.mems.hbm.filter (fun c => !hit c.1), badUnits := s.mems.badUnits.filter fun u => !hit (u * 256) } }

/-- How far the stream came: every frame with ZERO = 1, else a number of frames the spec leaves open. -/
def streamEnd (s : State) (pt : Nat) : State :=
  if (s.part pt).scrub.zero then streamed s pt hbcFrames
  else
    let d := draw s
    streamed d.2 pt (d.1 % hbcFrames)

/-- The scrub ends: the partition is EMPTY, SCRUB_DONE is raised, and the sweeps begin. -/
def scrubEnd (s : State) (pt : Nat) : State :=
  let s := streamEnd s pt
  let us := min 65535 ((s.time - (s.part pt).scrub.startedAt) / 1000)
  let s := s.setPart pt fun p => { p with state := .empty, scrub := {}, scrubUs := us, sweeps := [2, 3, 4, 5] }
  setIrq { s with tsc := s.tsc.map fun t => { t with scrubbing := t.scrubbing.filter (· != pt) } } pgSec 8

/-! ### The steps in order -/

/-- The time by which a step ends, from the write (R490). [DEDUCED, log 88] -/
def scrubBound (zero : Bool) : Nat → Nat
  | 1 => 1000
  | 2 | 3 => 20000
  | 4 => 62000
  | 5 => 60000
  | 6 => 320000
  | 7 => 380000
  | _ => if zero then 38400000 else 400000

/-- The actions of a step. -/
def scrubActions (s : State) (pt : Nat) : Nat → State
  | 1 => scrubStep1 s pt
  | 2 => dropMoves (dropNodes s pt) pt
  | 3 => scrubKeys s pt
  | 4 => (ptTiles s pt).foldl clearTile s
  | 5 => scrubStep5 s pt
  | 6 => closeOpens s pt
  | 7 => scrubStep7 s pt
  | _ => s

/-- A step begins. -/
def scrubEnter (s : State) (pt k : Nat) : State :=
  scrubActions (s.setPart pt fun p => { p with scrub := { p.scrub with step := k } }) pt k

/-- SEC_PT_CTRL of the selected partition (R474, R494). -/
def scrubStart (s : State) (rq : Requester) (v : Nat) : State :=
  let pt := s.reg pgSec 0x200
  if ¬ bit v 0 then s
  else if (s.part pt).state = .empty ∨ (s.part pt).state = .scrubbing then logErr s pgSec 0x06 0 0x210 0 rq
  else
    let s := s.setPart pt fun p => { p with state := .scrubbing, scrub := { step := 1, startedAt := s.time, zero := bit v 1 } }
    scrubEnter (count s pgSec 2 15) pt 1

def execScrub (req : Requester) (val : Word) (s : State) : Host.Outcome State Fault Refusal :=
  .next (if s.boot.fatal then s else secureOnly s req pgSec 0x210 fun s => scrubStart s req val.toNat)

/-- SCRUB_STEP_END. -/
def scrubStepEnd (s : State) (pt : Nat) : State :=
  let x := (s.part pt).scrub
  if (s.part pt).state ≠ .scrubbing then s
  else
    let s := s.reach (x.startedAt + scrubBound x.zero x.step)
    if x.step < 8 then scrubEnter s pt (x.step + 1) else scrubEnd s pt

def execScrubStepEnd (pt : Nat) (s : State) : Host.Outcome State Fault Refusal :=
  .next (if s.boot.fatal then s else scrubStepEnd s pt)

/-! ### The background sweeps (R493) -/

/-- What a sweep frees: 2 spill frames, 3 drive slots, 4 TH frames, 5 directory slots. [DEDUCED, log 88] -/
def sweepFree (s : State) (pt : Nat) : Nat → State
  | 2 => { s with blw := { s.blw with t2 := s.blw.t2.filter fun e => e.1 / 2 ^ 48 != pt || e.2 == .faulty } }
  | 3 =>
    (List.range 16).foldl (fun s n =>
      let sh := shareOf s n pt
      s.setDrive n fun d => { d with slot := d.slot.filter fun e => !(decide (sh.1 ≤ e.1 ∧ e.1 < sh.1 + sh.2) && e.2 == 1) }) s
  | 4 => { s with blw := { s.blw with th := s.blw.th.filter fun e => e.1 / 2 ^ 48 != pt || e.2 == .faulty } }
  | _ =>
    let free := fun (e : Nat × DirSlot) => if e.2.pt = pt ∧ e.2.state = .live then (e.1, { state := .tomb, gen := e.2.gen }) else e
    { s with chn := { s.chn with dir := s.chn.dir.map free } }

/-- SCRUB_SWEEP_END: what waited for the tier may go on. -/
def sweepEnd (s : State) (pt tier : Nat) : State :=
  if ¬ (s.part pt).sweeps.contains tier then s
  else wakeHands ((sweepFree s pt tier).setPart pt fun p => { p with sweeps := p.sweeps.filter (· != tier) }) pt

def execScrubSweepEnd (pt tier : Nat) (s : State) : Host.Outcome State Fault Refusal :=
  .next (if s.boot.fatal then s else sweepEnd s pt tier)

end Sys2Proof.Machine
end

