-- ==== Sys2Proof/Machine/Select.lean ====
section
/-!
DEFINITION. The choice of a port's next frame (R415): the replay, control frames, management messages, and the DATA frames of the 64
egress queues by bands and deficit round robin (R419 to R428); and the rows of the gate list (R430, R431).
-/

namespace Sys2Proof.Machine

/-! ### Sending -/

/-- TX_FRAMES and TX_BYTES (R508); the frame leaves the port. -/
def frameOut (s : State) (port : Nat) (f : Frame) : State :=
  let s := count (count s (pgJlk port) 0 15) (pgJlk port) 2 15 f.len
  s.setSched port fun t => { t with sent := f :: t.sent }

/-- The frame as it is sent now: protected when the port is keyed, with its LEN (R402). -/
def dressed (l : Jlk) (f : Frame) : Frame :=
  let f := { f with enc := l.keyed, kgen := if l.keyed then l.kgenTx else 0 }
  { f with len := frameLen f }

/-- The next frame of a replay: the first held one at or after the replay point. -/
def nextReplay (l : Jlk) : Option HeldFrame := l.replayFrom.bind fun n => l.held.find? fun h => !seqBelow h.fseq n

/-- Step 1: resend a held frame as first sent (R394). -/
def sendReplay (s : State) (port : Nat) (h : HeldFrame) : State :=
  let s := frameOut s port h.frame
  s.setLink port fun l =>
    let l := { l with replayFrom := some ((h.fseq + 1) % 2 ^ 32) }
    if (nextReplay l).isNone then { l with replayFrom := none } else l

/-- The order of control frames by type (R415). -/
def ctlRank : CtlFrame → Nat
  | .ack _ => 0 | .nak _ => 1 | .credit => 2 | .key _ _ => 3

/-- The body of a control frame. -/
def ctlBody (l : Jlk) : CtlFrame → FrameBody
  | .ack n => .ack n
  | .nak n => .nak n
  | .credit => .credit (l.rxReturned.map (· % 65536))
  | .key g n => .key g n

/-- Step 2: send a control frame under the control counter (R399). A CREDIT frame reports every credit returned so far. -/
def sendCtl (s : State) (port : Nat) (c : CtlFrame) : State :=
  let l := s.link port
  let s := frameOut s port (dressed l { fseq := l.txCtr % 2 ^ 32, body := ctlBody l c })
  s.setLink port fun l =>
    let l := { l with txCtr := l.txCtr + 1, ctl := l.ctl.erase c }
    match c with
    | .credit => { l with rxSent := l.rxReturned, owedAt := none, creditAt := s.time }
    | _ => l

/-- Credits of a channel that remain to send (R396). -/
def creditsLeft (l : Jlk) (c : Nat) : Nat := lget l.txLimit c 0 - lget l.txUsed c 0

/-- Has the replay buffer of 512 KiB room for a frame of the greatest length (R393)? [DEDUCED, log 66] -/
def holdRoom (l : Jlk) : Bool := decide ((l.held.map fun h => h.frame.len).sum + 4160 ≤ 524288)

/-- Send a DATA or MGMT frame for the first time: it takes its FSEQ and its credits and is held; enough frames under one generation change
it (R393, R396, R400). [DEDUCED, log 66] -/
def sendNumbered (s : State) (port : Nat) (f : Frame) : State :=
  let l := s.link port
  let f := { dressed l f with fseq := l.txSeq }
  let s := recFrame (frameOut s port f) port true f
  let s := s.setLink port fun l =>
    { l with txSeq := (l.txSeq + 1) % 2 ^ 32, held := l.held ++ [{ fseq := l.txSeq, frame := f }],
             advanceAt := if l.held.isEmpty then s.time else l.advanceAt,
             txUsed := lmod l.txUsed (frameChannel f) (· + frameCredits f), kgenSince := l.kgenSince + 1 }
  let l := s.link port
  if l.keyed ∧ 2 ^ (32 + bits (s.reg (pgJlk port) 0x200) 16 4) ≤ l.kgenSince then newGeneration s port (l.kgenTx + 1) else s

/-- Step 3: a management message as one MGMT frame. -/
def mgmtFrame (m : MgmtMsg) : Frame := { body := .mgmt m.mtype true true m.data }
def sendMgmt (s : State) (port : Nat) (m : MgmtMsg) : State :=
  sendNumbered (s.setLink port fun l => { l with mgmt := l.mgmt.drop 1 }) port (mgmtFrame m)

/-! ### Host writes (R405, R418) -/

/-- Does a FENCE wait for the writes of an origin (R67, R375)? -/
def fenceWaits (s : State) (origin : Nat) : Bool :=
  if 2 ^ 40 ≤ origin then
    (s.chan (origin - 2 ^ 40)).started && (((s.chan (origin - 2 ^ 40)).fetched.head?).any fun d => d.op == 2)
  else s.dep.nodes.any fun n => n.2.outcome.isNone && n.2.cmd == .fence true && 1 + n.2.ring == origin

/-- Does a write of the origin still wait in the port? -/
def moreWrites (t : Tsc) (origin : Nat) : Bool :=
  let mine := fun (f : QFrame) => f.origin == origin && (match f.frame.body with
    | .txn x => x.op == .memWr
    | _ => false)
  t.qs.any (fun q => q.frames.any mine) || t.stalled.any mine

/-- Are a replay's outputs of this frame discarded (R524)? -/
def replayDiscards (s : State) (f : Frame) : Bool :=
  s.rec_.replay == 1 && (match f.body with
    | .pkt _ => true
    | .txn t => t.op == .memWr && !f.secure && !bit (s.reg pgRec 0x224) 9
    | _ => false)

/-- A host write takes its TAG as it is sent, and its bytes stand in host memory from then on (R406, R418). [DEDUCED, log 6] -/
def sendWrite (s : State) (port : Nat) (q : QFrame) (x : Txn) : State :=
  let n := (s.link port).wrNum
  let rq := n % 256 == 255 || (q.origin != 0 && fenceWaits s q.origin && !moreWrites (s.sched port) q.origin)
  let s := s.setHost (mwrites s.mems.host (port * 2 ^ 64 + x.addr) x.data)
  let s := s.setLink port fun l => { l with wrNum := (n + 1) % 65536, unacked := l.unacked ++ [(n, q.origin)] }
  sendNumbered s port { q.frame with body := .txn { x with tag := n, ackrq := rq } }

/-- Send the frame that left a queue. -/
def sendQueued (s : State) (port : Nat) (q : QFrame) : State :=
  if replayDiscards s q.frame then s
  else
    match q.frame.body with
    | .txn x => if x.op = .memWr then sendWrite s port q x else sendNumbered s port q.frame
    | _ => sendNumbered s port q.frame

/-! ### The decision (R420, R425, R426) -/

/-- R of R419, in bytes per ns. -/
def portRate (l : Jlk) : Nat := 200 / 2 ^ l.width

/-- L of a frame (R419). -/
def chargedLen (t : Tsc) (f : Frame) : Nat := f.len + (if t.cfg.compat then t.cfg.ovh else 0)

/-- The meter's colour for a length. -/
def meterColour (c : QueueCfg) (e : EgQueue) (len : Nat) : Colour :=
  match c.mtype with
  | 1 => if len * 1000 ≤ e.tc then .green else if len * 1000 ≤ e.tx then .yellow else .red
  | 2 => if e.tx < len * 1000 then .red else if e.tc < len * 1000 then .yellow else .green
  | _ => .none

/-- The effective band of a colour (R420). -/
def bandOf (c : QueueCfg) : Colour → Nat
  | .yellow => c.yband
  | .red => if c.demote then 3 else c.band
  | _ => c.band

/-- One queue at a decision: what its status registers show from now on. -/
def decideQueue (t : Tsc) (l : Jlk) (q : Nat) (e : EgQueue) : EgQueue :=
  let c := queueCfg t q
  let e := { e with colour := .none, eband := c.band, elig := false, vcBlock := false, gateBlock := false, shapeBlock := false,
                    redBlock := false }
  match e.frames with
  | [] => e
  | f :: _ =>
    let g := dressed l f.frame
    if creditsLeft l (frameChannel g) < frameCredits g then { e with vcBlock := true }
    else if ¬ gateFits t q t.at_ g.len (portRate l) 200 t.at_ then { e with gateBlock := true }
    else if c.shapeEn ∧ e.credit < 0 then { e with shapeBlock := true }
    else
      let col := meterColour c e (chargedLen t g)
      if col = .red ∧ ¬ c.demote then { e with colour := col, redBlock := true }
      else { e with colour := col, eband := bandOf c col, elig := true }

/-- Every queue at a decision. -/
def decideAll (t : Tsc) (l : Jlk) : Tsc := { t with qs := t.qs.zipIdx.map fun e => decideQueue t l e.2 e.1 }

/-- The queues that failed test 2, 3 or 4 count for their owners (R508). -/
def countWaits (s : State) (port : Nat) (t : Tsc) : State :=
  t.qs.zipIdx.foldl (fun s e =>
    let c := fun (s : State) (on : Bool) (i : Nat) => if on then count s (pgTsc port) i (queueCfg t e.2).pt else s
    c (c (c s e.1.gateBlock 3) e.1.shapeBlock 4) e.1.vcBlock 5) s

/-! ### Deficit round robin (R421, R422) -/

/-- The length that the head of a queue is charged. -/
def headLen (t : Tsc) (l : Jlk) (q : Nat) : Nat :=
  match (lget t.qs q {}).frames with
  | f :: _ => chargedLen t (dressed l f.frame)
  | [] => 0

/-- Does a queue compete in a band? -/
def competes (t : Tsc) (b q : Nat) : Bool := (lget t.qs q {}).elig && (lget t.qs q {}).eband == b

/-- The queue that a band serves, with its deficit as the frame is charged; HOLD and CUR of the band move. -/
def serveBand (t : Tsc) (l : Jlk) (b : Nat) : Option (Nat × Tsc) :=
  let cur := lget t.cur b 63
  if lget t.hold b false ∧ competes t b cur ∧ headLen t l cur ≤ (lget t.qs cur {}).deficit then some (cur, t)
  else
    match ((List.range 64).map fun k => (cur + 1 + k) % 64).find? (competes t b) with
    | none => none
    | some q =>
      some (q, { t with qs := lmod t.qs q fun e => { e with deficit := e.deficit + (queueCfg t q).quantum * 64 },
                        cur := lset t.cur b q, hold := lset t.hold b true })

/-- The lowest-numbered band with an eligible queue. -/
def chooseQueue (t : Tsc) (l : Jlk) : Option (Nat × Nat × Tsc) :=
  ([0, 1, 2, 3] : List Nat).findSome? fun b => (serveBand t l b).map fun r => (b, r)

/-- What a sent frame of length L debits: its deficit, its credit, its buckets (R421, R423, R427). -/
def debit (c : QueueCfg) (len : Nat) (e : EgQueue) : EgQueue :=
  let e := { e with deficit := e.deficit - len, credit := if c.shapeEn then e.credit - len * 1000 else e.credit }
  match e.colour, c.mtype with
  | .green, 1 => { e with tc := e.tc - len * 1000 }
  | .yellow, 1 => { e with tx := e.tx - len * 1000 }
  | .green, 2 => { e with tc := e.tc - len * 1000, tx := e.tx - len * 1000 }
  | .yellow, 2 => { e with tx := e.tx - len * 1000 }
  | _, _ => e

/-- The head of queue q leaves. A queue that becomes empty loses its deficit, a positive credit, and its turn. -/
def popQueue (t : Tsc) (l : Jlk) (b q : Nat) : Tsc :=
  let len := headLen t l q
  let t := { t with qs := lmod t.qs q fun e => { debit (queueCfg t q) len e with frames := e.frames.drop 1 } }
  if (lget t.qs q {}).frames.isEmpty then
    { t with qs := lmod t.qs q fun e => { e with deficit := 0, credit := min 0 e.credit }, hold := lset t.hold b false }
  else t

/-- TX_GREEN, TX_YELLOW, TX_RED and TX_L. [DEDUCED, log 65] -/
def countSent (s : State) (port pt len : Nat) (c : Colour) : State :=
  let s := match c with
    | .green => count s (pgTsc port) 0 pt
    | .yellow => count s (pgTsc port) 1 pt
    | .red => count s (pgTsc port) 2 pt
    | .none => s
  count s (pgTsc port) 6 pt len

/-- Step 4: a frame of the egress queues, if one may be sent. -/
def sendData (s : State) (port : Nat) : State :=
  let l := s.link port
  let t := decideAll (s.sched port) l
  let s := countWaits (s.setSched port fun _ => t) port t
  match chooseQueue t l with
  | none => s
  | some (b, q, t) =>
    match (lget t.qs q {}).frames with
    | [] => s
    | f :: _ =>
      let s := countSent s port (queueCfg t q).pt (headLen t l q) (lget t.qs q {}).colour
      let s := s.setSched port fun _ => refill (popQueue t l b q)
      sendQueued s port f

/-! ### The frame boundary (R415) -/

/-- Does a partition under scrub hold the port alone (R491)? -/
def scrubHeld (s : State) (port : Nat) : Bool := (strictPortOwner s port).any fun p => (s.part p).state == .scrubbing

/-- R491: one ACK and one CREDIT per microsecond, and nothing else. -/
def sendScrub (s : State) (port : Nat) : State :=
  let us := s.time / 1000
  let l := s.link port
  let n := if l.scrubAt.1 = us then l.scrubAt.2 else 0
  let s := s.setLink port fun l => { l with scrubAt := (us, n + 1) }
  if n = 0 then sendCtl s port (.ack l.rxNext) else if n = 1 then sendCtl s port .credit else s

/-- Steps 3 to 5. A fabric port carries packets only when keyed (R438). -/
def sendNew (s : State) (port : Nat) : State :=
  let l := s.link port
  if ¬ holdRoom l then s
  else
    match l.mgmt with
    | m :: _ => if frameCredits (dressed l (mgmtFrame m)) ≤ creditsLeft l 4 then sendMgmt s port m
      else if isHostPort port ∨ l.keyed then sendData s port else s
    | [] => if isHostPort port ∨ l.keyed then sendData s port else s

/-- Step 1 of R506: no completion, host write or fabric packet leaves after a device-fatal error. [DEDUCED, log 90] -/
def fatalKeeps (f : QFrame) : Bool :=
  match f.frame.body with
  | .pkt _ => false
  | .txn t => t.op != .memWr
  | _ => true

/-- The egress queues as a device-fatal error leaves them. [DEDUCED, log 90] -/
def fatalQueues (t : Tsc) : Tsc :=
  { t with qs := t.qs.map fun e => { e with frames := e.frames.filter fatalKeeps }, stalled := t.stalled.filter fatalKeeps }

/-- TX_FRAME_SELECT: the first frame that the order of R415 allows; an IDLE frame changes nothing. [DEDUCED, log 90] -/
def selectFrame (s : State) (port : Nat) : State :=
  let s := s.setSched port fun t => schedSync (if s.boot.fatal then fatalQueues t else t) s.time
  let l := s.link port
  if scrubHeld s port then sendScrub s port
  else
    match nextReplay l with
    | some h => sendReplay s port h
    | none =>
      match minBy ctlRank l.ctl with
      | some c => sendCtl s port c
      | none => sendNew s port

def execTxFrameSelect (port : Nat) (s : State) : Host.Outcome State Fault Refusal :=
  .next (if portActive s port then selectFrame s port else s)

/-! ### Gate lists -/

/-- GATE_ENTRY_ADVANCE: the running entry's duration ends (R430). -/
def gateAdvance (s : State) (port : Nat) : State :=
  let t := s.sched port
  match gateSegment t.gates t.gateStart s.time with
  | some e => (s.reach e.2.2).setSched port fun t => schedSync t (max s.time e.2.2)
  | none => s

def execGateEntryAdvance (port : Nat) (s : State) : Host.Outcome State Fault Refusal :=
  .next (gateAdvance s port)

/-- GATE_TAKEOVER: time T of the pending list (R431). -/
def gateTakeover (s : State) (port : Nat) : State :=
  match (s.sched port).pending with
  | some p => (s.reach p.2).setSched port fun t => schedSync t (max s.time p.2)
  | none => s

def execGateTakeover (port : Nat) (s : State) : Host.Outcome State Fault Refusal :=
  .next (gateTakeover s port)

end Sys2Proof.Machine
end

