-- ==== Sys2Proof/Machine/Spdm.lean ====
section
/-!
DEFINITION. The management channel (R409): STATUS_RD, the SPDM responder and requester (R410 to R412), measurements (R489), and
PROVISION (R487). Message codes and layouts of DSP0274 stand in the assumption log.
-/

namespace Sys2Proof.Machine

/-! ### Messages -/

/-- The message that stood received is answered: `data` leaves as one message of a type. -/
def reply (s : State) (port mtype : Nat) (data : List Byte) : State :=
  s.setLink port fun l => { l with mgmtIn := [], mgmt := l.mgmt ++ [{ mtype := mtype, data := data.take 4096 }] }

/-- MTYPE of an SPDM message: secured once the session stands. -/
def spdmType (s : State) (port : Nat) : Nat := if (s.link port).session then 4 else 1

/-- An SPDM 1.2 message: its code, two parameters and a payload. GET_VERSION and VERSION carry version 1.0, as DSP0274 has it. [PRESUMED, log 26] -/
def spdmMsg (code p1 p2 : Nat) (body : List Byte) : List Byte := toLe 1 (if code % 128 = 4 then 0x10 else 0x12) ++ toLe 1 code ++ toLe 1 p1 ++ toLe 1 p2 ++ body

def spdmReply (s : State) (port code p1 p2 : Nat) (body : List Byte) : State := reply s port (spdmType s port) (spdmMsg code p1 p2 body)

/-- ERROR with an error code. -/
def spdmError (s : State) (port err : Nat) : State := spdmReply s port 0x7F err 0 []

/-- Bytes that cryptography makes, different each time. -/
def spdmFresh (s : State) (kind : Nat) : List Byte × State :=
  (Config.spdmBytes kind s.fresh, { s with fresh := s.fresh + 1 })

/-! ### STATUS_RD -/

/-- GLB_BOOT_STAT (R355, R573). -/
def bootStat (s : State) : Nat := s.boot.stage + s.boot.code * 2 ^ 8

/-- The data of STATUS_RSP. -/
def statusData (s : State) (sel : Nat) : List Byte :=
  match sel with
  | 0 => toLe 4 romVer ++ [0]
  | 1 => toLe 4 (devIdReg s) ++ [0]
  | 2 => toLe 4 (bootStat s) ++ [0]
  | _ => zeros 4 ++ [1]

def execStatusRd (port sel : Nat) (s : State) : Host.Outcome State Fault Refusal :=
  .next (if portActive s port then reply s port 3 (statusData s sel) else s)

/-! ### Measurements (R489) -/

/-- BLK_WORLD of a page. -/
def blkWorld (p : Page) : Nat := b2n p.secure + b2n p.lock * 2

/-- An entry of the region table as its three registers. -/
def regionWords (s : State) (i : Nat) : List Byte :=
  toLe 4 (s.reg pgSec 0x224 i) ++ toLe 4 (s.reg pgSec 0x228 i) ++ toLe 4 (s.reg pgSec 0x22C i)

/-- PEPOCH in use: a tenant's until the next scrub, else the device's own (R474). -/
def pepochOf (p : Part) : Nat := p.provEpoch.getD p.pepoch

/-- What measurement 16 + n digests. -/
def ptMeasured (s : State) (n : Nat) : List Byte :=
  let p := s.part n
  entryBytes s.appliedMap n ++ toLe 1 (ptStateCode p.state) ++ toLe 1 (b2n (s.mapOf n).tkey) ++ toLe 8 (pepochOf p)
    ++ (if p.prk.isEmpty then zeros 8 else keyCheckValue p.prk)

/-- The ordering code of R6 in ASCII: QK4800-A1-ES or QK4800-A1-LP. -/
def orderingCode (s : State) : List Byte :=
  [0x51, 0x4B, 0x34, 0x38, 0x30, 0x30, 0x2D, 0x41, 0x31, 0x2D] ++ (if s.sec.es then [0x45, 0x53] else [0x4C, 0x50])

/-- The fuse record that measurement 2 covers: serial, stepping, ordering code (R6, R489). How the record lays them out is not stated:
here one behind the other, with what else it holds open. -/
def fuseRecord (s : State) : List Byte :=
  toLe 8 s.sec.serial ++ [0x41, 0x31] ++ orderingCode s ++ Config.spdmBytes 0x100 0

/-- Measurement `i`; none for an index that R489 does not list. -/
def measurement (s : State) (i : Nat) : Option (List Byte) :=
  match i with
  | 1 => some (padTo 32 s.sec.romDigest)
  | 2 => some (sha256 (fuseRecord s))
  | 3 => some (sha256 (snapPages.flatMap (fun n => toLe 4 (blkWorld (s.page n))) ++ (List.range 16).flatMap (regionWords s)))
  | 4 => some (sha256 (s.appliedMap.raw ++ toLe 2 s.appliedMap.epoch))
  | _ => if 16 ≤ i ∧ i < 24 then some (sha256 (ptMeasured s (i - 16))) else none

/-- A measurement block of DSP0274. -/
def measureBlock (i : Nat) (d : List Byte) : List Byte := toLe 1 i ++ [1] ++ toLe 2 35 ++ [0] ++ toLe 2 32 ++ d

/-- The indices of R489. -/
def measureList : List Nat := [1, 2, 3, 4] ++ (List.range 8).map (16 + ·)

/-- The blocks that a GET_MEASUREMENTS index asks for: 0xFF for all, 0 for their number only. [DEDUCED, log 69] -/
def measureBlocks (s : State) (index : Nat) : Option (List (List Byte)) :=
  if index = 0 then some []
  else if index = 0xFF then some (measureList.map fun i => measureBlock i ((measurement s i).getD []))
  else (measurement s index).map fun d => [measureBlock index d]

/-! ### The responder -/

/-- Is the device the responder on a port (R411)? [DEDUCED, log 69] -/
def responds (s : State) (port : Nat) : Bool := isHostPort port || !(s.link port).master

/-- A request on an ACTIVE port. Before attestation is available it gets Busy; out of its place in the exchange it gets
UnexpectedRequest. -/
def onRequest (s : State) (port : Nat) (inOrder : Bool) (f : State → State) : State :=
  if ¬ portActive s port then s
  else if ¬ s.boot.attReady then spdmError s port 3
  else if ¬ (responds s port && inOrder) then spdmError s port 4
  else f s

def setSpdm (s : State) (port : Nat) (st : SpdmState) : State := s.setLink port fun l => { l with spdm := st }

/-- Has the exchange passed the algorithms? -/
def negotiated (l : Jlk) : Bool := l.spdm == .negotiated || l.spdm == .handshake || l.spdm == .established

/-- GET_VERSION: 1.2 only. It starts the exchange. [PRESUMED, log 26] -/
def execGetVersion (port : Nat) (s : State) : Host.Outcome State Fault Refusal :=
  .next (onRequest s port (!(s.link port).session) fun s =>
    spdmReply (setSpdm s port .versioned) port 0x04 0 0 ([0, 1] ++ toLe 2 0x1200))

/-- GET_CAPABILITIES: certificates, challenge, signed measurements, encryption, MAC, key exchange, heartbeat, key update; 4,096-byte
messages. -/
def execGetCapabilities (port : Nat) (s : State) : Host.Outcome State Fault Refusal :=
  .next (onRequest s port ((s.link port).spdm == .versioned) fun s =>
    spdmReply (setSpdm s port .capable) port 0x61 0 0 (zeros 4 ++ toLe 4 0x62F6 ++ toLe 4 4096 ++ toLe 4 4096))

/-- NEGOTIATE_ALGORITHMS: the algorithms of R410. -/
def execNegotiateAlgorithms (port : Nat) (s : State) : Host.Outcome State Fault Refusal :=
  .next (onRequest s port ((s.link port).spdm == .capable) fun s =>
    spdmReply (setSpdm s port .negotiated) port 0x63 0 0
      (toLe 2 44 ++ [1, 0] ++ toLe 4 2 ++ toLe 4 0x10 ++ toLe 4 1 ++ zeros 12 ++ zeros 4 ++ [2, 0x20] ++ toLe 2 0x08 ++ [3, 0x20]
        ++ toLe 2 0x02))

/-- The chain of slot 0 (R488): from the production root, or for an engineering sample from the engineering root with its own leaf
subject (R6). -/
def certChain (s : State) : List Byte := Config.spdmBytes 0x02 (b2n s.sec.es)

/-- GET_DIGESTS: slot 0 alone. -/
def execGetDigests (port : Nat) (s : State) : Host.Outcome State Fault Refusal :=
  .next (onRequest s port (negotiated (s.link port)) fun s => spdmReply s port 0x01 0 1 (sha256 (certChain s)))

/-- GET_CERTIFICATE: a part of slot 0's chain; another slot is empty. -/
def execGetCertificate (port slot offset len : Nat) (s : State) : Host.Outcome State Fault Refusal :=
  .next (onRequest s port (negotiated (s.link port)) fun s =>
    if slot ≠ 0 ∨ (certChain s).length < offset then spdmError s port 1
    else
      let part := ((certChain s).drop offset).take (min len 4088)
      spdmReply s port 0x02 slot 0 (toLe 2 part.length ++ toLe 2 ((certChain s).length - offset - part.length) ++ part))

/-- CHALLENGE: signed with the attestation key. -/
def execChallenge (port : Nat) (nonce : List Byte) (s : State) : Host.Outcome State Fault Refusal :=
  .next (onRequest s port (negotiated (s.link port)) fun s =>
    let n := drawBytes s 4
    let g := spdmFresh n.2 0x03
    spdmReply g.2 port 0x03 0 1 (sha256 (certChain s) ++ n.1 ++ sha256 (nonce ++ measureList.flatMap fun i => (measurement s i).getD []) ++ g.1))

/-- GET_MEASUREMENTS. -/
def execGetMeasurements (port index : Nat) (sign : Bool) (s : State) : Host.Outcome State Fault Refusal :=
  .next (onRequest s port (negotiated (s.link port)) fun s =>
    match measureBlocks s index with
    | none => spdmError s port 1
    | some bs =>
      let data := bs.flatten
      let n := drawBytes s 4
      let g := spdmFresh n.2 0x60
      let body := toLe 1 bs.length ++ toLe 3 data.length ++ data ++ n.1 ++ [0, 0]
      if sign then spdmReply g.2 port 0x60 (if index = 0 then 12 else 0) 0 (body ++ g.1)
      else spdmReply n.2 port 0x60 (if index = 0 then 12 else 0) 0 body)

/-- KEY_EXCHANGE: one session per port. [PRESUMED, log 26] -/
def execKeyExchange (port : Nat) (pub : List Byte) (s : State) : Host.Outcome State Fault Refusal :=
  .next (onRequest s port (negotiated (s.link port)) fun s =>
    if (s.link port).session then spdmError s port 0x0A
    else
      let n := drawBytes s 4
      let g := spdmFresh n.2 0x64
      spdmReply (setSpdm g.2 port .handshake) port 0x64 0 0 (toLe 2 1 ++ [if isHostPort port then 0 else 1, 0] ++ n.1 ++ sha256 pub ++ g.1))

/-- The session stands: the port is keyed with generation 0 and says so in a KEY frame (R398, R400). -/
def keyPort (s : State) (port : Nat) : State :=
  let s := s.setLink port fun l =>
    { l with spdm := .established, session := true, keyed := true, kgenRx := 0, nextRxGen := none, heartbeatAt := s.time }
  newGeneration s port 0

/-- FINISH. `verified`: the requester's proof checks. -/
def execFinish (port : Nat) (verified : Bool) (s : State) : Host.Outcome State Fault Refusal :=
  .next (onRequest s port ((s.link port).spdm == .handshake) fun s =>
    if verified then
      let g := spdmFresh s 0x65
      keyPort (spdmReply g.2 port 0x65 0 0 g.1) port
    else spdmError (setSpdm s port .negotiated) port 6)

/-- Has the negotiated period passed without a HEARTBEAT (R412)? [DEDUCED, log 104] -/
def heartLate (s : State) (port : Nat) : Bool := decide ((s.link port).heartbeatAt + Config.heartbeatNs < s.time)

/-- HEARTBEAT. [PRESUMED, log 26] -/
def execHeartbeat (port : Nat) (s : State) : Host.Outcome State Fault Refusal :=
  .next (onRequest s port (s.link port).session fun s =>
    if heartLate s port then enterDown s port 7
    else spdmReply (s.setLink port fun l => { l with heartbeatAt := s.time }) port 0x68 0 0 [])

/-- KEY_UPDATE: the port changes its key generation (R400). -/
def execKeyUpdate (port : Nat) (s : State) : Host.Outcome State Fault Refusal :=
  .next (onRequest s port (s.link port).session fun s => rekeyPort (spdmReply s port 0x69 1 0 []) port)

/-- END_SESSION: the keys end, and the port enters DOWN with CAUSE 7 (R412). -/
def execEndSession (port : Nat) (s : State) : Host.Outcome State Fault Refusal :=
  .next (onRequest s port (s.link port).session fun s => enterDown s port 7)

/-- SPDM_UNSUPPORTED: any other request. -/
def execSpdmUnsupported (port code : Nat) (s : State) : Host.Outcome State Fault Refusal :=
  .next (if portActive s port then spdmReply s port 0x7F (if s.boot.attReady then 7 else 3) (if s.boot.attReady then code % 256 else 0) []
    else s)

/-- SESSION_TIMEOUT: no HEARTBEAT within the negotiated period. [DEDUCED, log 8] -/
def execSessionTimeout (port : Nat) (s : State) : Host.Outcome State Fault Refusal :=
  .next (if portActive s port ∧ (s.link port).session then
      enterDown (s.reach ((s.link port).heartbeatAt + Config.heartbeatNs)) port 7
    else s)

/-! ### The requester (R411) -/

/-- A request leaves. [DEDUCED, log 69] -/
def request (s : State) (port code : Nat) (body : List Byte) : State := spdmReply s port code 0 0 body

/-- The request that the exchange stands at, sent again when the far end was busy. [DEDUCED, log 69] -/
def spdmAgain (s : State) (port : Nat) : State :=
  match (s.link port).spdm with
  | .none => request s port 0x84 []
  | .versioned => request s port 0xE1 []
  | .capable => request s port 0xE3 []
  | .negotiated => request s port 0x82 []
  | .handshake =>
    let g := spdmFresh s 0xE5
    request g.2 port 0xE5 g.1
  | .established => s

/-- A response of the far end: the exchange goes on, or ends where it does not verify. [DEDUCED, log 69] -/
def spdmResponse (s : State) (port code : Nat) (verified : Bool) : State :=
  let s := s.setLink port fun l => { l with mgmtIn := [] }
  if code = 0x7F then spdmAgain s port
  else if ¬ verified then setSpdm s port .none
  else
    match (s.link port).spdm, code with
    | .none, 0x04 => request (setSpdm s port .versioned) port 0xE1 []
    | .versioned, 0x61 => request (setSpdm s port .capable) port 0xE3 []
    | .capable, 0x63 => request (setSpdm s port .negotiated) port 0x82 []
    | .negotiated, 0x02 =>
      let g := spdmFresh s 0xE4
      request g.2 port 0xE4 g.1
    | .negotiated, 0x64 =>
      let g := spdmFresh (setSpdm s port .handshake) 0xE5
      request g.2 port 0xE5 g.1
    | .handshake, 0x65 => keyPort s port
    | .established, 0x68 => if heartLate s port then enterDown s port 7 else s.setLink port fun l => { l with heartbeatAt := s.time }
    | _, _ => s

/-- [PRESUMED, log 26] -/
def execSpdmResponseRx (port code : Nat) (verified : Bool) (s : State) : Host.Outcome State Fault Refusal :=
  .next (if portActive s port ∧ ¬ isHostPort port ∧ (s.link port).master then spdmResponse s port code verified else s)

/-- HEARTBEAT_SEND: the requester keeps its session alive. -/
def execHeartbeatSend (port : Nat) (s : State) : Host.Outcome State Fault Refusal :=
  .next (if portActive s port ∧ ¬ isHostPort port ∧ (s.link port).master ∧ (s.link port).session then request s port 0xE8 [] else s)

/-! ### PROVISION -/

/-- RESULT of a PROVISION on a host port (R487). -/
def provisionResult (s : State) (port : Nat) (m : List Byte) : Nat :=
  let pt := field m 1 1 % 8
  if m.length ≠ 48 ∨ field m 0 1 ≠ 1 ∨ 8 ≤ field m 1 1 ∨ ¬ allZero m 2 6 then 3
  else if (s.part pt).state ≠ .keying then 1
  else if ¬ bit (s.mapOf pt).hp port then 2
  else 0

/-- A partition takes PEPOCH and TS; the derived salt and seed replace the loaded ones; it is ACTIVE (R474). -/
def provisionPt (s : State) (pt pepoch : Nat) (ts : List Byte) : State :=
  let s := s.setPart pt fun p => { p with provEpoch := some pepoch, ts := some ts, prk := derivePrk pt pepoch (some ts) }
  let s := { s with chn := { s.chn with salt := lset s.chn.salt pt (kdf ts (ascii "QK SALT") [] 256) } }
  enterActive (setSeed s pt (leNat (kdf ts (ascii "QK SR SEED") [] 64))) pt

/-- [DEDUCED, log 69] -/
def provision (s : State) (port : Nat) (m : List Byte) : State :=
  let pt := field m 1 1 % 8
  let r := provisionResult s port m
  let s := if r = 0 then provisionPt s pt (field m 8 8) (m.drop 16) else s
  reply s port 4 ([0x81] ++ toLe 1 pt ++ toLe 1 r ++ zeros 5)

def execProvision (port : Nat) (msg : List Byte) (s : State) : Host.Outcome State Fault Refusal :=
  .next (if portActive s port ∧ isHostPort port ∧ (s.link port).session then provision s port msg else s)

end Sys2Proof.Machine
end

