-- ==== Sys2Proof/Machine/RegRead.lean ====
section
/-!
DEFINITION. What a register read returns (R16, R44): the registers of every page by offset, for a requester that reaches the page's
block area. A register not named here returns its stored value, in which RO fields stand at their reset value and WO and RSV fields
at 0.
-/

namespace Sys2Proof.Machine

/-- A value that the secure world and one partition read; anyone else reads 0 (R44). -/
def ownOnly (rq : Requester) (pt v : Nat) : Nat := if rq.secure || rq.pt == pt then v else 0
/-- A value that only the secure world reads. -/
def secOnly (rq : Requester) (v : Nat) : Nat := if rq.secure then v else 0

/-- The bank that a selector of the page chooses for a stored register: 0 for a register that no selector shows. -/
def bankOf (s : State) (type off : Nat) : Nat :=
  match type, off with
  | 2, 0x20C => bits (s.reg pgClk 0x208) 0 6
  | 3, 0x210 => bits (s.reg pgPwr 0x20C) 0 3
  | 4, 0x224 | 4, 0x228 | 4, 0x22C => bits (s.reg pgSec 0x220) 0 4
  | 7, 0x210 | 7, 0x214 | 7, 0x218 => bits (s.reg pgChn 0x20C) 0 3
  | 8, 0x204 | 8, 0x208 | 8, 0x20C => bits (s.reg pgBlw 0x200) 0 4
  | 8, 0x220 | 8, 0x224 | 8, 0x228 => bits (s.reg pgBlw 0x214) 0 3
  | 9, 0x230 | 9, 0x234 => bits (s.reg pgNvh 0x22C) 0 7
  | 10, 0x224 => bits (s.reg pgCxh 0x220) 0 8
  | 10, 0x234 => bits (s.reg pgCxh 0x230) 0 3
  | 11, 0x228 | 11, 0x22C => bits (s.reg pgFab 0x224) 0 3
  | 11, 0x250 | 11, 0x254 | 11, 0x258 | 11, 0x25C => bits (s.reg pgFab 0x24C) 0 8
  | 12, 0x204 | 12, 0x208 | 12, 0x20C | 12, 0x220 => bits (s.reg pgDma 0x200) 0 6
  | 13, 0x218 | 13, 0x21C | 13, 0x220 => bits (s.reg pgCnt 0x214) 0 3
  | 13, 0x22C | 13, 0x230 | 13, 0x234 => bits (s.reg pgCnt 0x228) 0 3
  | _, _ => 0

/-- The stored value of a register as its selector shows it. [DEDUCED, log 92] -/
def shown (s : State) (page off : Nat) : Nat := s.reg page off (bankOf s (pageType page) off)

/-! ### GLB, CLK, PWR, SEC (R355, R357, R498, R564, R578) -/

/-- GLB_IRQ_SUM of word w: the pages with an enabled cause (R504). -/
def irqSum (s : State) (w : Nat) : Nat :=
  bitmapOf ((List.range 32).map fun k => decide (pageType (32 * w + k) ≠ 0) && pageSum (s.page (32 * w + k)))

def rdGlb (s : State) (off : Nat) : Nat :=
  match off with
  | 0x200 => romVer
  | 0x204 => devIdReg s
  | 0x208 => bootStat s
  | 0x20C => low32 s.time
  | 0x210 => high32 s.time
  | 0x218 | 0x21C | 0x220 | 0x224 => irqSum s ((off - 0x218) / 4)
  | 0x230 => s.boot.cause + s.boot.prevStage * 2 ^ 8 + s.boot.prevCode * 2 ^ 16
  | 0x234 => s.boot.excl
  | 0x238 => s.boot.bootUs
  | _ => shown s pgGlb off

def rdClk (s : State) (off : Nat) : Nat :=
  let t := bits (s.reg pgClk 0x208) 0 6
  match off with
  | 0x200 => b2n s.clk.lock + b2n s.clk.refOk * 2
  | 0x20C => if t < 48 then shown s pgClk off else 0
  | 0x210 => if t < 48 then tileCur s t else 0
  | _ => shown s pgClk off

def rdPwr (s : State) (off : Nat) : Nat :=
  match off with
  | 0x204 => pwrStat s
  | 0x208 => s.pwr.hold
  | 0x21C => railStat s (bits (s.reg pgPwr 0x218) 0 4)
  | 0x224 => lget s.pwr.temps (bits (s.reg pgPwr 0x220) 0 6) 0
  | _ => shown s pgPwr off

def rdSec (s : State) (rq : Requester) (off : Nat) : Nat :=
  let pt := bits (s.reg pgSec 0x200) 0 3
  let p := s.part pt
  match off with
  | 0x204 => ownOnly rq pt (ptStateCode p.state + b2n (s.mapOf pt).strict * 2 ^ 3 + b2n (s.mapOf pt).tkey * 2 ^ 4
      + (if p.state = .scrubbing then p.scrub.step else 0) * 2 ^ 5)
  | 0x208 => ownOnly rq pt (low32 (pepochOf p))
  | 0x20C => ownOnly rq pt (high32 (pepochOf p))
  | 0x214 => p.scrubUs
  | 0x218 => ownOnly rq pt p.therm
  | 0x234 => b2n s.sec.drkOk + b2n s.sec.attOk * 2 + b2n s.sec.es * 4
  | _ =>
    if 0x240 ≤ off ∧ off < 0x260 then field ((measurement s (bits (s.reg pgSec 0x230) 0 8)).getD []) (off - 0x240) 4
    else shown s pgSec off

/-! ### DEP (R44, R81, R359) -/

/-- The registers of the selected ring. [DESIGN CHOICE, log 101] -/
def rdRing (s : State) (pt ring : Nat) (cq : Bool) (off : Nat) : Nat :=
  let r := s.subRing (pt * 256 + ring)
  let c := s.cplRing pt ring
  if cq then
    if 64 ≤ ring then 0
    else
      match off with
      | 0x204 => c.baseLo.toNat
      | 0x208 => c.baseHi.toNat
      | 0x20C => cqCfg c
      | 0x210 => c.coal.toNat
      | _ => c.next + (if c.halted then 2 else b2n c.en) * 2 ^ 16
  else
    match off with
    | 0x204 => r.baseLo.toNat
    | 0x208 => r.baseHi.toNat
    | 0x20C => sqCfg r
    | 0x210 => r.coal.toNat
    | _ => r.head + (if r.halted then 2 else b2n r.en) * 2 ^ 16

def rdDep (s : State) (rq : Requester) (off : Nat) : Nat :=
  let sel := ringSel s
  let pt := sel.2.1
  match off with
  | 0x204 | 0x208 | 0x20C | 0x210 | 0x214 => ownOnly rq pt (rdRing s pt sel.1 sel.2.2 off)
  | 0x218 => ownOnly rq pt (lget s.dep.quota pt 0)
  | 0x21C => epochCur s
  | 0x220 => s.dep.lag % 256
  | 0x224 => secOnly rq s.dep.nodes.length
  | 0x228 => ownOnly rq pt (ptUse s pt)
  | 0x22C => secOnly rq (inflight s)
  | 0x230 => ownOnly rq pt (lget s.dep.cbuf pt []).length
  | 0x234 | 0x238 | 0x23C => secOnly rq (shown s pgDep off)
  | _ => shown s pgDep off

/-! ### SEQ (R87, R122, R174) -/

/-- PARENT_KIND, PARENT_GEN and PARENT of a context. -/
def parentCode : Parent → Nat × Nat × Nat
  | .none => (0, 0, 0)
  | .seq id => (1, 0, id)
  | .handle h gen => (2, gen, h)

def ctxCode : CtxState → Nat
  | .free => 0
  | .open_ => 1
  | .closing => 2

/-- Bytes 0 to 87 of a context (R87); `held`: its append lock counts as held (R459). -/
def ctxBytes (q : Nat) (c : Ctx) (held : Bool) : List Byte :=
  let p := parentCode c.parent
  toLe 3 (q + ctxCode c.state * 2 ^ 20) ++ toLe 1 (c.pt + b2n c.warmTarget * 8 + c.tierHint * 16) ++ toLe 2 c.profile ++ toLe 1 c.layers
    ++ toLe 1 c.stageTile ++ toLe 4 c.length ++ toLe 2 (c.lockRing + b2n held * 2 ^ 15) ++ toLe 2 c.lockPtr
    ++ toLe 8 c.l1Addr ++ toLe 1 p.1 ++ toLe 1 p.2.1 ++ zeros 2 ++ toLe 4 p.2.2 ++ toLe 4 c.forkLen ++ toLe 2 c.readers
    ++ toLe 2 c.epochOpen ++ toLe 8 c.openTime ++ toLe 8 c.lastAppend ++ toLe 8 c.tokensIn ++ toLe 8 c.attends ++ toLe 4 c.mutedPages
    ++ toLe 4 c.partials ++ toLe 4 c.cowCopies ++ toLe 4 c.poisonedLayers

/-- A word of the context window: 0 if the selection is not permitted or the context is FREE. -/
def ctxWindow (s : State) (rq : Requester) (i : Nat) : Nat :=
  let q := bits (s.reg pgSeq 0x238) 0 20
  let c := s.ctx q
  if c.state = .free then 0 else ownOnly rq c.pt (field (ctxBytes q c (c.lockOwner.isSome || windowBinds s q)) (4 * i) 4)

/-- The allocation cursor, which wraps to the range's first ID (R120). [DEDUCED, log 86] -/
def seqCursor (s : State) (pt : Nat) : Nat :=
  let m := s.mapOf pt
  let c := lget s.seq.cursor pt 0
  if m.seqBase ≤ c ∧ c < m.seqBase + m.seqCount then c else m.seqBase

/-- SEQ_STAGE_STAT of a tile. -/
def stageStat (s : State) (t : Nat) : Nat :=
  if t < 48 then freeGranules s t + (s.seq.stage.filter fun e => e.2.tile == t).length * 2 ^ 10 else 0

def rdSeq (s : State) (rq : Requester) (off : Nat) : Nat :=
  let pt := bits (s.reg pgSeq 0x218) 0 3
  match off with
  | 0x21C => ownOnly rq pt (s.mapOf pt).seqBase
  | 0x220 => ownOnly rq pt (s.mapOf pt).seqCount
  | 0x224 => ownOnly rq pt (seqCursor s pt)
  | 0x228 => ownOnly rq pt (s.seq.ctxs.filter fun c => c.2.pt == pt && c.2.state == .open_).length
  | 0x234 => stageStat s (bits (s.reg pgSeq 0x230) 0 6)
  | 0x240 => ownOnly rq pt (s.part pt).seedLo
  | 0x244 => ownOnly rq pt (high32 (s.part pt).seed)
  | _ => if 0x300 ≤ off ∧ off < 0x400 then ctxWindow s rq ((off - 0x300) / 4) else shown s pgSeq off

/-! ### CHN, BLW, HBC (R151, R294, R295) -/

def rdChn (s : State) (off : Nat) : Nat :=
  let pt := bits (s.reg pgChn 0x20C) 0 3
  let b := s.bank (bits (s.reg pgChn 0x240) 0 3)
  match off with
  | 0x218 => shown s pgChn off + b2n (lget s.chn.saltSrc pt false) * 2 ^ 12
  | 0x21C => dirUse s pt
  | 0x244 => (b.cfgNext.getD b.cfg).toNat
  | 0x248 => bankStat b
  | _ => shown s pgChn off

def rdBlw (s : State) (rq : Requester) (off : Nat) : Nat :=
  let m := bits (s.reg pgBlw 0x200) 0 4
  let pt := bits (s.reg pgBlw 0x214) 0 3
  let cpn := s.reg64 pgBlw 0x234
  match off with
  | 0x210 => t1Free s m (2 ^ 32 - 1)
  | 0x218 => ownOnly rq pt (ptFree s pt)
  | 0x21C => ownOnly rq pt (keptPages s pt)
  | 0x220 | 0x224 | 0x228 => ownOnly rq pt (shown s pgBlw off)
  | 0x22C => s.blw.moves.length
  | 0x230 => (s.blw.queue.filter fun r => r.cls == 3).length
  | 0x23C => ownOnly rq (cpnPt cpn) (estimate s cpn)
  | 0x240 => ownOnly rq pt (tgetD s.blw.hands (handKey pt m) {}).frame
  | _ => shown s pgBlw off

def rdHbc (s : State) (m off : Nat) : Nat :=
  let h := s.hb m
  match off with
  | 0x210 => if h.excluded then 0 else hbcFrames
  | 0x214 => h.ceOuter
  | 0x218 => h.ceInner
  | 0x21C => h.ue
  | 0x220 => h.log.length + b2n h.ovf * 2 ^ 15
  | 0x228 =>
    match h.log[bits (s.reg (pgHbc m) 0x224) 0 14]? with
    | some e => e.1 + e.2 * 2 ^ 20
    | none => 0
  | _ => shown s (pgHbc m) off

/-! ### NVH, CXH (R319, R336, R337) -/

/-- The mean of a drive's last latencies in µs, saturating (R336). -/
def latUs (l : List Nat) : Nat := min (avg l / 1000) 65535

def driveStat (d : Drive) : Nat :=
  driveCode d.state + (if d.state = .refused then d.cause else 0) * 2 ^ 3 + d.width % 4 * 2 ^ 6 + b2n d.gen5 * 2 ^ 8 + b2n d.fua * 2 ^ 9
    + d.xfers.length % 64 * 2 ^ 10

/-- Slots of a drive that are in some state (R328). -/
def slotsIn (d : Drive) (p : Nat → Bool) : Nat := (d.slot.filter fun e => decide (e.1 < d.slots) && p e.2).length

def rdNvh (s : State) (rq : Requester) (off : Nat) : Nat :=
  let d := s.drive (bits (s.reg pgNvh 0x210) 0 4)
  let np := bits (s.reg pgNvh 0x22C) 0 4
  let pt := bits (s.reg pgNvh 0x22C) 4 3
  match off with
  | 0x214 => driveStat d
  | 0x218 => d.slots
  | 0x21C => d.slots - slotsIn d fun _ => true
  | 0x220 => slotsIn d (· == 2)
  | 0x224 => latUs d.readNs + latUs d.writeNs * 2 ^ 16
  | 0x230 | 0x234 => ownOnly rq pt (shown s pgNvh off)
  | 0x238 => ownOnly rq pt (shareUsed s np pt)
  | _ => shown s pgNvh off

def extStat (e : Extent) : Nat :=
  b2n e.valid + e.kind % 4 * 2 + e.pt % 8 * 2 ^ 3 + e.region % 2 ^ 20 * 2 ^ 6 + b2n e.draining * 2 ^ 26

/-- CXH_RGN_STAT of a region. -/
def rgnStat (s : State) (r : Nat) : Nat :=
  b2n (s.cxh.failed.contains r) + bitmapOf ((List.range 8).map fun p => (openVersion s p r).isSome) * 2
    + min (regionPages s r) (2 ^ 23 - 1) * 2 ^ 9

def rdCxh (s : State) (off : Nat) : Nat :=
  let port := bits (s.reg pgCxh 0x200) 0 1
  let c := s.cport port
  let e := extAt s port (bits (s.reg pgCxh 0x210) 0 12)
  let k := lget s.cxh.ckpt (bits (s.reg pgCxh 0x230) 0 3) {}
  match off with
  | 0x204 => cxhPortStat c
  | 0x208 => (c.exts.filter (·.valid)).length
  | 0x214 => (e.map extStat).getD 0
  | 0x218 => (e.map (·.size)).getD 0
  | 0x22C => rgnStat s (bits (s.reg pgCxh 0x224 (bits (s.reg pgCxh 0x220) 0 8)) 0 20)
  | 0x23C => k.state + k.gen % 2 ^ 29 * 2 ^ 3
  | _ => shown s pgCxh off

/-! ### FAB (R469) -/

def discStat (d : Disc) : Nat := d.state % 4 + d.levels % 16 * 2 ^ 4 + d.ids.length % 2 ^ 13 * 2 ^ 8 + min d.unassigned 2047 * 2 ^ 21

def fabPortStat (s : State) (x : Nat) : Nat :=
  let base := b2n (bit (appliedRoutes s).portUp x) + b2n (s.fab.disc.parent == some x) * 2
  match tget s.fab.disc.neigh x with
  | some p => base + p.id % 4096 * 2 ^ 2 + b2n p.idValid * 2 ^ 14 + p.port % 8 * 2 ^ 15
  | none => base

def qpCode : QpState → Nat
  | .reset => 0
  | .ready => 1
  | .error => 2

def keyCode : KeyState → Nat
  | .free => 0
  | .valid => 1
  | .revoking => 2

/-- The registers of the selected queue pair. -/
def rdQp (s : State) (off : Nat) : Nat :=
  let q := qpSel s
  let c := s.qp q
  match off with
  | 0x23C => c.pd + c.peerDev * 2 ^ 8 + c.peerPt * 2 ^ 20
  | 0x240 => c.peerQpn
  | _ => qpCode c.state + b2n (s.fab.cached.contains q) * 2 ^ 2 + c.reqs.length % 32 * 2 ^ 3 + c.rq.length % 128 * 2 ^ 8

/-- The registers of the selected key. -/
def rdKey (s : State) (off : Nat) : Nat :=
  let i := keySel s
  let k := s.key i
  match off with
  | 0x264 => k.pd + b2n k.write * 2 ^ 8 + k.layerFirst * 2 ^ 9 + k.layers * 2 ^ 17
  | 0x268 => low32 k.cpn
  | 0x26C => bits k.cpn 32 8
  | 0x270 => k.span
  | 0x274 => k.seq
  | 0x27C => keyCode k.state + k.err % 8 * 2 ^ 2 + k.inflight % 2048 * 2 ^ 5 + k.gen % 256 * 2 ^ 16
  | _ => if k.state = .free then 0 else i % 4096 + k.gen % 256 * 2 ^ 12 + k.check % 4096 * 2 ^ 20

def rdFab (s : State) (rq : Requester) (off : Nat) : Nat :=
  match off with
  | 0x208 => discStat s.fab.disc
  | 0x20C => low32 s.sec.serial
  | 0x210 => high32 s.sec.serial
  | 0x220 => fabPortStat s (bits (s.reg pgFab 0x21C) 0 3)
  | 0x228 | 0x22C => ownOnly rq (bits (s.reg pgFab 0x224) 0 3) (shown s pgFab off)
  | 0x23C | 0x240 | 0x248 => if maySelectQp s rq then rdQp s off else 0
  | 0x250 | 0x254 | 0x258 | 0x25C =>
    if rq.secure ∨ pdPt s (bits (s.reg pgFab 0x24C) 0 8) = some rq.pt then shown s pgFab off else 0
  | 0x264 | 0x268 | 0x26C | 0x270 | 0x274 | 0x27C | 0x280 => if maySelectKey s rq then rdKey s off else 0
  | 0x284 => s.fab.miss.length
  | 0x288 => s.fab.drop
  | _ => shown s pgFab off

/-! ### DMA (R378) -/

def chanCode : ChState → Nat
  | .idle => 0
  | .running => 1
  | .waiting => 2
  | .stopping => 3
  | .stopped => 4
  | .error => 5
  | .fencing => 6

/-- The registers of a channel. -/
def rdChan (s : State) (c off : Nat) : Nat :=
  let x := s.chan c
  match off with
  | 0x210 => x.count
  | 0x218 => chanCode x.state + x.err % 8 * 2 ^ 3 + x.pend % 256 * 2 ^ 6 + b2n x.ovr * 2 ^ 14
  | 0x224 => x.dpos
  | 0x228 => x.buf.length
  | _ => shown s pgDma off

def rdDma (s : State) (rq : Requester) (off : Nat) : Nat :=
  match off with
  | 0x200 => shown s pgDma off
  | 0x230 => bitmapOf ((List.range 32).map fun c => maySelectChan s rq c && (s.chan c).irq)
  | 0x234 => bitmapOf ((List.range 32).map fun c => maySelectChan s rq (32 + c) && (s.chan (32 + c)).irq)
  | _ => if maySelectChan s rq (chanSel s) then rdChan s (chanSel s) off else 0

/-! ### CNT, SNP, REC (R354, R514, R526) -/

def rdCnt (s : State) (rq : Requester) (off : Nat) : Nat :=
  match off with
  | 0x218 | 0x21C | 0x220 => ownOnly rq (bits (s.reg pgCnt 0x214) 0 3) (shown s pgCnt off)
  | 0x224 => s.cnt.errLost
  | _ => shown s pgCnt off

def rdSnp (s : State) (off : Nat) : Nat :=
  match off with
  | 0x20C => s.snp.lastId % 256 + s.snp.lastSrc % 16 * 2 ^ 8
  | 0x210 => low32 s.snp.lastTime
  | 0x214 => high32 s.snp.lastTime
  | 0x218 => (snapPages.filter fun n => (s.page n).snap.isSome).length
  | 0x21C => s.snp.missed
  | _ => shown s pgSnp off

def rdRec (s : State) (off : Nat) : Nat :=
  match off with
  | 0x214 => s.rec_.state
  | 0x218 => low32 s.rec_.segNo
  | 0x21C => s.rec_.lost
  | 0x228 => s.rec_.replay
  | 0x22C => low32 ((s.rec_.div.map (·.1)).getD 0)
  | 0x230 => low32 ((s.rec_.div.map (·.2)).getD 0)
  | _ => shown s pgRec off

/-! ### JLK, TSC, TIL (R255, R413, R437, R510) -/

/-- JLK_LANE_STAT of a logical lane. [DEDUCED, log 92] -/
def laneStat (s : State) (l : Jlk) (i : Nat) : Nat :=
  let ucw := laneWindow s l i
  lget l.lanePhys i 0 + b2n (lget l.laneInv i false) * 2 ^ 3 + b2n (bit l.passed i) * 2 ^ 4 + lget l.laneSnr i 0 % 256 * 2 ^ 8
    + min ucw 65535 * 2 ^ 16

/-- Receive credits of a channel not yet consumed (R396). -/
def rxFree (l : Jlk) (c : Nat) : Nat := (if c = 4 then 64 else 2048) + lget l.rxSent c 0 - lget l.rxUsed c 0

def rdJlk (s : State) (rq : Requester) (p off : Nat) : Nat :=
  let l := s.link p
  let c := bits (s.reg (pgJlk p) 0x228) 0 3
  match off with
  | 0x208 => jlkStat l
  | 0x20C => secOnly rq (l.kgenRx % 256)
  | 0x214 => secOnly rq (laneStat s l (bits (s.reg (pgJlk p) 0x210) 0 3))
  | 0x218 => secOnly rq l.fecCorr
  | 0x21C => secOnly rq l.fecUncorr
  | 0x220 => secOnly rq (l.replayCnt % 65536 + l.recoverCnt % 65536 * 2 ^ 16)
  | 0x224 => secOnly rq l.authFail
  | 0x22C => secOnly rq (creditsLeft l c % 65536 + rxFree l c % 65536 * 2 ^ 16)
  | _ => secOnly rq (shown s (pgJlk p) off)

def colourCode : Colour → Nat
  | .green => 0
  | .yellow => 1
  | .red => 2
  | .none => 3

/-- Does the queue hold the turn of its band (R421)? -/
def holdsTurn (t : Tsc) (q : Nat) : Bool := (List.range 4).any fun b => lget t.hold b false && lget t.cur b 63 == q

def queueStat (t : Tsc) (q : Nat) : Nat :=
  let e := lget t.qs q {}
  e.frames.length + colourCode e.colour * 2 ^ 9 + e.eband * 2 ^ 11 + b2n e.elig * 2 ^ 13 + b2n e.vcBlock * 2 ^ 14
    + b2n e.gateBlock * 2 ^ 15 + b2n e.shapeBlock * 2 ^ 16 + b2n e.redBlock * 2 ^ 17 + b2n (holdsTurn t q) * 2 ^ 18

/-- The registers of queue q. -/
def rdQueue (t : Tsc) (q off : Nat) : Nat :=
  let e := lget t.qs q {}
  match off with
  | 0x204 => queueStat t q
  | 0x208 => low32 (e.frames.map fun f => frameLen f.frame).sum
  | 0x20C => e.deficit % 2 ^ 19
  | 0x210 => ((e.credit / 1000) % 2 ^ 32).toNat
  | 0x214 => e.tc / 1000 % 2 ^ 24
  | _ => e.tx / 1000 % 2 ^ 24

def rdTsc (s : State) (rq : Requester) (p off : Nat) : Nat :=
  let t := schedSync (s.sched p) s.time
  let q := bits (s.reg (pgTsc p) 0x200) 0 6
  let take := (t.pending.map (·.2)).getD 0
  match off with
  | 0x200 => shown s (pgTsc p) off
  | 0x204 | 0x208 | 0x20C | 0x210 | 0x214 | 0x218 => ownOnly rq (queueCfg t q).pt (rdQueue t q off)
  | 0x21C => gateStat t
  | 0x220 => low32 take
  | 0x224 => high32 take
  | 0x228 => low32 (gatesOpen t s.time)
  | 0x22C => high32 (gatesOpen t s.time)
  | 0x230 => b2n t.cfg.compat + t.cfg.ovh % 256 * 2 ^ 8
  | _ => shown s (pgTsc p) off

def rdTil (s : State) (rq : Requester) (t off : Nat) : Nat :=
  let pt := tileOwner s.appliedMap t
  match off with
  | 0x600 => ownOnly rq pt (shown s (pgTil t) off)
  | 0x604 => ownOnly rq pt (warmStat s t)
  | 0x608 => ownOnly rq pt (low32 (s.tile t).stall)
  | _ => shown s (pgTil t) off

/-! ### A page's areas (R342, R346, R351, R507) -/

/-- A register of the block area, for a requester that reaches the page. -/
def rdBlock (s : State) (rq : Requester) (page off : Nat) : Nat :=
  let i := pageInst page
  match pageType page with
  | 1 => rdGlb s off
  | 2 => rdClk s off
  | 3 => rdPwr s off
  | 4 => rdSec s rq off
  | 5 => rdDep s rq off
  | 6 => rdSeq s rq off
  | 7 => rdChn s off
  | 8 => rdBlw s rq off
  | 9 => rdNvh s rq off
  | 10 => rdCxh s off
  | 11 => rdFab s rq off
  | 12 => rdDma s rq off
  | 13 => rdCnt s rq off
  | 14 => rdSnp s off
  | 15 => rdRec s off
  | 16 => rdHbc s i off
  | 17 => rdJlk s rq i off
  | 18 => rdTsc s rq i off
  | 19 => rdTil s rq i off
  | _ => 0

/-- BLK_CAP0: the snapshot words and the counters of the block. -/
def blkCap0 (s : State) (page : Nat) : Nat :=
  (if pageType page = 0x14 then 0 else (snapWords s page).length) + numCounters (pageType page) * 2 ^ 6

/-- The common header (R346). -/
def rdHeader (s : State) (page off : Nat) : Nat :=
  let p := s.page page
  match off with
  | 0x00 => pageType page + pageInst page * 2 ^ 8
  | 0x04 => 0x100
  | 0x08 => blkCap0 s page
  | 0x1C => b2n (s.boot.stage != 0) + b2n p.snap.isSome * 2 + b2n p.log.isSome * 4
  | 0x20 => p.irqStat
  | 0x24 => p.irqEn
  | 0x28 => errLog0 p
  | 0x2C => (p.log.map fun l => l.offset + l.detail * 2 ^ 16).getD 0
  | 0x30 => (p.log.map fun l => b2n l.secure + l.pt * 2 + l.src * 2 ^ 4).getD 0
  | 0x34 => (p.log.map (·.time)).getD 0
  | 0x38 => blkWorld p
  | _ => 0

/-- The snapshot area (R351). -/
def rdSnap (s : State) (page off : Nat) : Nat :=
  match (s.page page).snap with
  | none => 0
  | some n =>
    match off with
    | 0x100 => 1 + n.id % 256 * 2 ^ 8 + n.src % 16 * 2 ^ 16
    | 0x104 => low32 n.time
    | 0x108 => high32 n.time
    | 0x10C => n.skew % 64
    | _ => if 0x110 ≤ off then low32 (lget n.words ((off - 0x110) / 4) 0) else 0

/-- The counter area: counter i at 0x800 + 8i (R507). -/
def rdCounter (s : State) (page off : Nat) : Nat :=
  let i := (off - 0x800) / 8
  let v := if (counterIdx (pageType page)).contains i then counterValue s page i else 0
  if off % 8 = 0 then low32 v else high32 v

/-- The areas of a page (R342). -/
inductive Area where
  | ident | header | snap | counter | block
  deriving DecidableEq, Repr

def areaOf (off : Nat) : Area :=
  if off < 0x18 then .ident
  else if off < 0x100 then .header
  else if off < 0x200 then .snap
  else if 0x800 ≤ off ∧ off < 0x1000 then .counter
  else .block

/-- The partition that owns a page: a tile's, or its own doorbell page's (R342); 15 for none. [DEDUCED, log 93] -/
def pageOwner (s : State) (page : Nat) : Nat :=
  match pageType page with
  | 0x13 => tileOwner s.appliedMap (pageInst page)
  | 0x14 => pageInst page
  | _ => 15

/-- The GLB registers that stay readable whatever SECURE holds (R342, R350): three for every requester, the time for all but the
management channel. -/
def glbOpen (rq : Requester) (page off : Nat) : Bool :=
  page == pgGlb && ([0x200, 0x204, 0x208].contains off || (decide (rq.src < 4) && [0x20C, 0x210].contains off))

/-- May the requester read an offset of a page (R341, R342, R350)? [DEDUCED, log 93] -/
def mayReadReg (s : State) (rq : Requester) (page off : Nat) : Bool :=
  if glbOpen rq page off then true
  else if 4 ≤ rq.src then false
  else if rq.secure then true
  else if (s.page page).secure then false
  else
    let owns := pageOwner s page == rq.pt
    match areaOf off with
    | .ident => true
    | .header => owns
    | .snap => false
    | .counter => owns && bit (s.reg pgGlb 0x214) rq.pt
    | .block => pageType page != 0x14 || owns

/-- A register's value, for a requester that may read it. [DEDUCED, log 92] -/
def readValue (s : State) (rq : Requester) (page off : Nat) : Nat :=
  match areaOf off with
  | .ident | .header => rdHeader s page off
  | .snap => if pageType page = 0x14 then 0 else rdSnap s page off
  | .counter => rdCounter s page off
  | .block => rdBlock s rq page off

end Sys2Proof.Machine
end

