-- ==== Sys2Proof/Machine/RegWrite.lean ====
section
/-!
DEFINITION. What a register write does, page by page: the rule of each register that has one of its own, and for every other one the
write of its fields (R16, R17). A register with a row of its own in the opcode table is written by the same operation as that row's.
-/

namespace Sys2Proof.Machine

/-- Write the stored register that the page's selector shows. [DEDUCED, log 91] -/
def store (s : State) (rq : Requester) (page off w : Nat) : State := storeFields s rq page off (bankOf s (pageType page) off) w

/-- Does a register hold read-only fields alone, so that a write has no effect (R16)? -/
def readOnly (page off : Nat) : Bool := (findReg (pageType page) off).any fun r => r.fields.all fun f => f.acc == .ro

/-- A write that only the secure world makes, of a stored register. [DEDUCED, log 91] -/
def secStore (s : State) (rq : Requester) (page off w : Nat) : State :=
  if readOnly page off then guarded s rq page off id else secureOnly s rq page off fun s => store s rq page off w

/-- A write under a selector's rule: one that is not permitted is ignored (R44). -/
def ifMay (may : Bool) (s : State) (f : State → State) : State := if may then f s else s

/-- May the requester use what a selector shows for a partition? -/
def owns (rq : Requester) (pt : Nat) : Bool := rq.secure || rq.pt == pt

/-! ### GLB, CLK, PWR -/

def wrGlb (s : State) (rq : Requester) (off w : Nat) : State :=
  match off with
  | 0x228 => secureAlways s rq pgGlb off fun s => if bit w 0 then coldFrom s 4 else if bit w 1 then warmWrite s rq else s
  | 0x22C => secureOnly s rq pgGlb off fun s => portResetWrite s rq w
  | _ => secStore s rq pgGlb off w

def wrClk (s : State) (rq : Requester) (off w : Nat) : State :=
  secureOnly s rq pgClk off fun s =>
    match off with
    | 0x204 => writeSsc s rq w
    | 0x214 => tileAll s rq w
    | _ => store s rq pgClk off w

/-- UV and OV of the selected rail clear where a 1 is written. -/
def clearRail (s : State) (w : Nat) : State :=
  let r := bits (s.reg pgPwr 0x218) 0 4
  { s with pwr := { s.pwr with uv := lmod s.pwr.uv r fun b => b && !bit w 22, ov := lmod s.pwr.ov r fun b => b && !bit w 23 } }

def wrPwr (s : State) (rq : Requester) (off w : Nat) : State :=
  secureOnly s rq pgPwr off fun s =>
    match off with
    | 0x200 => writeLimit s rq w
    | 0x210 => writePtCeil s rq w
    | 0x21C => clearRail s w
    | _ => store s rq pgPwr off w

/-! ### SEC (R498, R499, R575) -/

/-- The bases of the device structures in use: a base register that is not 0, of a unit that is enabled. -/
def structBases (s : State) : List Nat :=
  let dir := if bit (s.reg pgChn 0x208) 0 then [(dirTable s).1] else []
  let slots := if bit (s.reg pgNvh 0x200) 0 then [s.reg64 pgNvh 0x208] else []
  let err := (List.range 12).map fun m => s.reg64 (pgHbc m) 0x208
  ([(ctxTable s).1, (locTable s).1, (profTable s).1, (qpcTable s).1, s.reg64 pgFab 0x214] ++ dir ++ slots ++ err).filter (· != 0)

/-- Does an HBM address lie in a region-table entry's range? -/
def entryHolds (e : Nat × Nat × Nat) (a : Nat) : Bool :=
  decide (hbmFrame (bits e.1 0 4) e.2.1 ≤ a ∧ a < hbmFrame (bits e.1 0 4) (e.2.2 + 1))

/-- Do two VALID entries overlap? -/
def entriesMeet (a b : Nat × Nat × Nat) : Bool :=
  bit a.1 5 && bit b.1 5 && bits a.1 0 4 == bits b.1 0 4 && decide (a.2.1 ≤ b.2.2 ∧ b.2.1 ≤ a.2.2)

/-- A write of a region-table entry: refused while the entry is VALID and holds the base of a structure in use, or where the entry
would overlap another. -/
def writeRegion (s : State) (rq : Requester) (off w : Nat) : State :=
  let i := bits (s.reg pgSec 0x220) 0 4
  let old := rgnEntry s i
  if bit old.1 5 ∧ (structBases s).any (entryHolds old) then logErr s pgSec 0x06 0 off 0 rq
  else
    storeIf s rq pgSec off i w fun v =>
      let e := if off = 0x224 then (v, old.2.1, old.2.2) else if off = 0x228 then (old.1, v, old.2.2) else (old.1, old.2.1, v)
      (List.range 16).all fun j => j == i || !entriesMeet e (rgnEntry s j)

def wrSec (s : State) (rq : Requester) (off w : Nat) : State :=
  secureOnly s rq pgSec off fun s =>
    match off with
    | 0x210 => scrubStart s rq w
    | 0x224 | 0x228 | 0x22C => writeRegion s rq off w
    | _ => store s rq pgSec off w

/-! ### DEP (R36, R44, R81) -/

/-- A write of a ring's base, which an enabled ring does not take (R36). -/
def writeRingBase (s : State) (rq : Requester) (off w : Nat) : State :=
  let sel := ringSel s
  let g := sel.2.1 * 256 + sel.1
  let en := if sel.2.2 then (s.cplRing sel.2.1 sel.1).en else (s.subRing g).en
  let v := BitVec.ofNat 32 w
  if off = 0x204 ∧ w % 4096 ≠ 0 then logErr s pgDep 0x02 0 off 0 rq
  else if en ∧ rdRing s sel.2.1 sel.1 sel.2.2 off ≠ v.toNat then logErr s pgDep 0x05 0 off 0 rq
  else if sel.2.2 then
    s.setCplRing sel.2.1 sel.1 fun c => if off = 0x204 then { c with baseLo := v } else { c with baseHi := v }
  else s.setSubRing g fun r => if off = 0x204 then { r with baseLo := v } else { r with baseHi := v }

/-- DEP_RING_COAL. -/
def writeCoal (s : State) (w : Nat) : State :=
  let sel := ringSel s
  let v := BitVec.ofNat 32 w
  if sel.2.2 then s.setCplRing sel.2.1 sel.1 fun c => { c with coal := v }
  else s.setSubRing (sel.2.1 * 256 + sel.1) fun r => { r with coal := v }

/-- DEP_PT_QUOTA of the selected partition. [DEDUCED, log 93] -/
def writeQuota (s : State) (rq : Requester) (w : Nat) : State :=
  let q := w % 2 ^ 17
  if q < 4096 ∨ 65536 < q then logErr s pgDep 0x02 0 0x218 0 rq
  else { s with dep := { s.dep with quota := lset s.dep.quota (ringSel s).2.1 q } }

/-- [DEDUCED, log 93] -/
def wrDep (s : State) (rq : Requester) (off w : Nat) : State :=
  match off with
  | 0x234 | 0x238 => secureOnly s rq pgDep off fun s => writeStageBase s rq off w
  | 0x23C => secureOnly s rq pgDep off fun s => writeStageLen s rq w
  | _ =>
    guarded s rq pgDep off fun s =>
      let sel := ringSel s
      let may := maySelect rq sel.2.1
      let ring := may && !(sel.2.2 && decide (64 ≤ sel.1))
      match off with
      | 0x200 => store s rq pgDep off w
      | 0x204 | 0x208 => ifMay ring s fun s => writeRingBase s rq off w
      | 0x20C => ringCfgWrite s rq w
      | 0x210 => ifMay ring s fun s => writeCoal s w
      | 0x218 => ifMay may s fun s => writeQuota s rq w
      | _ => s

/-! ### SEQ, CHN, BLW, HBC -/

/-- [DEDUCED, log 103] -/
def wrSeq (s : State) (rq : Requester) (off w : Nat) : State :=
  match off with
  | 0x218 | 0x22C | 0x230 | 0x238 => guarded s rq pgSeq off fun s => store s rq pgSeq off w
  | 0x240 => secureOnly s rq pgSeq off fun s => s.setPart (bits (s.reg pgSeq 0x218) 0 3) fun p => { p with seedLo := w % 2 ^ 32 }
  | 0x244 => secureOnly s rq pgSeq off fun s => writeSeedHi s w
  | _ => secStore s rq pgSeq off w

/-- CHN_DIR_BASE_LO: aligned to the directory (R151). -/
def writeDirBase (s : State) (rq : Requester) (w : Nat) : State :=
  if w % min (64 * 2 ^ bits (s.reg pgChn 0x208) 1 5) (2 ^ 32) ≠ 0 then logErr s pgChn 0x02 0 0x200 0 rq else store s rq pgChn 0x200 w

/-- CHN_DIR_CFG: DIR_LOG2 changes only while EN = 0, and lies in 16 to 26. -/
def writeDirCfg (s : State) (rq : Requester) (w : Nat) : State :=
  let old := s.reg pgChn 0x208
  let k := bits w 1 5
  let keep := setBits w 1 5 (bits old 1 5)
  if k < 16 ∨ 26 < k then (logErr s pgChn 0x02 1 0x208 0 rq).setReg pgChn 0x208 0 (keep % 64)
  else if bit old 0 ∧ k ≠ bits old 1 5 then (logErr s pgChn 0x06 1 0x208 0 rq).setReg pgChn 0x208 0 (keep % 64)
  else s.setReg pgChn 0x208 0 (w % 64)

/-- CHN_PT_CAMQ: the eight quotas together stay within the CAM (R152). -/
def writeCamq (s : State) (rq : Requester) (w : Nat) : State :=
  let pt := bits (s.reg pgChn 0x20C) 0 3
  let others := (((List.range 8).filter (· != pt)).map fun p => s.reg pgChn 0x210 p).sum
  if 262144 < others + w % 2 ^ 19 then logErr s pgChn 0x02 0 0x210 0 rq else store s rq pgChn 0x210 w

/-- CHN_BANK_CFG: it takes effect when the bank has no pass running (R151). -/
def writeBankCfg (s : State) (rq : Requester) (w : Nat) : State :=
  let b := bits (s.reg pgChn 0x240) 0 3
  let old := ((s.bank b).cfgNext.getD (s.bank b).cfg).toNat
  let bad := bits w 1 4 < 2
  let s := if bad then logErr s pgChn 0x02 1 0x244 0 rq else s
  let v := (if bad then setBits w 1 4 (bits old 1 4) else w) % 512
  bankApply (s.setBank b fun k => { k with cfgNext := some (BitVec.ofNat 32 v) }) b

def wrChn (s : State) (rq : Requester) (off w : Nat) : State :=
  secureOnly s rq pgChn off fun s =>
    match off with
    | 0x200 => writeDirBase s rq w
    | 0x208 => writeDirCfg s rq w
    | 0x210 => writeCamq s rq w
    | 0x244 => writeBankCfg s rq w
    | _ => if 0x220 ≤ off ∧ off < 0x240 then writeSalt s rq ((off - 0x220) / 4) w else store s rq pgChn off w

/-- BLW_T1_FIRST or BLW_T1_LAST of the selected stack (R294, R575). -/
def writeT1Range (s : State) (rq : Requester) (off w : Nat) : State :=
  let m := bits (s.reg pgBlw 0x200) 0 4
  let v := w % 2 ^ 20
  let bad := bit (s.reg pgBlw 0x20C m) 0 || (s.hb m).excluded
    || (off == 0x208 && decide (v < s.reg pgBlw 0x204 m ∨ hbcFrames ≤ v))
  if bad then logErr s pgBlw 0x02 0 off 0 rq else s.setReg pgBlw off m v

def wrBlw (s : State) (rq : Requester) (off w : Nat) : State :=
  match off with
  | 0x204 | 0x208 => secureOnly s rq pgBlw off fun s => writeT1Range s rq off w
  | 0x20C => secureOnly s rq pgBlw off fun s => t1Cfg s rq w
  | 0x214 | 0x234 | 0x238 => guarded s rq pgBlw off fun s => store s rq pgBlw off w
  | _ => secStore s rq pgBlw off w

def wrHbc (s : State) (rq : Requester) (m off w : Nat) : State :=
  secureOnly s rq (pgHbc m) off fun s =>
    match off with
    | 0x220 => if bit w 15 then s.setHb m fun h => { h with ovf := false } else s
    | 0x22C => retAdd s rq m w
    | _ => store s rq (pgHbc m) off w

/-! ### NVH (R334, R337, R338) -/

/-- Do two shares of a drive meet? -/
def sharesMeet (a b : Nat × Nat) : Bool := decide (0 < a.2 ∧ 0 < b.2) && overlaps a.1 a.2 b.1 b.2

/-- NVH_SHARE_FIRST or NVH_SHARE_COUNT of the selected share: empty shares only, within the slot cap and apart from the others. -/
def writeShare (s : State) (rq : Requester) (off w : Nat) : State :=
  let i := bits (s.reg pgNvh 0x22C) 0 7
  let np := i % 16
  let share := fun (p : Nat) => (s.reg pgNvh 0x230 (np + 16 * p), s.reg pgNvh 0x234 (np + 16 * p))
  let new := if off = 0x230 then (w % 2 ^ 31, (share (i / 16)).2) else ((share (i / 16)).1, w % 2 ^ 32)
  if shareUsed s np (i / 16) ≠ 0 then logErr s pgNvh 0x06 0 off 0 rq
  else if (0 < new.2 ∧ 2 ^ bits (s.reg pgNvh 0x200) 2 5 < new.1 + new.2)
      ∨ (List.range 8).any (fun p => p != i / 16 && sharesMeet new (share p)) then logErr s pgNvh 0x02 0 off 0 rq
  else s.setReg pgNvh off i (if off = 0x230 then new.1 else new.2)

def wrNvh (s : State) (rq : Requester) (off w : Nat) : State :=
  secureOnly s rq pgNvh off fun s =>
    match off with
    | 0x200 => nvhEnable s rq w
    | 0x208 | 0x20C => if bit (s.reg pgNvh 0x200) 0 then logErr s pgNvh 0x06 0 off 0 rq else store s rq pgNvh off w
    | 0x228 =>
      let s := if bit w 0 then reinit s rq else s
      if bit w 1 then detach s else s
    | 0x230 | 0x234 => writeShare s rq off w
    | _ => store s rq pgNvh off w

/-! ### CXH (R319, R320) -/

/-- CXH_RGN_CFG: REGION keeps its value where the write repeats the region of another valid slot (R320); the rest takes effect (R17). -/
def writeRgnCfg (s : State) (rq : Requester) (w : Nat) : State :=
  let i := bits (s.reg pgCxh 0x220) 0 8
  if (List.range 256).any fun j => j != i && bit (s.reg pgCxh 0x224 j) 20 && bits (s.reg pgCxh 0x224 j) 0 20 == bits w 0 20 then
    store (logErr s pgCxh 0x02 0 0x224 0 rq) rq pgCxh 0x224 (setBits w 0 20 (bits (s.reg pgCxh 0x224 i) 0 20))
  else store s rq pgCxh 0x224 w

/-- CXH_EXT_CTRL: RELEASE, with EVAC evacuating first. -/
def writeExtCtrl (s : State) (w : Nat) : State :=
  let e := selExt s
  if ¬ bit w 0 then s else if bit w 1 then extEvac s e.1 e.2 else extDrain s e.1 e.2

/-- CXH_CKPT_CTRL: GO or RESTORE, ignored and logged while a checkpoint runs. -/
def writeCkptCtrl (s : State) (rq : Requester) (w : Nat) : State :=
  let pt := s.reg pgCxh 0x230
  if w % 4 = 0 then s
  else if ckptRuns s pt then logErr s pgCxh 0x06 0 0x238 0 rq
  else if bit w 0 then ckptStart s pt
  else ckptRestore s pt

def wrCxh (s : State) (rq : Requester) (off w : Nat) : State :=
  secureOnly s rq pgCxh off fun s =>
    match off with
    | 0x21C => writeExtCtrl s w
    | 0x224 => writeRgnCfg s rq w
    | 0x228 => rgnFormat s rq w
    | 0x238 => writeCkptCtrl s rq w
    | _ => store s rq pgCxh off w

/-! ### FAB (R469, R470) -/

/-- FAB_PT_QP of the selected partition: ranges lie apart and below 0xFFFF. -/
def writePtQp (s : State) (rq : Requester) (w : Nat) : State :=
  let pt := bits (s.reg pgFab 0x224) 0 3
  let range := fun (v : Nat) => (bits v 0 16, bits v 16 16)
  let new := range w
  if (0 < new.2 ∧ 0xFFFF < new.1 + new.2) ∨ (List.range 8).any (fun p => p != pt && sharesMeet new (range (s.reg pgFab 0x228 p))) then
    logErr s pgFab 0x02 0 0x228 0 rq
  else s.setReg pgFab 0x228 pt w

/-- FAB_QP_CFG and FAB_QP_PEER: written only in RESET. -/
def writeQp (s : State) (rq : Requester) (off w : Nat) : State :=
  let q := qpSel s
  if (s.qp q).state ≠ .reset then logErr s pgFab 0x06 0 off 0 rq
  else s.setQp q fun c =>
    if off = 0x23C then { c with pd := bits w 0 8, peerDev := bits w 8 12, peerPt := bits w 20 3 } else { c with peerQpn := bits w 0 16 }

/-- A key's registers: only while it is FREE; LAYERS is not 0. -/
def writeKey (s : State) (rq : Requester) (off w : Nat) : State :=
  let i := keySel s
  if (s.key i).state ≠ .free then logErr s pgFab 0x06 0 off 0 rq
  else
    let s := if off = 0x264 ∧ bits w 17 8 = 0 then logErr s pgFab 0x02 17 0x264 0 rq else s
    s.setKey i fun k =>
      match off with
      | 0x264 => { k with pd := bits w 0 8, write := bit w 8, layerFirst := bits w 9 8,
                          layers := if bits w 17 8 = 0 then k.layers else bits w 17 8 }
      | 0x268 => { k with cpn := k.cpn / 2 ^ 32 * 2 ^ 32 + w % 2 ^ 32 }
      | 0x26C => { k with cpn := k.cpn % 2 ^ 32 + w % 256 * 2 ^ 32 }
      | 0x270 => { k with span := w % 2 ^ 24 }
      | _ => { k with seq := w % 2 ^ 20 }

def wrFab (s : State) (rq : Requester) (off w : Nat) : State :=
  match off with
  | 0x200 | 0x214 | 0x218 | 0x22C | 0x230 | 0x234 | 0x250 => secStore s rq pgFab off w
  | 0x228 => secureOnly s rq pgFab off fun s => writePtQp s rq w
  | _ =>
    guarded s rq pgFab off fun s =>
      match off with
      | 0x204 => if bit w 0 then discGo s rq else s
      | 0x21C | 0x224 | 0x238 | 0x24C | 0x260 => store s rq pgFab off w
      | 0x23C | 0x240 => ifMay (maySelectQp s rq) s fun s => writeQp s rq off w
      | 0x244 =>
        let s := if bit w 0 then qpConnect s rq else s
        if bit w 1 then qpReset s rq else s
      | 0x254 | 0x258 | 0x25C =>
        ifMay (rq.secure || pdPt s (bits (s.reg pgFab 0x24C) 0 8) == some rq.pt) s fun s => store s rq pgFab off w
      | 0x264 | 0x268 | 0x26C | 0x270 | 0x274 => ifMay (maySelectKey s rq) s fun s => writeKey s rq off w
      | 0x278 =>
        let s := if bit w 0 then keyCreate s rq else s
        if bit w 1 then keyRevoke s rq else s
      | _ => s

/-! ### DMA (R378) -/

/-- Clear the written bits of the interrupt status of channels that the requester may select. -/
def clearChanIrq (s : State) (rq : Requester) (base w : Nat) : State :=
  (bitList w 32).foldl (fun s i => if maySelectChan s rq (base + i) then s.setChan (base + i) fun x => { x with irq := false } else s) s

/-- DESC and COUNT: not while the channel runs. A new list is fetched afresh; a new COUNT starts DPOS at 0. -/
def writeChan (s : State) (rq : Requester) (c off w : Nat) : State :=
  if chanRuns (s.chan c) then logErr s pgDma 0x06 0 off 0 rq
  else if off = 0x210 then s.setChan c fun x => { x with count := w % 2 ^ 24, dpos := 0 }
  else
    let s := store s rq pgDma off w
    let a := s.reg64 pgDma 0x208 c
    s.setChan c fun x => { x with fetchAt := a, fetched := [] }

/-- DMA_CH_CTRL: CLEAR, START and STOP of the selected channel. -/
def writeChanCtrl (s : State) (c w : Nat) : State :=
  let s := if bit w 2 then chanClear s c else s
  let s := if bit w 0 then chanStart s c else s
  if bit w 1 then chanStop s c else s

def wrDma (s : State) (rq : Requester) (off w : Nat) : State :=
  match off with
  | 0x200 => guarded s rq pgDma off fun s => store s rq pgDma off w
  | 0x204 | 0x220 => secStore s rq pgDma off w
  | 0x208 | 0x20C | 0x210 => onChan s rq off fun s c => writeChan s rq c off w
  | 0x214 => onChan s rq off fun s c => writeChanCtrl s c w
  | 0x218 => onChan s rq off fun s c => if bit w 14 then s.setChan c fun x => { x with ovr := false } else s
  | 0x21C => if s.boot.fatal then s else chanSwreq s rq w
  | 0x230 => guarded s rq pgDma off fun s => clearChanIrq s rq 0 w
  | 0x234 => guarded s rq pgDma off fun s => clearChanIrq s rq 32 w
  | _ => guarded s rq pgDma off fun s => s

/-! ### CNT, SNP, REC (R354, R514, R526) -/

/-- A comparator's registers: it compares from its counter's present value on. -/
def writeThr (s : State) (rq : Requester) (off w : Nat) : State :=
  let n := bits (s.reg pgCnt 0x228) 0 3
  let s := store s rq pgCnt off w
  { s with cnt := { s.cnt with thrLast := lset s.cnt.thrLast n (watched s n) } }

def wrCnt (s : State) (rq : Requester) (off w : Nat) : State :=
  match off with
  | 0x200 => secureOnly s rq pgCnt off fun s =>
      let s := store s rq pgCnt off w
      { s with cnt := { s.cnt with gatherAt := s.time } }
  | 0x214 => guarded s rq pgCnt off fun s => store s rq pgCnt off w
  | 0x218 | 0x21C | 0x220 => guarded s rq pgCnt off fun s =>
      ifMay (owns rq (bits (s.reg pgCnt 0x214) 0 3)) s fun s => store s rq pgCnt off w
  | 0x22C | 0x230 | 0x234 => secureOnly s rq pgCnt off fun s => writeThr s rq off w
  | _ => secStore s rq pgCnt off w

def wrSnp (s : State) (rq : Requester) (off w : Nat) : State :=
  secureOnly s rq pgSnp off fun s =>
    match off with
    | 0x204 => if bit w 0 then softTrigger s else s
    | 0x208 => if bit w 0 then relAll s else s
    | _ => store s rq pgSnp off w

def wrRec (s : State) (rq : Requester) (off w : Nat) : State :=
  secureOnly s rq pgRec off fun s =>
    match off with
    | 0x200 => writeRecCfg s rq w
    | 0x20C => writeRecPt s rq w
    | 0x220 => recAll s 0x0C (w % 2 ^ 32) []
    | 0x224 => writeReplay s rq w
    | _ => store s rq pgRec off w

/-! ### JLK, TSC, TIL, doorbells -/

def wrJlk (s : State) (rq : Requester) (p off w : Nat) : State :=
  secureOnly s rq (pgJlk p) off fun s =>
    match off with
    | 0x200 => writeJlkCfg s rq p w
    | 0x204 =>
      let s := if bit w 0 then retrainPort s p else s
      let s := if bit w 1 then downPort s p else s
      if bit w 2 then rekeyPort s p else s
    | 0x230 => if isHostPort p then store s rq (pgJlk p) off w else s
    | _ => store s rq (pgJlk p) off w

def wrTsc (s : State) (rq : Requester) (p off w : Nat) : State :=
  guarded s rq (pgTsc p) off fun s => if off = 0x200 then store s rq (pgTsc p) off w else s

def wrTil (s : State) (rq : Requester) (t off w : Nat) : State :=
  if 0x610 ≤ off ∧ off < 0x630 then (if s.boot.fatal then s else writePmcCfg s rq t ((off - 0x610) / 4) w)
  else secStore s rq (pgTil t) off w

def wrDb (s : State) (rq : Requester) (pt off w : Nat) : State :=
  if off < 0x2000 then sqDoorbell s rq pt ((off - 0x1000) / 4) (w % 65536) else cqDoorbell s rq pt ((off - 0x2000) / 4) (w % 65536)

/-! ### A page -/

/-- The block area: the write goes to a register that the page's chapter places there. -/
def wrBlock (s : State) (rq : Requester) (page off w : Nat) : State :=
  let i := pageInst page
  if (findReg (pageType page) off).isNone then s
  else
    match pageType page with
    | 1 => wrGlb s rq off w
    | 2 => wrClk s rq off w
    | 3 => wrPwr s rq off w
    | 4 => wrSec s rq off w
    | 5 => wrDep s rq off w
    | 6 => wrSeq s rq off w
    | 7 => wrChn s rq off w
    | 8 => wrBlw s rq off w
    | 9 => wrNvh s rq off w
    | 10 => wrCxh s rq off w
    | 11 => wrFab s rq off w
    | 12 => wrDma s rq off w
    | 13 => wrCnt s rq off w
    | 14 => wrSnp s rq off w
    | 15 => wrRec s rq off w
    | 16 => wrHbc s rq i off w
    | 17 => wrJlk s rq i off w
    | 18 => wrTsc s rq i off w
    | 19 => wrTil s rq i off w
    | _ => wrDb s rq i off w

/-- The common header (R346 to R350). -/
def wrHeader (s : State) (rq : Requester) (page off w : Nat) : State :=
  secureOnly s rq page off fun s =>
    match off with
    | 0x18 =>
      let s := if bit w 0 then relSnap s page else s
      if bit w 1 then relLog s page else s
    | 0x20 => irqMod s page fun p => { p with irqStat := p.irqStat - (p.irqStat &&& w) }
    | 0x24 => irqMod s page fun p => { p with irqEn := setBits w 3 5 0 % 2 ^ 32 }
    | 0x38 => writeWorld s rq page w
    | _ => s

/-- A write at an offset of a mapped page (R342, R350): to an area where the requester has no access it is refused with code 0x03; the
identification, the snapshot area and the counters have nothing to write. [DEDUCED, log 91] -/
def writePage (s : State) (rq : Requester) (page off w : Nat) : State :=
  match areaOf off with
  | .header => wrHeader s rq page off w
  | .block => if ¬ rq.secure ∧ (s.page page).secure then guarded s rq page off fun s => s else wrBlock s rq page off w
  | _ => if s.boot.fatal ∨ mayReadReg s rq page off then s else logErr s page 0x03 0 off 0 rq

end Sys2Proof.Machine
end

