-- ==== Sys2Proof/Machine/RegBus.lean ====
section
/-!
DEFINITION. The MMIO window (R14, R15, R339 to R343): where an address lies, the latch of 64-bit values, and the commands REG_WRITE,
MMIO_RD and MMIO_WR (R404).
-/

namespace Sys2Proof.Machine

/-- The page and the offset of a window address; beyond the 256 MiB window lies no page. [DEDUCED, log 92] -/
def winPage (addr : Nat) : Nat := addr / 65536
def winOff (addr : Nat) : Nat := addr % 65536

/-- An access that reaches no page is recorded by GLB (R340). -/
def unmapped (s : State) (rq : Requester) (addr : Nat) : State := if s.boot.fatal then s else logErr s pgGlb 0x04 0 (winOff addr) 0 rq

/-! ### Reads -/

/-- The low words of the 64-bit values (R15), by block type. -/
def lowWords : Nat → List Nat
  | 1 => [0x20C]
  | 4 => [0x208]
  | 5 => [0x204, 0x234]
  | 6 => [0x200, 0x208, 0x210, 0x240]
  | 7 => [0x200]
  | 8 => [0x220, 0x234]
  | 9 => [0x208]
  | 11 => [0x20C, 0x214, 0x230, 0x254, 0x268]
  | 12 => [0x208, 0x230]
  | 13 => [0x204, 0x218, 0x230]
  | 14 => [0x210]
  | 15 => [0x204]
  | 16 => [0x208]
  | 18 => [0x220, 0x228]
  | _ => []

/-- Is the register the low word of a 64-bit value? -/
def isLow (page off : Nat) : Bool :=
  match areaOf off with
  | .snap => off == 0x104
  | .counter => off % 8 == 0
  | .block => (lowWords (pageType page)).contains off
  | _ => false

/-- The latch of a requester for a high word. -/
def latchKey (rq : Requester) (off : Nat) : Nat := (off * 2 + b2n rq.secure) * 8 + rq.pt % 8

/-- What no row shows has grown since it was last read by a free value: the symbols that a decoder corrected (JLK_FEC_CORR), and the hidden
events of a block's counters. [DEDUCED, log 92] -/
def noteCorrected (s : State) (page off : Nat) : State :=
  if pageType page = 0x11 ∧ off = 0x218 then
    let d := draw s
    d.2.setLink (pageInst page) fun l => { l with fecCorr := (l.fecCorr + d.1) % 2 ^ 32 }
  else if areaOf off == .counter then growHidden s page
  else s

/-- A read at an offset of a page: 0 where the requester may not read. The read of a low word latches the high word, which the next read of
it returns. -/
def readReg (s : State) (rq : Requester) (page off : Nat) : Nat × State :=
  if ¬ mayReadReg s rq page off then (0, s)
  else
    let s := noteCorrected s page off
    match tget (s.page page).latch (latchKey rq off) with
    | some v => (v, s.setPage page fun p => { p with latch := tdel p.latch (latchKey rq off) })
    | none =>
      let v := readValue s rq page off
      if isLow page off then
        let hi := readValue s rq page (off + 4)
        (v, s.setPage page fun p => { p with latch := tset p.latch (latchKey rq (off + 4)) hi })
      else (v, s)

/-! ### The accesses -/

/-- An aligned 32-bit write of a window address. -/
def writeWindow (s : State) (rq : Requester) (addr w : Nat) : State :=
  if pageType (winPage addr) = 0 then unmapped s rq addr
  else writePage s rq (winPage addr) (winOff addr) w

/-- A read of a window address: its STATUS, its value and what it changes. -/
def readWindow (s : State) (rq : Requester) (addr size : Nat) : (Nat × Nat) × State :=
  let page := winPage addr
  if pageType page = 0 then ((0, 0), unmapped s rq addr)
  else
    if size ≠ 4 ∨ addr % 4 ≠ 0 then ((1, 0), if s.boot.fatal then s else logErr s page 0x01 0 (winOff addr) 0 rq)
    else
      let r := readReg s rq page (winOff addr)
      ((0, r.1), r.2)

/-- A write of a window address: one of another size or alignment is discarded and recorded (R14). An access meets no other in its row, so
its page's pointer stays (R343, R69). -/
def windowWrite (s : State) (rq : Requester) (addr size w : Nat) : State :=
  if pageType (winPage addr) ≠ 0 ∧ (size ≠ 4 ∨ addr % 4 ≠ 0) then
    if s.boot.fatal then s else logErr s (winPage addr) 0x01 0 (winOff addr) 0 rq
  else writeWindow s rq addr w

/-- REG_WRITE. Only a host port carries register writes. [DEDUCED, log 91] -/
def execRegWrite (req : Requester) (addr : Nat) (val : Word) (s : State) : Host.Outcome State Fault Refusal :=
  .next (if 4 ≤ req.src then s else windowWrite s req addr 4 val.toNat)

/-- MMIO_RD (R404): the answer leaves on the requester's port in its own world and partition. -/
def execMmioRd (req : Requester) (addr size tag : Nat) (s : State) : Host.Outcome State Fault Refusal :=
  .next (
    if 4 ≤ req.src then s
    else
      let s := rxConsume s req.src (isTxn .mmioRd tag)
      let r := readWindow s req addr size
      sendTxn r.2 req.src 0 req.pt req.secure
        { op := .mmioRsp, status := r.1.1, tag := tag, bytes := 4, data := if r.1.1 = 0 then toLe 4 r.1.2 else zeros 4 })

/-- Is the frame the write of this address? -/
def isMmioWr (addr : Nat) (f : Frame) : Bool :=
  match f.body with
  | .txn t => t.op == .mmioWr && t.addr == addr
  | _ => false

/-- MMIO_WR: a write of another size or alignment is discarded and recorded (R14). -/
def execMmioWr (req : Requester) (addr size : Nat) (val : Word) (s : State) : Host.Outcome State Fault Refusal :=
  .next (
    if 4 ≤ req.src then s
    else
      windowWrite (rxConsume s req.src (isMmioWr addr)) req addr size val.toNat)

end Sys2Proof.Machine
end

