-- ==== Sys2Proof/Machine/Dispatch.lean ====
section
/-!
DEFINITION. What each command does: one arm per command, each one call of the command's meaning.
-/

namespace Sys2Proof.Machine

/-- The effect of a command on everything but the queue. -/
def exec (i : Instr) (s : State) : Host.Outcome State Fault Refusal :=
  match i with
  | .nop acc => Sys2Proof.Machine.execNop acc s
  | .profileCreate acc => Sys2Proof.Machine.execProfileCreate acc s
  | .seqOpen acc => Sys2Proof.Machine.execSeqOpen acc s
  | .seqFork c => Sys2Proof.Machine.execSeqFork c s
  | .seqClose c => Sys2Proof.Machine.execSeqClose c s
  | .append acc rivals => Sys2Proof.Machine.execAppend acc rivals s
  | .flush c => Sys2Proof.Machine.execFlush c s
  | .attend acc => Sys2Proof.Machine.execAttend acc s
  | .headGather acc => Sys2Proof.Machine.execHeadGather acc s
  | .spanMerge acc => Sys2Proof.Machine.execSpanMerge acc s
  | .prefixLookup acc => Sys2Proof.Machine.execPrefixLookup acc s
  | .prefixPublish c => Sys2Proof.Machine.execPrefixPublish c s
  | .prefixRefPin acc => Sys2Proof.Machine.execPrefixRefPin acc s
  | .prefixRefUnpin acc => Sys2Proof.Machine.execPrefixRefUnpin acc s
  | .prefixRefRelease acc => Sys2Proof.Machine.execPrefixRefRelease acc s
  | .warm c => Sys2Proof.Machine.execWarm c s
  | .hint acc => Sys2Proof.Machine.execHint acc s
  | .putPage acc => Sys2Proof.Machine.execPutPage acc s
  | .getPage acc => Sys2Proof.Machine.execGetPage acc s
  | .send acc => Sys2Proof.Machine.execSend acc s
  | .postRecv acc => Sys2Proof.Machine.execPostRecv acc s
  | .regionOpen acc => Sys2Proof.Machine.execRegionOpen acc s
  | .regionPublish acc => Sys2Proof.Machine.execRegionPublish acc s
  | .regionClose acc => Sys2Proof.Machine.execRegionClose acc s
  | .regionRelease acc => Sys2Proof.Machine.execRegionRelease acc s
  | .epochCommit acc => Sys2Proof.Machine.execEpochCommit acc s
  | .fence acc => Sys2Proof.Machine.execFence acc s
  | .graphBegin ring => Sys2Proof.Machine.execGraphBegin ring s
  | .depSqDb req pt ring val => Sys2Proof.Machine.execDepSqDb req pt ring val s
  | .depCqDb req pt cq val => Sys2Proof.Machine.execDepCqDb req pt cq val s
  | .ringTurnFetch core answered => Sys2Proof.Machine.execRingTurnFetch core answered s
  | .graphAccept ring => Sys2Proof.Machine.execGraphAccept ring s
  | .nodeIssue acc => Sys2Proof.Machine.execNodeIssue acc s
  | .nodeComplete acc => Sys2Proof.Machine.execNodeComplete acc s
  | .completionPost pt cq => Sys2Proof.Machine.execCompletionPost pt cq s
  | .coalTimerExpire pt cq => Sys2Proof.Machine.execCoalTimerExpire pt cq s
  | .epochCommitMake => Sys2Proof.Machine.execEpochCommitMake s
  | .epochApply unit => Sys2Proof.Machine.execEpochApply unit s
  | .epochCommitTimeout => Sys2Proof.Machine.execEpochCommitTimeout s
  | .depRingCfg req val => Sys2Proof.Machine.execDepRingCfg req val s
  | .depStageLen req val => Sys2Proof.Machine.execDepStageLen req val s
  | .regWrite req addr val => Sys2Proof.Machine.execRegWrite req addr val s
  | .mmioRd req addr size tag => Sys2Proof.Machine.execMmioRd req addr size tag s
  | .mmioWr req addr size val => Sys2Proof.Machine.execMmioWr req addr size val s
  | .ctxFetchDone seq => Sys2Proof.Machine.execCtxFetchDone seq s
  | .allocWaitGranted acc => Sys2Proof.Machine.execAllocWaitGranted acc s
  | .allocWaitTimeout acc => Sys2Proof.Machine.execAllocWaitTimeout acc s
  | .selfFlushReserve tile => Sys2Proof.Machine.execSelfFlushReserve tile s
  | .idleFlush seq layer => Sys2Proof.Machine.execIdleFlush seq layer s
  | .mapCommitFlush tile pt => Sys2Proof.Machine.execMapCommitFlush tile pt s
  | .seqSrSeedHi req val => Sys2Proof.Machine.execSeqSrSeedHi req val s
  | .chnSalt req idx val => Sys2Proof.Machine.execChnSalt req idx val s
  | .camInsertPass bank => Sys2Proof.Machine.execCamInsertPass bank s
  | .chnBankCfgApply bank => Sys2Proof.Machine.execChnBankCfgApply bank s
  | .gatherReadDone acc unit err => Sys2Proof.Machine.execGatherReadDone acc unit err s
  | .attendDeadline acc => Sys2Proof.Machine.execAttendDeadline acc s
  | .attendComplete acc => Sys2Proof.Machine.execAttendComplete acc s
  | .collRx port msg => Sys2Proof.Machine.execCollRx port msg s
  | .collAnsRx port msg => Sys2Proof.Machine.execCollAnsRx port msg s
  | .collHoldExpire pt group opId member => Sys2Proof.Machine.execCollHoldExpire pt group opId member s
  | .collectorDeadline acc => Sys2Proof.Machine.execCollectorDeadline acc s
  | .collRetxTimeout acc => Sys2Proof.Machine.execCollRetxTimeout acc s
  | .windowLayerLoaded acc layer => Sys2Proof.Machine.execWindowLayerLoaded acc layer s
  | .kernelStepEnd tile => Sys2Proof.Machine.execKernelStepEnd tile s
  | .tileStepChange tile => Sys2Proof.Machine.execTileStepChange tile s
  | .sweepVisit pt stack => Sys2Proof.Machine.execSweepVisit pt stack s
  | .sweepT2Visit pt => Sys2Proof.Machine.execSweepT2Visit pt s
  | .sweepT0Visit tile => Sys2Proof.Machine.execSweepT0Visit tile s
  | .sketchDecay => Sys2Proof.Machine.execSketchDecay s
  | .leafIdle leaf => Sys2Proof.Machine.execLeafIdle leaf s
  | .moveStart slice => Sys2Proof.Machine.execMoveStart slice s
  | .moveBlockDone cpn => Sys2Proof.Machine.execMoveBlockDone cpn s
  | .moveConfirm cpn ok media => Sys2Proof.Machine.execMoveConfirm cpn ok media s
  | .sourceRelease cpn => Sys2Proof.Machine.execSourceRelease cpn s
  | .hbmReadDone stack offset err => Sys2Proof.Machine.execHbmReadDone stack offset err s
  | .patrolRead stack err => Sys2Proof.Machine.execPatrolRead stack err s
  | .hbcRetAdd req stack val => Sys2Proof.Machine.execHbcRetAdd req stack val s
  | .blwT1Cfg req val => Sys2Proof.Machine.execBlwT1Cfg req val s
  | .extentOffer port dc tag range => Sys2Proof.Machine.execExtentOffer port dc tag range s
  | .extentReleaseReq port index => Sys2Proof.Machine.execExtentReleaseReq port index s
  | .extentDrainEnd port index => Sys2Proof.Machine.execExtentDrainEnd port index s
  | .extentDrainTimeout port index => Sys2Proof.Machine.execExtentDrainTimeout port index s
  | .extRelease req => Sys2Proof.Machine.execExtRelease req s
  | .extReleaseEvac req => Sys2Proof.Machine.execExtReleaseEvac req s
  | .cxlMemResponse port what poison media => Sys2Proof.Machine.execCxlMemResponse port what poison media s
  | .ctrlLineGrant port grant => Sys2Proof.Machine.execCtrlLineGrant port grant s
  | .bisnpRx port kind lines => Sys2Proof.Machine.execBisnpRx port kind lines s
  | .cxlPortFail port => Sys2Proof.Machine.execCxlPortFail port s
  | .rgnFormat req val => Sys2Proof.Machine.execRgnFormat req val s
  | .ckptGo req => Sys2Proof.Machine.execCkptGo req s
  | .ckptTimer pt => Sys2Proof.Machine.execCkptTimer pt s
  | .ckptQuiesced pt => Sys2Proof.Machine.execCkptQuiesced pt s
  | .ckptWaitTimeout pt => Sys2Proof.Machine.execCkptWaitTimeout pt s
  | .ckptRestore req => Sys2Proof.Machine.execCkptRestore req s
  | .nvhEnable req flags slotLog2 => Sys2Proof.Machine.execNvhEnable req flags slotLog2 s
  | .nvmeCompletion np cid st => Sys2Proof.Machine.execNvmeCompletion np cid st s
  | .nvmeCmdTimeout np cid => Sys2Proof.Machine.execNvmeCmdTimeout np cid s
  | .nvmeAbortTimeout np cid => Sys2Proof.Machine.execNvmeAbortTimeout np cid s
  | .nvmeDriveFail np => Sys2Proof.Machine.execNvmeDriveFail np s
  | .reinit req => Sys2Proof.Machine.execReinit req s
  | .detach req => Sys2Proof.Machine.execDetach req s
  | .snapRel req page => Sys2Proof.Machine.execSnapRel req page s
  | .logRel req page => Sys2Proof.Machine.execLogRel req page s
  | .blkWorld req page val => Sys2Proof.Machine.execBlkWorld req page val s
  | .snpTrig req => Sys2Proof.Machine.execSnpTrig req s
  | .snpRelease req => Sys2Proof.Machine.execSnpRelease req s
  | .clkTileReq req val => Sys2Proof.Machine.execClkTileReq req val s
  | .clkTileAll req val => Sys2Proof.Machine.execClkTileAll req val s
  | .clkSsc req val => Sys2Proof.Machine.execClkSsc req val s
  | .dmaStart req => Sys2Proof.Machine.execDmaStart req s
  | .dmaStop req => Sys2Proof.Machine.execDmaStop req s
  | .dmaClear req => Sys2Proof.Machine.execDmaClear req s
  | .dmaChSwreq req val => Sys2Proof.Machine.execDmaChSwreq req val s
  | .dmaRequest line => Sys2Proof.Machine.execDmaRequest line s
  | .dmaDescFetch ch => Sys2Proof.Machine.execDmaDescFetch ch s
  | .dmaBeat => Sys2Proof.Machine.execDmaBeat s
  | .dmaDescDone ch => Sys2Proof.Machine.execDmaDescDone ch s
  | .dmaFenceDone ch => Sys2Proof.Machine.execDmaFenceDone ch s
  | .dmaCreditRefill => Sys2Proof.Machine.execDmaCreditRefill s
  | .jlkEn req port val => Sys2Proof.Machine.execJlkEn req port val s
  | .signalDetect port group => Sys2Proof.Machine.execSignalDetect port group s
  | .eqDone port lanes => Sys2Proof.Machine.execEqDone port lanes s
  | .eqTimeout port => Sys2Proof.Machine.execEqTimeout port s
  | .alignLock port => Sys2Proof.Machine.execAlignLock port s
  | .alignFail port => Sys2Proof.Machine.execAlignFail port s
  | .configBlockRx port blk => Sys2Proof.Machine.execConfigBlockRx port blk s
  | .linkDegrade port lane => Sys2Proof.Machine.execLinkDegrade port lane s
  | .rowLockLoss port => Sys2Proof.Machine.execRowLockLoss port s
  | .recoverDone port lanes nextRx => Sys2Proof.Machine.execRecoverDone port lanes nextRx s
  | .recoverTimeout port => Sys2Proof.Machine.execRecoverTimeout port s
  | .retrain req port => Sys2Proof.Machine.execRetrain req port s
  | .down req port => Sys2Proof.Machine.execDown req port s
  | .rekey req port => Sys2Proof.Machine.execRekey req port s
  | .codewordUncorrectable port lane => Sys2Proof.Machine.execCodewordUncorrectable port lane s
  | .jlkAckRx port next ctr authOk => Sys2Proof.Machine.execJlkAckRx port next ctr authOk s
  | .jlkNakRx port next ctr authOk => Sys2Proof.Machine.execJlkNakRx port next ctr authOk s
  | .creditRx port counts ctr authOk => Sys2Proof.Machine.execCreditRx port counts ctr authOk s
  | .keyRx port newKgen fromSeq ctr authOk => Sys2Proof.Machine.execKeyRx port newKgen fromSeq ctr authOk s
  | .dataFrameRx port frame authOk => Sys2Proof.Machine.execDataFrameRx port frame authOk s
  | .replayTimeout port => Sys2Proof.Machine.execReplayTimeout port s
  | .ackTimer port => Sys2Proof.Machine.execAckTimer port s
  | .creditTimer port => Sys2Proof.Machine.execCreditTimer port s
  | .memCpl port ans off status data => Sys2Proof.Machine.execMemCpl port ans off status data s
  | .wrAck port tag => Sys2Proof.Machine.execWrAck port tag s
  | .memRdTimeout port tag => Sys2Proof.Machine.execMemRdTimeout port tag s
  | .statusRd port sel => Sys2Proof.Machine.execStatusRd port sel s
  | .getVersion port => Sys2Proof.Machine.execGetVersion port s
  | .getCapabilities port => Sys2Proof.Machine.execGetCapabilities port s
  | .negotiateAlgorithms port => Sys2Proof.Machine.execNegotiateAlgorithms port s
  | .getDigests port => Sys2Proof.Machine.execGetDigests port s
  | .getCertificate port slot offset len => Sys2Proof.Machine.execGetCertificate port slot offset len s
  | .challenge port nonce => Sys2Proof.Machine.execChallenge port nonce s
  | .getMeasurements port index sign => Sys2Proof.Machine.execGetMeasurements port index sign s
  | .keyExchange port pub => Sys2Proof.Machine.execKeyExchange port pub s
  | .finish port verified => Sys2Proof.Machine.execFinish port verified s
  | .heartbeat port => Sys2Proof.Machine.execHeartbeat port s
  | .keyUpdate port => Sys2Proof.Machine.execKeyUpdate port s
  | .endSession port => Sys2Proof.Machine.execEndSession port s
  | .spdmUnsupported port code => Sys2Proof.Machine.execSpdmUnsupported port code s
  | .sessionTimeout port => Sys2Proof.Machine.execSessionTimeout port s
  | .provision port msg => Sys2Proof.Machine.execProvision port msg s
  | .txFrameSelect port => Sys2Proof.Machine.execTxFrameSelect port s
  | .gateEntryAdvance port => Sys2Proof.Machine.execGateEntryAdvance port s
  | .gateTakeover port => Sys2Proof.Machine.execGateTakeover port s
  | .fabForward port pkt => Sys2Proof.Machine.execFabForward port pkt s
  | .pktSendRx port pkt => Sys2Proof.Machine.execPktSendRx port pkt s
  | .pktPutRx port pkt => Sys2Proof.Machine.execPktPutRx port pkt s
  | .putLanded cpn ok => Sys2Proof.Machine.execPutLanded cpn ok s
  | .pktGetReqRx port pkt => Sys2Proof.Machine.execPktGetReqRx port pkt s
  | .pktGetDataRx port pkt => Sys2Proof.Machine.execPktGetDataRx port pkt s
  | .fabAckRx port pkt => Sys2Proof.Machine.execFabAckRx port pkt s
  | .odpHoldExpire qpn psn => Sys2Proof.Machine.execOdpHoldExpire qpn psn s
  | .qpcFetchDone qpn => Sys2Proof.Machine.execQpcFetchDone qpn s
  | .qpRetxTimeout qpn => Sys2Proof.Machine.execQpRetxTimeout qpn s
  | .probeRx port p => Sys2Proof.Machine.execProbeRx port p s
  | .discReportTimer => Sys2Proof.Machine.execDiscReportTimer s
  | .reportRx port r => Sys2Proof.Machine.execReportRx port r s
  | .discReportQuiet => Sys2Proof.Machine.execDiscReportQuiet s
  | .assignRx port a => Sys2Proof.Machine.execAssignRx port a s
  | .discTimeout => Sys2Proof.Machine.execDiscTimeout s
  | .snapPacketRx port id dev stamp => Sys2Proof.Machine.execSnapPacketRx port id dev stamp s
  | .fabDiscGo req => Sys2Proof.Machine.execFabDiscGo req s
  | .qpConnect req => Sys2Proof.Machine.execQpConnect req s
  | .qpReset req => Sys2Proof.Machine.execQpReset req s
  | .keyCreate req => Sys2Proof.Machine.execKeyCreate req s
  | .keyRevoke req => Sys2Proof.Machine.execKeyRevoke req s
  | .keyRevokeDone key => Sys2Proof.Machine.execKeyRevokeDone key s
  | .scrub req val => Sys2Proof.Machine.execScrub req val s
  | .scrubStepEnd pt => Sys2Proof.Machine.execScrubStepEnd pt s
  | .scrubSweepEnd pt tier => Sys2Proof.Machine.execScrubSweepEnd pt tier s
  | .errorEntryPost ring => Sys2Proof.Machine.execErrorEntryPost ring s
  | .deviceFatal cause => Sys2Proof.Machine.execDeviceFatal cause s
  | .counterGather => Sys2Proof.Machine.execCounterGather s
  | .pmcClr req tile n => Sys2Proof.Machine.execPmcClr req tile n s
  | .recMark req val => Sys2Proof.Machine.execRecMark req val s
  | .recSegmentDone => Sys2Proof.Machine.execRecSegmentDone s
  | .recLossRecord => Sys2Proof.Machine.execRecLossRecord s
  | .recReplay req val => Sys2Proof.Machine.execRecReplay req val s
  | .replayStep => Sys2Proof.Machine.execReplayStep s
  | .thermalDiffThrottle tile nbr => Sys2Proof.Machine.execThermalDiffThrottle tile nbr s
  | .powerSample sample => Sys2Proof.Machine.execPowerSample sample s
  | .powerEval => Sys2Proof.Machine.execPowerEval s
  | .thermalSample qdeg => Sys2Proof.Machine.execThermalSample qdeg s
  | .thermalLevelFall => Sys2Proof.Machine.execThermalLevelFall s
  | .thermalLimitStep => Sys2Proof.Machine.execThermalLimitStep s
  | .thermLevelSample => Sys2Proof.Machine.execThermLevelSample s
  | .refclkLoss => Sys2Proof.Machine.execRefclkLoss s
  | .prochotN low => Sys2Proof.Machine.execProchotN low s
  | .pwrLimit req val => Sys2Proof.Machine.execPwrLimit req val s
  | .pwrPtCeil req val => Sys2Proof.Machine.execPwrPtCeil req val s
  | .pwrOkRise => Sys2Proof.Machine.execPwrOkRise s
  | .pwrOkFall => Sys2Proof.Machine.execPwrOkFall s
  | .rstNLow => Sys2Proof.Machine.execRstNLow s
  | .rstNRise => Sys2Proof.Machine.execRstNRise s
  | .cold req => Sys2Proof.Machine.execCold req s
  | .warmReset req => Sys2Proof.Machine.execWarmReset req s
  | .glbPortRst req val => Sys2Proof.Machine.execGlbPortRst req val s
  | .fuseLoad drkOk attOk rngOk => Sys2Proof.Machine.execFuseLoad drkOk attOk rngOk s
  | .romSelfCheck match_ failed => Sys2Proof.Machine.execRomSelfCheck match_ failed s
  | .memoryFillDone => Sys2Proof.Machine.execMemoryFillDone s
  | .hostPortWaitTimeout => Sys2Proof.Machine.execHostPortWaitTimeout s
  | .attestationReady => Sys2Proof.Machine.execAttestationReady s
  | .bootStageTimeout => Sys2Proof.Machine.execBootStageTimeout s
  | .cxlPortUp port width lopt => Sys2Proof.Machine.execCxlPortUp port width lopt s
  | .nvmeLinkUp np drive => Sys2Proof.Machine.execNvmeLinkUp np drive s
  | .perstHoldEnd port => Sys2Proof.Machine.execPerstHoldEnd port s
  | .spdmResponseRx port code verified => Sys2Proof.Machine.execSpdmResponseRx port code verified s
  | .heartbeatSend port => Sys2Proof.Machine.execHeartbeatSend port s

end Sys2Proof.Machine
end

