-- ==== Sys2Proof/Safety.lean ====
section
/-!
DEFINITION. The terms in which statements about runs are made: a safe step, and what reporting may change.
-/

namespace Sys2Proof.Machine

/-- Every memory of the state is in its canonical form. -/
def State.memsWf (s : State) : Bool :=
  s.mems.hbm.wf && s.mems.host.wf && s.mems.pool.wf && s.mems.flash.wf && s.mems.spad.wf

end Sys2Proof.Machine

namespace Sys2Proof.Safety

open Sys2Proof.Machine

/-- One step of the block from s answers a next state. -/
def Safe (s : State) : Prop := ∃ t, step s = .next t

/-- The command of acceptance number `acc` has ended with an outcome, which NODE_COMPLETE will report. -/
abbrev Ended (t : State) (acc : Nat) (c : Comp) : Prop := (t.node acc).bind (·.outcome) = some c

/-- Every leaf of the location directory stands in T1, none in T2 and none moving (R261). -/
abbrev LeavesHome (s : State) : Prop := s.blw.leaves.all (fun f => !(f.2.inT2 || f.2.moving)) = true

/-- A command that needs the append lock of sequence q may begin: its checks hold, the sequence's context is in the cache and lies in a class 0
range, no command holds the lock, and no leaf of the location directory is away. -/
abbrev LockReady (s : State) (n : Node) (q : Nat) : Prop :=
  LeavesHome s ∧ beginCheck s n = none ∧ s.seq.cached.contains q = true ∧ (s.ctx q).lockOwner = none ∧ windowBinds s q = false ∧
    inClass s 0 ((ctxTable s).1 + 256 * q) 256 = true

/-- Can the command reset the device (R567): a pin of reset or power, or a write of GLB_RST_CTRL? -/
def isReset : Instr → Bool
  | .cold _ | .warmReset _ | .pwrOkRise | .pwrOkFall | .rstNLow | .rstNRise => true
  | .regWrite _ a _ | .mmioWr _ a _ _ => a == pgGlb * 65536 + 0x228
  | _ => false

/-- From s to t the block has at most reported: page headers, counters and error buffers, snapshots, the recorder with the memory its
ring lies in, DMA request lines, frames handed to the schedulers, and free values may have changed; everything that commands act on is
as it was. -/
structure Reports (s t : State) : Prop where
  pending : t.pending = s.pending
  time : t.time = s.time
  phase : t.phase = s.phase
  regs : t.regs = s.regs
  ptrs : t.ptrs = s.ptrs
  host : t.mems.host = s.mems.host
  pool : t.mems.pool = s.mems.pool
  flash : t.mems.flash = s.mems.flash
  spad : t.mems.spad = s.mems.spad
  badLines : t.mems.badLines = s.mems.badLines
  ckpts : t.mems.ckpts = s.mems.ckpts
  boot : t.boot = s.boot
  clk : t.clk = s.clk
  pwr : t.pwr = s.pwr
  sec : t.sec = s.sec
  dep : t.dep = s.dep
  seq : t.seq = s.seq
  chn : t.chn = s.chn
  att : t.att = s.att
  warm : t.warm = s.warm
  tiles : t.tiles = s.tiles
  blw : t.blw = s.blw
  hbc : t.hbc = s.hbc
  nvh : t.nvh = s.nvh
  cxh : t.cxh = s.cxh
  fab : t.fab = s.fab
  jlk : t.jlk = s.jlk

/-- From s to t a register error of a page was logged (R348): the block has at most reported, and a log that was empty holds the code. -/
def Logged (s t : State) (page code : Nat) : Prop :=
  Reports s t ∧ ((s.page page).log = none → (t.page page).log.map (·.code) = some code)

/-- What a hand's visit of a page leaves (R265, R266): `g` and `g'` are its protected counts before and after, `dest` is the tier that the spill goes
to and `cls` the class of its move. A kept page is left alone; one with AGE below SPILL_AGE ages; a hot one is protected while the count
allows it; any other is queued for its move, or stays where no tier qualifies. -/
def Visited (s t : State) (cpn g g' : Nat) (dest : Option Tier) (cls : Nat) : Prop :=
  let e := s.loc cpn
  let p := ptPolicy s (cpnPt cpn)
  (∀ c, c ≠ cpn → t.loc c = s.loc c) ∧ t.seq.rows = s.seq.rows ∧ (s.rec_.running = [] → t.mems = s.mems) ∧
  if e.age = 0xFE then t.loc cpn = e ∧ t.blw.queue = s.blw.queue ∧ g' = g
  else if e.age ≠ 0xFF ∧ e.age < p.spillAge then
    t.loc cpn = { e with age := min (e.age + 1) 0xFD } ∧ t.blw.queue = s.blw.queue ∧ g' = g
  else if e.age ≠ 0xFF ∧ p.hotKeep ≤ estimate s cpn ∧ g < (blwPolicy s).hotSkipMax then
    t.loc cpn = { e with age := 0 } ∧ t.blw.queue = s.blw.queue ∧ g' = g + 1
  else t.loc cpn = e ∧ g' = 0 ∧
    match dest with
    | none => t.blw.queue = s.blw.queue
    | some d => ∃ r, t.blw.queue = s.blw.queue ++ [r] ∧ r.cpn = cpn ∧ r.kind = .page d ∧ r.cls = cls

end Sys2Proof.Safety
end

