-- ==== Sys2Proof/Certificates/Slice0/Obligations.lean ====
section
/-! DEFINITION. The statements about the model, one definition each, for the provers. Every one is about every state and every operand that meets
its hypotheses. A docstring names the rules of the spec that a statement formalises; where it names a log entry, that point is the model's own
choice. In a statement of several parts, each part has its own sentence and rules. `exec c s = .next t` says that the command completes. -/

open Sys2Proof Sys2Proof.Machine Sys2Proof.Safety

/-! ### The block as a whole -/

/-- A step takes the command at the front of the queue and runs it with the queue's rest (log 11); on an empty queue one cycle of the reference clock
passes (R356; that a step without a command is such a cycle is the model's choice, log 2): the time base advances by 6, 7, 6, 7, 6 ns in five
successive cycles. While the reference clock is lost nothing moves (R557). -/
def Obligations.StepTakesFront : Prop :=
  (∀ (s : State) (c : Instr) (cs : List Instr), s.pending = c :: cs → step s = exec c { s with pending := cs }) ∧
  (∀ (s : State), s.pending = [] → s.clk.refOk = true → ∃ t, step s = .next t ∧ t.phase = (s.phase + 1) % 5 ∧ t.pending = [] ∧
    t.time = s.time + (if s.phase % 5 = 1 ∨ s.phase % 5 = 3 then 7 else 6) ∧ t.dep = s.dep ∧ t.seq = s.seq ∧ t.mems.host = s.mems.host) ∧
  (∀ (s : State), s.pending = [] → s.clk.refOk = false → step s = .next s)

/-- The state after reset (after R44, R350, R355, R474): GLB, CLK, PWR and SEC are SECURE and locked and no other page is; DEP_EPOCH_CUR reads 0 with PREV
0xFFFF; every ring is disabled with SIZE_LOG2 4; every partition is EMPTY; no sequence, page, key or counter holds anything; GLB_DEV_ID is not valid. -/
def Obligations.ResetValues : Prop :=
  (∀ n, (State.reset.page n).secure = decide (n < 4) ∧ (State.reset.page n).lock = decide (n < 4) ∧ (State.reset.page n).log = none ∧
    (State.reset.page n).snap = none) ∧ State.reset.dep.epoch = 0 ∧ State.reset.dep.prev = 0xFFFF ∧ State.reset.dep.lag = 0 ∧
  (∀ r, (State.reset.subRing r).en = false ∧ (State.reset.subRing r).sizeLog2 = 4) ∧ (∀ p c, (State.reset.cplRing p c).en = false) ∧
  (∀ p, (State.reset.part p).state = .empty) ∧ (∀ q, (State.reset.ctx q).state = .free) ∧ (∀ c, (State.reset.loc c).state = .free) ∧
  (∀ k, (State.reset.key k).state = .free) ∧ (∀ p i pt, counterOf State.reset p i pt = 0) ∧ State.reset.fab.idValid = false ∧
  State.reset.pending = [] ∧ State.reset.memsWf = true

/-- From a device-fatal error no step leads but a reset (R506): whatever command runs, unless it is a reset (a pin of reset or power, or a write of
GLB_RST_CTRL), the device stays in the state in which GLB_BOOT_STAT reads STAGE 0xF and CODE 0x70. -/
def Obligations.FatalIsLeftOnlyByReset : Prop :=
  ∀ (s t : State), step s = .next t → s.boot.fatal = true → bootStat s = 0xF + 0x70 * 2 ^ 8 →
    (∀ c, s.pending.head? = some c → isReset c = false) → t.boot.fatal = true ∧ bootStat t = 0xF + 0x70 * 2 ^ 8

/-- The device time base never steps backward (R356): no step but a cold reset's lowers it. -/
def Obligations.TimeNeverStepsBack : Prop :=
  ∀ (s t : State), step s = .next t → (∀ c, s.pending.head? = some c → isReset c = false) → s.time ≤ t.time

/-- Every step keeps every memory in its canonical form: addresses rise, and no entry equals what an unlisted address reads as. -/
def Obligations.MemoriesStayCanonical : Prop :=
  ∀ (s t : State), step s = .next t → s.memsWf = true → t.memsWf = true

/-! ### Rings -/

/-- DOORBELLS (after R37, R39). A doorbell write by the partition or the secure world to an enabled ring, with an index inside the ring and no scrub of
the partition running, moves the ring's tail (its returned head for a completion ring) and changes nothing else. Any other write of a doorbell moves
nothing: it is logged with code 0x03 where the requester may not write the page, and with code 0x08 otherwise. DEP_RING_CFG (after R36, R39, R44,
R45). A write by a requester who may reach the page and the selection. A write for a submission ring with a size of 4 to 16 sets EN, ORD, MGR, size,
port and completion ring and nothing else, where MGR does not change or the secure world writes it, EN is not set before stage 5, no bound field of an
enabled ring changes, and an enable finds its completion ring enabled at the same port; the enable of a halted ring restarts it at its released head.
A write for a completion ring sets the same fields likewise, where it does not disable a ring that an enabled submission ring posts to; each enable
starts it afresh with PHASE 1. A size outside 4 to 16, a changed bound field, an enable that breaks the binding, and that disable change no ring and
are logged with code 0x05. A selection that the requester may not make, or that names no ring, changes nothing. Before stage 5 EN stays 0, and MGR is
kept where the non-secure world writes another value. -/
def Obligations.RingRegisters : Prop :=
  (∀ (s : State) (rq : Requester) (pt ring : Nat) (val : Word), s.boot.fatal = false → mayDoorbell s rq pt = true →
    (s.subRing (pt * 256 + ring)).en = true → val.toNat % 65536 < 2 ^ (s.subRing (pt * 256 + ring)).sizeLog2 →
    (s.part pt).state ≠ .scrubbing →
    exec (.depSqDb rq pt ring val) s = .next (s.setSubRing (pt * 256 + ring) fun r => { r with tail := val.toNat % 65536 })) ∧
  (∀ (s : State) (rq : Requester) (pt cq : Nat) (val : Word), s.boot.fatal = false → mayDoorbell s rq pt = true →
    (s.cplRing pt cq).en = true → val.toNat % 65536 < 2 ^ (s.cplRing pt cq).sizeLog2 → (s.part pt).state ≠ .scrubbing →
    exec (.depCqDb rq pt cq val) s = .next (s.setCplRing pt cq fun c => { c with head := val.toNat % 65536 })) ∧
  (∀ (s : State) (rq : Requester) (pt n : Nat) (val : Word) (i : Instr), i = .depSqDb rq pt n val ∨ i = .depCqDb rq pt n val →
    s.boot.fatal = false → mayDoorbell s rq pt = false → ∃ t, exec i s = .next t ∧ Logged s t (0x100 + pt) 0x03) ∧
  (∀ (s : State) (rq : Requester) (pt ring : Nat) (val : Word), s.boot.fatal = false → mayDoorbell s rq pt = true →
    ((s.subRing (pt * 256 + ring)).en = false ∨ 2 ^ (s.subRing (pt * 256 + ring)).sizeLog2 ≤ val.toNat % 65536 ∨
      (s.part pt).state = .scrubbing) →
    ∃ t, exec (.depSqDb rq pt ring val) s = .next t ∧ Logged s t (0x100 + pt) 0x08) ∧
  (∀ (s : State) (rq : Requester) (pt cq : Nat) (val : Word), s.boot.fatal = false → mayDoorbell s rq pt = true →
    ((s.cplRing pt cq).en = false ∨ 2 ^ (s.cplRing pt cq).sizeLog2 ≤ val.toNat % 65536 ∨ (s.part pt).state = .scrubbing) →
    ∃ t, exec (.depCqDb rq pt cq val) s = .next t ∧ Logged s t (0x100 + pt) 0x08) ∧
  (∀ (s : State) (rq : Requester) (val : Word) (g : Nat), s.boot.fatal = false → mayReach s rq pgDep = true →
    ringSel s = (g % 256, g / 256, false) → maySelect rq (g / 256) = true → 4 ≤ bits val.toNat 1 5 → bits val.toNat 1 5 ≤ 16 →
    (bit val.toNat 7 = (s.subRing g).mgr ∨ rq.secure = true) →
    (5 ≤ s.boot.stage ∨ bit val.toNat 0 = false ∨ (s.subRing g).en = true) →
    ((s.subRing g).en = true → bits val.toNat 1 5 = (s.subRing g).sizeLog2 ∧ bits val.toNat 8 2 = (s.subRing g).port ∧
      bits val.toNat 10 6 = (s.subRing g).cq) →
    (bit val.toNat 0 = true → (s.subRing g).en = false → (s.cplRing (g / 256) (bits val.toNat 10 6)).en = true ∧
      (s.cplRing (g / 256) (bits val.toNat 10 6)).port = bits val.toNat 8 2) →
    exec (.depRingCfg rq val) s = .next (s.setSubRing g fun r =>
      let restart := bit val.toNat 0 && !r.en && r.halted
      { r with en := bit val.toNat 0, ord := bit val.toNat 6, mgr := bit val.toNat 7, sizeLog2 := bits val.toNat 1 5,
               port := bits val.toNat 8 2, cq := bits val.toNat 10 6, halted := if restart then false else r.halted,
               next := if restart then r.head else r.next, buf := if restart then [] else r.buf,
               fetch := if restart then none else r.fetch })) ∧
  (∀ (s : State) (rq : Requester) (val : Word) (pt cq : Nat), s.boot.fatal = false → mayReach s rq pgDep = true →
    ringSel s = (cq, pt, true) → cq < 64 → maySelect rq pt = true → 4 ≤ bits val.toNat 1 5 → bits val.toNat 1 5 ≤ 16 →
    (bit val.toNat 7 = (s.cplRing pt cq).mgr ∨ rq.secure = true) →
    (5 ≤ s.boot.stage ∨ bit val.toNat 0 = false ∨ (s.cplRing pt cq).en = true) →
    ((s.cplRing pt cq).en = true → bits val.toNat 1 5 = (s.cplRing pt cq).sizeLog2 ∧ bits val.toNat 8 2 = (s.cplRing pt cq).port) →
    ((s.cplRing pt cq).en = true → bit val.toNat 0 = false → cqBound s pt cq = false) →
    exec (.depRingCfg rq val) s = .next (s.setCplRing pt cq fun c =>
      let start := bit val.toNat 0 && !c.en
      { c with en := bit val.toNat 0, ord := bit val.toNat 6, mgr := bit val.toNat 7, sizeLog2 := bits val.toNat 1 5,
               port := bits val.toNat 8 2, cqField := bits val.toNat 10 6, halted := if start then false else c.halted,
               next := if start then 0 else c.next, phase := if start then true else c.phase, head := if start then 0 else c.head,
               unsignalled := if start then 0 else c.unsignalled })) ∧
  (∀ (s : State) (rq : Requester) (val : Word) (g : Nat), s.boot.fatal = false → mayReach s rq pgDep = true →
    ringSel s = (g % 256, g / 256, false) → maySelect rq (g / 256) = true →
    (bits val.toNat 1 5 < 4 ∨ 16 < bits val.toNat 1 5 ∨
      ((s.subRing g).en = true ∧ (bits val.toNat 1 5 ≠ (s.subRing g).sizeLog2 ∨ bits val.toNat 8 2 ≠ (s.subRing g).port ∨
        bits val.toNat 10 6 ≠ (s.subRing g).cq)) ∨
      (bit val.toNat 0 = true ∧ 5 ≤ s.boot.stage ∧ (s.subRing g).en = false ∧
        ((s.cplRing (g / 256) (bits val.toNat 10 6)).en = false ∨
          (s.cplRing (g / 256) (bits val.toNat 10 6)).port ≠ bits val.toNat 8 2))) →
    ∃ t, exec (.depRingCfg rq val) s = .next t ∧ Logged s t pgDep 0x05) ∧
  (∀ (s : State) (rq : Requester) (val : Word) (pt cq : Nat), s.boot.fatal = false → mayReach s rq pgDep = true →
    ringSel s = (cq, pt, true) → cq < 64 → maySelect rq pt = true →
    (bits val.toNat 1 5 < 4 ∨ 16 < bits val.toNat 1 5 ∨
      ((s.cplRing pt cq).en = true ∧ (bits val.toNat 1 5 ≠ (s.cplRing pt cq).sizeLog2 ∨ bits val.toNat 8 2 ≠ (s.cplRing pt cq).port ∨
        (bit val.toNat 0 = false ∧ cqBound s pt cq = true)))) →
    ∃ t, exec (.depRingCfg rq val) s = .next t ∧ Logged s t pgDep 0x05) ∧
  (∀ (s : State) (rq : Requester) (val : Word), s.boot.fatal = false → mayReach s rq pgDep = true →
    (maySelect rq (ringSel s).2.1 = false ∨ ((ringSel s).2.2 = true ∧ 64 ≤ (ringSel s).1)) → exec (.depRingCfg rq val) s = .next s) ∧
  (∀ (s : State) (rq : Requester) (val : Word) (g : Nat), s.boot.fatal = false → mayReach s rq pgDep = true →
    ringSel s = (g % 256, g / 256, false) → maySelect rq (g / 256) = true → s.boot.stage < 5 → (s.subRing g).en = false →
    ∃ t, exec (.depRingCfg rq val) s = .next t ∧ (t.subRing g).en = false) ∧
  (∀ (s : State) (rq : Requester) (val : Word) (g : Nat), s.boot.fatal = false → mayReach s rq pgDep = true →
    ringSel s = (g % 256, g / 256, false) → maySelect rq (g / 256) = true → rq.secure = false →
    ∃ t, exec (.depRingCfg rq val) s = .next t ∧ (t.subRing g).mgr = (s.subRing g).mgr)

/-- RING_TURN_FETCH (after R43, R45, R56). With no ring ready a conductor core's turn changes nothing. A turn goes to the ring its pointer chooses. Where
the answer of host memory is awaited, the fetch stands outstanding for the slots of one read. Where host memory answers at once and one slot stands
ready, a command that passes the checks stands fetched and NEXT has moved past it; one that fails a check leaves a completion of that check's status,
tag and details in its partition's buffer, joins no node to the store, and its slot is released. A graph of which all the nodes stand ready, and for
which the store has room, stands fetched as a whole; one that is not all there, or has no room, is not fetched. A host port that is not ACTIVE halts
the ring, which keeps its released head. -/
def Obligations.RingTurn : Prop :=
  (∀ (s : State) (core : Nat) (b : Bool), turnRing s core = none → exec (.ringTurnFetch core b) s = .next s) ∧
  (∀ (s : State) (core ring : Nat), fetching s = true → (turnRing s core).map (·.winner) = some ring → portActive s core = true →
    (s.link core).reads.length < 1024 →
    ∃ t tag, exec (.ringTurnFetch core false) s = .next t ∧ (t.subRing ring).fetch = some (tag, fetchSlots (s.subRing ring)) ∧
      (t.subRing ring).next = (s.subRing ring).next ∧ (t.subRing ring).head = (s.subRing ring).head ∧
      (t.subRing ring).buf = (s.subRing ring).buf ∧ t.mems = s.mems ∧ t.dep.nodes = s.dep.nodes) ∧
  (∀ (s : State) (core ring : Nat) (bs : List Byte), fetching s = true → (turnRing s core).map (·.winner) = some ring →
    portActive s core = true → (s.subRing ring).avail = 1 → (s.subRing ring).buf = [] → bs = slotBytes s ring 0 →
    checkCmd s ring bs false = none → (∀ n g m, parseCmd bs ≠ .graphBegin n g m) →
    ∃ t, exec (.ringTurnFetch core true) s = .next t ∧ (t.subRing ring).buf = [(1, .single (parseHeader bs) (parseCmd bs) bs)] ∧
      (t.subRing ring).next = ((s.subRing ring).next + 1) % 2 ^ (s.subRing ring).sizeLog2 ∧
      (t.subRing ring).head = (s.subRing ring).head ∧ t.mems = s.mems ∧ t.dep.nodes = s.dep.nodes) ∧
  (∀ (s : State) (core ring : Nat) (bs : List Byte) (e : Comp), fetching s = true → (turnRing s core).map (·.winner) = some ring →
    portActive s core = true → (s.subRing ring).avail = 1 → (s.subRing ring).buf = [] → bs = slotBytes s ring 0 →
    checkCmd s ring bs false = some e → e.status ≠ .ok → ringPt ring < s.dep.cbuf.length → replaying s (ringPt ring) = false →
    ∃ t x, exec (.ringTurnFetch core true) s = .next t ∧
      lget t.dep.cbuf (ringPt ring) [] = lget s.dep.cbuf (ringPt ring) [] ++ [x] ∧ x.status = e.status ∧ x.tag = (parseHeader bs).tag ∧
      x.detail0 = e.detail0 ∧ x.detail1 = e.detail1 ∧ (t.subRing ring).buf = [] ∧
      (t.subRing ring).head = ((s.subRing ring).head + 1) % 2 ^ (s.subRing ring).sizeLog2 ∧ t.dep.nodes = s.dep.nodes) ∧
  (∀ (s : State) (core ring n id : Nat) (m : Bool) (bs : List Byte), fetching s = true →
    (turnRing s core).map (·.winner) = some ring → portActive s core = true → (s.subRing ring).avail = 1 + n →
    (s.subRing ring).buf = [] → bs = slotBytes s ring 0 → checkCmd s ring bs false = none → parseCmd bs = .graphBegin n id m →
    gnodeRun s ring n 1 = n → storeRoom s (ringPt ring) n = true →
    ∃ t, exec (.ringTurnFetch core true) s = .next t ∧
      (t.subRing ring).buf = [(1 + n, .graph (parseHeader bs) n id m false bs (graphNodes s ring n))] ∧
      (t.subRing ring).next = ((s.subRing ring).next + (1 + n)) % 2 ^ (s.subRing ring).sizeLog2 ∧
      (t.subRing ring).head = (s.subRing ring).head ∧ t.mems = s.mems ∧ t.dep.nodes = s.dep.nodes) ∧
  (∀ (s : State) (core ring n id k : Nat) (m : Bool) (bs : List Byte), fetching s = true →
    (turnRing s core).map (·.winner) = some ring → portActive s core = true → (s.subRing ring).buf = [] → bs = slotBytes s ring 0 →
    checkCmd s ring bs false = none → parseCmd bs = .graphBegin n id m → k = gnodeRun s ring ((s.subRing ring).avail - 1) 1 →
    ((k = (s.subRing ring).avail - 1 ∧ k < n) ∨ storeRoom s (ringPt ring) (max n k) = false) →
    ∃ t, exec (.ringTurnFetch core true) s = .next t ∧ t.subRing ring = s.subRing ring ∧ t.mems = s.mems ∧
      t.dep.nodes = s.dep.nodes) ∧
  (∀ (s : State) (core ring : Nat) (b : Bool), fetching s = true → (turnRing s core).map (·.winner) = some ring →
    portActive s core = false →
    ∃ t, exec (.ringTurnFetch core b) s = .next t ∧ (t.subRing ring).halted = true ∧ (t.subRing ring).fetch = none ∧
      (t.subRing ring).head = (s.subRing ring).head ∧ t.dep.nodes = s.dep.nodes)

/-! ### The dependency tracker -/

/-- FRAMING_AND_ACCEPTANCE (after R38, R56, R57, R60, R73). GRAPH_BEGIN: the first graph of the ring that stands fetched and unframed is framed where it
keeps R57, with nothing else changed; where it does not, no node of it is accepted and one completion with INVALID, NODE 0xFFF and its GRAPH_ID stands
in its partition's buffer; with no such graph nothing changes. GRAPH_ACCEPT: the standalone command that stands first in a ring whose partition may
run, whose epoch is still live and which has room, is accepted under the next acceptance number, as fetched, not issued, its deadline running from
now; the framed graph that stands first likewise, with every node of it under the numbers that follow. The slots are released. With its epoch no
longer live a command is not accepted: no node joins the store. Without room, or with nothing fetched, nothing changes. NODE_ISSUE (after R31, R40,
R61, R75, R226, R227). A node whose predecessors have completed, of a partition whose completion buffer is not full, with no checkpoint or replay of
the partition running, is issued: NOP, FENCE and EPOCH_COMMIT without a tile; a command other than WARM in a slot of the tile that the epoch's map
gives it, and without a tile where the map gives its partition none; a WARM on the tiles its image asks for, when each has a free slot and room in its
scratchpad. A node of an epoch that the tracker, or for a command that takes a slot the tiles, has not applied is held and counted once in EPOCH_HELD.
A node that is issued, has ended, or waits for a predecessor, for the completion buffer, for the checkpoint or for the replay, is left as it is. -/
def Obligations.NodesAreAcceptedAndIssued : Prop :=
  (∀ (s : State) (ring : Nat) (buf : List (Nat × Fetched)), s.boot.fatal = false → frameItems (s.subRing ring).buf = some (buf, none) →
    exec (.graphBegin ring) s = .next (s.setSubRing ring fun r => { r with buf := buf })) ∧
  (∀ (s : State) (ring k nn id : Nat) (m : Bool) (raw : List Byte) (buf : List (Nat × Fetched)), s.boot.fatal = false →
    frameItems (s.subRing ring).buf = some (buf, some (k, raw)) → parseCmd raw = .graphBegin nn id m →
    ringPt ring < s.dep.cbuf.length → replaying s (ringPt ring) = false →
    ∃ t x, exec (.graphBegin ring) s = .next t ∧
      lget t.dep.cbuf (ringPt ring) [] = lget s.dep.cbuf (ringPt ring) [] ++ [x] ∧ x.status = .invalid ∧ x.node = 0xFFF ∧
      x.graphId = id ∧ x.tag = (parseHeader raw).tag ∧ t.dep.nodes = s.dep.nodes) ∧
  (∀ (s : State) (ring : Nat), frameItems (s.subRing ring).buf = none → exec (.graphBegin ring) s = .next s) ∧
  (∀ (s : State) (ring k : Nat) (h : Header) (c : Cmd) (raw : List Byte) (rest : List (Nat × Fetched)), mayAccept s ring = true →
    (s.subRing ring).buf = (k, .single h c raw) :: rest → check23 s h = none → storeRoom s (ringPt ring) 1 = true →
    ∃ t n, exec (.graphAccept ring) s = .next t ∧ t.node s.dep.accNext = some n ∧ n.acc = s.dep.accNext ∧ n.ring = ring ∧ n.hdr = h ∧
      n.cmd = c ∧ n.graph = none ∧ n.issued = false ∧ n.outcome = none ∧ n.accTime = s.time ∧
      t.dep.accNext = (s.dep.accNext + 1) % 2 ^ 32 ∧
      (rest = [] → (t.subRing ring).buf = [] ∧
        (t.subRing ring).head = ((s.subRing ring).head + k) % 2 ^ (s.subRing ring).sizeLog2)) ∧
  (∀ (s : State) (ring k nn id : Nat) (h : Header) (m : Bool) (raw : List Byte) (ns : List FetchedNode) (rest : List (Nat × Fetched)),
    mayAccept s ring = true → (s.subRing ring).buf = (k, .graph h nn id m true raw ns) :: rest → check23 s h = none →
    itemRoom s (ringPt ring) (.graph h nn id m true raw ns) = true → nn = ns.length → 0 < nn → nn ≤ 4096 →
    (ns.all fun f => f.cmd.isSome) = true → (s.dep.accNext < 2 ^ 32) →
    ∃ t x, exec (.graphAccept ring) s = .next t ∧ tget t.dep.graphs s.dep.accNext = some x ∧ x.ring = ring ∧ x.nnodes = nn ∧
      x.graphId = id ∧ x.cmode = m ∧ x.done = [] ∧ t.dep.accNext = (s.dep.accNext + 1 + nn) % 2 ^ 32 ∧
      ∀ i f, ns[i]? = some f → ∃ n, t.node ((s.dep.accNext + 1 + i) % 2 ^ 32) = some n ∧ f.cmd = some n.cmd ∧ n.hdr = f.hdr ∧
        n.ring = ring ∧ n.graph = some s.dep.accNext ∧ n.issued = false ∧ n.outcome = none ∧ n.accTime = s.time) ∧
  (∀ (s : State) (ring k : Nat) (it : Fetched) (rest : List (Nat × Fetched)) (h : Header) (raw : List Byte) (e : Comp),
    mayAccept s ring = true → (s.subRing ring).buf = (k, it) :: rest → itemHead it = some (h, raw) → check23 s h = some e →
    ∃ t, exec (.graphAccept ring) s = .next t ∧ t.dep.nodes = s.dep.nodes ∧ t.dep.graphs = s.dep.graphs) ∧
  (∀ (s : State) (ring k : Nat) (it : Fetched) (rest : List (Nat × Fetched)) (h : Header) (raw : List Byte),
    (s.subRing ring).buf = (k, it) :: rest → itemHead it = some (h, raw) → check23 s h = none → itemRoom s (ringPt ring) it = false →
    exec (.graphAccept ring) s = .next s) ∧
  (∀ (s : State) (ring : Nat), (s.subRing ring).buf = [] → exec (.graphAccept ring) s = .next s) ∧
  (∀ (s : State) (acc : Nat) (n : Node), s.node acc = some n → n.acc = acc → n.issued = false → n.outcome = none → s.boot.fatal = false →
    depsMet s n = true → (lget s.dep.cbuf (ringPt n.ring) []).length < 256 → ckptRuns s (ringPt n.ring) = false →
    replaying s (ringPt n.ring) = false → issueHeld s n = false → noTile n.cmd = true →
    ∃ t m, exec (.nodeIssue acc) s = .next t ∧ t.node acc = some m ∧ m.issued = true ∧ m.tile = none ∧ m.cmd = n.cmd ∧
      m.outcome = none ∧ t.tiles = s.tiles) ∧
  (∀ (s : State) (acc tile : Nat) (n : Node), s.node acc = some n → n.acc = acc → n.issued = false → n.outcome = none →
    s.boot.fatal = false → depsMet s n = true → (lget s.dep.cbuf (ringPt n.ring) []).length < 256 → ckptRuns s (ringPt n.ring) = false →
    replaying s (ringPt n.ring) = false → issueHeld s n = false → noTile n.cmd = false → (∀ q ts k i o, n.cmd ≠ .warm q ts k i o) →
    (nodeQp n.cmd).all (qpRoom s) = true → nodeTiles s n ≠ [] → issueTile s n (nodeTiles s n) = some tile →
    ∃ t m, exec (.nodeIssue acc) s = .next t ∧ t.node acc = some m ∧ m.issued = true ∧ m.tile = some tile ∧ m.cmd = n.cmd) ∧
  (∀ (s : State) (acc : Nat) (n : Node), s.node acc = some n → n.acc = acc → n.issued = false → n.outcome = none →
    s.boot.fatal = false → depsMet s n = true → (lget s.dep.cbuf (ringPt n.ring) []).length < 256 → ckptRuns s (ringPt n.ring) = false →
    replaying s (ringPt n.ring) = false → issueHeld s n = false → noTile n.cmd = false → (∀ q ts k i o, n.cmd ≠ .warm q ts k i o) →
    (nodeQp n.cmd).all (qpRoom s) = true → nodeTiles s n = [] →
    ∃ t m, exec (.nodeIssue acc) s = .next t ∧ t.node acc = some m ∧ m.issued = true ∧ m.tile = none ∧ m.cmd = n.cmd) ∧
  (∀ (s : State) (acc q tiles ntok img toks u : Nat) (ts : List Nat) (n : Node), s.node acc = some n → n.acc = acc → n.issued = false →
    n.outcome = none → s.boot.fatal = false → depsMet s n = true → (lget s.dep.cbuf (ringPt n.ring) []).length < 256 →
    ckptRuns s (ringPt n.ring) = false → replaying s (ringPt n.ring) = false → issueHeld s n = false →
    n.cmd = .warm q tiles ntok img toks → warmNeeds s n tiles img = some (ts, u) → nodeTiles s n ≠ [] → warmBefore s n = false →
    warmRoom s (some (ts, u)) = true →
    ∃ t m o, exec (.nodeIssue acc) s = .next t ∧ t.node acc = some m ∧ m.issued = true ∧ m.tile = ts.head? ∧
      t.warm.ops = s.warm.ops ++ [o] ∧ o.acc = acc ∧ o.tiles = ts ∧ o.spadUnits = u ∧ o.seq = q ∧ o.ntok = ntok ∧ o.imageRef = img ∧
      o.tokensRef = toks) ∧
  (∀ (s : State) (acc : Nat) (n : Node), s.node acc = some n → n.acc = acc → n.issued = false → n.outcome = none →
    s.boot.fatal = false → depsMet s n = true → (lget s.dep.cbuf (ringPt n.ring) []).length < 256 → ckptRuns s (ringPt n.ring) = false →
    replaying s (ringPt n.ring) = false → issueHeld s n = true →
    ∃ t, exec (.nodeIssue acc) s = .next t ∧ t.node acc = some { n with epochHeld := true }) ∧
  (∀ (s : State) (acc : Nat) (n : Node), s.node acc = some n →
    (n.issued = true ∨ n.outcome.isSome = true ∨ depsMet s n = false ∨ 256 ≤ (lget s.dep.cbuf (ringPt n.ring) []).length ∨
      ckptRuns s (ringPt n.ring) = true ∨ replaying s (ringPt n.ring) = true) →
    exec (.nodeIssue acc) s = .next s)

/-- NOP_AND_FENCE (after R61, R67): an issued NOP ends OK; an issued FENCE ends OK, with ARRIVE = 1 once no host write of its ring is outstanding, and
with one outstanding it goes on waiting. Neither changes anything but its own node. NODE_COMPLETE (after R46, R64, R65). A command that has ended
leaves the store, a standalone one or a node of a graph. A node's status stands in its graph while the graph has others to wait for; with its last
node the graph is gone. A standalone command of a partition that is not replayed leaves a completion of its status, tag, opcode, ring, details and
RESULT at the end of its partition's buffer, unless it is OK and SILENT: then the buffer stays as it was. COMPLETION_POST and the coalescing timer
(after R39, R40, R42, R408). The oldest waiting completion of a ring leaves the buffer for the ring's next returned slot; PHASE turns over at the
ring's end. Where neither an interrupt message nor a count of the buffer's full time goes out with it, the frames handed to the ring's host port are
those that write its 32 bytes, with the PHASE and SQ_HEAD of that moment, into that slot. With no slot returned, or no completion of the ring waiting,
nothing changes; the completions of a ring that its host port halted count as written. At the end of the coalescing time the interrupt message of the
ring's vector is handed to its host port, and no entry is unsignalled any more; with COAL_US or COAL_CNT 0, or no entry unsignalled, nothing changes. -/
def Obligations.CommandsEndAndPost : Prop :=
  (∀ (s : State) (acc : Nat) (n : Node), liveNode s acc = some n → n.cmd = .nop →
    exec (.nop acc) s = .next (s.setNode acc fun m => { m with outcome := some {} })) ∧
  (∀ (s : State) (acc : Nat) (n : Node) (arrive : Bool), liveNode s acc = some n → n.cmd = .fence arrive →
    (arrive = true → writesOut s (ringPort s n.ring) (1 + n.ring) = false) →
    exec (.fence acc) s = .next (s.setNode acc fun m => { m with outcome := some {} })) ∧
  (∀ (s : State) (acc : Nat) (n : Node), liveNode s acc = some n → n.cmd = .fence true →
    writesOut s (ringPort s n.ring) (1 + n.ring) = true → exec (.fence acc) s = .next s) ∧
  (∀ (s : State) (acc : Nat) (n : Node) (c : Comp), s.node acc = some n → n.acc = acc → n.outcome = some c → s.boot.fatal = false →
    ∃ t, exec (.nodeComplete acc) s = .next t ∧ t.node acc = none) ∧
  (∀ (s : State) (acc g : Nat) (n : Node) (c : Comp) (x : Graph), s.node acc = some n → n.acc = acc → n.outcome = some c →
    s.boot.fatal = false → n.graph = some g → tget s.dep.graphs g = some x → x.acc = g → x.done.length + 1 < x.nnodes →
    c.status.success = true → ((graphNodesOf s g).all fun m => !predFailed x m) = true →
    ∃ t y, exec (.nodeComplete acc) s = .next t ∧ tget t.dep.graphs g = some y ∧ y.done = x.done ++ [(n.hdr.node, c.status)]) ∧
  (∀ (s : State) (acc g : Nat) (n : Node) (c : Comp) (x : Graph), s.node acc = some n → n.acc = acc → n.outcome = some c →
    s.boot.fatal = false → n.graph = some g → tget s.dep.graphs g = some x → x.acc = g → x.nnodes ≤ x.done.length + 1 →
    ∃ t, exec (.nodeComplete acc) s = .next t ∧ tget t.dep.graphs g = none) ∧
  (∀ (s : State) (acc : Nat) (n : Node) (c : Comp), s.node acc = some n → n.acc = acc → n.outcome = some c → n.graph = none →
    s.boot.fatal = false → (c.status ≠ .ok ∨ n.hdr.silent = false) → replaying s (ringPt n.ring) = false →
    ringPt n.ring < s.dep.cbuf.length →
    ∃ t e, exec (.nodeComplete acc) s = .next t ∧ lget t.dep.cbuf (ringPt n.ring) [] = lget s.dep.cbuf (ringPt n.ring) [] ++ [e] ∧
      e.status = c.status ∧ e.tag = n.hdr.tag ∧ e.opcode = n.hdr.opcode ∧ e.ring = n.ring ∧ e.result = c.result ∧
      e.detail0 = c.detail0 ∧ e.detail1 = c.detail1) ∧
  (∀ (s : State) (acc : Nat) (n : Node) (c : Comp), s.node acc = some n → n.acc = acc → n.outcome = some c → n.graph = none →
    s.boot.fatal = false → c.status = .ok → n.hdr.silent = true →
    ∃ t, exec (.nodeComplete acc) s = .next t ∧ t.dep.cbuf = s.dep.cbuf) ∧
  (∀ (s : State) (pt cq : Nat) (e : CplEntry) (rest : List CplEntry), s.boot.fatal = false → cqRoom (s.cplRing pt cq) = true →
    popCpl cq (lget s.dep.cbuf pt []) = some (e, rest) → pt < s.dep.cbuf.length →
    ∃ t, exec (.completionPost pt cq) s = .next t ∧ lget t.dep.cbuf pt [] = rest ∧
      (t.cplRing pt cq).next = ((s.cplRing pt cq).next + 1) % 2 ^ (s.cplRing pt cq).sizeLog2 ∧
      (t.cplRing pt cq).phase = (if ((s.cplRing pt cq).next + 1) % 2 ^ (s.cplRing pt cq).sizeLog2 = 0 then !(s.cplRing pt cq).phase
        else (s.cplRing pt cq).phase) ∧
      (bits (s.cplRing pt cq).coal.toNat 0 8 = 0 → lget s.dep.cbufFull pt none = none →
        t.tsc = (hostWrite s (s.cplRing pt cq).port 1 pt false
          ((s.cplRing pt cq).baseLo.toNat + (s.cplRing pt cq).baseHi.toNat * 2 ^ 32 + 32 * (s.cplRing pt cq).next)
          (e.bytes (s.subRing e.ring).head (s.cplRing pt cq).phase)).tsc)) ∧
  (∀ (s : State) (pt cq : Nat), (s.cplRing pt cq).halted = false →
    (cqRoom (s.cplRing pt cq) = false ∨ popCpl cq (lget s.dep.cbuf pt []) = none) →
    exec (.completionPost pt cq) s = .next s) ∧
  (∀ (s : State) (pt cq : Nat), s.boot.fatal = false → (s.cplRing pt cq).halted = true →
    (∀ e, e ∈ lget s.dep.cbuf pt [] → e.cq ≠ cq) → exec (.completionPost pt cq) s = .next s) ∧
  (∀ (s : State) (pt cq : Nat) (e : CplEntry), s.boot.fatal = false → (s.cplRing pt cq).halted = true →
    e ∈ lget s.dep.cbuf pt [] → e.cq = cq → pt < s.dep.cbuf.length →
    ∃ t, exec (.completionPost pt cq) s = .next t ∧ lget t.dep.cbuf pt [] = (lget s.dep.cbuf pt []).filter (·.cq != cq) ∧
      t.cplRing pt cq = s.cplRing pt cq ∧ t.tsc = s.tsc ∧ t.mems = s.mems) ∧
  (∀ (s : State) (pt cq : Nat), s.boot.fatal = false → (s.cplRing pt cq).unsignalled ≠ 0 →
    bits (s.cplRing pt cq).coal.toNat 8 16 ≠ 0 → bits (s.cplRing pt cq).coal.toNat 0 8 ≠ 0 →
    ∃ t, exec (.coalTimerExpire pt cq) s = .next t ∧ (t.cplRing pt cq).unsignalled = 0 ∧
      t.time = (s.reach ((s.cplRing pt cq).firstAt + bits (s.cplRing pt cq).coal.toNat 8 16 * 1000)).time ∧
      t.tsc = (hostIrq (s.reach ((s.cplRing pt cq).firstAt + bits (s.cplRing pt cq).coal.toNat 8 16 * 1000)) (s.cplRing pt cq).port 1 pt
        false (bits (s.cplRing pt cq).coal.toNat 24 8)).tsc) ∧
  (∀ (s : State) (pt cq : Nat), ((s.cplRing pt cq).unsignalled = 0 ∨ bits (s.cplRing pt cq).coal.toNat 8 16 = 0 ∨
      bits (s.cplRing pt cq).coal.toNat 0 8 = 0) → exec (.coalTimerExpire pt cq) s = .next s)

/-! ### Epochs -/

/-- EPOCH_COMMIT (after R49, R72, R74, R79, R81), of a partition that is not replayed, not held or made already: one that names D + 1, with a staging area
that its reference lies in and a bundle that keeps the rules, while no other is held, is held with its tables, and nothing else changes. Another epoch
ends it INVALID at byte 4, no staging area INVALID at byte 24, a reference outside the area PERM, another commit held BUSY, and a bundle that breaks a
rule with the outcome that reading the bundle gives; then no commit is held that was not held before. EPOCH_COMMIT_MAKE (after R73, R77). Once every
unit class has applied D, no accepted command carries D − 1, and no partition is being scrubbed where SCOPE has bit 3, the held commit is made: its
epoch is the latest, D the one before it, its tables are current (the profile table is the current one, with the staged profiles where SCOPE has bit
0; a partition map keeps that epoch) and the old ones retained, and DEP_EPOCH_LAG shows the SCOPE bits; with SCOPE 0 its command has ended OK at once.
Until then, and with no commit held, nothing changes. A held commit whose command has ended otherwise is dropped. EPOCH_APPLY (after R71, R77; logs
85, 104). A unit class that lags applies its part: its lag bit clears and no other does, the epochs stay; the commit completes once the lag reads 0,
OK within 1 ms and with TIMEOUT later. The tiles, ports and HBM controllers (bit 3) do so once no operation, frame or page of a partition is left
where the map takes its place from it; until then the lag stays. A class that does not lag changes nothing. The bound of 1 ms ends the command with
TIMEOUT and leaves the commit in effect; with no commit made and not yet applied, it changes nothing. DEP_STAGE_LEN (after R81): the secure world
writes it while no commit is held, for a length of whole 64 KiB, 0 or of an area that lies wholly in one VALID class 1 range; nothing else changes.
Any other value, and any while a commit is held, changes nothing and is logged: with code 0x02 for a length that is no multiple, with code 0x06
otherwise. -/
def Obligations.EpochCommits : Prop :=
  (∀ (s : State) (acc scope ref : Nat) (n : Node) (h : HeldCommit), liveNode s acc = some n → n.cmd = .epochCommit scope ref →
    commitRuns s acc = false → replaying s (ringPt n.ring) = false → n.hdr.epoch = (s.dep.epoch + 1) % 65536 → stageLen s ≠ 0 →
    refAddr ref + 64 ≤ stageLen s → s.dep.held = none → readBundle s n scope (refAddr ref) = .ok h →
    exec (.epochCommit acc) s = .next { s with dep := { s.dep with held := some h } }) ∧
  (∀ (s : State) (acc scope ref : Nat) (n : Node) (c : Comp), liveNode s acc = some n → n.acc = acc → n.cmd = .epochCommit scope ref →
    commitRuns s acc = false → replaying s (ringPt n.ring) = false →
    ((n.hdr.epoch ≠ (s.dep.epoch + 1) % 65536 ∧ c = invalidAt 4) ∨
      (n.hdr.epoch = (s.dep.epoch + 1) % 65536 ∧ stageLen s = 0 ∧ c = invalidAt 24) ∨
      (n.hdr.epoch = (s.dep.epoch + 1) % 65536 ∧ stageLen s ≠ 0 ∧ stageLen s < refAddr ref + 64 ∧ c = failWith .perm) ∨
      (n.hdr.epoch = (s.dep.epoch + 1) % 65536 ∧ stageLen s ≠ 0 ∧ refAddr ref + 64 ≤ stageLen s ∧ s.dep.held.isSome = true ∧
        c = failWith .busy)) →
    exec (.epochCommit acc) s = .next (s.setNode acc fun m => { m with outcome := some c })) ∧
  (∀ (s : State) (acc scope ref : Nat) (n : Node) (c : Comp), liveNode s acc = some n → n.acc = acc → n.cmd = .epochCommit scope ref →
    commitRuns s acc = false → replaying s (ringPt n.ring) = false → n.hdr.epoch = (s.dep.epoch + 1) % 65536 → stageLen s ≠ 0 →
    refAddr ref + 64 ≤ stageLen s → s.dep.held = none → readBundle s n scope (refAddr ref) = .error c →
    ∃ t, exec (.epochCommit acc) s = .next t ∧ Ended t acc c ∧ t.dep.held = none ∧ t.dep.epoch = s.dep.epoch ∧ t.dep.cfg = s.dep.cfg) ∧
  (∀ (s : State) (h : HeldCommit), s.boot.fatal = false → s.dep.held = some h → (s.node h.acc).all (·.outcome.isSome) = false →
    s.dep.lag = 0 → s.dep.nodes.all (fun n => n.2.hdr.epoch != s.dep.prev) = true →
    (bit h.scope 3 = true → s.sec.pts.any (fun p => p.state == .scrubbing) = false) →
    ∃ t, exec .epochCommitMake s = .next t ∧ t.dep.epoch = h.epoch ∧ t.dep.prev = s.dep.epoch ∧ t.dep.cfgPrev = s.dep.cfg ∧
      t.dep.held = none ∧ t.dep.lag = h.scope ∧ t.dep.staged = (if bit h.scope 0 = true then [] else s.dep.staged) ∧
      t.dep.cfg = { h.cfg with
        profiles := (if bit h.scope 0 = true then s.dep.staged else []).foldl (fun t p => tset t p.1 p.2) s.dep.cfg.profiles,
        pmap := if bit h.scope 3 = true then { h.cfg.pmap with epoch := h.epoch } else h.cfg.pmap } ∧
      t.dep.made = (if h.scope = 0 then none else some (h.acc, s.time)) ∧ (h.scope = 0 → Ended t h.acc {})) ∧
  (∀ (s : State) (h : HeldCommit), s.dep.held = some h → (s.node h.acc).all (·.outcome.isSome) = false →
    (s.dep.lag ≠ 0 ∨ s.dep.nodes.any (fun n => n.2.hdr.epoch == s.dep.prev) = true ∨
      (bit h.scope 3 = true ∧ s.sec.pts.any (fun p => p.state == .scrubbing) = true)) → exec .epochCommitMake s = .next s) ∧
  (∀ (s : State), s.dep.held = none → exec .epochCommitMake s = .next s) ∧
  (∀ (s : State) (h : HeldCommit), s.boot.fatal = false → s.dep.held = some h → (s.node h.acc).all (·.outcome.isSome) = true →
    exec .epochCommitMake s = .next { s with dep := { s.dep with held := none } }) ∧
  (∀ (s : State) (unit : Nat), s.boot.fatal = false → unit < 8 → unit ≠ 3 → s.rec_.replay ≠ 1 → bit s.dep.lag unit = true →
    ∃ t, exec (.epochApply unit) s = .next t ∧ t.dep.lag = setBits s.dep.lag unit 1 0 ∧ t.dep.epoch = s.dep.epoch ∧
      t.dep.prev = s.dep.prev ∧ t.dep.cfg = s.dep.cfg ∧
      t.dep.made = (if setBits s.dep.lag unit 1 0 = 0 then none else s.dep.made) ∧
      (∀ m n, s.dep.made = some m → setBits s.dep.lag unit 1 0 = 0 → s.node m.1 = some n → n.outcome = none →
        Ended t m.1 (if m.2 + 1000000 < s.time then failWith .timeout else {}))) ∧
  (∀ (s : State), s.boot.fatal = false → s.rec_.replay ≠ 1 → bit s.dep.lag 3 = true → mapReady (warmRevokeTiles s) = true →
    ∃ t, exec (.epochApply 3) s = .next t ∧ t.dep.lag = setBits s.dep.lag 3 1 0 ∧ t.dep.epoch = s.dep.epoch ∧
      t.dep.prev = s.dep.prev) ∧
  (∀ (s : State), s.boot.fatal = false → s.rec_.replay ≠ 1 → bit s.dep.lag 3 = true → mapReady (warmRevokeTiles s) = false →
    ∃ t, exec (.epochApply 3) s = .next t ∧ t.dep.lag = s.dep.lag ∧ t.dep.epoch = s.dep.epoch) ∧
  (∀ (s : State) (unit : Nat), bit s.dep.lag unit = false → exec (.epochApply unit) s = .next s) ∧
  (∀ (s : State) (m : Nat × Nat) (n : Node), s.boot.fatal = false → s.dep.made = some m → s.node m.1 = some n → n.outcome = none →
    ∃ t, exec .epochCommitTimeout s = .next t ∧ Ended t m.1 (failWith .timeout) ∧ t.dep.epoch = s.dep.epoch ∧ t.dep.cfg = s.dep.cfg ∧
      t.dep.lag = s.dep.lag ∧ t.dep.made = none ∧ t.time = (s.reach (m.2 + 1000000)).time ∧ t.mems = s.mems) ∧
  (∀ (s : State), s.dep.made = none → exec .epochCommitTimeout s = .next s) ∧
  (∀ (s : State) (rq : Requester) (val : Word), s.boot.fatal = false → rq.secure = true → rq.src < 4 → s.dep.held = none →
    val.toNat % 65536 = 0 → (val.toNat = 0 ∨ inClass s 1 (stageBase s) val.toNat = true) →
    exec (.depStageLen rq val) s = .next (s.setReg pgDep 0x23C 0 val.toNat)) ∧
  (∀ (s : State) (rq : Requester) (val : Word), s.boot.fatal = false → rq.secure = true → rq.src < 4 →
    (s.dep.held.isSome = true ∨ (val.toNat % 65536 = 0 ∧ val.toNat ≠ 0 ∧ inClass s 1 (stageBase s) val.toNat = false)) →
    ∃ t, exec (.depStageLen rq val) s = .next t ∧ Logged s t pgDep 0x06) ∧
  (∀ (s : State) (rq : Requester) (val : Word), s.boot.fatal = false → rq.secure = true → rq.src < 4 → s.dep.held = none →
    val.toNat % 65536 ≠ 0 → ∃ t, exec (.depStageLen rq val) s = .next t ∧ Logged s t pgDep 0x02)

/-! ### Sequences -/

/-- PROFILE_CREATE (after R82, R580). With a good record, an ID that is free, or the lowest free one where the command names none, stages the profile for
the next commit of profile tables; no epoch's table, no memory and no sequence changes, and RESULT is the ID. The lowest free ID has no free one below
it. A check that fails as the command begins, a record that breaks R580's rules, an ID in use and no ID left end the command with their outcomes and
change nothing else; a record that cannot be read ends it and stages nothing. SEQ_OPEN (after R87, R114, R120), with its context inside a class 0
range: the sequence, the named one or one that R120 gives, is OPEN with its layers, profile and flags, holds no token and no lock, and every other
context, and memory, is as before; RESULT is its ID. A check that fails as the command begins, a named sequence that is not FREE, and no free ID end
the command with their outcomes and change nothing else. SEQ_SR_SEED_HI (after R174): a secure write makes SEED_LO and the written word the selected
partition's seed; no other partition, no sequence, no command and no register changes. A non-secure write changes nothing and is logged with code
0x03. -/
def Obligations.ProfilesAndSequencesBegin : Prop :=
  (∀ (s : State) (acc id k r : Nat) (n : Node) (bs : List Byte), liveNode s acc = some n → n.acc = acc → n.cmd = .profileCreate id r →
    beginCheck s n = none → readRef s n r 64 = .ok bs → profileBad (parseProfile (ringPt n.ring) bs) bs = none →
    k = (if id = 0xFFFF then freeProfile s else id) → profileUsed s k = false → k < 0xFFFF →
    ∃ t, exec (.profileCreate acc) s = .next t ∧ tget t.dep.staged k = some (parseProfile (ringPt n.ring) bs) ∧
      (∀ j, j ≠ k → tget t.dep.staged j = tget s.dep.staged j) ∧ t.dep.cfg = s.dep.cfg ∧ t.dep.cfgPrev = s.dep.cfgPrev ∧
      Ended t acc { result := k } ∧ t.mems = s.mems ∧ t.seq = s.seq) ∧
  (∀ (s : State) (j : Nat), j < freeProfile s → profileUsed s j = true) ∧
  (∀ (s : State) (acc id r : Nat) (n : Node) (bs : List Byte) (c : Comp), liveNode s acc = some n → n.acc = acc →
    n.cmd = .profileCreate id r → beginCheck s n = none → readRef s n r 64 = .ok bs →
    (profileBad (parseProfile (ringPt n.ring) bs) bs = some c ∨
      (profileBad (parseProfile (ringPt n.ring) bs) bs = none ∧ id ≠ 0xFFFF ∧ profileUsed s id = true ∧ c = invalidAt 16) ∨
      (profileBad (parseProfile (ringPt n.ring) bs) bs = none ∧ id = 0xFFFF ∧ 0xFFFE < freeProfile s ∧ c = failWith .nospace)) →
    exec (.profileCreate acc) s = .next (s.setNode acc fun m => { m with outcome := some c })) ∧
  (∀ (s u : State) (acc id r : Nat) (n : Node) (c : Comp), liveNode s acc = some n → n.acc = acc → n.cmd = .profileCreate id r →
    beginCheck s n = none → readRef s n r 64 = .error (u, c) →
    ∃ t, exec (.profileCreate acc) s = .next t ∧ Ended t acc c ∧ t.dep.staged = s.dep.staged ∧ t.dep.cfg = s.dep.cfg) ∧
  (∀ (s : State) (acc : Nat) (n : Node) (c : Comp), liveNode s acc = some n → beginCheck s n = some c →
    exec (.profileCreate acc) s = .next (s.setNode acc fun m => { m with outcome := some c })) ∧
  (∀ (s s' : State) (acc want layers prof hint q : Nat) (warm : Bool) (n : Node), liveNode s acc = some n → n.acc = acc →
    n.cmd = .seqOpen want layers prof warm hint → beginCheck s n = none → takeSeq s n.hdr.epoch (ringPt n.ring) want = .ok (q, s') →
    inClass s 0 ((ctxTable s).1 + 256 * q) 256 = true →
    ∃ t, exec (.seqOpen acc) s = .next t ∧ (want ≠ 0xFFFFF → q = want) ∧ (t.ctx q).state = .open_ ∧ (t.ctx q).pt = ringPt n.ring ∧
      (t.ctx q).layers = layers ∧ (t.ctx q).profile = prof ∧ (t.ctx q).warmTarget = warm ∧ (t.ctx q).tierHint = hint ∧
      (t.ctx q).length = 0 ∧ (t.ctx q).lockOwner = none ∧ (∀ r, r ≠ q → t.ctx r = s.ctx r) ∧ Ended t acc { result := q } ∧
      t.mems = s.mems) ∧
  (∀ (s : State) (acc want layers prof hint : Nat) (warm : Bool) (n : Node) (c : Comp), liveNode s acc = some n → n.acc = acc →
    n.cmd = .seqOpen want layers prof warm hint → beginCheck s n = none → takeSeq s n.hdr.epoch (ringPt n.ring) want = .error c →
    exec (.seqOpen acc) s = .next (s.setNode acc fun m => { m with outcome := some c })) ∧
  (∀ (s : State) (acc : Nat) (n : Node) (c : Comp), liveNode s acc = some n → beginCheck s n = some c →
    exec (.seqOpen acc) s = .next (s.setNode acc fun m => { m with outcome := some c })) ∧
  (∀ (s : State) (rq : Requester) (val : Word), s.boot.fatal = false → rq.secure = true → rq.src < 4 →
    bits (s.reg pgSeq 0x218) 0 3 < s.sec.pts.length →
    ∃ t, exec (.seqSrSeedHi rq val) s = .next t ∧
      (t.part (bits (s.reg pgSeq 0x218) 0 3)).seed = (s.part (bits (s.reg pgSeq 0x218) 0 3)).seedLo + val.toNat * 2 ^ 32 ∧
      (∀ p, p ≠ bits (s.reg pgSeq 0x218) 0 3 → t.part p = s.part p) ∧ t.seq = s.seq ∧ t.dep = s.dep ∧ t.regs = s.regs) ∧
  (∀ (s : State) (rq : Requester) (val : Word), s.boot.fatal = false → rq.secure = false →
    ∃ t, exec (.seqSrSeedHi rq val) s = .next t ∧ Logged s t pgSeq 0x03)

/-- SEQ_FORK (after R110, R112, R148), not contended, with no leaf away and the contexts at hand inside class 0 ranges. The child of a sequence whose
flushes succeed is OPEN with the parent's layers and profile, names its parent, and each layer of it holds the tokens that the flushed parent's layer
and FORK_LEN allow; the parent's lock is free again. The child of a prefix handle holds FORK_LEN tokens of each layer, and the handle's entry one
reference more. A child ID in use is INVALID at byte 16, a FORK_LEN above the parent's length INVALID at byte 24, a poisoned layer POISONED, a handle
that names no live entry INVALID at byte 20, and one too short INVALID at byte 24; no sequence then opens. With too few frames the command waits with
its lock. SEQ_CLOSE (after R113), not contended. With no reader left, the sequence's context is FREE, every layer of it is empty, and the command ends
OK, at once or when the last ATTEND that read the closing sequence has ended. While an ATTEND still reads, the sequence is CLOSING and the command
runs on with the lock; a sequence already CLOSING stays as it is. -/
def Obligations.SequencesForkAndClose : Prop :=
  (∀ (s u u' : State) (acc want q forkLen child : Nat) (rivals : List Nat) (n : Node) (p : Profile), liveNode s acc = some n → n.acc = acc →
    n.cmd = .seqFork want false q forkLen → q < 2 ^ 20 → arbitrate s q (acc :: rivals) = s → LockReady s n q →
    seqProfile s n.hdr.epoch q = some p →
    (want = 0xFFFFF ∨ (s.ctx want).state = .free) → forkLen ≤ (s.ctx q).length → anyPoisoned s q (List.range (s.ctx q).layers) = false →
    flushFrames s q p (stagedLayers s q) ≤ ptFree s (ringPt n.ring) →
    flushLayers (takeLock s q acc n.ring) q (flushPage (takeLock s q acc n.ring) n q p) n.seed false (stagedLayers s q) = (.done u, false) →
    u.node acc = some n →
    takeSeq (allocDone u acc) n.hdr.epoch (ringPt n.ring) want = .ok (child, u') → child ≠ q → (u.ctx q).layers ≤ 255 →
    inClass u 0 ((ctxTable u).1 + 256 * child) 256 = true →
    ∃ t, exec (.seqFork ⟨acc, rivals⟩) s = .next t ∧ (t.ctx child).state = .open_ ∧ (t.ctx child).parent = .seq q ∧
      (t.ctx child).layers = (u.ctx q).layers ∧ (t.ctx child).profile = (u.ctx q).profile ∧ (t.ctx child).forkLen = forkLen ∧
      (t.ctx child).lockOwner = none ∧ (t.ctx q).lockOwner = none ∧ Ended t acc { result := child } ∧
      (∀ l, l < (u.ctx q).layers → (t.row child l).tokens = min forkLen (u.row q l).tokens ∧ (t.row child l).staged = 0)) ∧
  (∀ (s u : State) (acc want h forkLen i child : Nat) (rivals : List Nat) (n : Node) (d : DirSlot) (p : Profile), liveNode s acc = some n →
    n.acc = acc → n.cmd = .seqFork want true h forkLen → LeavesHome s → beginCheck s n = none → handleSlot s h = some (i, d) →
    profileAt s n.hdr.epoch d.profile = some p → forkLen ≤ d.depth * p.tpp → d.cpns.length ≤ 255 →
    takeSeq s n.hdr.epoch (ringPt n.ring) want = .ok (child, u) → inClass s 0 ((ctxTable s).1 + 256 * child) 256 = true →
    ∃ t, exec (.seqFork ⟨acc, rivals⟩) s = .next t ∧ (t.ctx child).state = .open_ ∧ (t.ctx child).parent = .handle h d.gen ∧
      (t.ctx child).layers = d.cpns.length ∧ (t.ctx child).length = forkLen ∧ (t.slot i).refs = d.refs + 1 ∧
      Ended t acc { result := child } ∧ (∀ l, l < d.cpns.length → (t.row child l).tokens = forkLen)) ∧
  (∀ (s : State) (acc want q forkLen : Nat) (rivals : List Nat) (n : Node) (p : Profile) (c : Comp), liveNode s acc = some n → n.acc = acc →
    n.cmd = .seqFork want false q forkLen → q < 2 ^ 20 → arbitrate s q (acc :: rivals) = s → LockReady s n q →
    seqProfile s n.hdr.epoch q = some p →
    ((want ≠ 0xFFFFF ∧ (s.ctx want).state ≠ .free ∧ c = invalidAt 16) ∨
      ((want = 0xFFFFF ∨ (s.ctx want).state = .free) ∧ (s.ctx q).length < forkLen ∧ c = invalidAt 24) ∨
      ((want = 0xFFFFF ∨ (s.ctx want).state = .free) ∧ forkLen ≤ (s.ctx q).length ∧
        anyPoisoned s q (List.range (s.ctx q).layers) = true ∧ c = failWith .poisoned)) →
    ∃ t, exec (.seqFork ⟨acc, rivals⟩) s = .next t ∧ Ended t acc c ∧ (t.ctx q).lockOwner = none ∧ (∀ r, r ≠ q → t.ctx r = s.ctx r) ∧
      t.seq.rows = s.seq.rows ∧ t.seq.stage = s.seq.stage ∧ t.mems = s.mems) ∧
  (∀ (s : State) (acc want h forkLen : Nat) (rivals : List Nat) (n : Node), liveNode s acc = some n → n.acc = acc →
    n.cmd = .seqFork want true h forkLen → beginCheck s n = none → handleSlot s h = none →
    exec (.seqFork ⟨acc, rivals⟩) s = .next (s.setNode acc fun m => { m with outcome := some (invalidAt 20) })) ∧
  (∀ (s : State) (acc want h forkLen i : Nat) (rivals : List Nat) (n : Node) (d : DirSlot) (p : Profile), liveNode s acc = some n →
    n.acc = acc → n.cmd = .seqFork want true h forkLen → beginCheck s n = none → handleSlot s h = some (i, d) →
    profileAt s n.hdr.epoch d.profile = some p → d.depth * p.tpp < forkLen →
    exec (.seqFork ⟨acc, rivals⟩) s = .next (s.setNode acc fun m => { m with outcome := some (invalidAt 24) })) ∧
  (∀ (s : State) (acc want q forkLen : Nat) (rivals : List Nat) (n : Node) (p : Profile), liveNode s acc = some n → n.acc = acc →
    n.cmd = .seqFork want false q forkLen → q < 2 ^ 20 → arbitrate s q (acc :: rivals) = s → LockReady s n q →
    seqProfile s n.hdr.epoch q = some p →
    (want = 0xFFFFF ∨ (s.ctx want).state = .free) → forkLen ≤ (s.ctx q).length → anyPoisoned s q (List.range (s.ctx q).layers) = false →
    ptFree s (ringPt n.ring) < flushFrames s q p (stagedLayers s q) →
    ∃ t, exec (.seqFork ⟨acc, rivals⟩) s = .next t ∧ allocWaiting t acc = true ∧ (t.ctx q).lockOwner = some acc ∧ t.node acc = some n ∧
      t.seq.rows = s.seq.rows ∧ t.seq.stage = s.seq.stage ∧ t.mems = s.mems) ∧
  (∀ (s : State) (acc q : Nat) (zero : Bool) (rivals : List Nat) (n : Node), liveNode s acc = some n → n.acc = acc →
    n.cmd = .seqClose q zero → arbitrate s q (acc :: rivals) = s →
    ((LockReady s n q ∧ (s.ctx q).state = .open_) ∨
      (LeavesHome s ∧ (s.ctx q).lockOwner = some acc ∧ (s.ctx q).state = .closing)) →
    (s.ctx q).readers = 0 → (s.ctx q).layers ≤ 255 →
    ∃ t, exec (.seqClose ⟨acc, rivals⟩) s = .next t ∧ t.ctx q = {} ∧ (∀ l, l < (s.ctx q).layers → t.row q l = {}) ∧
      t.seq.cached.contains q = false ∧ Ended t acc {}) ∧
  (∀ (s : State) (acc q : Nat) (zero : Bool) (rivals : List Nat) (n : Node), liveNode s acc = some n → n.acc = acc →
    n.cmd = .seqClose q zero → arbitrate s q (acc :: rivals) = s → LockReady s n q →
    (s.ctx q).state = .open_ → (s.ctx q).readers ≠ 0 →
    ∃ t, exec (.seqClose ⟨acc, rivals⟩) s = .next t ∧ (t.ctx q).state = .closing ∧ (t.ctx q).lockOwner = some acc ∧ t.node acc = some n ∧
      t.mems = s.mems) ∧
  (∀ (s : State) (acc q : Nat) (zero : Bool) (rivals : List Nat) (n : Node), liveNode s acc = some n → n.cmd = .seqClose q zero →
    n.acc = acc → (s.ctx q).lockOwner = some acc → (s.ctx q).state = .closing → (s.ctx q).readers ≠ 0 →
    exec (.seqClose ⟨acc, rivals⟩) s = .next s)

/-- APPEND and FLUSH (after R101 to R103, R116), not contended, with no leaf away. An APPEND whose position is right, whose layer is not poisoned and has
room, and whose frames, granules and operands are at hand puts its NTOK tokens into its layer and ends OK with the lock free. A FLUSH of one layer
that is not poisoned, or of all, whose writes succeed ends with the lock free: OK, or POISONED where a layer or a page was found poisoned. `u` is the
state that the writes leave. A map that leaves the partition no tile ends both with NOSPACE; a poisoned layer ends an APPEND, and a FLUSH of it alone,
POISONED; an APPEND past the layer's 15,360 pages ends NOSPACE; keys that cannot be read end it with their outcome; none of these changes a layer.
With too few frames or granules the command waits with its lock. -/
def Obligations.AppendAndFlush : Prop :=
  (∀ (s s' u : State) (acc : Nat) (rivals : List Nat) (n : Node) (a : AppendCmd) (p : Profile) (kb vb : List Byte) (pl : AppendPlan),
    liveNode s acc = some n → n.acc = acc → n.cmd = .append a → arbitrate s a.seq (acc :: rivals) = s → LockReady s n a.seq →
    nodeTiles s n ≠ [] → s' = takeLock (assignTile s n a.seq) a.seq acc n.ring → seqProfile s n.hdr.epoch a.seq = some p →
    (a.pos0 = 0xFFFFFFFF ∨ a.pos0 = (s.row a.seq a.layer).tokens) → (s.row a.seq a.layer).poisoned = false →
    (s.row a.seq a.layer).tokens + a.ntok ≤ 15360 * p.tpp →
    pl = appendPlan p.tpp (tailFill s' a.seq a.layer p.tpp) (s.row a.seq a.layer).staged a.ntok →
    appendPages s' a.seq a.layer p.tpp pl a.flushAfter * p.framesPerPage ≤ ptFree s' (ringPt n.ring) →
    granules p (if pl.toTail ≠ 0 ∨ pl.pages ≠ 0 then pl.rest else (s.row a.seq a.layer).staged + pl.rest) ≤
      granulesFor s' a.seq a.layer (decide (pl.toTail ≠ 0 ∨ pl.pages ≠ 0)) →
    readRef s' n a.kRef (srcBytes a.kFmt a.ntok p.kvh p.hdim) = .ok kb → readRef s' n a.vRef (srcBytes a.vFmt a.ntok p.kvh p.hdim) = .ok vb →
    appendWrite s' n a p pl
      (appendToks p n.seed a.seq a.layer (s.row a.seq a.layer).tokens a.ntok a.kFmt a.vFmt kb vb).1 = .done u → u.node acc = some n →
    ∃ t, exec (.append acc rivals) s = .next t ∧ Ended t acc {} ∧ (t.row a.seq a.layer).tokens = (u.row a.seq a.layer).tokens + a.ntok ∧
      t.seq.stage = u.seq.stage ∧ (t.ctx a.seq).lockOwner = none ∧
      (t.ctx a.seq).tokensIn = ((u.ctx a.seq).tokensIn + a.ntok) % 2 ^ 64 ∧ (u.rec_.running = [] → t.mems = u.mems)) ∧
  (∀ (s u : State) (acc q layer : Nat) (b : Bool) (rivals : List Nat) (n : Node) (p : Profile) (ls : List Nat), liveNode s acc = some n →
    n.acc = acc → n.cmd = .flush q layer → arbitrate s q (acc :: rivals) = s → LockReady s n q → nodeTiles s n ≠ [] →
    seqProfile s n.hdr.epoch q = some p → (layer = 0xFF ∨ (s.row q layer).poisoned = false) →
    ls = (stagedLayers s q).filter (fun l => (if layer = 0xFF then List.range (s.ctx q).layers else [layer]).contains l
      && !(s.row q l).poisoned) →
    flushFrames s q p ls ≤ ptFree s (ringPt n.ring) →
    flushLayers (takeLock s q acc n.ring) q (flushPage (takeLock s q acc n.ring) n q p) n.seed true ls = (.done u, b) →
    u.node acc = some n →
    ∃ t, exec (.flush ⟨acc, rivals⟩) s = .next t ∧
      Ended t acc (if anyPoisoned s q (if layer = 0xFF then List.range (s.ctx q).layers else [layer]) = true ∨ b = true
        then failWith .poisoned else {}) ∧
      (t.ctx q).lockOwner = none ∧ t.seq.stage = u.seq.stage ∧ t.seq.rows = u.seq.rows ∧ t.mems = u.mems) ∧
  (∀ (s : State) (acc q : Nat) (rivals : List Nat) (n : Node) (c : Instr), liveNode s acc = some n → n.acc = acc →
    lockSeq n.cmd = some q →
    ((∃ a, n.cmd = .append a ∧ c = .append acc rivals) ∨ (∃ l, n.cmd = .flush q l ∧ c = .flush ⟨acc, rivals⟩)) →
    arbitrate s q (acc :: rivals) = s → LockReady s n q → nodeTiles s n = [] →
    ∃ t, exec c s = .next t ∧ Ended t acc (failWith .nospace) ∧ t.seq = s.seq ∧ t.mems = s.mems) ∧
  (∀ (s : State) (acc : Nat) (rivals : List Nat) (n : Node) (a : AppendCmd) (p : Profile) (c : Comp), liveNode s acc = some n →
    n.acc = acc → n.cmd = .append a → arbitrate s a.seq (acc :: rivals) = s → LockReady s n a.seq → nodeTiles s n ≠ [] →
    seqProfile s n.hdr.epoch a.seq = some p → (a.pos0 = 0xFFFFFFFF ∨ a.pos0 = (s.row a.seq a.layer).tokens) →
    (((s.row a.seq a.layer).poisoned = true ∧ c = failWith .poisoned) ∨
      ((s.row a.seq a.layer).poisoned = false ∧ 15360 * p.tpp < (s.row a.seq a.layer).tokens + a.ntok ∧ c = failWith .nospace)) →
    ∃ t, exec (.append acc rivals) s = .next t ∧ Ended t acc c ∧ (t.ctx a.seq).lockOwner = none ∧ t.seq.rows = s.seq.rows ∧
      t.seq.stage = s.seq.stage ∧ t.mems = s.mems) ∧
  (∀ (s : State) (acc q layer : Nat) (rivals : List Nat) (n : Node) (p : Profile), liveNode s acc = some n → n.acc = acc →
    n.cmd = .flush q layer → arbitrate s q (acc :: rivals) = s → LockReady s n q → nodeTiles s n ≠ [] →
    seqProfile s n.hdr.epoch q = some p → layer ≠ 0xFF → (s.row q layer).poisoned = true →
    ∃ t, exec (.flush ⟨acc, rivals⟩) s = .next t ∧ Ended t acc (failWith .poisoned) ∧ (t.ctx q).lockOwner = none ∧
      t.seq.rows = s.seq.rows ∧ t.seq.stage = s.seq.stage ∧ t.mems = s.mems) ∧
  (∀ (s s' v : State) (acc : Nat) (rivals : List Nat) (n : Node) (a : AppendCmd) (p : Profile) (pl : AppendPlan) (c : Comp),
    liveNode s acc = some n → n.acc = acc → n.cmd = .append a → arbitrate s a.seq (acc :: rivals) = s → LockReady s n a.seq →
    nodeTiles s n ≠ [] → s' = takeLock (assignTile s n a.seq) a.seq acc n.ring → seqProfile s n.hdr.epoch a.seq = some p →
    (a.pos0 = 0xFFFFFFFF ∨ a.pos0 = (s.row a.seq a.layer).tokens) → (s.row a.seq a.layer).poisoned = false →
    (s.row a.seq a.layer).tokens + a.ntok ≤ 15360 * p.tpp →
    pl = appendPlan p.tpp (tailFill s' a.seq a.layer p.tpp) (s.row a.seq a.layer).staged a.ntok →
    appendPages s' a.seq a.layer p.tpp pl a.flushAfter * p.framesPerPage ≤ ptFree s' (ringPt n.ring) →
    granules p (if pl.toTail ≠ 0 ∨ pl.pages ≠ 0 then pl.rest else (s.row a.seq a.layer).staged + pl.rest) ≤
      granulesFor s' a.seq a.layer (decide (pl.toTail ≠ 0 ∨ pl.pages ≠ 0)) →
    readRef s' n a.kRef (srcBytes a.kFmt a.ntok p.kvh p.hdim) = .error (v, c) →
    ∃ t, exec (.append acc rivals) s = .next t ∧ Ended t acc c ∧ (t.ctx a.seq).lockOwner = none ∧ t.seq.rows = s.seq.rows ∧
      t.seq.stage = s.seq.stage) ∧
  (∀ (s s' : State) (acc : Nat) (rivals : List Nat) (n : Node) (a : AppendCmd) (p : Profile) (pl : AppendPlan),
    liveNode s acc = some n → n.acc = acc → n.cmd = .append a → arbitrate s a.seq (acc :: rivals) = s → LockReady s n a.seq →
    nodeTiles s n ≠ [] → s' = takeLock (assignTile s n a.seq) a.seq acc n.ring → seqProfile s n.hdr.epoch a.seq = some p →
    (a.pos0 = 0xFFFFFFFF ∨ a.pos0 = (s.row a.seq a.layer).tokens) → (s.row a.seq a.layer).poisoned = false →
    (s.row a.seq a.layer).tokens + a.ntok ≤ 15360 * p.tpp →
    pl = appendPlan p.tpp (tailFill s' a.seq a.layer p.tpp) (s.row a.seq a.layer).staged a.ntok →
    (ptFree s' (ringPt n.ring) < appendPages s' a.seq a.layer p.tpp pl a.flushAfter * p.framesPerPage ∨
      granulesFor s' a.seq a.layer (decide (pl.toTail ≠ 0 ∨ pl.pages ≠ 0)) <
        granules p (if pl.toTail ≠ 0 ∨ pl.pages ≠ 0 then pl.rest else (s.row a.seq a.layer).staged + pl.rest)) →
    ∃ t, exec (.append acc rivals) s = .next t ∧ allocWaiting t acc = true ∧ (t.ctx a.seq).lockOwner = some acc ∧
      t.node acc = some n ∧ t.seq.rows = s.seq.rows ∧ t.seq.stage = s.seq.stage ∧ t.mems = s.mems) ∧
  (∀ (s : State) (acc q layer : Nat) (rivals : List Nat) (n : Node) (p : Profile) (ls : List Nat), liveNode s acc = some n →
    n.acc = acc → n.cmd = .flush q layer → arbitrate s q (acc :: rivals) = s → LockReady s n q → nodeTiles s n ≠ [] →
    seqProfile s n.hdr.epoch q = some p → (layer = 0xFF ∨ (s.row q layer).poisoned = false) →
    ls = (stagedLayers s q).filter (fun l => (if layer = 0xFF then List.range (s.ctx q).layers else [layer]).contains l
      && !(s.row q l).poisoned) →
    ptFree s (ringPt n.ring) < flushFrames s q p ls →
    ∃ t, exec (.flush ⟨acc, rivals⟩) s = .next t ∧ allocWaiting t acc = true ∧ (t.ctx q).lockOwner = some acc ∧
      t.node acc = some n ∧ t.seq.rows = s.seq.rows ∧ t.seq.stage = s.seq.stage ∧ t.mems = s.mems)

/-- The position of an APPEND (R51): an APPEND that begins with POS0 other than 0xFFFF_FFFF and than the number of tokens that its layer holds completes
with INVALID and that number in RESULT, holds no lock, and changes no sequence, no staged token, no page, no entry, no profile and no memory. -/
def Obligations.AppendPositionIsChecked : Prop :=
  ∀ (s : State) (acc : Nat) (rivals : List Nat) (n : Node) (a : AppendCmd) (p : Profile),
    liveNode s acc = some n → n.acc = acc → n.cmd = .append a → arbitrate s a.seq (acc :: rivals) = s → LockReady s n a.seq →
    nodeTiles s n ≠ [] → seqProfile s n.hdr.epoch a.seq = some p → a.pos0 ≠ 0xFFFFFFFF →
    a.pos0 ≠ (s.row a.seq a.layer).tokens →
    ∃ t, exec (.append acc rivals) s = .next t ∧ Ended t acc (invalidAt 24 0 (s.row a.seq a.layer).tokens) ∧
      (∀ r, t.ctx r = s.ctx r) ∧ t.seq.rows = s.seq.rows ∧ t.seq.stage = s.seq.stage ∧ t.seq.locs = s.seq.locs ∧ t.chn = s.chn ∧
      t.blw = s.blw ∧ t.dep.cfg = s.dep.cfg ∧ t.mems = s.mems

/-- The append lock (R68): a command that needs a sequence's append lock, and finds it held by another command as it begins, ends at once with BUSY and
changes no sequence, page, directory slot, key or memory: an APPEND, a FLUSH, a SEQ_CLOSE, a SEQ_FORK of the sequence, a PREFIX_PUBLISH and a WARM,
whatever other commands try the lock in the cycle. -/
def Obligations.HeldLockGivesBusy : Prop :=
  ∀ (s : State) (acc q b : Nat) (rivals : List Nat) (n : Node), liveNode s acc = some n → n.acc = acc → s.node acc = some n →
    beginCheck s n = none → s.seq.cached.contains q = true → (s.ctx q).lockOwner = some b → b ≠ acc →
    ∀ c : Instr,
      ((∃ a, n.cmd = .append a ∧ a.seq = q ∧ c = .append acc rivals) ∨ (∃ l, n.cmd = .flush q l ∧ c = .flush ⟨acc, rivals⟩) ∨
        (∃ z, n.cmd = .seqClose q z ∧ c = .seqClose ⟨acc, rivals⟩) ∨
        (∃ w f, n.cmd = .seqFork w false q f ∧ q < 2 ^ 20 ∧ c = .seqFork ⟨acc, rivals⟩) ∨
        (∃ b p pin r k, n.cmd = .prefixPublish q b p pin r k ∧ pinWaits s acc = false ∧ sweeping s (ringPt n.ring) 5 = false ∧
          c = .prefixPublish ⟨acc, rivals⟩) ∨
        (∃ tl k i o, n.cmd = .warm q tl k i o ∧ allocWaiting s acc = false ∧
          (∀ x, warmOpOf s acc = some x → x.pages = [] ∧ x.seq = q) ∧ c = .warm ⟨acc, rivals⟩)) →
      ∃ t, exec c s = .next t ∧ Ended t acc (failWith .busy) ∧ t.seq = s.seq ∧ t.chn = s.chn ∧ t.blw = s.blw ∧ t.mems = s.mems ∧
        t.fab = s.fab

/-- The append lock in one cycle (after R69): where two or more commands that pass their checks try a free lock in the same cycle, one of them, on the
ring that the lock's pointer chooses and first accepted there, holds it, the pointer stands after that ring, and every other ends with BUSY. The row
of one that lost does just that; the row of the winner does what it does alone where the others have so ended. Among these commands are APPEND, FLUSH,
SEQ_FORK of a sequence, SEQ_CLOSE, PREFIX_PUBLISH and WARM. Waits (after R87, R102, R260): a fetched context stands in the cache, and no context
changes; a fetch that is not outstanding changes nothing. A FLUSH, SEQ_FORK, APPEND or GET that waited for frames or granules goes on as its own row
would now. At the end of ALLOC_WAIT_US a command that waits, other than a WARM, ends with NOSPACE, waits no longer and holds its lock no longer; one
that does not wait stays as it is. The unit's own flushes (after R101, R103, R108), with no leaf away and no replay running. The oldest entry of a
tile below its reserve whose tail page does not move, an idle entry, and the entries of a partition that loses the tile are flushed; a flush that
cannot begin is held, or for the reserve passed over, and leaves the entry staged. A tile at its reserve, an IDLE_US of 0, and a tile that the
partition keeps change nothing. A flush that succeeds leaves nothing of the layer staged. -/
def Obligations.WaitsAndOwnFlushes : Prop :=
  (∀ (s : State) (acc q r : Nat) (rivals : List Nat) (n w m : Node) (c : Instr), liveNode s acc = some n → lockSeq n.cmd = some q →
    n.acc = acc →
    (c = .append acc rivals ∨ c = .flush ⟨acc, rivals⟩ ∨ c = .seqFork ⟨acc, rivals⟩ ∨ c = .seqClose ⟨acc, rivals⟩ ∨ c = .prefixPublish ⟨acc, rivals⟩ ∨
      c = .warm ⟨acc, rivals⟩) →
    (s.ctx q).lockOwner = none → windowBinds s q = false → n ∈ contenders s q (acc :: rivals) → m ∈ contenders s q (acc :: rivals) →
    m.acc ≠ acc → ptrPick 2048 (s.ctx q).lockPtr ((contenders s q (acc :: rivals)).map (·.ring)) = some r →
    minBy (·.acc) ((contenders s q (acc :: rivals)).filter (·.ring == r)) = some w → w.acc ≠ acc →
    (∀ x ∈ contenders s q (acc :: rivals), s.node x.acc = some x) →
    ∃ t, exec c s = .next t ∧ (t.ctx q).lockOwner = some w.acc ∧ (t.ctx q).lockPtr = ptrNext 2048 r ∧ t.node w.acc = some w ∧
      (∀ x ∈ contenders s q (acc :: rivals), x.acc ≠ w.acc → Ended t x.acc (failWith .busy)) ∧ t.mems = s.mems ∧
      t.seq.rows = s.seq.rows) ∧
  (∀ (s : State) (acc q : Nat) (rivals : List Nat) (n : Node), liveNode s acc = some n → lockSeq n.cmd = some q → n.acc = acc →
    s.node acc = some n → ((arbitrate s q (acc :: rivals)).ctx q).lockOwner = some acc →
    exec (.append acc rivals) s = exec (.append acc []) (arbitrate s q (acc :: rivals)) ∧
    exec (.flush ⟨acc, rivals⟩) s = exec (.flush ⟨acc, []⟩) (arbitrate s q (acc :: rivals)) ∧
    exec (.seqFork ⟨acc, rivals⟩) s = exec (.seqFork ⟨acc, []⟩) (arbitrate s q (acc :: rivals)) ∧
    exec (.seqClose ⟨acc, rivals⟩) s = exec (.seqClose ⟨acc, []⟩) (arbitrate s q (acc :: rivals)) ∧
    exec (.prefixPublish ⟨acc, rivals⟩) s = exec (.prefixPublish ⟨acc, []⟩) (arbitrate s q (acc :: rivals)) ∧
    exec (.warm ⟨acc, rivals⟩) s = exec (.warm ⟨acc, []⟩) (arbitrate s q (acc :: rivals))) ∧
  (∀ (s : State) (q : Nat), s.boot.fatal = false → s.seq.fetching.contains q = true →
    ∃ t, exec (.ctxFetchDone q) s = .next t ∧ t.seq.fetching.contains q = false ∧ t.seq.cached.contains q = true ∧
      t.seq.ctxs = s.seq.ctxs ∧ t.seq.rows = s.seq.rows ∧ t.dep = s.dep ∧ t.mems = s.mems) ∧
  (∀ (s : State) (q : Nat), s.seq.fetching.contains q = false → exec (.ctxFetchDone q) s = .next s) ∧
  (∀ (s : State) (acc : Nat) (n : Node), liveNode s acc = some n → n.acc = acc → allocWaiting s acc = true → LeavesHome s →
    ((∃ q l, n.cmd = .flush q l) → ∃ t, exec (.allocWaitGranted acc) s = .next t ∧ exec (.flush ⟨acc, []⟩) s = .next t) ∧
    ((∃ w h p l, n.cmd = .seqFork w h p l) → ∃ t, exec (.allocWaitGranted acc) s = .next t ∧ exec (.seqFork ⟨acc, []⟩) s = .next t) ∧
    ((∃ a, n.cmd = .append a) → ∃ t, exec (.allocWaitGranted acc) s = .next t ∧ exec (.append acc []) s = .next t) ∧
    (∀ x, n.cmd = .getPage x → exec (.allocWaitGranted acc) s = .next (runGet s n x))) ∧
  (∀ (s : State) (acc : Nat) (w : AllocWait) (n : Node), liveNode s acc = some n → n.acc = acc →
    (∀ q t k i o, n.cmd ≠ .warm q t k i o) → s.seq.allocWaits.find? (fun w => w.acc == acc) = some w →
    ∃ t, exec (.allocWaitTimeout acc) s = .next t ∧ Ended t acc (failWith .nospace) ∧ allocWaiting t acc = false ∧
      (∀ q, lockSeq n.cmd = some q → (t.ctx q).lockOwner ≠ some acc) ∧
      t.time = (s.reach w.until_).time ∧ t.seq.rows = s.seq.rows ∧ t.seq.stage = s.seq.stage) ∧
  (∀ (s : State) (acc : Nat), (liveNode s acc).all (·.acc == acc) = true → allocWaiting s acc = false →
    exec (.allocWaitGranted acc) s = .next s ∧ exec (.allocWaitTimeout acc) s = .next s) ∧
  (∀ (s u : State) (tile : Nat) (e : Nat × StageEntry), s.boot.fatal = false → s.rec_.replay ≠ 1 → LeavesHome s →
    freeGranules s tile < bits (s.reg pgSeq 0x22C) 16 9 →
    minBy (fun e : Nat × StageEntry => e.2.lastAppend) (s.seq.stage.filter fun e => e.2.tile == tile && !tailHeld s e.1) = some e →
    selfFlush s (e.1 / 256) (e.1 % 256) 0 = some u →
    exec (.selfFlushReserve tile) s = .next u) ∧
  (∀ (s : State) (tile : Nat) (e : Nat × StageEntry), s.boot.fatal = false → s.rec_.replay ≠ 1 → LeavesHome s →
    freeGranules s tile < bits (s.reg pgSeq 0x22C) 16 9 →
    minBy (fun e : Nat × StageEntry => e.2.lastAppend) (s.seq.stage.filter fun e => e.2.tile == tile && !tailHeld s e.1) = some e →
    selfFlush s (e.1 / 256) (e.1 % 256) 0 = none →
    ∃ t, exec (.selfFlushReserve tile) s = .next t ∧ t.seq.stage = s.seq.stage ∧
      (tailLow s (e.1 / 256) (e.1 % 256) = true → (t.seq.heldFlush.any fun k => k.1 == e.1) = true)) ∧
  (∀ (s : State) (tile : Nat), (bits (s.reg pgSeq 0x22C) 16 9 ≤ freeGranules s tile ∨
      (s.seq.stage.filter fun e => e.2.tile == tile && !tailHeld s e.1) = []) → exec (.selfFlushReserve tile) s = .next s) ∧
  (∀ (s : State) (q l : Nat) (e : StageEntry), s.boot.fatal = false → s.rec_.replay ≠ 1 → LeavesHome s → stageOf s q l = some e →
    bits (s.reg pgSeq 0x22C) 0 16 ≠ 0 →
    ∃ t, exec (.idleFlush q l) s = .next t ∧
      (∀ u, selfFlush (s.reach (e.lastAppend + bits (s.reg pgSeq 0x22C) 0 16 * 1000)) q l 1 = some u → t = u) ∧
      (selfFlush (s.reach (e.lastAppend + bits (s.reg pgSeq 0x22C) 0 16 * 1000)) q l 1 = none →
        (t.seq.heldFlush.any fun k => k.1 == q * 256 + l) = true ∧ t.seq.stage = s.seq.stage)) ∧
  (∀ (s : State) (q l : Nat), (stageOf s q l = none ∨ bits (s.reg pgSeq 0x22C) 0 16 = 0) → exec (.idleFlush q l) s = .next s) ∧
  (∀ (s : State) (tile pt : Nat), s.boot.fatal = false → s.rec_.replay ≠ 1 → LeavesHome s → bit s.dep.lag 3 = true →
    bit (lget s.dep.cfg.pmap.pts pt {}).tiles tile = false →
    exec (.mapCommitFlush tile pt) s = .next ((s.seq.stage.filter fun e => e.2.tile == tile && e.2.pt == pt).foldl
      (fun s e => (selfFlush s (e.1 / 256) (e.1 % 256) 2).getD (holdFlush s (e.1 / 256) (e.1 % 256) 2)) s)) ∧
  (∀ (s : State) (tile pt : Nat), (bit s.dep.lag 3 = false ∨ bit (lget s.dep.cfg.pmap.pts pt {}).tiles tile = true) →
    exec (.mapCommitFlush tile pt) s = .next s) ∧
  (∀ (s u : State) (q l cause : Nat) (e : StageEntry) (p : Profile), stageOf s q l = some e →
    tget s.dep.cfg.profiles (s.ctx q).profile = some p → (s.row q l).poisoned = false →
    (needsPage s q l p.tpp = true → p.framesPerPage ≤ ptFree s (s.ctx q).pt) →
    flushLayer s q l { prof := p, profId := (s.ctx q).profile, seq := q, layer := l, pos := 0, epoch := s.dep.epoch, home := e.tile }
      (ptSeed s (s.ctx q).pt) false = .done u →
    ∃ t, selfFlush s q l cause = some t ∧ stageOf t q l = none ∧ t.seq.rows = u.seq.rows ∧
      (t.seq.heldFlush.any fun k => k.1 == q * 256 + l) = false)

/-! ### The prefix store -/

/-- PREFIX_LOOKUP (after R140, R141): one whose chain search ends at depth 0, or whose chain is SPOILED from depth 1 on, completes OK and takes no
reference; one that finds a chain reports the depth above the shallowest SPOILED entry in DETAIL0 and that entry's handle in DETAIL1, and with PIN
takes one reference on it. `u` is the state after the search. With the directory disabled it ends NOSPACE and changes nothing else; with an output
area that the records leave it ends PERM and takes no reference. -/
def Obligations.LookupFindsThePrefix : Prop :=
  (∀ (s u : State) (acc prof blocks tokRef outRef : Nat) (pin : Bool) (n : Node) (p : Profile) (bs : List Byte) (hs : List Nat),
    liveNode s acc = some n → n.acc = acc → n.cmd = .prefixLookup prof blocks pin tokRef outRef → beginCheck s n = none →
    profileAt s n.hdr.epoch prof = some p → dirEn s = true → readRef s n tokRef (blocks * p.tpp * 4) = .ok bs →
    hs = chainHashes (saltOf s (ringPt n.ring)) prof (4 * p.tpp) blocks 0 bs →
    inClass s 0 ((dirTable s).1 + 256 * (lget hs 0 0 / 2 ^ 32 % 2 ^ (dirLog2 s - 2))) 256 = true →
    chainDepth s (ringPt n.ring) hs = (0, u) →
    ∃ t, exec (.prefixLookup acc) s = .next t ∧ Ended t acc {} ∧ t.chn = u.chn ∧ t.mems = s.mems) ∧
  (∀ (s u : State) (acc prof blocks tokRef outRef d k i top : Nat) (pin : Bool) (n : Node) (p : Profile) (bs : List Byte) (hs : List Nat),
    liveNode s acc = some n → n.acc = acc → n.cmd = .prefixLookup prof blocks pin tokRef outRef → beginCheck s n = none →
    profileAt s n.hdr.epoch prof = some p → dirEn s = true → readRef s n tokRef (blocks * p.tpp * 4) = .ok bs →
    hs = chainHashes (saltOf s (ringPt n.ring)) prof (4 * p.tpp) blocks 0 bs →
    inClass s 0 ((dirTable s).1 + 256 * (lget hs 0 0 / 2 ^ 32 % 2 ^ (dirLog2 s - 2))) 256 = true →
    chainDepth s (ringPt n.ring) hs = (k, u) → k ≠ 0 → dirFind u (ringPt n.ring) (lget hs (k - 1) 0) k = some i →
    d = unspoiled u (chainSlots u k i) → ((chainSlots u k i).take d).getLast? = some top →
    refInArea s n.hdr (ringPt n.ring) outRef (cpnRecords u ((chainSlots u k i).take d)).length = true →
    ∃ t, exec (.prefixLookup acc) s = .next t ∧ Ended t acc { detail0 := d, detail1 := handleOf u top } ∧
      (t.slot top).refs = (u.slot top).refs + b2n pin ∧ (∀ j, j ≠ top → t.slot j = u.slot j) ∧ t.chn.banks = u.chn.banks) ∧
  (∀ (s u : State) (acc prof blocks tokRef outRef k i : Nat) (pin : Bool) (n : Node) (p : Profile) (bs : List Byte) (hs : List Nat),
    liveNode s acc = some n → n.acc = acc → n.cmd = .prefixLookup prof blocks pin tokRef outRef → beginCheck s n = none →
    profileAt s n.hdr.epoch prof = some p → dirEn s = true → readRef s n tokRef (blocks * p.tpp * 4) = .ok bs →
    hs = chainHashes (saltOf s (ringPt n.ring)) prof (4 * p.tpp) blocks 0 bs →
    inClass s 0 ((dirTable s).1 + 256 * (lget hs 0 0 / 2 ^ 32 % 2 ^ (dirLog2 s - 2))) 256 = true →
    chainDepth s (ringPt n.ring) hs = (k, u) → k ≠ 0 → dirFind u (ringPt n.ring) (lget hs (k - 1) 0) k = some i →
    (unspoiled u (chainSlots u k i) = 0 ∨
      refInArea s n.hdr (ringPt n.ring) outRef
        (cpnRecords u ((chainSlots u k i).take (unspoiled u (chainSlots u k i)))).length = false) →
    ∃ t, exec (.prefixLookup acc) s = .next t ∧
      Ended t acc (if (chainSlots u k i).take (unspoiled u (chainSlots u k i)) = [] then {} else failWith .perm) ∧ t.chn = u.chn ∧
      t.mems = s.mems) ∧
  (∀ (s : State) (acc prof blocks tokRef outRef : Nat) (pin : Bool) (n : Node) (p : Profile), liveNode s acc = some n → n.acc = acc →
    n.cmd = .prefixLookup prof blocks pin tokRef outRef → beginCheck s n = none → profileAt s n.hdr.epoch prof = some p →
    dirEn s = false → exec (.prefixLookup acc) s = .next (s.setNode acc fun m => { m with outcome := some (failWith .nospace) }))

/-- PREFIX_PUBLISH (after R143 to R146), not contended, with no leaf away and no scrub sweep of its partition running. One without POOL that passes its
checks leaves the entries that its depths need; without PIN, or with PIN where the deepest entry is in the CAM or may not be placed in its bank, it
ends OK with the deepest entry's handle; with PIN otherwise it waits for a pass that pins that entry. Either way it gives the append lock back. One
with POOL makes the entries and goes on with its pool step. `u` is the state after the search, `v` the one after the entries: each is LIVE, of the
partition, with its hash, depth, profile and the pages of its block in every layer, the next one's parent. The directory disabled ends it NOSPACE, a
page that is missing, not full or poisoned with the outcome of R143's checks, pages that are published already INVALID at byte 32, no slot NOSPACE,
and no room for a pass in the bank BUSY; then the lock is free. -/
def Obligations.PublishMakesEntries : Prop :=
  (∀ (s u v : State) (acc q blocks region tokRef e parent top : Nat) (pin pinned : Bool) (rivals : List Nat) (n : Node) (p : Profile)
      (bs : List Byte) (hs slots : List Nat),
    liveNode s acc = some n → n.acc = acc → n.cmd = .prefixPublish q blocks false pin region tokRef → pinWaits s acc = false →
    sweeping s (ringPt n.ring) 5 = false → arbitrate s q (acc :: rivals) = s → LockReady s n q →
    seqProfile s n.hdr.epoch q = some p → dirEn s = true → publishBad s q blocks p.tpp = none →
    readRef s n tokRef (blocks * p.tpp * 4) = .ok bs →
    hs = chainHashes (saltOf s (ringPt n.ring)) (s.ctx q).profile (4 * p.tpp) blocks 0 bs →
    inClass s 0 ((dirTable s).1 + 256 * (lget hs 0 0 / 2 ^ 32 % 2 ^ (dirLog2 s - 2))) 256 = true →
    chainDepth (takeLock s q acc n.ring) (ringPt n.ring) hs = (e, u) →
    parent = (if e = 0 then 0x3FFFFFF else (dirFind u (ringPt n.ring) (lget hs (e - 1) 0) e).getD 0x3FFFFFF) →
    ((List.range (blocks - e)).map (· + e)).any (fun i => (blockCpns u q i).any fun c => (u.loc c).published) = false →
    (mayPlace u (ringPt n.ring) (chainBank (lget hs 0 0)) = true → (e < blocks ∨ pin = true) →
      camRoom u (chainBank (lget hs 0 0)) = true) →
    publishEntries u (ringPt n.ring) q (u.ctx q).profile (hs.drop e) (e + 1) parent [] = some (slots, v) → v.node acc = some n →
    top = (if e < blocks then slots.getLast?.getD parent
      else (dirFind v (ringPt n.ring) (lget hs (blocks - 1) 0) blocks).getD parent) →
    pinned = (pin && !(v.slot top).inCam && mayPlace v (ringPt n.ring) (chainBank (lget hs 0 0))) →
    ∃ t, exec (.prefixPublish ⟨acc, rivals⟩) s = .next t ∧ (t.ctx q).lockOwner = none ∧ t.mems = v.mems ∧
      (pinned = false → Ended t acc { result := handleOf v top }) ∧ (pinned = false → pin = true → (t.slot top).pinned = true) ∧
      (pin = false → t.chn.dir = v.chn.dir) ∧ (pinned = true → t.node acc = some n ∧ t.chn.dir = v.chn.dir) ∧
      (pinned = true → chainBank (lget hs 0 0) < v.chn.banks.length → pinWaits t acc = true)) ∧
  (∀ (s v : State) (pt q prof depth parent : Nat) (hs slots : List Nat), 0 < depth →
    publishEntries s pt q prof hs depth parent [] = some (slots, v) → ∀ (j h : Nat), hs[j]? = some h →
      ∃ i, slots[j]? = some i ∧ (v.slot i).state = .live ∧ (v.slot i).pt = pt ∧ (v.slot i).hash = h ∧ (v.slot i).depth = depth + j ∧
        (v.slot i).profile = prof ∧ (v.slot i).cpns = blockCpns s q (depth - 1 + j) ∧
        (v.slot i).parent = (if j = 0 then parent else slots.getD (j - 1) 0)) ∧
  (∀ (s v : State) (acc q blocks region tokRef top : Nat) (pin : Bool) (rivals : List Nat) (n : Node) (p : Profile) (bs : List Byte)
      (hs slots : List Nat),
    liveNode s acc = some n → n.acc = acc → n.cmd = .prefixPublish q blocks true pin region tokRef → pinWaits s acc = false →
    sweeping s (ringPt n.ring) 5 = false → arbitrate s q (acc :: rivals) = s → LockReady s n q →
    seqProfile s n.hdr.epoch q = some p → dirEn s = true → (openVersion s (ringPt n.ring) region).isSome = true →
    publishBad s q blocks p.tpp = none → readRef s n tokRef (blocks * p.tpp * 4) = .ok bs →
    hs = chainHashes (saltOf s (ringPt n.ring)) (s.ctx q).profile (4 * p.tpp) blocks 0 bs →
    inClass s 0 ((dirTable s).1 + 256 * (lget hs 0 0 / 2 ^ 32 % 2 ^ (dirLog2 s - 2))) 256 = true →
    publishLocal (takeLock s q acc n.ring) n q blocks true pin hs = .pool v top slots →
    exec (.prefixPublish ⟨acc, rivals⟩) s = .next (poolStep n region v top slots)) ∧
  (∀ (s : State) (acc q blocks region tokRef : Nat) (pin : Bool) (rivals : List Nat) (n : Node) (p : Profile) (c : Comp),
    liveNode s acc = some n → n.acc = acc → n.cmd = .prefixPublish q blocks false pin region tokRef → pinWaits s acc = false →
    sweeping s (ringPt n.ring) 5 = false → arbitrate s q (acc :: rivals) = s → LockReady s n q → seqProfile s n.hdr.epoch q = some p →
    ((dirEn s = false ∧ c = failWith .nospace) ∨ (dirEn s = true ∧ publishBad s q blocks p.tpp = some c)) →
    exec (.prefixPublish ⟨acc, rivals⟩) s = .next (s.setNode acc fun m => { m with outcome := some c })) ∧
  (∀ (s u : State) (acc q blocks region tokRef e parent : Nat) (pin : Bool) (rivals : List Nat) (n : Node) (p : Profile)
      (bs : List Byte) (hs : List Nat) (c : Comp),
    liveNode s acc = some n → n.acc = acc → n.cmd = .prefixPublish q blocks false pin region tokRef → pinWaits s acc = false →
    sweeping s (ringPt n.ring) 5 = false → arbitrate s q (acc :: rivals) = s → LockReady s n q →
    seqProfile s n.hdr.epoch q = some p → dirEn s = true → publishBad s q blocks p.tpp = none →
    readRef s n tokRef (blocks * p.tpp * 4) = .ok bs →
    hs = chainHashes (saltOf s (ringPt n.ring)) (s.ctx q).profile (4 * p.tpp) blocks 0 bs →
    inClass s 0 ((dirTable s).1 + 256 * (lget hs 0 0 / 2 ^ 32 % 2 ^ (dirLog2 s - 2))) 256 = true →
    chainDepth (takeLock s q acc n.ring) (ringPt n.ring) hs = (e, u) →
    parent = (if e = 0 then 0x3FFFFFF else (dirFind u (ringPt n.ring) (lget hs (e - 1) 0) e).getD 0x3FFFFFF) →
    ((((List.range (blocks - e)).map (· + e)).any (fun i => (blockCpns u q i).any fun c => (u.loc c).published) = true ∧
        c = invalidAt 32) ∨
      (((List.range (blocks - e)).map (· + e)).any (fun i => (blockCpns u q i).any fun c => (u.loc c).published) = false ∧
        mayPlace u (ringPt n.ring) (chainBank (lget hs 0 0)) = true ∧ (e < blocks ∨ pin = true) ∧
        camRoom u (chainBank (lget hs 0 0)) = false ∧ c = failWith .busy) ∨
      (((List.range (blocks - e)).map (· + e)).any (fun i => (blockCpns u q i).any fun c => (u.loc c).published) = false ∧
        (mayPlace u (ringPt n.ring) (chainBank (lget hs 0 0)) = true → (e < blocks ∨ pin = true) →
          camRoom u (chainBank (lget hs 0 0)) = true) ∧
        publishEntries u (ringPt n.ring) q (u.ctx q).profile (hs.drop e) (e + 1) parent [] = none ∧ c = failWith .nospace)) →
    ∃ t, exec (.prefixPublish ⟨acc, rivals⟩) s = .next t ∧ Ended t acc c ∧ (t.ctx q).lockOwner = none ∧ t.chn = u.chn ∧ t.mems = s.mems)

/-- PREFIX_REF (after R130, R147). On a live handle of the partition, RELEASE takes one reference away; with none left it ends INVALID at byte 16. UNPIN
clears PINNED of the entry. PIN of an entry that is in the CAM, or may not be placed in its bank, sets PINNED. Each ends OK and changes no other
entry. A PIN of another entry asks its bank for an insertion and waits for it; a bank without room ends it BUSY. A handle that names no live entry
ends each INVALID at byte 16, and a check that fails as the command begins with its outcome; then nothing else changes. Salts and banks (after R126,
R136, R138, R151). A secure CHN_SALT write sets four bytes of the selected partition's salt while that partition holds no entry; while it holds one,
nothing changes and code 0x06 is logged. A pass of a bank makes way for the next one; the word of a pass of one word, where its bank has room and its
entry is still wanted, stands in the CAM; where the pass pins that entry, the entry is PINNED and the command that waits for it has ended OK. An idle
bank has no pass. A written CHN_BANK_CFG takes effect when no pass runs, and no other bank changes; while one runs nothing changes. -/
def Obligations.ReferencesSaltsAndBanks : Prop :=
  (∀ (s : State) (acc h i : Nat) (n : Node) (d : DirSlot), liveNode s acc = some n → n.acc = acc → n.cmd = .prefixRef h 2 →
    beginCheck s n = none → handleSlot s h = some (i, d) → 0 < d.refs →
    ∃ t, exec (.prefixRefRelease acc) s = .next t ∧ t.slot i = { d with refs := d.refs - 1 } ∧ (∀ j, j ≠ i → t.slot j = s.slot j) ∧
      Ended t acc {} ∧ t.chn.banks = s.chn.banks ∧ t.seq = s.seq ∧ t.mems = s.mems) ∧
  (∀ (s : State) (acc h i : Nat) (n : Node) (d : DirSlot), liveNode s acc = some n → n.acc = acc → n.cmd = .prefixRef h 2 →
    beginCheck s n = none → handleSlot s h = some (i, d) → d.refs = 0 →
    exec (.prefixRefRelease acc) s = .next (s.setNode acc fun m => { m with outcome := some (invalidAt 16) })) ∧
  (∀ (s : State) (acc h i : Nat) (n : Node) (d : DirSlot), liveNode s acc = some n → n.acc = acc → n.cmd = .prefixRef h 1 →
    beginCheck s n = none → handleSlot s h = some (i, d) →
    ∃ t, exec (.prefixRefUnpin acc) s = .next t ∧ t.slot i = { d with pinned := false } ∧ (∀ j, j ≠ i → t.slot j = s.slot j) ∧
      Ended t acc {} ∧ t.seq = s.seq ∧ t.mems = s.mems) ∧
  (∀ (s : State) (acc h i : Nat) (n : Node) (d : DirSlot), liveNode s acc = some n → n.acc = acc → n.cmd = .prefixRef h 0 →
    beginCheck s n = none → handleSlot s h = some (i, d) → pinWaits s acc = false →
    (d.inCam = true ∨ mayPlace s d.pt (chainBank (firstHash s i)) = false) →
    ∃ t, exec (.prefixRefPin acc) s = .next t ∧ t.slot i = { d with pinned := true } ∧ (∀ j, j ≠ i → t.slot j = s.slot j) ∧
      Ended t acc {} ∧ t.seq = s.seq ∧ t.mems = s.mems) ∧
  (∀ (s : State) (acc h i : Nat) (n : Node) (d : DirSlot), liveNode s acc = some n → n.acc = acc → n.cmd = .prefixRef h 0 →
    beginCheck s n = none → handleSlot s h = some (i, d) → pinWaits s acc = false → d.inCam = false →
    mayPlace s d.pt (chainBank (firstHash s i)) = true → camRoom s (chainBank (firstHash s i)) = true →
    exec (.prefixRefPin acc) s = .next (camQueue s (chainBank (firstHash s i))
      { pt := d.pt, words := [wordOf s (firstHash s i) i], pinSlot := some i, pinGen := d.gen, pinAcc := some acc })) ∧
  (∀ (s : State) (acc h i : Nat) (n : Node) (d : DirSlot), liveNode s acc = some n → n.acc = acc → n.cmd = .prefixRef h 0 →
    beginCheck s n = none → handleSlot s h = some (i, d) → pinWaits s acc = false → d.inCam = false →
    mayPlace s d.pt (chainBank (firstHash s i)) = true → camRoom s (chainBank (firstHash s i)) = false →
    ∃ t, exec (.prefixRefPin acc) s = .next t ∧ Ended t acc (failWith .busy) ∧ t.chn = s.chn ∧ t.seq = s.seq ∧ t.mems = s.mems) ∧
  (∀ (s : State) (acc h op : Nat) (n : Node) (c : Comp) (i : Instr), liveNode s acc = some n → n.acc = acc → n.cmd = .prefixRef h op →
    ((op = 0 ∧ i = .prefixRefPin acc) ∨ (op = 1 ∧ i = .prefixRefUnpin acc) ∨ (op = 2 ∧ i = .prefixRefRelease acc)) →
    (beginCheck s n = some c ∨ (beginCheck s n = none ∧ handleSlot s h = none ∧ c = invalidAt 16)) →
    exec i s = .next (s.setNode acc fun m => { m with outcome := some c })) ∧
  (∀ (s : State) (rq : Requester) (idx : Nat) (val : Word), s.boot.fatal = false → rq.secure = true → rq.src < 4 →
    dirUse s (s.reg pgChn 0x20C) = 0 →
    exec (.chnSalt rq idx val) s = .next { s with chn := { s.chn with
      salt := lmod s.chn.salt (s.reg pgChn 0x20C) (fun b => poke b (4 * idx) (toLe 4 val.toNat)),
      saltSrc := lset s.chn.saltSrc (s.reg pgChn 0x20C) true } }) ∧
  (∀ (s : State) (rq : Requester) (idx : Nat) (val : Word), s.boot.fatal = false → rq.secure = true → rq.src < 4 →
    dirUse s (s.reg pgChn 0x20C) ≠ 0 → ∃ t, exec (.chnSalt rq idx val) s = .next t ∧ Logged s t pgChn 0x06) ∧
  (∀ (s : State) (b : Nat) (p : CamPass), s.boot.fatal = false → b < s.chn.banks.length → (s.bank b).running = some p →
    ∃ t, exec (.camInsertPass b) s = .next t ∧ (t.bank b).running = (s.bank b).queue.head? ∧ (t.bank b).queue = (s.bank b).queue.drop 1 ∧
      t.mems = s.mems ∧ t.seq = s.seq) ∧
  (∀ (s : State) (b : Nat) (w : CamWord) (pt : Nat), s.boot.fatal = false → b < s.chn.banks.length →
    (s.bank b).running = some { pt := pt, words := [w] } → camWanted s w = true → (s.bank b).words.length < 32768 →
    camUse s w.pt < camQuota s w.pt → mayPlace s w.pt b = true →
    ∃ t, exec (.camInsertPass b) s = .next t ∧
      (t.slot w.slot).inCam = true ∧ (t.bank b).words = camPut (s.bank b).words { w with pinned := (s.slot w.slot).pinned || false }) ∧
  (∀ (s : State) (b acc h gen : Nat) (w : CamWord) (pt : Nat) (n : Node), s.boot.fatal = false → b < s.chn.banks.length →
    (s.bank b).running = some { pt := pt, words := [w], pinSlot := some w.slot, pinGen := gen, pinAcc := some acc } →
    camWanted s w = true → (s.bank b).words.length < 32768 → camUse s w.pt < camQuota s w.pt → mayPlace s w.pt b = true →
    (s.slot w.slot).gen = gen → s.node acc = some n → n.cmd = .prefixRef h 0 → n.outcome = none →
    ∃ t, exec (.camInsertPass b) s = .next t ∧ (t.slot w.slot).inCam = true ∧ (t.slot w.slot).pinned = true ∧ Ended t acc {}) ∧
  (∀ (s : State) (b : Nat), (s.bank b).running = none → exec (.camInsertPass b) s = .next s) ∧
  (∀ (s : State) (b : Nat) (c : Word), s.boot.fatal = false → b < s.chn.banks.length → (s.bank b).cfgNext = some c →
    (s.bank b).running = none →
    ∃ t, exec (.chnBankCfgApply b) s = .next t ∧ t.bank b = { s.bank b with cfg := c, cfgNext := none } ∧
      (∀ k, k ≠ b → t.bank k = s.bank k)) ∧
  (∀ (s : State) (b k : Nat), ((s.bank b).cfgNext = none ∨ (s.bank b).running.isSome = true) →
    ∃ t, exec (.chnBankCfgApply b) s = .next t ∧ t.bank k = s.bank k ∧ t.seq = s.seq ∧ t.mems = s.mems)

/-! ### Attention and collectives -/

/-- ATTEND begins (after R61, R114, R181, R186, R198, R208). An ATTEND that noted its units at issue, whose checks hold and whose sequence's context is at
hand inside a class 0 range, begins on its tile with the query block as its Q_REF holds it, and runs on; READERS was counted at issue and stays. One
that noted nothing fails: INVALID at byte 16 where its sequence is not open. A check that fails as it begins, no tile of its partition (NOSPACE), and
a query that cannot be read end it with READERS one lower; poison marks the layer POISONED and gives DETAIL1 its tokens in scope. One that has begun
stays as it is. GATHER_READ_DONE (after R188, R198, R204, R209, R257, R276), of an ATTEND whose deadline has not passed. A finished read of a unit
that it still needs leaves its to-do list and adds the unit's partial of every record: from the staged tokens noted at issue; from the page's primary
where the PTE names a page in T0 or T1; from its mute copy where the deadline muted it. A page below T1 stays to do, and a muted page whose copy is
gone is left out. A POISONED page marks the command and its layer, and adds nothing. With no recorder stream running no memory changes. A unit that it
does not need changes nothing. -/
def Obligations.AttendReadsItsUnits : Prop :=
  (∀ (s : State) (acc : Nat) (n : Node) (a : AttendCmd) (o : AttendOp) (p : Profile) (bs : List Byte), liveNode s acc = some n →
    n.acc = acc → n.cmd = .attend a → s.attend acc = some o → o.begun = false → beginCheck s n = none →
    s.seq.cached.contains a.seq = true → nodeTiles s n ≠ [] →
    seqProfile s n.hdr.epoch a.seq = some p → readRef s n a.qRef (attQBytes p a) = .ok bs →
    inClass s 0 ((ctxTable s).1 + 256 * a.seq) 256 = true →
    ∃ t, exec (.attend acc) s = .next t ∧ t.attend acc = some { o with begun := true, query := bs } ∧ t.node acc = some n ∧
      t.mems = s.mems ∧ t.seq = s.seq) ∧
  (∀ (s : State) (acc : Nat) (n : Node) (a : AttendCmd), liveNode s acc = some n → n.acc = acc → n.cmd = .attend a →
    s.attend acc = none → seqOpen s a.seq = false →
    exec (.attend acc) s = .next (s.setNode acc fun m => { m with outcome := some (invalidAt 16) })) ∧
  (∀ (s : State) (acc : Nat) (n : Node) (a : AttendCmd) (o : AttendOp) (c : Comp), liveNode s acc = some n → n.acc = acc →
    s.node acc = some n → n.cmd = .attend a → s.attend acc = some o → o.acc = acc → o.begun = false →
    (beginCheck s n = some c ∨
      (beginCheck s n = none ∧ s.seq.cached.contains a.seq = true ∧ nodeTiles s n = [] ∧ c = failWith .nospace)) →
    ∃ t, exec (.attend acc) s = .next t ∧ Ended t acc c ∧ t.attend acc = none ∧
      (t.ctx o.seq).readers = (s.ctx o.seq).readers - 1 ∧ t.seq.rows = s.seq.rows ∧ t.mems = s.mems) ∧
  (∀ (s u : State) (acc : Nat) (n : Node) (a : AttendCmd) (o : AttendOp) (p : Profile) (c : Comp), liveNode s acc = some n →
    n.acc = acc → s.node acc = some n → n.cmd = .attend a → s.attend acc = some o → o.acc = acc → o.begun = false → beginCheck s n = none →
    s.seq.cached.contains a.seq = true → nodeTiles s n ≠ [] → seqProfile s n.hdr.epoch a.seq = some p →
    readRef s n a.qRef (attQBytes p a) = .error (u, c) →
    ∃ t, exec (.attend acc) s = .next t ∧ t.attend acc = none ∧
      Ended t acc (if c.status = .poisoned then failWith .poisoned (o.flushed + o.staged.length) else c) ∧
      (c.status = .poisoned → (t.row a.seq a.layer).poisoned = true)) ∧
  (∀ (s : State) (acc : Nat) (n : Node) (a : AttendCmd) (o : AttendOp), liveNode s acc = some n → n.acc = acc → n.cmd = .attend a →
    s.attend acc = some o → o.begun = true → exec (.attend acc) s = .next s) ∧
  (∀ (s : State) (acc unit : Nat) (err : UnitErr) (n : Node) (a : AttendCmd) (o : AttendOp) (p : Profile), s.boot.fatal = false →
    o.acc = acc → attendParts s acc = some (n, a, o, p) → deadlineDue s o = false → o.begun = true → o.poisoned = false → o.timedOut = false →
    unit ∈ o.todo → unit = scopePages o p.tpp →
    ∃ t, exec (.gatherReadDone acc unit err) s = .next t ∧
      t.attend acc = some { o with
        todo := o.todo.filter (· != unit),
        res := o.res ++ [⟨unit, false, unitParts { p with kFmt := p.kStage } a o.bitmap (queryOf p a o) o.flushed
          (stagedRows p o.staged).1 (stagedRows p o.staged).2⟩] } ∧
      t.seq = s.seq ∧ (s.rec_.running = [] → t.mems = s.mems)) ∧
  (∀ (s : State) (acc unit cpn : Nat) (err : UnitErr) (n : Node) (a : AttendCmd) (o : AttendOp) (p : Profile), s.boot.fatal = false →
    o.acc = acc → attendParts s acc = some (n, a, o, p) → deadlineDue s o = false → o.begun = true → o.poisoned = false → o.timedOut = false →
    unit ∈ o.todo → unit ≠ scopePages o p.tpp → unitCpn s o unit = some cpn → unit ∉ o.muted → pageLive (s.loc cpn) = true →
    ((s.loc cpn).tier = .t0 ∨ ((s.loc cpn).tier = .t1 ∧
      readOutcome s (hbmAddr ((s.loc cpn).addr / 2 ^ 20) ((s.loc cpn).addr % 2 ^ 20 * frameBytes / 32 * 32)) err = .clean)) →
    storeBad s (pageStore s cpn) 0 frameBytes = false →
    ∃ t, exec (.gatherReadDone acc unit err) s = .next t ∧
      t.attend acc = some { o with
        todo := o.todo.filter (· != unit),
        res := o.res ++ [⟨unit, false, unitParts p a o.bitmap (queryOf p a o) (unitSpan o.flushed o.staged.length p.tpp unit).1
          (pageKeys s (pageStore s cpn) p 0
            ((unitSpan o.flushed o.staged.length p.tpp unit).2 - (unitSpan o.flushed o.staged.length p.tpp unit).1))
          (pageVals s (pageStore s cpn) p 0
            ((unitSpan o.flushed o.staged.length p.tpp unit).2 - (unitSpan o.flushed o.staged.length p.tpp unit).1))⟩] } ∧
      (s.rec_.running = [] → t.mems = s.mems)) ∧
  (∀ (s : State) (acc unit cpn f : Nat) (err : UnitErr) (n : Node) (a : AttendCmd) (o : AttendOp) (p : Profile), s.boot.fatal = false →
    o.acc = acc → attendParts s acc = some (n, a, o, p) → deadlineDue s o = false → o.begun = true → o.poisoned = false → o.timedOut = false →
    unit ∈ o.todo → unit ≠ scopePages o p.tpp → unitCpn s o unit = some cpn → unit ∈ o.muted → pageLive (s.loc cpn) = true →
    (s.loc cpn).mute = some f → readOutcome s (hbmAddr (f / 2 ^ 20) (f % 2 ^ 20 * frameBytes / 32 * 32)) err = .clean →
    storeBad s (muteStore s cpn) 0 frameBytes = false →
    ∃ t, exec (.gatherReadDone acc unit err) s = .next t ∧
      t.attend acc = some { o with
        todo := o.todo.filter (· != unit),
        res := o.res ++ [⟨unit, true, unitParts p.mutePart a o.bitmap (queryOf p a o)
          (unitSpan o.flushed o.staged.length p.tpp unit).1
          (pageKeys s (muteStore s cpn) p.mutePart 0
            ((unitSpan o.flushed o.staged.length p.tpp unit).2 - (unitSpan o.flushed o.staged.length p.tpp unit).1))
          (pageVals s (muteStore s cpn) p.mutePart 0
            ((unitSpan o.flushed o.staged.length p.tpp unit).2 - (unitSpan o.flushed o.staged.length p.tpp unit).1))⟩] } ∧
      (s.rec_.running = [] → t.mems = s.mems)) ∧
  (∀ (s : State) (acc unit cpn : Nat) (err : UnitErr) (n : Node) (a : AttendCmd) (o : AttendOp) (p : Profile), s.boot.fatal = false →
    o.acc = acc → attendParts s acc = some (n, a, o, p) → deadlineDue s o = false → o.begun = true → o.poisoned = false → o.timedOut = false →
    unit ∈ o.todo → unit ≠ scopePages o p.tpp → unitCpn s o unit = some cpn → (s.loc cpn).state = .poisoned →
    ∃ t, exec (.gatherReadDone acc unit err) s = .next t ∧ t.attend acc = some { o with poisoned := true } ∧
      (t.row o.seq o.layer).poisoned = true) ∧
  (∀ (s : State) (acc unit cpn : Nat) (err : UnitErr) (n : Node) (a : AttendCmd) (o : AttendOp) (p : Profile), s.boot.fatal = false →
    o.acc = acc → attendParts s acc = some (n, a, o, p) → deadlineDue s o = false → o.begun = true → o.poisoned = false → o.timedOut = false →
    unit ∈ o.todo → unit ≠ scopePages o p.tpp → unitCpn s o unit = some cpn → pageLive (s.loc cpn) = true →
    ((unit ∉ o.muted ∧ upper (s.loc cpn) = false) ∨ (unit ∈ o.muted ∧ (s.loc cpn).mute = none)) →
    ∃ t, exec (.gatherReadDone acc unit err) s = .next t ∧ t.mems = s.mems ∧ t.seq = s.seq ∧
      t.attend acc = (if o.muted.contains unit = true then
        some { o with todo := o.todo.filter (· != unit), left := o.left ++ [unit] } else some o)) ∧
  (∀ (s : State) (acc unit : Nat) (err : UnitErr) (n : Node) (a : AttendCmd) (o : AttendOp) (p : Profile),
    attendParts s acc = some (n, a, o, p) → deadlineDue s o = false →
    (o.begun = false ∨ o.poisoned = true ∨ o.timedOut = true ∨ unit ∉ o.todo) → exec (.gatherReadDone acc unit err) s = .next s)

/-- ATTEND_DEADLINE (after R80, R198, R203, R207). At its deadline instant an ATTEND takes as late the page units it has not read, in replay the recorded
ones. Where one of them is POISONED, the command is to end POISONED and its layer is marked. Otherwise, under WAIT a late page ends it with TIMEOUT;
under the other policies each late page that MUTE finds with a valid mute copy is read from that copy, and every other one is left out. The time has
come to the instant. An ATTEND without a deadline, or that has taken it, stays as it is. ATTEND_COMPLETE (after R199, R205, R208), of an ATTEND that
has begun and whose deadline has not passed. One that met poison ends POISONED and one past its deadline under WAIT ends TIMEOUT, each with its tokens
in scope and with no memory written. One whose units are all read ends PARTIAL, MUTED, EMPTY or OK, the first whose condition holds, with R205's
detail fields, and with no recorder stream running the memories hold its records and statistics and nothing else that is new. Its READERS falls by
one. One with units still to read stays as it is. -/
def Obligations.AttendEnds : Prop :=
  (∀ (s : State) (acc due : Nat) (n : Node) (a : AttendCmd) (o : AttendOp) (p : Profile) (late : List (Nat × Bool)),
    s.boot.fatal = false → n.acc = acc → o.acc = acc →
    attendParts s acc = some (n, a, o, p) → o.deadlineAt = some due → o.deadlineTaken = false →
    late = (tget s.rec_.late acc).getD ((lateSet o p.tpp).map fun k =>
      (k, decide (attPolicy s n a = 1) && ((unitCpn s o k).map (hasMute s)).getD false)) →
    ((late.map (·.1)).filterMap (unitCpn s o)).any (pagePoisoned s) = false →
    ∃ t, exec (.attendDeadline acc) s = .next t ∧ t.time = (s.reach due).time ∧ t.seq = s.seq ∧
      t.attend acc = some (if attPolicy s n a = 0 then { o with deadlineTaken := true, timedOut := !late.isEmpty }
        else { o with
          deadlineTaken := true, muted := (late.filter (·.2)).map (·.1),
          left := (late.map (·.1)).filter fun k => !((late.filter (·.2)).map (·.1)).contains k,
          todo := o.todo.filter fun k => !((late.map (·.1)).contains k && !((late.filter (·.2)).map (·.1)).contains k) })) ∧
  (∀ (s : State) (acc due : Nat) (n : Node) (a : AttendCmd) (o : AttendOp) (p : Profile) (late : List (Nat × Bool)),
    s.boot.fatal = false → n.acc = acc → o.acc = acc →
    attendParts s acc = some (n, a, o, p) → o.deadlineAt = some due → o.deadlineTaken = false →
    late = (tget s.rec_.late acc).getD ((lateSet o p.tpp).map fun k =>
      (k, decide (attPolicy s n a = 1) && ((unitCpn s o k).map (hasMute s)).getD false)) →
    ((late.map (·.1)).filterMap (unitCpn s o)).any (pagePoisoned s) = true →
    ∃ t, exec (.attendDeadline acc) s = .next t ∧ t.time = (s.reach due).time ∧
      t.attend acc = some { o with deadlineTaken := true, poisoned := true } ∧ (t.row o.seq o.layer).poisoned = true) ∧
  (∀ (s : State) (acc : Nat) (n : Node) (a : AttendCmd) (o : AttendOp) (p : Profile), attendParts s acc = some (n, a, o, p) →
    (o.deadlineAt = none ∨ o.deadlineTaken = true) → exec (.attendDeadline acc) s = .next s) ∧
  (∀ (s : State) (acc : Nat) (n : Node) (a : AttendCmd) (o : AttendOp) (p : Profile), s.boot.fatal = false → o.acc = acc → n.outcome = none →
    attendParts s acc = some (n, a, o, p) → deadlineDue s o = false → o.begun = true → (o.poisoned = true ∨ o.timedOut = true) →
    ∃ t, exec (.attendComplete acc) s = .next t ∧
      Ended t acc { status := if o.poisoned then .poisoned else .timeout, detail1 := o.flushed + o.staged.length } ∧
      (t.ctx o.seq).readers = (s.ctx o.seq).readers - 1 ∧ t.attend acc = none ∧ t.mems = s.mems ∧ t.blw = s.blw) ∧
  (∀ (s : State) (acc : Nat) (n : Node) (a : AttendCmd) (o : AttendOp) (p : Profile) (c : Comp), s.boot.fatal = false → o.acc = acc →
    n.outcome = none → attendParts s acc = some (n, a, o, p) → deadlineDue s o = false → o.begun = true → o.poisoned = false →
    o.timedOut = false → o.todo = [] →
    c = (if o.left ≠ [] then
          { status := .partialOk, detail0 := o.flushed + o.staged.length - leftTokens o p.tpp, detail1 := o.flushed + o.staged.length,
            result := attRecords p a }
        else if (o.res.filter (·.muted)).length ≠ 0 then
          { status := .muted, detail0 := (o.res.filter (·.muted)).length, detail1 := o.flushed + o.staged.length,
            result := attRecords p a }
        else if (attendRecs s p a o).all (fun r => bit r.flags 0) then
          { status := .empty, detail1 := o.flushed + o.staged.length, result := attRecords p a }
        else { status := .ok, detail1 := o.flushed + o.staged.length, result := attRecords p a }) →
    ∃ t, exec (.attendComplete acc) s = .next t ∧ Ended t acc c ∧ (t.ctx o.seq).readers = (s.ctx o.seq).readers - 1 ∧
      t.attend acc = none ∧
      (s.rec_.running = [] → t.mems = (writeRecs s acc n.ring n.hdr.epoch a.outRef (attOstride p a)
        (attnAt s n.hdr.epoch (ringPt n.ring)).statOff (attendRecs s p a o).zipIdx).mems)) ∧
  (∀ (s : State) (acc : Nat) (n : Node) (a : AttendCmd) (o : AttendOp) (p : Profile), attendParts s acc = some (n, a, o, p) →
    deadlineDue s o = false → (o.begun = false ∨ (o.poisoned = false ∧ o.timedOut = false ∧ o.todo ≠ [])) →
    exec (.attendComplete acc) s = .next s)

/-- HEAD_GATHER and SPAN_MERGE (after R214, R215, R218 to R220). On its tile, a contributor that keeps the checks reads its records and statistics, sends
them to its collector, and holds its message as one that waits for an answer. A collector before its deadline adds its own contribution; with that the
last one, it writes its result and ends OK with DETAIL1 = NDEV and the bit map of its members; with others missing it runs on, and so it does where
its own stands already. Past its deadline it ends with TIMEOUT and the bit map. A check that fails as the command begins, and a contribution that
cannot be read, end it with their outcome. COLL_ANS_RX, COLLECTOR_DEADLINE and COLL_RETX_TIMEOUT (after R216, R218, R464). An answer ends its
contributor with the status of R216's table; one that nothing waits for ends nothing. A collector at its deadline ends with TIMEOUT and the bit map of
the members that arrived. A contributor without an answer resends, and after RETRY_MAX resends ends with TIMEOUT. The time has come to each timer's
instant. Without such a collector or contributor a timer changes nothing. -/
def Obligations.CollectivesRun : Prop :=
  (∀ (s : State) (acc : Nat) (n : Node) (c : CollCmd) (span : Bool) (g : Group) (d : List Byte), liveNode s acc = some n → n.acc = acc →
    n.cmd = (if span then .spanMerge c else .headGather c) → beginCheck s n = none →
    groupAt s n.hdr.epoch (ringPt n.ring) c.group span = some g → c.isCollector = false →
    (s.att.contribs.any fun x => x.acc == acc) = false → readContribution s n c g = .ok d →
    ∃ t x, exec (if span then .spanMerge acc else .headGather acc) s = .next t ∧ t.att.contribs = s.att.contribs ++ [x] ∧
      x.acc = acc ∧ x.pt = ringPt n.ring ∧ x.group = c.group ∧ x.opId = c.opId ∧ x.collector = c.collector ∧ x.sentAt = s.time ∧
      x.retries = 0 ∧ x.msg.drop 32 = d ∧
      t.tsc = (sendColl s .coll c.collector (ringPt n.ring) (collectorPt g c.collector) x.msg false).tsc ∧
      t.node acc = some n ∧ t.mems = s.mems) ∧
  (∀ (s : State) (acc : Nat) (n : Node) (c : CollCmd) (span : Bool) (g : Group) (o : CollectorOp) (d : List Byte),
    liveNode s acc = some n → n.acc = acc → n.cmd = (if span then .spanMerge c else .headGather c) → beginCheck s n = none →
    groupAt s n.hdr.epoch (ringPt n.ring) c.group span = some g → c.isCollector = true →
    (s.att.collectors.find? fun x => x.acc == acc) = some o → collectorLate s o = false →
    o.pt = ringPt n.ring → (o.got.any fun x => x.member == (memberIndex s g (ringPt n.ring)).getD 0) = false →
    g.ndev ≤ o.got.length + 1 → readContribution s n c g = .ok d →
    ∃ t x out, exec (if span then .spanMerge acc else .headGather acc) s = .next t ∧ Ended t acc out ∧
      x = { member := (memberIndex s g (ringPt n.ring)).getD 0, srcDev := s.fab.devId, srcPt := ringPt n.ring, data := d } ∧
      out.status = .ok ∧ out.detail1 = g.ndev ∧ out.result = gotMap { o with got := o.got ++ [x] } ∧
      t.att.collectors = s.att.collectors.filter (fun y => y.acc != acc) ∧
      t.mems = (writeRecs s acc n.ring n.hdr.epoch c.dstRef g.ostride (attnAt s n.hdr.epoch o.pt).statOff
        (collResult g c.len span (o.got ++ [x]))).mems) ∧
  (∀ (s : State) (acc : Nat) (n : Node) (c : CollCmd) (span : Bool) (g : Group) (o : CollectorOp) (d : List Byte),
    liveNode s acc = some n → n.acc = acc → n.cmd = (if span then .spanMerge c else .headGather c) → beginCheck s n = none →
    groupAt s n.hdr.epoch (ringPt n.ring) c.group span = some g → c.isCollector = true →
    (s.att.collectors.find? fun x => x.acc == acc) = some o → collectorLate s o = false →
    o.pt = ringPt n.ring → (o.got.any fun x => x.member == (memberIndex s g (ringPt n.ring)).getD 0) = false →
    o.got.length + 1 < g.ndev → readContribution s n c g = .ok d →
    ∃ t x, exec (if span then .spanMerge acc else .headGather acc) s = .next t ∧
      t.att.collectors = s.att.collectors.map (fun y => if y.acc = acc then { y with got := y.got ++ [x] } else y) ∧
      x.data = d ∧ x.srcPt = ringPt n.ring ∧ x.member = (memberIndex s g (ringPt n.ring)).getD 0 ∧ t.node acc = some n ∧
      t.mems = s.mems) ∧
  (∀ (s : State) (acc : Nat) (n : Node) (c : CollCmd) (span : Bool) (g : Group) (o : CollectorOp),
    liveNode s acc = some n → n.acc = acc → n.cmd = (if span then .spanMerge c else .headGather c) → beginCheck s n = none →
    groupAt s n.hdr.epoch (ringPt n.ring) c.group span = some g → c.isCollector = true → o.pt = ringPt n.ring →
    (s.att.collectors.find? fun x => x.acc == acc) = some o → collectorLate s o = false → o.got.length < g.ndev →
    (o.got.any fun x => x.member == (memberIndex s g (ringPt n.ring)).getD 0) = true →
    exec (if span then .spanMerge acc else .headGather acc) s = .next s) ∧
  (∀ (s : State) (acc : Nat) (n : Node) (c : CollCmd) (span : Bool) (g : Group) (o : CollectorOp),
    liveNode s acc = some n → n.acc = acc → n.cmd = (if span then .spanMerge c else .headGather c) → beginCheck s n = none →
    groupAt s n.hdr.epoch (ringPt n.ring) c.group span = some g → c.isCollector = true →
    (s.att.collectors.find? fun x => x.acc == acc) = some o → collectorLate s o = true →
    ∃ t, exec (if span then .spanMerge acc else .headGather acc) s = .next t ∧ Ended t acc (failWith .timeout 0 0 (gotMap o)) ∧
      t.att.collectors = s.att.collectors.filter (fun y => y.acc != acc) ∧ t.mems = s.mems) ∧
  (∀ (s u : State) (acc : Nat) (n : Node) (c : CollCmd) (span : Bool) (g : Group) (e : Comp),
    liveNode s acc = some n → n.acc = acc → n.cmd = (if span then .spanMerge c else .headGather c) →
    ((beginCheck s n = some e) ∨ (beginCheck s n = none ∧ groupAt s n.hdr.epoch (ringPt n.ring) c.group span = some g ∧
      c.isCollector = false ∧ (s.att.contribs.any fun x => x.acc == acc) = false ∧ readContribution s n c g = .error (u, e))) →
    ∃ t, exec (if span then .spanMerge acc else .headGather acc) s = .next t ∧ Ended t acc e ∧ t.att.contribs = s.att.contribs) ∧
  (∀ (s : State) (port : Nat) (m : CollMsg) (x : ContribOp) (n : Node), s.boot.fatal = false →
    (s.att.contribs.find? fun x => x.pt == m.srcPt && x.group == m.group && x.opId == m.opId && x.member == m.member) = some x →
    s.node x.acc = some n → n.outcome = none →
    ∃ t c, exec (.collAnsRx port m) s = .next t ∧ Ended t x.acc c ∧
      c.status = (if m.answer = 0 then .ok else if m.answer = 1 then .busy else if m.answer = 2 then .timeout
        else if m.answer = 5 then .perm else .invalid) ∧ (t.att.contribs = s.att.contribs.filter fun y => y.acc != x.acc) ∧
      t.mems = s.mems) ∧
  (∀ (s : State) (port : Nat) (m : CollMsg), s.boot.fatal = false →
    (s.att.contribs.find? fun x => x.pt == m.srcPt && x.group == m.group && x.opId == m.opId && x.member == m.member) = none →
    ∃ t, exec (.collAnsRx port m) s = .next t ∧ t.att = s.att ∧ t.dep = s.dep ∧ t.mems = s.mems) ∧
  (∀ (s : State) (acc due : Nat) (o : CollectorOp) (n : Node), s.boot.fatal = false → o.acc = acc →
    (s.att.collectors.find? fun o => o.acc == acc) = some o → o.deadlineAt = some due → s.node acc = some n → n.outcome = none →
    ∃ t, exec (.collectorDeadline acc) s = .next t ∧ Ended t acc (failWith .timeout 0 0 (gotMap o)) ∧
      t.time = (s.reach due).time ∧ t.att.collectors = s.att.collectors.filter (fun x => x.acc != acc) ∧ t.mems = s.mems) ∧
  (∀ (s : State) (acc : Nat) (x : ContribOp) (n : Node) (c : CollCmd) (span : Bool), s.boot.fatal = false →
    (s.att.contribs.find? fun x => x.acc == acc) = some x → s.node acc = some n → collOf n.cmd = some (c, span) →
    x.retries < retryMax s x.pt →
    ∃ t, exec (.collRetxTimeout acc) s = .next t ∧ t.time = (s.reach (x.sentAt + qpTimeout s x.pt)).time ∧
      t.att.contribs = s.att.contribs.map (fun y => if y.acc = acc then { y with retries := y.retries + 1, sentAt := t.time } else y) ∧
      t.node acc = some n ∧ t.mems = s.mems) ∧
  (∀ (s : State) (acc : Nat) (x : ContribOp) (n : Node) (c : CollCmd) (span : Bool), s.boot.fatal = false → x.acc = acc →
    (s.att.contribs.find? fun x => x.acc == acc) = some x → s.node acc = some n → n.outcome = none → collOf n.cmd = some (c, span) →
    retryMax s x.pt ≤ x.retries →
    ∃ t, exec (.collRetxTimeout acc) s = .next t ∧ Ended t acc { status := .timeout } ∧
      t.time = (s.reach (x.sentAt + qpTimeout s x.pt)).time ∧
      (t.att.contribs = s.att.contribs.filter fun y => y.acc != acc) ∧ t.mems = s.mems) ∧
  (∀ (s : State) (acc : Nat), ((s.att.collectors.find? fun o => o.acc == acc).all fun o => o.deadlineAt.isNone) = true →
    exec (.collectorDeadline acc) s = .next s) ∧
  (∀ (s : State) (acc : Nat), (s.att.contribs.find? fun x => x.acc == acc) = none → exec (.collRetxTimeout acc) s = .next s)

/-- COLL_RX and COLL_HOLD_EXPIRE (after R216, R217), with no earlier hold over. A contribution that the group table admits joins its collector, before the
collector's deadline: with others missing the collector runs on, with the last one it writes its result and ends OK. Before its collector it lands
where it first fits, for HOLD_US; after the hold it is discarded, and the time has come to the hold's end. One that the table does not admit, one
whose member stands at the collector already, one of another LEN, one of an operation that has ended, one that landed before, and one that fits
nowhere join and land nowhere; nor does any before the device has an ID. -/
def Obligations.ContributionsArrive : Prop :=
  (∀ (s : State) (port : Nat) (m : CollMsg) (o : CollectorOp) (n : Node) (c : CollCmd) (span : Bool) (g : Group), s.boot.fatal = false →
    s.fab.idValid = true → collRefusal s m = none → findCollector s m.dstPt m.group m.opId = some o → collectorLate s o = false →
    (s.att.collectors.find? fun x => x.acc == o.acc) = some o →
    (o.got.any fun x => x.member == m.member) = false → s.node o.acc = some n → collOf n.cmd = some (c, span) → c.len = m.len →
    groupAt s n.hdr.epoch o.pt c.group span = some g → o.got.length + 1 < g.ndev →
    ∃ t, exec (.collRx port m) s = .next t ∧
      t.att.collectors = s.att.collectors.map (fun y => if y.acc = o.acc then
        { y with got := y.got ++ [{ member := m.member, srcDev := m.srcDev, srcPt := m.srcPt, data := m.data }] } else y) ∧
      t.att.landed = s.att.landed ∧ t.mems = s.mems) ∧
  (∀ (s : State) (port off : Nat) (m : CollMsg), s.boot.fatal = false → s.fab.idValid = true → collRefusal s m = none →
    findCollector s m.dstPt m.group m.opId = none → s.att.landed.all (fun l => decide (s.time ≤ l.until_)) = true →
    s.att.ended.contains (m.dstPt, m.group, m.opId) = false →
    (s.att.landed.any fun l => l.pt == m.dstPt && l.group == m.group && l.opId == m.opId && l.member == m.member) = false →
    landFit s m.dstPt (appliedAttn s m.dstPt).landSize (landBytes m) = some off →
    ∃ t l, exec (.collRx port m) s = .next t ∧ t.att.landed = s.att.landed ++ [l] ∧ l.pt = m.dstPt ∧ l.group = m.group ∧
      l.opId = m.opId ∧ l.member = m.member ∧ l.off = off ∧ l.until_ = s.time + (appliedAttn s m.dstPt).holdUs * 1000 ∧
      l.data = m.data ∧ t.att.collectors = s.att.collectors) ∧
  (∀ (s : State) (port : Nat) (m : CollMsg), s.boot.fatal = false →
    s.att.landed.all (fun l => decide (s.time ≤ l.until_)) = true →
    (s.fab.idValid = false ∨ (collRefusal s m).isSome = true ∨
      (∃ o, findCollector s m.dstPt m.group m.opId = some o ∧ collectorLate s o = false ∧
        ((o.got.any fun x => x.member == m.member) = true ∨ collLenOk s o.acc m.len = false)) ∨
      (findCollector s m.dstPt m.group m.opId = none ∧
        (s.att.ended.contains (m.dstPt, m.group, m.opId) = true ∨
          (s.att.landed.any fun l => l.pt == m.dstPt && l.group == m.group && l.opId == m.opId && l.member == m.member) = true ∨
          landFit s m.dstPt (appliedAttn s m.dstPt).landSize (landBytes m) = none))) →
    ∃ t, exec (.collRx port m) s = .next t ∧ t.att.collectors = s.att.collectors ∧ t.att.landed = s.att.landed ∧ t.mems = s.mems) ∧
  (∀ (s : State) (pt group opId member : Nat) (l : Landed), s.boot.fatal = false →
    (s.att.landed.find? fun l => l.pt == pt && l.group == group && l.opId == opId && l.member == member) = some l →
    ∃ t, exec (.collHoldExpire pt group opId member) s = .next t ∧ t.att.landed = s.att.landed.filter (· != l) ∧
      t.time = (s.reach l.until_).time ∧ t.att.collectors = s.att.collectors ∧ t.mems = s.mems) ∧
  (∀ (s : State) (port : Nat) (m : CollMsg) (o : CollectorOp) (n : Node) (c : CollCmd) (span : Bool) (g : Group), s.boot.fatal = false →
    s.fab.idValid = true → collRefusal s m = none → findCollector s m.dstPt m.group m.opId = some o → collectorLate s o = false →
    (s.att.collectors.find? fun x => x.acc == o.acc) = some o →
    (o.got.any fun x => x.member == m.member) = false → s.node o.acc = some n → n.outcome = none → collOf n.cmd = some (c, span) →
    c.len = m.len → groupAt s n.hdr.epoch o.pt c.group span = some g → g.ndev ≤ o.got.length + 1 →
    ∃ t out, exec (.collRx port m) s = .next t ∧ Ended t o.acc out ∧ out.status = .ok ∧ out.detail1 = g.ndev ∧
      t.att.collectors = s.att.collectors.filter (fun y => y.acc != o.acc)) ∧
  (∀ (s : State) (pt group opId member : Nat),
    (s.att.landed.find? fun l => l.pt == pt && l.group == group && l.opId == opId && l.member == member) = none →
    exec (.collHoldExpire pt group opId member) s = .next s)

/-! ### WARM -/

/-- WARM begins (after R225, R226, R234, R250), not contended, with no leaf away. One of an empty warm target whose image passes every check, on the tiles
and units that it was issued with, takes the append lock and holds the image. A target that is no warm target or holds tokens ends it INVALID at byte
16, an image that fails a check with that check's outcome, and an image of other tiles or units INVALID at byte 19; then no tile runs it any more and
the lock is free. One that holds its lock runs on as it is. WINDOW_LAYER_LOADED (after R237, R238, R255). The next layer of a WARM, once loaded on
every tile and within the window, stands there, and the wait of its first kernel is over; a layer that cannot be loaded ends the WARM with the status
that its load gives. Any other layer changes nothing. KERNEL_STEP_END (after R27, R69, R228, R229, R236, R239, R247, R250). The tile's pointer picks,
among the operations that have work there, the one whose step ends, which is counted; `w` is the state in which it has been. With no work there
nothing changes, and an ATTEND's step only counts. A step of a WARM on a tile that the committed map has taken from its partition ends it REVOKED at
byte 19, and one of an image whose region is gone REVOKED. Otherwise the free value d says whether further steps of the kernel follow on the tile (log
80) or the tile has finished it. When every tile has finished, the kernel takes effect: the gather of embeddings first; the outputs of a computing
kernel stand in the scratchpads; the pages of a KV_WRITE are held; then the next kernel, or the next layer, begins. After the last kernel each layer
of the target holds NTOK tokens, none staged, and the WARM ends OK with the pages of a layer as RESULT and its lock free. A kernel that fails ends the
WARM with its status. While other tiles have not finished, the tile joins those that have. -/
def Obligations.WarmRuns : Prop :=
  (∀ (s : State) (acc q tiles ntok img toks : Nat) (rivals : List Nat) (n : Node) (x : WarmCtx) (g : WImage) (o : WarmOp),
    liveNode s acc = some n → n.acc = acc → n.cmd = .warm q tiles ntok img toks → arbitrate s q (acc :: rivals) = s → LockReady s n q →
    (s.ctx q).warmTarget = true → targetEmpty s q = true →
    warmCtx s n q ntok img = some x → warmValidate s x tiles toks = .ok g → warmOpOf s acc = some o → o.tiles.length = g.hdr.ntiles →
    o.spadUnits * 65536 = g.hdr.spadBytes →
    ∃ t, exec (.warm ⟨acc, rivals⟩) s = .next t ∧ (t.ctx q).lockOwner = some acc ∧ warmOpOf t acc = some { o with image := some g } ∧
      t.node acc = some n ∧ t.mems = s.mems) ∧
  (∀ (s : State) (acc q tiles ntok img toks : Nat) (rivals : List Nat) (n : Node) (c : Comp), liveNode s acc = some n → n.acc = acc →
    n.cmd = .warm q tiles ntok img toks → arbitrate s q (acc :: rivals) = s → LockReady s n q →
    (warmOpOf s acc).all (·.pages.isEmpty) = true →
    ((((s.ctx q).warmTarget = false ∨ targetEmpty s q = false) ∧ c = invalidAt 16) ∨
      ((s.ctx q).warmTarget = true ∧ targetEmpty s q = true ∧ ∃ x, warmCtx s n q ntok img = some x ∧
        (warmValidate s x tiles toks = .error c ∨
          ∃ g, warmValidate s x tiles toks = .ok g ∧ c = invalidAt 19 ∧
            (warmOpOf s acc).all (fun o => o.tiles.length != g.hdr.ntiles || o.spadUnits * 65536 != g.hdr.spadBytes) = true))) →
    ∃ t, exec (.warm ⟨acc, rivals⟩) s = .next t ∧ Ended t acc c ∧ warmOpOf t acc = none ∧ (t.ctx q).lockOwner = none ∧
      t.seq.rows = s.seq.rows ∧ (s.rec_.running = [] → t.mems = s.mems)) ∧
  (∀ (s : State) (acc q tiles ntok img toks : Nat) (rivals : List Nat) (n : Node), liveNode s acc = some n → n.acc = acc →
    n.cmd = .warm q tiles ntok img toks → (s.ctx q).lockOwner = some acc → exec (.warm ⟨acc, rivals⟩) s = .next s) ∧
  (∀ (s : State) (acc l : Nat) (n : Node) (o : WarmOp) (g : WImage) (x : WarmCtx) (w : Tbl (List Byte)), liveNode s acc = some n →
    n.acc = acc → warmOpOf s acc = some o → o.image = some g → warmCtx s n o.seq o.ntok o.imageRef = some x → l = o.loaded →
    l < g.hdr.layers → l < o.layer + g.hdr.window → loadLayer s x g l o.win = .ok w →
    ∃ t, exec (.windowLayerLoaded acc l) s = .next t ∧
      warmOpOf t acc = some { o with loaded := l + 1, win := w, waitFrom := if l = o.layer then none else o.waitFrom } ∧
      t.node acc = some n ∧ t.seq = s.seq ∧ (s.rec_.running = [] → t.mems = s.mems)) ∧
  (∀ (s : State) (acc l : Nat) (n : Node) (o : WarmOp) (g : WImage) (x : WarmCtx) (c : Comp), liveNode s acc = some n →
    n.acc = acc → warmOpOf s acc = some o → o.image = some g → warmCtx s n o.seq o.ntok o.imageRef = some x → l = o.loaded →
    l < g.hdr.layers → l < o.layer + g.hdr.window → loadLayer s x g l o.win = .error c →
    ∃ t, exec (.windowLayerLoaded acc l) s = .next t ∧ Ended t acc c ∧ warmOpOf t acc = none) ∧
  (∀ (s : State) (acc l : Nat) (o : WarmOp), warmOpOf s acc = some o →
    (l ≠ o.loaded ∨ o.image.all (fun g => decide (g.hdr.layers ≤ l ∨ o.layer + g.hdr.window ≤ l)) = true) →
    exec (.windowLayerLoaded acc l) s = .next s) ∧
  (∀ (s w : State) (tile i acc : Nat) (ready : List Nat), s.boot.fatal = false →
    ready = (List.range 16).filter (fun i => match lget (s.tile tile).slots i none with
      | some a => slotWorks s tile a
      | none => false) →
    ptrPick 16 (s.tile tile).slotPtr ready = some i → lget (s.tile tile).slots i none = some acc →
    w = tileCount (if 2 ≤ ready.length then s.setTile tile fun u => { u with slotPtr := ptrNext 16 i } else s) tile 25 →
    (warmOpOf s acc = none → exec (.kernelStepEnd tile) s = .next w) ∧
    (∀ (n : Node) (o : WarmOp), warmOpOf s acc = some o → liveNode s acc = some n → n.acc = acc → tileLost s o.pt tile = true →
      ∃ t, exec (.kernelStepEnd tile) s = .next t ∧ Ended t acc (failWith .revoked 19) ∧ warmOpOf t acc = none) ∧
    (∀ (n : Node) (o : WarmOp), warmOpOf s acc = some o → liveNode s acc = some n → n.acc = acc → tileLost s o.pt tile = false →
      regionLost s o = true →
      ∃ t, exec (.kernelStepEnd tile) s = .next t ∧ Ended t acc warmRevoked ∧ warmOpOf t acc = none) ∧
    (∀ (n : Node) (o : WarmOp), warmOpOf s acc = some o → liveNode s acc = some n → n.acc = acc → tileLost s o.pt tile = false →
      regionLost s o = false →
      exec (.kernelStepEnd tile) s = .next (if (draw w).1 % 2 = 1 then (draw w).2
        else warmBarrier (setWarmOp (draw w).2 acc fun o => { o with finished := o.finished ++ [tile] }) n))) ∧
  (∀ (s : State) (tile : Nat), (∀ i, i < 16 → ∀ a, lget (s.tile tile).slots i none = some a → slotWorks s tile a = false) →
    exec (.kernelStepEnd tile) s = .next s) ∧
  (∀ (u : State) (n : Node) (o : WarmOp), warmOpOf u n.acc = some o → o.finished.length < o.tiles.length → warmBarrier u n = u) ∧
  (∀ (u : State) (n : Node) (o : WarmOp) (g : WImage) (x : WarmCtx) (toks : List Nat) (r : KernOut), warmOpOf u n.acc = some o →
    o.tiles.length ≤ o.finished.length → o.image = some g → warmCtx u n o.seq o.ntok o.imageRef = some x → o.embedded = false →
    warmTokens u x o.tokensRef = .ok toks → embedRows u x g toks = .ok r →
    warmOpOf (warmBarrier u n) n.acc = some { o with
      embedded := true, finished := [], waitFrom := if o.loaded = 0 then some u.time else none } ∧
    (warmBarrier u n).mems = (putKern u x g (parseKern (zeros 64)) o.tiles r).mems) ∧
  (∀ (u : State) (n : Node) (o : WarmOp) (g : WImage) (x : WarmCtx) (k : WKern) (r : KernOut), warmOpOf u n.acc = some o →
    o.tiles.length ≤ o.finished.length → o.image = some g → warmCtx u n o.seq o.ntok o.imageRef = some x → o.embedded = true →
    (g.kernsOf o.layer)[o.kernel]? = some k → k.kop ≠ 0x0B → runKern u x g o.win o.layer o.kernel k = .ok r →
    (o.kernel + 1 < (g.kernsOf o.layer).length ∨ o.layer + 1 < g.hdr.layers) →
    ∃ v, warmOpOf (warmBarrier u n) n.acc = some v ∧ v.finished = [] ∧
      (o.kernel + 1 < (g.kernsOf o.layer).length → v.kernel = o.kernel + 1 ∧ v.layer = o.layer) ∧
      ((g.kernsOf o.layer).length ≤ o.kernel + 1 → v.kernel = 0 ∧ v.layer = o.layer + 1) ∧
      (warmBarrier u n).mems = (putKern u x g k o.tiles r).mems) ∧
  (∀ (u t : State) (n : Node) (o : WarmOp) (g : WImage) (x : WarmCtx) (k : WKern) (ps : List Pte), warmOpOf u n.acc = some o →
    o.tiles.length ≤ o.finished.length → o.image = some g → warmCtx u n o.seq o.ntok o.imageRef = some x → o.embedded = true →
    (g.kernsOf o.layer)[o.kernel]? = some k → k.kop = 0x0B → kvWrite u x g o.tiles o.layer k = .done t ps → t.warm.ops = u.warm.ops →
    o.kernel + 1 < (g.kernsOf o.layer).length →
    warmOpOf (warmBarrier u n) n.acc = some { o with
      kernel := o.kernel + 1, finished := [], pages := o.pages ++ ps.map fun p => (o.layer, p) } ∧
    (warmBarrier u n).mems = t.mems) ∧
  (∀ (u : State) (n : Node) (o : WarmOp) (g : WImage) (x : WarmCtx) (k : WKern) (r : KernOut), u.node n.acc = some n → n.outcome = none →
    warmOpOf u n.acc = some o → o.tiles.length ≤ o.finished.length → o.image = some g → warmCtx u n o.seq o.ntok o.imageRef = some x →
    o.embedded = true → (g.kernsOf o.layer)[o.kernel]? = some k → k.kop ≠ 0x0B → runKern u x g o.win o.layer o.kernel k = .ok r →
    (g.kernsOf o.layer).length ≤ o.kernel + 1 → g.hdr.layers ≤ o.layer + 1 → (u.ctx o.seq).layers ≤ 255 →
    Ended (warmBarrier u n) n.acc { result := ceilDiv o.ntok x.prof.tpp } ∧ warmOpOf (warmBarrier u n) n.acc = none ∧
      ((warmBarrier u n).ctx o.seq).length = o.ntok ∧ ((warmBarrier u n).ctx o.seq).lockOwner = none ∧
      (∀ l, l < (u.ctx o.seq).layers →
        ((warmBarrier u n).row o.seq l).tokens = o.ntok ∧ ((warmBarrier u n).row o.seq l).staged = 0)) ∧
  (∀ (u : State) (n : Node) (o : WarmOp) (g : WImage) (x : WarmCtx) (k : WKern) (c : Comp), u.node n.acc = some n → n.outcome = none →
    warmOpOf u n.acc = some o → o.tiles.length ≤ o.finished.length → o.image = some g → warmCtx u n o.seq o.ntok o.imageRef = some x →
    o.embedded = true → (g.kernsOf o.layer)[o.kernel]? = some k →
    ((k.kop ≠ 0x0B ∧ runKern u x g o.win o.layer o.kernel k = .error c) ∨
      (k.kop = 0x0B ∧ kvWrite u x g o.tiles o.layer k = .fail c)) →
    Ended (warmBarrier u n) n.acc c ∧ warmOpOf (warmBarrier u n) n.acc = none)

/-! ### The Bellows and the HBM controllers -/

/-- HINT (after R262, R273, R274), with no leaf away and no request queued. KIND 0 gives every page that the named layers' PTEs name AGE 0xFE, KIND 1
gives them 0xFF, KIND 2 gives 0x00 to those that are not kept; kinds 0 and 2 queue those below T1 that do not move in class 4. KIND 3 queues in class
6 those that may go down, and gives the others AGE 0xFF (log 57). DETAIL0 is the number of pages marked and DETAIL1 that of moves queued. No other
page, and no PTE, changes. A page whose request is queued already is raised in class and counted, or not counted. A HINT that a check refuses, a KIND
3 one to a tier of which the partition has no frame, and a KIND 0 one that would pass KEEPQ end with that check's outcome, INVALID at byte 21 and
NOSPACE, and do nothing else. One of a page whose leaf stands in T2 waits, and the leaf's return is queued in class 3. SKETCH_DECAY and LEAF_IDLE
(after R261, R269). A decay halves every counter of the sketch at its instant, and sets the next one DECAY_MS later. A leaf of which every CPN is
FREE, RETIRED or below T1, with none queued or moving, gets one request of class 8 when LEAF_IDLE_MS has passed since its last change; a leaf with a
page in T0 or T1, one that is away or queued already, and any leaf with LEAF_IDLE_MS = 0, gets none. No page changes. -/
def Obligations.HintsAndDecay : Prop :=
  (∀ (s : State) (acc q first cnt kind tier : Nat) (n : Node) (ps below : List Nat), liveNode s acc = some n → n.acc = acc →
    n.cmd = .hint q first cnt kind tier → beginCheck s n = none → LeavesHome s → s.blw.queue = [] → kind < 3 →
    ps = hintPages s q first (if cnt = 0 then (s.ctx q).layers - first else cnt) → ps.length ≤ 65536 →
    below = ps.filter (fun c => pageLive (s.loc c) && !upper (s.loc c) && (s.loc c).state != .moving) →
    (kind = 0 → keptPages s (ringPt n.ring) + (ps.filter fun c => (s.loc c).age != 0xFE).length ≤ (ptPolicy s (ringPt n.ring)).keepQ) →
    ∃ t, exec (.hint acc) s = .next t ∧
      Ended t acc { detail0 := (ps.filter fun c => kind != 2 || (s.loc c).age != 0xFE).length,
                    detail1 := if kind = 1 then 0 else below.length } ∧
      (∀ c, t.loc c = if c ∈ ps then { s.loc c with
        age := if kind = 0 then 0xFE else if kind = 1 then 0xFF else if (s.loc c).age = 0xFE then 0xFE else 0 } else s.loc c) ∧
      t.blw.queue.map (fun r => (r.cpn, r.kind, r.cls)) = (if kind = 1 then [] else below.map fun c => (c, .page .t1, 4)) ∧
      t.seq.rows = s.seq.rows ∧ t.seq.ctxs = s.seq.ctxs ∧ t.mems = s.mems) ∧
  (∀ (s : State) (acc q first cnt tier : Nat) (n : Node) (ps down : List Nat), liveNode s acc = some n → n.acc = acc →
    n.cmd = .hint q first cnt 3 tier → beginCheck s n = none → LeavesHome s → s.blw.queue = [] →
    ps = hintPages s q first (if cnt = 0 then (s.ctx q).layers - first else cnt) → ps.length ≤ 65536 →
    down = ps.filter (fun c => mayDemote (s.loc c) (hintTier tier)) → tierHas s (ringPt n.ring) (hintTier tier) = true →
    ∃ t, exec (.hint acc) s = .next t ∧ Ended t acc { detail0 := ps.length - down.length, detail1 := down.length } ∧
      (∀ c, t.loc c = if c ∈ ps ∧ c ∉ down then { s.loc c with age := 0xFF } else s.loc c) ∧
      t.blw.queue.map (fun r => (r.cpn, r.kind, r.cls)) = (down.map fun c => (c, .page (hintTier tier), 6)) ∧
      t.seq.rows = s.seq.rows ∧ t.seq.ctxs = s.seq.ctxs ∧ t.mems = s.mems) ∧
  (∀ (s : State) (acc q first cnt kind tier c : Nat) (n : Node) (r : MoveReq), liveNode s acc = some n → n.acc = acc →
    n.cmd = .hint q first cnt kind tier → beginCheck s n = none → LeavesHome s → kind = 0 ∨ kind = 2 →
    hintPages s q first (if cnt = 0 then (s.ctx q).layers - first else cnt) = [c] →
    pageLive (s.loc c) = true → upper (s.loc c) = false → (s.loc c).state ≠ .moving → s.blw.queue = [r] → r.forPage c = true →
    (kind = 0 → keptPages s (ringPt n.ring) + b2n ((s.loc c).age != 0xFE) ≤ (ptPolicy s (ringPt n.ring)).keepQ) →
    ∃ t out, exec (.hint acc) s = .next t ∧ Ended t acc out ∧ out.status = .ok ∧ out.detail1 = (if 4 < r.cls then 1 else 0) ∧
      t.blw.queue.map (fun x => (x.cpn, x.cls)) = [(c, min r.cls 4)]) ∧
  (∀ (s : State) (acc q first cnt kind tier : Nat) (n : Node) (ps : List Nat) (c : Comp), liveNode s acc = some n → n.acc = acc →
    n.cmd = .hint q first cnt kind tier → ps = hintPages s q first (if cnt = 0 then (s.ctx q).layers - first else cnt) →
    (beginCheck s n = some c ∨
      (beginCheck s n = none ∧ kind = 3 ∧ tierHas s (ringPt n.ring) (hintTier tier) = false ∧ c = invalidAt 21) ∨
      (beginCheck s n = none ∧ kind = 0 ∧ c = failWith .nospace ∧ (ptPolicy s (ringPt n.ring)).keepQ <
        keptPages s (ringPt n.ring) + (ps.filter fun c => (s.loc c).age != 0xFE).length)) →
    exec (.hint acc) s = .next (s.setNode acc fun m => { m with outcome := some c })) ∧
  (∀ (s : State) (acc q first cnt tier c : Nat) (n : Node) (f : Leaf), liveNode s acc = some n → n.acc = acc →
    n.cmd = .hint q first cnt 1 tier → beginCheck s n = none → s.blw.leaves = [(c / 65536, f)] → f.inT2 = true → f.moving = false →
    s.blw.queue = [] → hintPages s q first (if cnt = 0 then (s.ctx q).layers - first else cnt) = [c] →
    ∃ t r, exec (.hint acc) s = .next t ∧ t.node acc = some n ∧ t.seq = s.seq ∧ t.mems = s.mems ∧ t.blw.queue = [r] ∧
      r.cpn = c / 65536 ∧ r.kind = .leaf false ∧ r.cls = 3 ∧ r.seq = acc) ∧
  (∀ (s : State), s.boot.fatal = false → (s.blw.sketch.map (·.1)).Nodup →
    ∃ t, exec .sketchDecay s = .next t ∧ (∀ k, tgetD t.blw.sketch k 0 = tgetD s.blw.sketch k 0 / 2) ∧
      t.time = (s.reach s.blw.decayAt).time ∧ t.blw.decayAt = t.time + (blwPolicy s).decayMs * 1000000 ∧ t.blw.queue = s.blw.queue ∧
      t.seq = s.seq ∧ t.mems = s.mems) ∧
  (∀ (s : State) (leaf : Nat) (f : Leaf), s.boot.fatal = false → (blwPolicy s).leafIdleMs ≠ 0 → tget s.blw.leaves leaf = some f →
    f.inT2 = false → f.moving = false → leafCold s leaf = true → (s.blw.queue.any fun r => r.cpn == leaf && isLeaf r.kind) = false →
    ∃ t r, exec (.leafIdle leaf) s = .next t ∧ t.blw.queue = s.blw.queue ++ [r] ∧ r.cpn = leaf ∧ r.kind = .leaf true ∧ r.cls = 8 ∧
      t.time = (s.reach (f.changed + (blwPolicy s).leafIdleMs * 1000000)).time ∧ t.seq = s.seq ∧ t.blw.leaves = s.blw.leaves ∧
      t.mems = s.mems) ∧
  (∀ (s : State) (leaf : Nat) (f : Leaf), s.boot.fatal = false → tget s.blw.leaves leaf = some f →
    ((blwPolicy s).leafIdleMs = 0 ∨ f.inT2 = true ∨ f.moving = true ∨ leafCold s leaf = false ∨
      (s.blw.queue.any fun r => r.cpn == leaf && isLeaf r.kind) = true) → exec (.leafIdle leaf) s = .next s)

/-- SWEEP_VISIT, SWEEP_T2_VISIT, SWEEP_T0_VISIT (after R262, R265 to R267, R270; log 78). A hand that runs, and stands at a page of its own tier in
STAGING, RESIDENT or SHARED-RO, visits that page as R265 has it: the T1 hand spills to the tiers of SPILL_ORDER, the T2 hand to T3 and TH, both in
class 2 below MIN_PM and else in class 5, the T0 hand to T1 in class 7; then it moves on to its next frame. Any other frame it only passes. A hand
that has stopped or does not run, and a T0 hand with no promotion waiting or with a free slot, changes no page and queues nothing. A lap without a
spill or a change of AGE stops the hand; each of R265's events lets the partition's hands go on. R266 never chooses the tier that the page leaves, one
that is not allowed or has no free frame, nor T3 for a STAGING page, and T3 first for a cold one. -/
def Obligations.SweepsVisitPages : Prop :=
  (∀ (s : State) (pt m f next cpn : Nat) (h : Hand), s.boot.fatal = false →
    h = handRun (tgetD s.blw.hands (handKey pt m) {}) (ptFreeIn s pt m) (ptFramesIn s pt m) (ptPolicy s pt).lowPm (ptPolicy s pt).highPm →
    h.stopped = false → h.running = true → nextFrame s pt m h.frame = some f → frameHolder s (m * 2 ^ 20 + f) = some (cpn, false) →
    (s.loc cpn).tier = .t1 → (s.loc cpn).addr = m * 2 ^ 20 + f → s.blw.queue.length < 65536 → reqOf s cpn = none →
    ((s.loc cpn).state = .staging ∨ (s.loc cpn).state = .resident ∨ (s.loc cpn).state = .sharedRo) →
    next = (nextFrame s pt m (f + 1)).getD f →
    ∃ t k, exec (.sweepVisit pt m) s = .next t ∧ k = tgetD t.blw.hands (handKey pt m) {} ∧ k.frame = next ∧
      Visited s t cpn h.guarded k.guarded (spillDest s cpn .t1 [.t2, .t3, .th])
        (if ptFreeIn s pt m * 1000 < (ptPolicy s pt).minPm * ptFramesIn s pt m then 2 else 5) ∧
      ((s.loc cpn).age = 0xFE → endsLap (visitAt h f) next = true → k.stopped = !h.dirty)) ∧
  (∀ (s : State) (pt m f cpn : Nat) (h : Hand), s.boot.fatal = false →
    h = handRun (tgetD s.blw.hands (handKey pt m) {}) (ptFreeIn s pt m) (ptFramesIn s pt m) (ptPolicy s pt).lowPm (ptPolicy s pt).highPm →
    h.stopped = false → h.running = true → nextFrame s pt m h.frame = some f →
    (frameHolder s (m * 2 ^ 20 + f) = none ∨ frameHolder s (m * 2 ^ 20 + f) = some (cpn, true) ∨
      (frameHolder s (m * 2 ^ 20 + f) = some (cpn, false) ∧ ((s.loc cpn).tier ≠ .t1 ∨ (s.loc cpn).addr ≠ m * 2 ^ 20 + f ∨
        (s.loc cpn).state = .moving ∨ (s.loc cpn).state = .poisoned))) →
    ∃ t, exec (.sweepVisit pt m) s = .next t ∧ t.seq = s.seq ∧ t.blw.queue = s.blw.queue ∧ t.mems = s.mems ∧
      (tgetD t.blw.hands (handKey pt m) {}).frame = (nextFrame s pt m (f + 1)).getD f) ∧
  (∀ (s : State) (pt a cpn : Nat) (h : Hand), s.boot.fatal = false → LeavesHome s →
    h = handRun (tgetD s.blw.t2Hands pt {}) (t2Free s pt) (t2Frames s pt) (ptPolicy s pt).lowPm (ptPolicy s pt).highPm →
    h.stopped = false → h.running = true → nextSpill s pt h.frame = some a → tget s.blw.t2 (ptKey pt a) = some (.page cpn) →
    (s.loc cpn).tier = .t2 → (s.loc cpn).addr = a → s.blw.queue.length < 65536 → reqOf s cpn = none →
    ((s.loc cpn).state = .staging ∨ (s.loc cpn).state = .resident ∨ (s.loc cpn).state = .sharedRo) →
    ∃ t k, exec (.sweepT2Visit pt) s = .next t ∧ k = tgetD t.blw.t2Hands pt {} ∧ k.frame = (nextSpill s pt (a + 1)).getD a ∧
      Visited s t cpn h.guarded k.guarded (spillDest s cpn .t2 [.t3, .th])
        (if t2Free s pt * 1000 < (ptPolicy s pt).minPm * t2Frames s pt then 2 else 5)) ∧
  (∀ (s : State) (tile cpn n k : Nat) (h : Hand), s.boot.fatal = false → n = (ptPolicy s (tileOwner s.appliedMap tile)).t0Slots → n ≠ 0 →
    h = tgetD s.blw.t0Hands tile {} → h.stopped = false → wantsSlot s tile = true → k = h.frame % n →
    ((List.range n).any fun i => decide ((s.tile tile).reserved ≤ 255 - i) && !tmem s.blw.t0 (tile * 256 + (255 - i))) = false →
    tget s.blw.t0 (tile * 256 + (255 - k)) = some (.page cpn) → (s.loc cpn).tier = .t0 → (s.loc cpn).addr = tile * 256 + (255 - k) →
    s.blw.queue.length < 65536 → reqOf s cpn = none →
    ((s.loc cpn).state = .staging ∨ (s.loc cpn).state = .resident ∨ (s.loc cpn).state = .sharedRo) →
    ∃ t j, exec (.sweepT0Visit tile) s = .next t ∧ j = tgetD t.blw.t0Hands tile {} ∧ j.frame = (k + 1) % n ∧
      Visited s t cpn h.guarded j.guarded (some .t1) 7) ∧
  (∀ (s : State) (pt m : Nat) (h : Hand), s.boot.fatal = false →
    h = handRun (tgetD s.blw.hands (handKey pt m) {}) (ptFreeIn s pt m) (ptFramesIn s pt m) (ptPolicy s pt).lowPm (ptPolicy s pt).highPm →
    h.stopped = true ∨ h.running = false →
    ∃ t, exec (.sweepVisit pt m) s = .next t ∧ t.seq = s.seq ∧ t.blw.queue = s.blw.queue ∧ t.mems = s.mems) ∧
  (∀ (s : State) (pt : Nat) (h : Hand), s.boot.fatal = false →
    h = handRun (tgetD s.blw.t2Hands pt {}) (t2Free s pt) (t2Frames s pt) (ptPolicy s pt).lowPm (ptPolicy s pt).highPm →
    h.stopped = true ∨ h.running = false →
    ∃ t, exec (.sweepT2Visit pt) s = .next t ∧ t.seq = s.seq ∧ t.blw.queue = s.blw.queue ∧ t.mems = s.mems) ∧
  (∀ (s : State) (tile : Nat), s.boot.fatal = false →
    ((ptPolicy s (tileOwner s.appliedMap tile)).t0Slots = 0 ∨ (tgetD s.blw.t0Hands tile {}).stopped = true ∨ wantsSlot s tile = false ∨
      ((List.range (ptPolicy s (tileOwner s.appliedMap tile)).t0Slots).any fun i =>
        decide ((s.tile tile).reserved ≤ 255 - i) && !tmem s.blw.t0 (tile * 256 + (255 - i))) = true) →
    exec (.sweepT0Visit tile) s = .next s) ∧
  (∀ (s : State) (pt m : Nat), m < 16 → (tgetD (wakeHands s pt).blw.hands (handKey pt m) {}).stopped = false ∧
    (tgetD (wakeHands s pt).blw.t2Hands pt {}).stopped = false) ∧
  (∀ (s : State) (cpn : Nat) (src d : Tier) (allowed : List Tier), spillDest s cpn src allowed = some d →
    d ≠ src ∧ d ∈ allowed ∧ tierFree s (cpnPt cpn) d = true ∧ ((s.loc cpn).state = .staging → d ≠ .t3)) ∧
  (∀ (s : State) (cpn : Nat) (src : Tier) (allowed : List Tier), (ptPolicy s (cpnPt cpn)).coldT3En = true →
    estimate s cpn ≤ (ptPolicy s (cpnPt cpn)).coldT3 → (s.loc cpn).state ≠ .staging → 2 ∈ (ptPolicy s (cpnPt cpn)).order →
    Tier.t3 ∈ allowed → src ≠ .t3 → tierFree s (cpnPt cpn) .t3 = true → spillDest s cpn src allowed = some .t3)

/-- MOVE_START (after R23, R272, R275, R277, R531). With one request of the slice that is to the point, room in the slice and at the ports, and a
destination frame, the page is MOVING, remembers its state, and its move stands with source and destination; a source in T2 is asked for with one pool
read, and a source in T3 with the drive's Reads into a page buffer; a slot that is lost makes the page POISONED and starts no move. A request that is
no longer to the point leaves the queue. With no frame in its tier a request of class 2, 5 or 6 is dropped, and any other waits; so does one whose
page moves, that has no room, whose partition runs a checkpoint, or whose tier is being swept. Of two requests that can start, the one of the more
urgent class, of two deadline moves the one with the earlier deadline, goes first. MOVE_BLOCK_DONE (after R275 to R277, R279, R282, R325). A source
whose reads have not ended, a full copy, and a move into T3 without a page buffer wait. The first block reads the source; one that is poison,
malformed or names another page makes the page POISONED and ends its move. Each uncompressed block is written to the destination as it is copied; a
compressing move writes its form when the last block is coded, and a move into T2 then sends the pool's write. The build of a mute copy writes it with
its last block, and a leaf's block is only counted. A cancelled move leaves the page where it was, in the state it remembered, or FREE where nothing
names it any more. MOVE_CONFIRM and SOURCE_RELEASE (after R106, R107, R262, R275 to R277, R288, R313, R329). A move that has not copied everything, or
whose writes are not confirmed, waits. Once every write is confirmed a page stands at its destination in the state it remembered, with AGE 0 unless it
is kept and the move no demote, and its old place stands aside for its last reads; a mute copy stands in its new frame; a leaf stands in its new tier.
Where nothing names the page any more it is FREE. A failed write leaves the page at its source, in the state it remembered; with a media fault the
destination is never used again. With the last read of the source ended, its frame or slot is free, or retired where it was condemned. No other page
changes. -/
def Obligations.MovesRun : Prop :=
  (∀ (s u : State) (slice dst : Nat) (r : MoveReq) (d : Tier), s.boot.fatal = false → strictPts s = [] → LeavesHome s → s.blw.queue = [r] →
    sliceOf s r = slice → r.kind = .page d → reqValid s r = true → moveOf s r.cpn = none → ckptRuns s (cpnPt r.cpn) = false →
    tmem s.blw.leaving r.cpn = false → sweeping s (cpnPt r.cpn) (sweepCode d) = false → sliceRoom s (cpnPt r.cpn) slice = true →
    placeRoom s (cpnPt r.cpn) (s.loc r.cpn).tier (s.loc r.cpn).addr = true → placeRoom s (cpnPt r.cpn) d dst = true →
    tierAlloc s (cpnPt r.cpn) d r.home (.page r.cpn) = some (dst, u) →
    (upper (s.loc r.cpn) = true →
      ∃ t m, exec (.moveStart slice) s = .next t ∧ t.blw.queue = [] ∧ moveOf t r.cpn = some m ∧ m.kind = .page d ∧ m.dst = dst ∧
        m.srcTier = (s.loc r.cpn).tier ∧ m.srcAddr = (s.loc r.cpn).addr ∧ m.block = 0 ∧ m.cancel = false ∧
        t.loc r.cpn = { s.loc r.cpn with state := .moving, ret := (s.loc r.cpn).state } ∧ (∀ c, c ≠ r.cpn → t.loc c = s.loc c) ∧
        t.mems = s.mems) ∧
    (∀ port ext, (s.loc r.cpn).tier = .t2 → movePort s (cpnPt r.cpn) .t2 (s.loc r.cpn).addr = some (port, ext) →
      (((s.cport port).exts[ext]?).any fun e => e.draining) = false → (s.cport port).failed = false →
      ∃ t q, exec (.moveStart slice) s = .next t ∧ t.cxh.reqs = s.cxh.reqs ++ [q] ∧ q.port = port ∧ q.ext = ext ∧ q.cpn = r.cpn ∧
        q.write = false ∧ (moveOf t r.cpn).isSome = true ∧ (t.loc r.cpn).state = .moving ∧ t.mems = s.mems) ∧
    (∀ np l b, (s.loc r.cpn).tier = .t3 → d = .t1 → np = bits (s.loc r.cpn).addr 31 4 → l = bits (s.loc r.cpn).addr 0 31 →
      np < s.nvh.drives.length → tget (s.drive np).slot l ≠ some 2 → (s.drive np).state = .ready → freeBuf (s.drive np) = some b →
      ∃ t, exec (.moveStart slice) s = .next t ∧ (t.drive np).xfers = (s.drive np).xfers ++
          [{ cpn := r.cpn, slot := l, write := false, buf := b, queue := slice, left := 2 }] ∧
        (t.loc r.cpn).state = .moving ∧ t.mems = s.mems) ∧
    ((s.loc r.cpn).tier = .t3 → d = .t1 → tget (s.drive (bits (s.loc r.cpn).addr 31 4)).slot (bits (s.loc r.cpn).addr 0 31) = some 2 →
      ((s.loc r.cpn).refcnt ≠ 0 ∨ (s.loc r.cpn).published = true) →
      ∃ t, exec (.moveStart slice) s = .next t ∧ (t.loc r.cpn).state = .poisoned ∧ moveOf t r.cpn = none)) ∧
  (∀ (s : State) (slice : Nat) (r : MoveReq), s.boot.fatal = false → strictPts s = [] → s.blw.queue = [r] → sliceOf s r = slice →
    isLeaf r.kind = false → reqValid s (firstMove s r) = false → tmem s.blw.leaving r.cpn = false → moveOf s r.cpn = none →
    ∃ t, exec (.moveStart slice) s = .next t ∧ t.blw.queue = [] ∧ t.seq = s.seq ∧ t.blw.moves = s.blw.moves ∧ t.mems = s.mems) ∧
  (∀ (s : State) (slice : Nat) (r : MoveReq) (d : Tier), s.boot.fatal = false → strictPts s = [] → s.blw.queue = [r] →
    sliceOf s r = slice → r.kind = .page d → reqValid s r = true → tierAlloc s (cpnPt r.cpn) d r.home (.page r.cpn) = none →
    moveOf s r.cpn = none → ckptRuns s (cpnPt r.cpn) = false → tmem s.blw.leaving r.cpn = false →
    sweeping s (cpnPt r.cpn) (sweepCode d) = false → sliceRoom s (cpnPt r.cpn) slice = true →
    placeRoom s (cpnPt r.cpn) (s.loc r.cpn).tier (s.loc r.cpn).addr = true →
    ∃ t, exec (.moveStart slice) s = .next t ∧ t.blw.queue = (if reqDrops r = true then [] else [r]) ∧ t.seq = s.seq ∧
      t.blw.moves = s.blw.moves ∧ (s.rec_.running = [] → t.mems = s.mems)) ∧
  (∀ (s : State) (slice : Nat) (r : MoveReq) (d : Tier), s.boot.fatal = false → strictPts s = [] → s.blw.queue = [r] → r.kind = .page d →
    (sliceOf s r ≠ slice ∨ (moveOf s r.cpn).isSome = true ∨ tmem s.blw.leaving r.cpn = true ∨
      (reqValid s r = true ∧ (ckptRuns s (cpnPt r.cpn) = true ∨ sweeping s (cpnPt r.cpn) (sweepCode d) = true ∨
        sliceRoom s (cpnPt r.cpn) slice = false ∨ placeRoom s (cpnPt r.cpn) (s.loc r.cpn).tier (s.loc r.cpn).addr = false))) →
    exec (.moveStart slice) s = .next s) ∧
  (∀ (s u v : State) (slice : Nat) (x y : MoveReq), s.boot.fatal = false → strictPts s = [] → s.blw.queue = [x, y] →
    sliceOf s x = slice → sliceOf s y = slice → tryMove s slice x = some u → tryMove s slice y = some v →
    (y.cls < x.cls ∨ (x.cls = 3 ∧ y.cls = 3 ∧ ∃ a b, x.deadline = some a ∧ y.deadline = some b ∧ b < a)) →
    exec (.moveStart slice) s = .next v) ∧
  (∀ (s : State) (cpn : Nat) (m : Move), s.boot.fatal = false → moveOf s cpn = some m → m.cancel = false →
    ¬ (m.srcTier = .t3 ∧ bufReady (s.drive (bits m.srcAddr 31 4)) cpn = true) →
    (16 ≤ m.block ∨ sourceWaits s cpn = true ∨ (m.kind = .page .t3 ∧ takeBuf s cpn m = none)) →
    exec (.moveBlockDone cpn) s = .next s) ∧
  (∀ (s u : State) (cpn : Nat) (m : Move), s.boot.fatal = false → moveOf s cpn = some m → m.cancel = false → m.block < 16 →
    sourceWaits s cpn = false → m.kind ≠ .mute → isLeaf m.kind = false → m.page ≠ [] → m.compress = false →
    (m.block < 15 ∨ m.kind = .page .t0 ∨ m.kind = .page .t1 ∨ m.kind = .evacMute) → takeBuf s cpn m = some u →
    exec (.moveBlockDone cpn) s = .next (setMove (writeBlock u cpn m) cpn fun m => { m with block := m.block + 1 })) ∧
  (∀ (s : State) (cpn : Nat) (m : Move) (d : Tier) (b : List Byte) (st : Store), s.boot.fatal = false → moveOf s cpn = some m →
    m.cancel = false → m.block = 0 → sourceWaits s cpn = false → m.kind = .page d → d ≠ .t3 → m.page = [] → m.compress = false → b ≠ [] →
    st = storeOf s (cpnPt cpn) m.srcTier m.srcAddr → storeBad s st 0 frameBytes = false → sourcePage s cpn m = some b →
    ∃ t, exec (.moveBlockDone cpn) s = .next t ∧ moveOf t cpn = some { m with page := b, block := 1 } ∧
      t.mems = (writeBlock s cpn { m with page := b }).mems ∧ t.seq = s.seq) ∧
  (∀ (s : State) (cpn : Nat) (m : Move) (d : Tier) (st : Store), s.boot.fatal = false → moveOf s cpn = some m → m.cancel = false →
    m.block < 16 → sourceWaits s cpn = false → m.kind = .page d → d ≠ .t3 → m.page = [] →
    st = storeOf s (cpnPt cpn) m.srcTier m.srcAddr → (storeBad s st 0 frameBytes = true ∨ sourcePage s cpn m = none) →
    pageLive (s.loc cpn) = true → ((s.loc cpn).refcnt ≠ 0 ∨ (s.loc cpn).published = true) →
    ∃ t, exec (.moveBlockDone cpn) s = .next t ∧ (t.loc cpn).state = .poisoned ∧ moveOf t cpn = none) ∧
  (∀ (s u : State) (cpn : Nat) (m : Move), s.boot.fatal = false → moveOf s cpn = some m → m.cancel = false → m.block < 15 →
    sourceWaits s cpn = false → m.kind ≠ .mute → isLeaf m.kind = false → m.page ≠ [] → m.compress = true → takeBuf s cpn m = some u →
    exec (.moveBlockDone cpn) s = .next (setMove u cpn fun m => { m with block := m.block + 1 })) ∧
  (∀ (s : State) (cpn port ext : Nat) (m : Move) (p : Profile) (bs : List Byte), s.boot.fatal = false → moveOf s cpn = some m →
    m.cancel = false → m.block = 15 → sourceWaits s cpn = false → m.kind = .page .t2 → m.page ≠ [] →
    movePort s (cpnPt cpn) .t2 m.dst = some (port, ext) → (((s.cport port).exts[ext]?).any fun e => e.draining) = false →
    (s.cport port).failed = false → pageProfile s cpn = some p → (m.compress = true → packPage p cpn m.page = some bs) →
    ∃ t q v, exec (.moveBlockDone cpn) s = .next t ∧ t.cxh.reqs = s.cxh.reqs ++ [q] ∧ q.port = port ∧ q.ext = ext ∧ q.cpn = cpn ∧
      q.write = true ∧ moveOf t cpn = some v ∧ v.block = 16 ∧ v.dst = m.dst ∧ v.compress = m.compress ∧
      t.mems = (if m.compress = true then (storeWrite s (cpnPt cpn) (storeOf s (cpnPt cpn) .t2 m.dst) 0 bs).mems
        else (writeBlock s cpn m).mems) ∧ (m.compress = true → v.clen = bs.length) ∧ t.seq = s.seq) ∧
  (∀ (s : State) (cpn : Nat) (m : Move), s.boot.fatal = false → moveOf s cpn = some m → m.cancel = false → m.block < 16 →
    sourceWaits s cpn = false →
    (m.kind = .mute → exec (.moveBlockDone cpn) s = .next (if m.block = 15
      then setMove (buildMute s cpn m.dst m.home) cpn fun m => { m with block := 16 }
      else setMove s cpn fun m => { m with block := m.block + 1 })) ∧
    (∀ b, m.kind = .leaf b →
      exec (.moveBlockDone cpn) s = .next (setMove s cpn fun m => { m with block := m.block + 1 }))) ∧
  (∀ (s : State) (cpn : Nat) (m : Move) (d : Tier), s.boot.fatal = false → moveOf s cpn = some m → m.cancel = true → m.kind = .page d →
    m.heldFill = none → m.clearHeld = false → m.zero = false → (s.loc cpn).state = .moving → s.seq.heldFlush = [] → s.fab.holds = [] →
    ((s.loc cpn).ret = .staging ∨ (s.loc cpn).ret = .resident ∨ (s.loc cpn).ret = .sharedRo) →
    ¬ ((s.loc cpn).ret = .sharedRo ∧ (s.loc cpn).refcnt = 1 ∧ (s.loc cpn).published = false) →
    ∃ t, exec (.moveBlockDone cpn) s = .next t ∧ moveOf t cpn = none ∧
      t.loc cpn = (if unneeded (s.loc cpn) = true then {} else { s.loc cpn with state := (s.loc cpn).ret }) ∧
      (s.rec_.running = [] → t.mems = s.mems)) ∧
  (∀ (s : State) (cpn : Nat) (ok media : Bool) (m : Move), s.boot.fatal = false → moveOf s cpn = some m →
    (m.block < 16 ∨ destWaits s cpn = true) → exec (.moveConfirm cpn ok media) s = .next s) ∧
  (∀ (s : State) (cpn : Nat) (media : Bool) (m : Move) (d : Tier), s.boot.fatal = false → moveOf s cpn = some m → 16 ≤ m.block →
    destWaits s cpn = false → m.cancel = false → unneeded (s.loc cpn) = false → m.kind = .page d → m.heldFill = none →
    m.clearHeld = false → s.seq.heldFlush = [] → s.fab.holds = [] →
    ¬ ((s.loc cpn).ret = .sharedRo ∧ (s.loc cpn).refcnt = 1 ∧ (s.loc cpn).published = false) →
    ∃ t, exec (.moveConfirm cpn true media) s = .next t ∧ moveOf t cpn = none ∧ t.loc cpn =
        { s.loc cpn with tier := d, addr := m.dst, compressed := m.compress, clen := m.clen, state := (s.loc cpn).ret,
                         age := if (s.loc cpn).age = 0xFE ∧ m.cls ≠ 6 then 0xFE else 0 } ∧
      tget t.blw.leaving cpn = some (m.srcTier, m.srcAddr, m.retire, m.slice) ∧ (∀ c, c ≠ cpn → t.loc c = s.loc c) ∧
      (s.rec_.running = [] → t.mems = s.mems)) ∧
  (∀ (s : State) (cpn : Nat) (media : Bool) (m : Move), s.boot.fatal = false → moveOf s cpn = some m → 16 ≤ m.block →
    destWaits s cpn = false → m.cancel = false → unneeded (s.loc cpn) = false → m.heldFill = none → m.clearHeld = false →
    s.seq.heldFlush = [] → s.fab.holds = [] →
    (m.kind = .mute → ¬ ((s.loc cpn).ret = .sharedRo ∧ (s.loc cpn).refcnt = 1 ∧ (s.loc cpn).published = false) →
      ∃ t, exec (.moveConfirm cpn true media) s = .next t ∧ moveOf t cpn = none ∧
      t.loc cpn = { s.loc cpn with mute := some m.dst, state := (s.loc cpn).ret } ∧ (s.rec_.running = [] → t.mems = s.mems)) ∧
    (m.kind = .evacMute → ∃ t, exec (.moveConfirm cpn true media) s = .next t ∧ moveOf t cpn = none ∧
      t.loc cpn = { s.loc cpn with mute := some m.dst } ∧ tget t.blw.leaving cpn = some (.t1, m.srcAddr, m.retire, m.slice) ∧
      (s.rec_.running = [] → t.mems = s.mems))) ∧
  (∀ (s : State) (n : Nat) (media down : Bool) (m : Move), s.boot.fatal = false → moveOf s (leafKey n) = some m → 16 ≤ m.block →
    destWaits s (leafKey n) = false → m.kind = .leaf down →
    ∃ t, exec (.moveConfirm (leafKey n) true media) s = .next t ∧ moveOf t (leafKey n) = none ∧
      tget t.blw.leaves n = some { tgetD s.blw.leaves n {} with inT2 := down, addr := m.dst, moving := false } ∧
      (down = false → ∀ a, tget t.blw.t2 a ≠ some (.leaf n)) ∧ t.seq = s.seq) ∧
  (∀ (s : State) (cpn : Nat) (media : Bool) (m : Move) (d : Tier), s.boot.fatal = false → moveOf s cpn = some m → 16 ≤ m.block →
    destWaits s cpn = false → m.kind = .page d → unneeded (s.loc cpn) = true → (s.loc cpn).state = .moving → s.seq.heldFlush = [] →
    s.fab.holds = [] → ((s.loc cpn).ret = .staging ∨ (s.loc cpn).ret = .resident ∨ (s.loc cpn).ret = .sharedRo) →
    ∃ t, exec (.moveConfirm cpn true media) s = .next t ∧ moveOf t cpn = none ∧ t.loc cpn = {}) ∧
  (∀ (s : State) (cpn : Nat) (media : Bool) (m : Move) (d : Tier), s.boot.fatal = false → cpn < 2 ^ 40 → moveOf s cpn = some m →
    16 ≤ m.block → destWaits s cpn = false → m.kind = .page d → m.heldFill = none → m.clearHeld = false →
    unneeded (s.loc cpn) = false → (s.loc cpn).state = .moving → s.seq.heldFlush = [] → s.fab.holds = [] →
    ¬ ((s.loc cpn).ret = .sharedRo ∧ (s.loc cpn).refcnt = 1 ∧ (s.loc cpn).published = false) →
    ∃ t, exec (.moveConfirm cpn false media) s = .next t ∧ moveOf t cpn = none ∧
      t.loc cpn = { s.loc cpn with state := (s.loc cpn).ret } ∧ (s.rec_.running = [] → t.mems = s.mems) ∧
      (media = true → d = .t1 → m.dst / 2 ^ 20 < s.hbc.length →
        m.dst % 2 ^ 20 ∈ (t.hb (m.dst / 2 ^ 20)).retired) ∧
      (media = true → d = .t2 → bit m.dst 47 = false → tget t.blw.t2 (ptKey (cpnPt cpn) m.dst) = some .faulty) ∧
      (media = true → d = .th → tget t.blw.th (ptKey (cpnPt cpn) m.dst) = some .faulty) ∧
      (media = true → d = .t3 → bits m.dst 31 4 < s.nvh.drives.length →
        tget (t.drive (bits m.dst 31 4)).slot (bits m.dst 0 31) = some 3)) ∧
  (∀ (s : State) (cpn a slice : Nat) (d : Tier) (retire : Bool), s.boot.fatal = false →
    tget s.blw.leaving cpn = some (d, a, retire, slice) →
    ∃ t, exec (.sourceRelease cpn) s = .next t ∧ tget t.blw.leaving cpn = none ∧ t.seq = s.seq ∧ (s.rec_.running = [] → t.mems = s.mems) ∧
      (d = .t0 → tget t.blw.t0 a = none) ∧ (d = .t1 → tget t.blw.t1 a = none) ∧
      (d = .t1 → retire = true → a / 2 ^ 20 < s.hbc.length → a % 2 ^ 20 ∈ (t.hb (a / 2 ^ 20)).retired) ∧
      (d = .t2 → bit a 47 = false → tget t.blw.t2 (ptKey (cpnPt cpn) a) = none) ∧
      (d = .th → tget t.blw.th (ptKey (cpnPt cpn) a) = none) ∧
      (d = .t3 → bit (s.reg pgNvh 0x200) 1 = false → tget (s.drive (bits a 31 4)).slot (bits a 0 31) ≠ some 3 →
        ((s.drive (bits a 31 4)).cmds ++ (s.drive (bits a 31 4)).sqWait).any (fun c => c.slot == bits a 0 31) = false →
        tget (t.drive (bits a 31 4)).slot (bits a 0 31) = none))

/-- The outer code of HBM (after R285, R286; log 100). What is read of a unit without errors decodes clean where the unit's MAC matches, whatever its data
(or as the die's own correction where the die reports one), and one wrong symbol among its 36, data or check byte, is corrected. -/
def Obligations.HbmCodeCorrects : Prop :=
  (∀ (s : State) (a : Nat) (e : UnitErr), hbmBad s a 32 = false → e.first = [] →
    readOutcome s a e = if e.inner then .inner else .clean) ∧
  (∀ (s : State) (a i : Nat) (x : Byte) (e : UnitErr), hbmBad s a 32 = false → i < 36 → x ≠ 0 →
    e.first = List.replicate i 0 ++ [x] → readOutcome s a e = .corrected)

/-- HBM_READ_DONE (after R285 to R288, R290, R494). A clean read only counts; one the die corrected is counted there; a corrected one raises the stack's
count and the frame's by one, up to 255, and at HBC_CE_RETIRE the frame is condemned: its page is queued to leave in class 1, and a free one is
retired. An uncorrectable one in a page's frame makes the page POISONED, HARD where the fault is hard; a hard one in a free frame retires it; one in a
class 0 table of a partition fails that partition; one in a frame of a partition that is being scrubbed is ignored. A stack that is left out, and an
address beyond the stack, give no read. PATROL_READ, HBC_RET_ADD and BLW_T1_CFG (after R287, R289, R294, R295). Patrol reads the unit it has come to
and goes on by one, over the whole stack; a clean unit changes nothing else; an uncorrectable one in a live page's frame makes the page POISONED, one
in a free frame of the pool retires the frame, and one in the frame of a POISONED page is ignored. With HOURS 0, or in a stack that is left out,
patrol stands. HBC_RET_ADD retires a frame and logs it with cause 3 while the log has room, or sets OVF; while the stack's pool is in use it changes
nothing but its log entry of code 0x06. BLW_T1_CFG of the secure world sets EN of the selected stack's pool; an enable of a pool that the working area
of the applied map overlaps sets nothing and is logged with code 0x06. Other requesters set neither. -/
def Obligations.HbmReadsAndFrames : Prop :=
  (∀ (s : State) (m off f : Nat) (err : UnitErr) (d : Decode), s.boot.fatal = false → (s.hb m).excluded = false →
    off < stackFrames * frameBytes → m < s.hbc.length → f = off / frameBytes → d = readOutcome s (hbmAddr m (off / 32 * 32)) err →
    (d = .clean → ∃ t, exec (.hbmReadDone m off err) s = .next t ∧ Reports s t) ∧
    (d = .inner → ∃ t, exec (.hbmReadDone m off err) s = .next t ∧ (t.hb m).ceInner = ((s.hb m).ceInner + 1) % 2 ^ 32 ∧
      (t.hb m).counts = (s.hb m).counts ∧ t.mems = s.mems ∧ t.seq = s.seq ∧ t.blw = s.blw) ∧
    (d = .corrected ∨ d = .retryOk →
      ∃ t, exec (.hbmReadDone m off err) s = .next t ∧ (t.hb m).ceOuter = ((s.hb m).ceOuter + 1) % 2 ^ 32 ∧
        tgetD (t.hb m).counts f 0 = min (tgetD (s.hb m).counts f 0 + 1) 255 ∧ (s.rec_.running = [] → t.mems = s.mems) ∧ t.seq = s.seq ∧
        (min (tgetD (s.hb m).counts f 0 + 1) 255 < max (s.reg (pgHbc m) 0x204) 1 → t.blw = s.blw ∧ (t.hb m).retired = (s.hb m).retired) ∧
        (max (s.reg (pgHbc m) 0x204) 1 ≤ min (tgetD (s.hb m).counts f 0 + 1) 255 → f ∉ (s.hb m).retired →
          m * 2 ^ 20 + f ∉ s.blw.condemned →
          (∀ c, frameHolder s (m * 2 ^ 20 + f) = some (c, false) → reqOf s c = none → s.blw.queue.length < 65536 →
            t.blw.condemned = s.blw.condemned ++ [m * 2 ^ 20 + f] ∧ ∃ r, t.blw.queue = s.blw.queue ++ [r] ∧ r.cpn = c ∧
              r.kind = .page .t1 ∧ r.cls = 1 ∧ r.retire = true) ∧
          (tmem s.blw.t1 (m * 2 ^ 20 + f) = false → f ∈ (t.hb m).retired))) ∧
    (∀ c, d = .soft ∨ d = .hard → scrubFrame s m f = false → frameInClass s 0 m f = false →
      frameHolder s (m * 2 ^ 20 + f) = some (c, false) → pageLive (s.loc c) = true →
      ((s.loc c).refcnt ≠ 0 ∨ (s.loc c).published = true) →
      ∃ t, exec (.hbmReadDone m off err) s = .next t ∧ (t.loc c).state = .poisoned ∧ (t.loc c).hard = (d == .hard) ∧
        (t.hb m).ue = ((s.hb m).ue + 1) % 2 ^ 32 ∧ (∀ k, k ≠ c → t.loc k = s.loc k)) ∧
    (d = .soft ∨ d = .hard → scrubFrame s m f = false → frameInClass s 0 m f = false → tmem s.blw.t1 (m * 2 ^ 20 + f) = false →
      ∃ t, exec (.hbmReadDone m off err) s = .next t ∧ (t.hb m).ue = ((s.hb m).ue + 1) % 2 ^ 32 ∧ t.seq = s.seq ∧
        (d = .hard → f ∈ (t.hb m).retired) ∧ (d = .soft → (t.hb m).retired = (s.hb m).retired)) ∧
    (∀ pt, d = .soft ∨ d = .hard → scrubFrame s m f = false → frameInClass s 0 m f = true →
      inTable (ctxTable s) (hbmAddr m off) = false → inTable (locTable s) (hbmAddr m off) = true →
      pt = (hbmAddr m off - (locTable s).1) / 8 / 2 ^ 21 → (s.part pt).state = .active → pt < s.sec.pts.length →
      ∃ t, exec (.hbmReadDone m off err) s = .next t ∧ (t.part pt).state = .failed ∧ t.seq = s.seq) ∧
    (d = .soft ∨ d = .hard → scrubFrame s m f = true → ∃ t, exec (.hbmReadDone m off err) s = .next t ∧ Reports s t)) ∧
  (∀ (s : State) (m off : Nat) (err : UnitErr), ((s.hb m).excluded = true ∨ stackFrames * frameBytes ≤ off) →
    exec (.hbmReadDone m off err) s = .next s) ∧
  (∀ (s : State) (m f : Nat) (err : UnitErr) (d : Decode), s.boot.fatal = false → (s.hb m).excluded = false →
    s.reg (pgHbc m) 0x200 ≠ 0 → m < s.hbc.length → (s.hb m).patrol < stackFrames * frameBytes → (s.hb m).patrol % 32 = 0 →
    f = (s.hb m).patrol / frameBytes → d = readOutcome s (hbmAddr m (s.hb m).patrol) err →
    ∃ t, exec (.patrolRead m err) s = .next t ∧ (t.hb m).patrol = ((s.hb m).patrol + 32) % (stackFrames * frameBytes) ∧
      (d = .clean ∨ d = .inner → t.seq = s.seq ∧ t.blw = s.blw ∧ t.mems = s.mems ∧ (t.hb m).retired = (s.hb m).retired) ∧
      (∀ c, d = .soft ∨ d = .hard → scrubFrame s m f = false → frameInClass s 0 m f = false →
        frameHolder s (m * 2 ^ 20 + f) = some (c, false) →
        (pageLive (s.loc c) = true → ((s.loc c).refcnt ≠ 0 ∨ (s.loc c).published = true) → (t.loc c).state = .poisoned) ∧
        ((s.loc c).state = .poisoned → t.seq = s.seq ∧ t.blw = s.blw ∧ t.mems = s.mems ∧ (t.hb m).ue = (s.hb m).ue)) ∧
      (d = .soft ∨ d = .hard → scrubFrame s m f = false → frameInClass s 0 m f = false → tmem s.blw.t1 (m * 2 ^ 20 + f) = false →
        inPool s m f = true → f ∈ (t.hb m).retired ∧ t.seq = s.seq)) ∧
  (∀ (s : State) (m : Nat) (err : UnitErr), ((s.hb m).excluded = true ∨ s.reg (pgHbc m) 0x200 = 0) →
    exec (.patrolRead m err) s = .next s) ∧
  (∀ (s : State) (rq : Requester) (m f : Nat) (val : Word), s.boot.fatal = false → m < s.hbc.length → f = val.toNat % 2 ^ 20 →
    (rq.secure = true → rq.src < 4 → bit (s.reg pgBlw 0x20C m) 0 = true →
      ∃ t, exec (.hbcRetAdd rq m val) s = .next t ∧ Logged s t (pgHbc m) 0x06) ∧
    (rq.secure = true → rq.src < 4 → bit (s.reg pgBlw 0x20C m) 0 = false → f ∉ (s.hb m).retired →
      ∃ t, exec (.hbcRetAdd rq m val) s = .next t ∧ (t.hb m).retired = (s.hb m).retired ++ [f] ∧
        (t.hb m).log = (if (s.hb m).log.length < 16384 then (s.hb m).log ++ [(f, 3)] else (s.hb m).log) ∧
        (t.hb m).ovf = ((s.hb m).ovf || !decide ((s.hb m).log.length < 16384)) ∧ (s.rec_.running = [] → t.mems = s.mems) ∧
        t.seq = s.seq) ∧
    (rq.secure = true → rq.src < 4 → bit (s.reg pgBlw 0x20C m) 0 = false → f ∈ (s.hb m).retired →
      exec (.hbcRetAdd rq m val) s = .next s) ∧
    (rq.secure = false → ∃ t, exec (.hbcRetAdd rq m val) s = .next t ∧ Logged s t (pgHbc m) 0x03)) ∧
  (∀ (s : State) (rq : Requester) (val : Word), s.boot.fatal = false →
    (rq.secure = true → rq.src < 4 → (bit val.toNat 0 = false ∨ poolOverlaps s (s.reg pgBlw 0x200) = false) →
      exec (.blwT1Cfg rq val) s = .next (s.setReg pgBlw 0x20C (s.reg pgBlw 0x200) (val.toNat % 2))) ∧
    (rq.secure = true → rq.src < 4 → bit val.toNat 0 = true → poolOverlaps s (s.reg pgBlw 0x200) = true →
      ∃ t, exec (.blwT1Cfg rq val) s = .next t ∧ Logged s t pgBlw 0x06) ∧
    (rq.secure = false → ∃ t, exec (.blwT1Cfg rq val) s = .next t ∧ Logged s t pgBlw 0x03))

/-! ### The shared pool -/

/-- REGION commands begin (after R239, R305 to R307, R310, R311, R316). An OPEN of a version that exists, a CLOSE of the open version that no other
command holds, and a RELEASE of a live version that is not the head each ask for ownership of the version's record line and change nothing else. A
check that fails, a failed region, a version open already or not open, one that is not found, the head released, and a version that another command
holds end the command with the outcome that R305 to R316 give; poison in a line that it reads fails the region too. While the command waits for a
line, or the port holds 1,024 lines, it waits; an OPEN also while a scrub sweeps its directory. CTRL_LINE_GRANT of OPEN, CLOSE and RELEASE, and
BISNP_RX (after R298, R305 to R308, R310, R311, R316). An OPEN of a record that is still live, of the version asked for, ends with what its import
gives, the version open; one whose region was opened meanwhile, or whose record is no longer live, ends INVALID at byte 16 or 24. A CLOSE ends OK, its
version no longer open; a RELEASE sets STATE 3 and ends OK. A granted line is no longer asked for, and no snoop waits on it. Poison in the line, or in
an extent given back, fails the region and ends the command POISONED. A snoop of lines of which an update holds one waits, and any other is answered
at once; a port that is down takes none. -/
def Obligations.RegionsAndLines : Prop :=
  (∀ (s : State) (acc r v src i : Nat) (n : Node), liveNode s acc = some n → n.acc = acc → n.cmd = .region 0 r v src →
    sweeping s (ringPt n.ring) 5 = false → lineWaits s acc = false → beginCheck s n = none → s.cxh.failed.contains r = false →
    lineRoom s (rgnPort s r) = true → openVersion s (ringPt n.ring) r = none → rBad s r 0 64 = false →
    (v ≠ 0 → rBad s r 0x10000 0x40000 = false) → (if v = 0 then some (headRec s r) else findVersion s r v) = some i →
    exec (.regionOpen acc) s = .next { s with cxh := { s.cxh with idNext := s.cxh.idNext + 1, lines := s.cxh.lines ++
      [{ id := s.cxh.idNext, port := rgnPort s r, region := r, pt := ringPt n.ring, use := .openRec acc i, op := .join i }] } }) ∧
  (∀ (s : State) (acc r v src : Nat) (n : Node) (o : OpenVersion), liveNode s acc = some n → n.acc = acc → n.cmd = .region 2 r v src →
    lineWaits s acc = false → beginCheck s n = none → s.cxh.failed.contains r = false → lineRoom s (rgnPort s r) = true →
    openVersion s (ringPt n.ring) r = some o → versionHeld s o.pt r acc = false → rBad s r (recOff o.slot) 64 = false →
    exec (.regionClose acc) s = .next { s with cxh := { s.cxh with idNext := s.cxh.idNext + 1, lines := s.cxh.lines ++
      [{ id := s.cxh.idNext, port := rgnPort s r, region := r, pt := o.pt, use := .closeRec acc o.slot, op := .leave o.slot }] } }) ∧
  (∀ (s : State) (acc r v src i : Nat) (n : Node) (o : OpenVersion), liveNode s acc = some n → n.acc = acc → n.cmd = .region 3 r v src →
    lineWaits s acc = false → beginCheck s n = none → s.cxh.failed.contains r = false → lineRoom s (rgnPort s r) = true →
    openVersion s (ringPt n.ring) r = some o → rBad s r 0 64 = false → rBad s r 0x10000 0x40000 = false → findVersion s r v = some i →
    headRec s r ≠ i →
    exec (.regionRelease acc) s = .next { s with cxh := { s.cxh with idNext := s.cxh.idNext + 1, lines := s.cxh.lines ++
      [{ id := s.cxh.idNext, port := rgnPort s r, region := r, pt := o.pt, use := .releaseRec acc i, op := .retire i }] } }) ∧
  (∀ (s : State) (acc op r v src : Nat) (n : Node) (x : Instr) (c : Comp), liveNode s acc = some n → n.acc = acc →
    n.cmd = .region op r v src → lineWaits s acc = false →
    ((op = 0 ∧ x = .regionOpen acc ∧ sweeping s (ringPt n.ring) 5 = false) ∨ (op = 1 ∧ x = .regionPublish acc) ∨
      (op = 2 ∧ x = .regionClose acc) ∨ (op = 3 ∧ x = .regionRelease acc)) →
    (beginCheck s n = some c ∨
      (beginCheck s n = none ∧ s.cxh.failed.contains r = true ∧ c = failWith .poisoned) ∨
      (beginCheck s n = none ∧ s.cxh.failed.contains r = false ∧ lineRoom s (rgnPort s r) = true ∧
        ((op = 0 ∧ c = invalidAt 16 ∧ (openVersion s (ringPt n.ring) r).isSome = true) ∨
          (op = 0 ∧ c = invalidAt 24 ∧ openVersion s (ringPt n.ring) r = none ∧ v ≠ 0 ∧ rBad s r 0 64 = false ∧
            rBad s r 0x10000 0x40000 = false ∧ findVersion s r v = none) ∨
          (op ≠ 0 ∧ c = invalidAt 16 ∧ openVersion s (ringPt n.ring) r = none) ∨
          (op = 2 ∧ c = failWith .busy ∧ ∃ o, openVersion s (ringPt n.ring) r = some o ∧ versionHeld s o.pt r acc = true) ∨
          (op = 3 ∧ c = invalidAt 24 ∧ (openVersion s (ringPt n.ring) r).isSome = true ∧ rBad s r 0 64 = false ∧
            rBad s r 0x10000 0x40000 = false ∧ ∀ i, findVersion s r v = some i → headRec s r = i)))) →
    exec x s = .next (s.setNode acc fun m => { m with outcome := some c })) ∧
  (∀ (s : State) (acc op r v src : Nat) (n : Node) (x : Instr), liveNode s acc = some n → n.acc = acc → n.cmd = .region op r v src →
    lineWaits s acc = false → beginCheck s n = none → s.cxh.failed.contains r = false → lineRoom s (rgnPort s r) = true →
    ((op = 0 ∧ x = .regionOpen acc ∧ sweeping s (ringPt n.ring) 5 = false ∧ openVersion s (ringPt n.ring) r = none ∧
        (rBad s r 0 64 = true ∨ (v ≠ 0 ∧ rBad s r 0x10000 0x40000 = true))) ∨
      (op = 2 ∧ x = .regionClose acc ∧ ∃ o, openVersion s (ringPt n.ring) r = some o ∧ versionHeld s o.pt r acc = false ∧
        rBad s r (recOff o.slot) 64 = true) ∨
      (op = 3 ∧ x = .regionRelease acc ∧ (openVersion s (ringPt n.ring) r).isSome = true ∧
        (rBad s r 0 64 = true ∨ rBad s r 0x10000 0x40000 = true))) →
    ∃ t, exec x s = .next t ∧ Ended t acc (failWith .poisoned) ∧ r ∈ t.cxh.failed ∧ t.cxh.lines = s.cxh.lines ∧ t.mems.pool = s.mems.pool) ∧
  (∀ (s : State) (acc op r v src : Nat) (n : Node) (x : Instr), liveNode s acc = some n → n.acc = acc → n.cmd = .region op r v src →
    ((op = 0 ∧ x = .regionOpen acc) ∨ (op = 1 ∧ x = .regionPublish acc) ∨ (op = 2 ∧ x = .regionClose acc) ∨
      (op = 3 ∧ x = .regionRelease acc)) →
    (lineWaits s acc = true ∨ (op = 0 ∧ sweeping s (ringPt n.ring) 5 = true) ∨
      (beginCheck s n = none ∧ s.cxh.failed.contains r = false ∧ lineRoom s (rgnPort s r) = false)) →
    exec x s = .next s) ∧
  (∀ (s v u : State) (port id i : Nat) (l : LineReq) (n : Node) (c : Comp) (op q want src : Nat), s.boot.fatal = false →
    s.cxh.lines.find? (fun l => l.port == port && l.id == id) = some l → l.op = .join i → l.use = .openRec n.acc i →
    openNode s n.acc = some n → n.cmd = .region op q want src → s.cxh.failed.contains l.region = false →
    rBad s l.region (lineOff (1 + i)) 64 = false →
    v = countLine { s with cxh := { s.cxh with lines := s.cxh.lines.filter fun x => x.id != id } } l.pt →
    (openVersion s l.pt l.region = none → rBad s l.region 0 64 = false → recLive s l.region i = true →
      (want = 0 ∨ recVersion s l.region i = want) → openRecord v l.pt n.hdr.epoch l.region i = (u, c) → u.node n.acc = some n →
      (c.status ≠ .nospace → ∃ t, exec (.ctrlLineGrant port ⟨id, false⟩) s = .next t ∧ Ended t n.acc c ∧ t.cxh.lines = u.cxh.lines ∧
        t.cxh.opens = u.cxh.opens ∧ t.chn = u.chn ∧ t.seq = u.seq ∧ t.mems = u.mems) ∧
      (c.status = .nospace → rBad u l.region (lineOff (1 + i)) 64 = false → ∃ t x, exec (.ctrlLineGrant port ⟨id, false⟩) s = .next t ∧
        t.cxh.lines = u.cxh.lines ++ [x] ∧ x.op = .leave i ∧ x.use = .back n.acc 0 (some c) ∧ t.cxh.opens = u.cxh.opens)) ∧
    ((openVersion s l.pt l.region).isSome = true → ∃ t, exec (.ctrlLineGrant port ⟨id, false⟩) s = .next t ∧ Ended t n.acc (invalidAt 16) ∧
      t.cxh.opens = s.cxh.opens ∧ t.mems = s.mems) ∧
    (openVersion s l.pt l.region = none → rBad s l.region 0 64 = false →
      (recLive s l.region i = false ∨ (want ≠ 0 ∧ recVersion s l.region i ≠ want)) →
      ∃ t, exec (.ctrlLineGrant port ⟨id, false⟩) s = .next t ∧ Ended t n.acc (invalidAt 24) ∧ t.cxh.opens = s.cxh.opens ∧
        t.mems = s.mems)) ∧
  (∀ (s u : State) (pt epoch r i : Nat) (c : Comp), openRecord s pt epoch r i = (u, c) → c.status = .ok →
    c.result = recVersion s r i ∧ (∃ o, o ∈ u.cxh.opens ∧ o.pt = pt ∧ o.region = r ∧ o.version = recVersion s r i ∧ o.slot = i) ∧
    u.mems.pool = (rput s r (recOff i + 20) 4 (recReaders s r i + 1)).mems.pool) ∧
  (∀ (s u : State) (port id i acc q r v src : Nat) (l : LineReq) (n : Node) (o : OpenVersion), s.boot.fatal = false →
    s.cxh.lines.find? (fun l => l.port == port && l.id == id) = some l → openNode s acc = some n → n.acc = acc →
    n.cmd = .region q r v src → s.cxh.failed.contains l.region = false → rBad s l.region (lineOff (1 + i)) 64 = false →
    openVersion s l.pt l.region = some o → l.rest = [] →
    u = countLine { s with cxh := { s.cxh with lines := s.cxh.lines.filter fun x => x.id != id } } l.pt →
    (l.op = .leave i → l.use = .closeRec acc i → versionHeld s l.pt l.region acc = false →
      (leaveRec (dropOpen (closeImports u o) o.pt l.region) l.region i).2 = [] →
      ∃ t, exec (.ctrlLineGrant port ⟨id, false⟩) s = .next t ∧ Ended t acc {} ∧ openVersion t l.pt l.region = none ∧
        t.cxh.lines = s.cxh.lines.filter (fun x => x.id != id) ∧
        t.mems = (leaveRec (dropOpen (closeImports u o) o.pt l.region) l.region i).1.mems) ∧
    (l.op = .leave i → l.use = .closeRec acc i → versionHeld s l.pt l.region acc = true →
      ∃ t, exec (.ctrlLineGrant port ⟨id, false⟩) s = .next t ∧ Ended t acc (failWith .busy) ∧ t.cxh.opens = s.cxh.opens ∧
        t.mems = s.mems) ∧
    (l.op = .retire i → l.use = .releaseRec acc i → rBad s l.region 0 64 = false → recLive s l.region i = true →
      headRec s l.region ≠ i →
      ∃ t, exec (.ctrlLineGrant port ⟨id, false⟩) s = .next t ∧ Ended t acc {} ∧ t.cxh.opens = s.cxh.opens ∧
        t.cxh.lines = s.cxh.lines.filter (fun x => x.id != id) ∧ t.mems = (setRecState u l.region i 3).mems) ∧
    (l.op = .retire i → l.use = .releaseRec acc i → rBad s l.region 0 64 = false →
      (recLive s l.region i = false ∨ headRec s l.region = i) →
      ∃ t, exec (.ctrlLineGrant port ⟨id, false⟩) s = .next t ∧ Ended t acc (invalidAt 24) ∧ t.mems = s.mems)) ∧
  (∀ (s : State) (port id acc q r v src : Nat) (poison : Bool) (l : LineReq) (n : Node), s.boot.fatal = false →
    s.cxh.lines.find? (fun l => l.port == port && l.id == id) = some l → l.use.acc = some acc → openNode s acc = some n → n.acc = acc →
    n.cmd = .region q r v src → (poison = true ∨ rBad s l.region (lineOff l.op.line) 64 = true) →
    ∃ t, exec (.ctrlLineGrant port ⟨id, poison⟩) s = .next t ∧ Ended t acc (failWith .poisoned) ∧ l.region ∈ t.cxh.failed ∧
      t.mems.pool = s.mems.pool) ∧
  (∀ (s t : State) (port id : Nat) (poison : Bool) (l : LineReq), s.boot.fatal = false → port < s.cxh.ports.length →
    s.cxh.lines.find? (fun l => l.port == port && l.id == id) = some l → exec (.ctrlLineGrant port ⟨id, poison⟩) s = .next t →
    ∀ x, x ∈ (t.cport port).snoops → snoopMeets t port x.1 x.2.1 x.2.2 = true) ∧
  (∀ (s : State) (port region line n : Nat) (k : SnoopKind), s.boot.fatal = false → port < s.cxh.ports.length →
    ((s.cport port).up = true → snoopMeets s port region line n = true →
      ∃ t, exec (.bisnpRx port k ⟨region, line, n⟩) s = .next t ∧ (t.cport port).snoops = (s.cport port).snoops ++ [(region, line, n)] ∧
        t.cxh.lines = s.cxh.lines ∧ t.mems = s.mems) ∧
    ((s.cport port).up = true → snoopMeets s port region line n = false →
      ∃ t, exec (.bisnpRx port k ⟨region, line, n⟩) s = .next t ∧ Reports s t) ∧
    ((s.cport port).up = false → exec (.bisnpRx port k ⟨region, line, n⟩) s = .next s))

/-- REGION_PUBLISH (after R257, R304, R305, R309, R316; log 62). `named` are the entries that the delta's handles name. Where all of them stand in the
open version's table, they take its version and the command ends OK with it; no version is made. Where some do not, and their pages lie in T0 and T1,
the region has frames and a FREE record, it asks for the bitmap lines of its frames, one after another. A page below T1 is moved there first, in class
3. A handle that names no live entry of the partition or an entry whose parent is neither in the table nor in the delta, a delta outside the areas of
the ring, a poisoned page, and a lack of frames or records end it INVALID at byte 32, PERM, POISONED and NOSPACE; poison in what it reads of the
region fails the region. CTRL_LINE_GRANT of a publication (after R303, R305, R309; log 62); `u` is the state in which the line is taken and counted. A
bitmap line: where its frames are free their bits are set and the next line is asked for, after the last one pages and table are written and a
record's line is asked for; where another has taken one of them, what was taken is returned and the command tries again. A record's line: a FREE
record is written with VERSION, BASE, STATE 1 and READERS 1 and the head line is asked for; another one is sought otherwise. The head line: with
HEAD_VERSION = BASE it names the new version and its record, which becomes LIVE, the old version's READERS falls, the open version and the delta's
entries are the new version's, and the command ends OK; otherwise the line stays, CONFLICT is kept, and the record and the frames are returned before
the command ends with it. -/
def Obligations.PublishWritesAVersion : Prop :=
  (∀ (s : State) (acc r v src k tf : Nat) (n : Node) (o : OpenVersion) (h bs old : List Byte) (named delta cpns : List Nat) (bad : Bool),
    liveNode s acc = some n → n.acc = acc → n.cmd = .region 1 r v src → lineWaits s acc = false → beginCheck s n = none →
    s.cxh.failed.contains r = false → lineRoom s (rgnPort s r) = true → openVersion s (ringPt n.ring) r = some o →
    readRef s n src 16 = .ok h → k = field h 0 4 → refInArea s n.hdr o.pt src (16 + 4 * k) = true → readRef s n src (16 + 4 * k) = .ok bs →
    ((List.range k).map fun i => field bs (16 + 4 * i) 4).mapM (fun h => (handleSlot s h).bind fun x =>
      if x.2.pt = o.pt then some x.1 else none) = some named →
    bad = (rBad s o.region 0 64 || rBad s o.region 0x10000 0x40000 || rBad s o.region 0x50000 (ceilDiv (rgnFrames s o.region) 8)
      || rBad s o.region (recTable s o.region o.slot * frameBytes) (recTableFrames s o.region o.slot * frameBytes)) →
    old = tabBytes s o.region o.slot →
    delta = (deepestFirst s (named.eraseDups.filter fun i => !tabHas (tabEntries old) (s.slot i))).reverse →
    cpns = delta.flatMap (fun i => (s.slot i).cpns) → tf = ceilDiv (tableSize old delta.length cpns.length) frameBytes →
    (bad = true → ∃ t, exec (.regionPublish acc) s = .next t ∧ Ended t acc (failWith .poisoned) ∧ o.region ∈ t.cxh.failed) ∧
    (bad = false → named.eraseDups.all (parentOk s (tabEntries old) named.eraseDups) = false →
      ∃ t, exec (.regionPublish acc) s = .next t ∧ Ended t acc (invalidAt 32) ∧ t.chn = s.chn ∧ t.cxh.lines = s.cxh.lines ∧
        t.mems = s.mems) ∧
    (bad = false → named.eraseDups.all (parentOk s (tabEntries old) named.eraseDups) = true →
      (delta = [] → ∃ t, exec (.regionPublish acc) s = .next t ∧ Ended t acc { detail0 := o.version % 2 ^ 32, result := o.version } ∧
        t.mems = s.mems ∧ t.cxh.lines = s.cxh.lines ∧ t.cxh.opens = s.cxh.opens ∧
        (∀ i, t.slot i = if i ∈ named then { s.slot i with version := o.version } else s.slot i)) ∧
      (delta ≠ [] → cpns.any (pagePoisoned s) = true →
        ∃ t, exec (.regionPublish acc) s = .next t ∧ Ended t acc (failWith .poisoned) ∧ t.chn = s.chn ∧ t.mems = s.mems) ∧
      (∀ c, delta ≠ [] → cpns.any (pagePoisoned s) = false →
        cpns.filter (fun c => !upper (s.loc c) || (s.loc c).state == .moving) = [c] → rising s c = false →
        reqOf s c = none → s.blw.queue.length < 65536 →
        ∃ t q, exec (.regionPublish acc) s = .next t ∧ t.node acc = some n ∧ t.blw.queue = s.blw.queue ++ [q] ∧ q.cpn = c ∧
          q.kind = .page .t1 ∧ q.cls = 3 ∧ q.seq = acc ∧ t.cxh = s.cxh ∧ t.mems = s.mems) ∧
      (delta ≠ [] → cpns.any (pagePoisoned s) = false →
        cpns.filter (fun c => !upper (s.loc c) || (s.loc c).state == .moving) = [] →
        (stepFrames s o.region o.pt cpns.length tf = none ∨ freeRec s o.region = none) →
        ∃ t, exec (.regionPublish acc) s = .next t ∧ Ended t acc (failWith .nospace) ∧ t.chn = s.chn ∧ t.mems = s.mems) ∧
      (∀ fs b i, delta ≠ [] → cpns.any (pagePoisoned s) = false →
        cpns.filter (fun c => !upper (s.loc c) || (s.loc c).state == .moving) = [] →
        stepFrames s o.region o.pt cpns.length tf = some (fs, b) → freeRec s o.region = some i →
        ∃ t l, exec (.regionPublish acc) s = .next t ∧ t.cxh.lines = s.cxh.lines ++ [l] ∧ l.region = o.region ∧ l.pt = o.pt ∧
          l.op :: l.rest = (byLine (fs ++ (List.range tf).map (b + ·))).map .claim ∧
          l.use = .publish acc { pages := fs, table := b, tableFrames := tf, delta := delta, top := 0 } ∧ t.node acc = some n ∧
          t.chn = s.chn ∧ t.mems = s.mems))) ∧
  (∀ (s : State) (acc r v src k : Nat) (n : Node) (o : OpenVersion) (h : List Byte) (c : Comp), liveNode s acc = some n → n.acc = acc →
    n.cmd = .region 1 r v src → lineWaits s acc = false → beginCheck s n = none → s.cxh.failed.contains r = false →
    lineRoom s (rgnPort s r) = true → openVersion s (ringPt n.ring) r = some o → readRef s n src 16 = .ok h → k = field h 0 4 →
    ((refInArea s n.hdr o.pt src (16 + 4 * k) = false ∧ c = failWith .perm) ∨
      (refInArea s n.hdr o.pt src (16 + 4 * k) = true ∧ c = invalidAt 32 ∧ ∃ bs, readRef s n src (16 + 4 * k) = .ok bs ∧
        ((List.range k).map fun i => field bs (16 + 4 * i) 4).mapM (fun h => (handleSlot s h).bind fun x =>
          if x.2.pt = o.pt then some x.1 else none) = none)) →
    exec (.regionPublish acc) s = .next (s.setNode acc fun m => { m with outcome := some c })) ∧
  (∀ (s u : State) (port id acc : Nat) (l : LineReq) (j : PubJob) (n : Node) (o : OpenVersion) (ls : List LineReq),
    s.boot.fatal = false → s.cxh.lines.find? (fun l => l.port == port && l.id == id) = some l → l.use = .publish acc j →
    openNode s acc = some n → n.acc = acc → openVersion s l.pt l.region = some o → s.cxh.failed.contains l.region = false →
    rBad s l.region (lineOff l.op.line) 64 = false → ls = s.cxh.lines.filter (fun x => x.id != id) →
    u = countLine { s with cxh := { s.cxh with lines := ls } } l.pt →
    (∀ fs, l.op = .claim fs → fs.any (frameSet s l.region) = true →
      (j.taken = [] → ∃ t, exec (.ctrlLineGrant port ⟨id, false⟩) s = .next t ∧ t.cxh.lines = ls ∧ t.node acc = some n ∧ t.mems = s.mems) ∧
      (∀ gs rest, byLine j.taken = gs :: rest → rBad s l.region (lineOff (4097 + gs.headD 0 / 512)) 64 = false →
        ∃ t x, exec (.ctrlLineGrant port ⟨id, false⟩) s = .next t ∧ t.cxh.lines = ls ++ [x] ∧ x.op = .clear gs ∧ x.rest = rest.map .clear ∧
          x.use = .back acc j.top none ∧ t.node acc = some n ∧ t.mems = s.mems)) ∧
    (∀ fs op rest, l.op = .claim fs → fs.any (frameSet s l.region) = false → l.rest = op :: rest →
      rBad s l.region (lineOff op.line) 64 = false →
      ∃ t x, exec (.ctrlLineGrant port ⟨id, false⟩) s = .next t ∧ t.cxh.lines = ls ++ [x] ∧ x.op = op ∧ x.rest = rest ∧
        x.use = .publish acc { j with taken := j.taken ++ fs } ∧ t.mems = (setFrames u l.region true fs).mems) ∧
    (∀ fs i w, l.op = .claim fs → fs.any (frameSet s l.region) = false → l.rest = [] →
      freeRec (setFrames u l.region true fs) l.region = some i → rBad s l.region (recOff i) 64 = false →
      (j.taken ++ fs).all (frameTakes s l.region) = true →
      w = writeRegionPages (setFrames u l.region true fs) l.pt l.region ((j.delta.flatMap fun i => (s.slot i).cpns).zip j.pages) →
      ∃ t x, exec (.ctrlLineGrant port ⟨id, false⟩) s = .next t ∧ t.cxh.lines = ls ++ [x] ∧ x.op = .stage i ∧ x.rest = [] ∧
        x.use = .publish acc { j with taken := j.taken ++ fs } ∧ t.seq = s.seq ∧
        t.mems = (regionWrite w.1 l.region (j.table * frameBytes)
          (newTable w.1 n.hdr.epoch (tabBytes w.1 l.region o.slot) (o.version + 1) j.delta w.2)).mems) ∧
    (∀ fs, l.op = .claim fs → fs.any (frameSet s l.region) = false → l.rest = [] → byLine (j.taken ++ fs) ≠ [] →
      freeRec (setFrames u l.region true fs) l.region ≠ none → (j.taken ++ fs).all (frameTakes s l.region) = false →
      rBad s l.region (lineOff (4097 + ((byLine (j.taken ++ fs)).headD []).headD 0 / 512)) 64 = false →
      ∃ t x, exec (.ctrlLineGrant port ⟨id, false⟩) s = .next t ∧ t.cxh.lines = ls ++ [x] ∧
        x.use = .back acc j.top (some (failWith .revoked))) ∧
    (∀ i k, l.op = .stage i → freeRec s l.region = some k →
      (recState s l.region i = 0 → headRec s l.region ≠ i → rBad s l.region 0 64 = false →
        ∃ t x, exec (.ctrlLineGrant port ⟨id, false⟩) s = .next t ∧ t.cxh.lines = ls ++ [x] ∧ x.op = .head i ∧ x.use = .publish acc j ∧
          t.mems = (regionWrite u l.region (recOff i) (toLe 8 (o.version + 1) ++ toLe 8 o.version ++ [1, 0] ++
            toLe 2 (s.fab.devId + l.pt * 4096) ++ toLe 4 1 ++ toLe 4 j.table ++ toLe 4 j.tableFrames ++
            toLe 4 (tabCount (tabBytes s l.region o.slot) + j.delta.length) ++ zeros 28)).mems) ∧
      ((recState s l.region i ≠ 0 ∨ headRec s l.region = i) → rBad s l.region (recOff k) 64 = false →
        ∃ t x, exec (.ctrlLineGrant port ⟨id, false⟩) s = .next t ∧ t.cxh.lines = ls ++ [x] ∧ x.op = .stage k ∧ x.use = .publish acc j ∧
          t.mems = s.mems)) ∧
    (∀ i, l.op = .head i → rBad s l.region (lineOff (1 + i)) 64 = false →
      (headVersion s l.region = rget s l.region (recOff i + 8) 8 →
        ∃ t x, exec (.ctrlLineGrant port ⟨id, false⟩) s = .next t ∧ t.cxh.lines = ls ++ [x] ∧ x.op = .live i ∧ x.rest = [.leave o.slot] ∧
          x.use = .publish acc { j with slot := i } ∧
          t.mems = (rput (rput u l.region 16 8 (rget s l.region (recOff i + 8) 8 + 1)) l.region 12 4 i).mems) ∧
      (headVersion s l.region ≠ rget s l.region (recOff i + 8) 8 →
        ∃ t x, exec (.ctrlLineGrant port ⟨id, false⟩) s = .next t ∧ t.cxh.lines = ls ++ [x] ∧ x.op = .drop i ∧
          x.rest = (byLine j.taken).map .clear ∧
          x.use = .back acc j.top (some (failWith .conflict 0 0 (headVersion s l.region))) ∧ t.mems = s.mems ∧
          t.cxh.opens = s.cxh.opens)) ∧
    (∀ i op rest, l.op = .live i → l.rest = op :: rest → rBad s l.region (lineOff op.line) 64 = false →
      ∃ t x, exec (.ctrlLineGrant port ⟨id, false⟩) s = .next t ∧ t.cxh.lines = ls ++ [x] ∧ x.op = op ∧ x.rest = rest ∧ x.use = l.use ∧
        t.mems = (setRecState u l.region i 2).mems) ∧
    (∀ i q r v src, l.op = .leave i → l.rest = [] → (leaveRec u l.region i).2 = [] → n.cmd = .region q r v src →
      ∃ t, exec (.ctrlLineGrant port ⟨id, false⟩) s = .next t ∧ t.cxh.lines = ls ∧
        Ended t acc { detail0 := (o.version + 1) % 2 ^ 32, result := o.version + 1 } ∧
        openVersion t l.pt l.region = some { o with version := o.version + 1, slot := j.slot } ∧
        (∀ k, k ∈ j.delta → (t.slot k).version = o.version + 1 ∧ (t.slot k).region = l.region) ∧
        t.mems = (leaveRec u l.region i).1.mems)) ∧
  (∀ (s : State) (port id acc q r v src top : Nat) (l : LineReq) (n : Node) (c : Comp), s.boot.fatal = false →
    s.cxh.lines.find? (fun l => l.port == port && l.id == id) = some l → l.use = .back acc top (some c) → l.rest = [] →
    openNode s acc = some n → n.acc = acc → n.cmd = .region q r v src → s.cxh.failed.contains l.region = false →
    rBad s l.region (lineOff l.op.line) 64 = false → ((∃ i, l.op = .drop i) ∨ ∃ fs, l.op = .clear fs) →
    ∃ t, exec (.ctrlLineGrant port ⟨id, false⟩) s = .next t ∧ Ended t acc c ∧ t.cxh.lines = s.cxh.lines.filter fun x => x.id != id)

/-- EXTENT_OFFER and the release of extents (after R272, R296, R299, R300, R315; log 64). An offer that the device can take stands in its port's list at a
free place of the window; one of a port that is down or failed, of a base or size that is no multiple of a unit, with a tag that names nothing here,
beyond 4,096 extents, or without room in the window is refused without effect. A release request lets the extent drain, no new request entering it;
while something is outstanding it drains on; with nothing outstanding it is given back, and when CXH_DRAIN_US are over what is outstanding ends as
poison and it is given back. Software's release drains it; with EVAC a spill extent's pages are first queued for T1 in class 1, and it is given back
when they have left. The non-secure world releases none. CXL_PORT_UP, CXL_MEM_RESPONSE and CXL_PORT_FAIL (after R107, R277, R296, R315, R316; log 94).
A port out of PERST that has not failed comes up. A response ends its request; a poisoned one of a move's read makes the page POISONED and of a write
leaves the page where it was; a poisoned one of another read leaves poison in its line. A response that nothing waits for changes nothing. A port
failure takes the port down for good, ends every request and control line on it, and makes a checkpoint that runs there fail. REGION_FORMAT (after
R301 to R303, R319). The secure world formats the region of the selected valid slot, of which no version is open and no page named: it is no longer
failed, and its head line, first record, bitmap and table are written. With a version open, or a page of the device in the region, nothing is written
and code 0x06 is logged; a slot that is not VALID changes nothing; the non-secure world's write is logged with code 0x03. -/
def Obligations.ExtentsAndPoolPorts : Prop :=
  (∀ (s : State) (port dc base size w i : Nat) (tag : List Byte), s.boot.fatal = false → port < s.cxh.ports.length →
    (s.cport port).up = true → (s.cport port).failed = false → base % unitBytes = 0 → size % unitBytes = 0 →
    tagOk s (field tag 0 1) (field tag 1 1 % 8) (field tag 4 4 % 2 ^ 20) = true → (s.cport port).exts.length < 4096 →
    windowBase (s.cport port) (size / unitBytes) = some w →
    (if field tag 0 1 = 1 then spillIndex s (field tag 1 1 % 8) else if field tag 0 1 = 2 then some (field tag 8 4) else some 0) = some i →
    ∃ t e, exec (.extentOffer port dc tag ⟨base, size⟩) s = .next t ∧ (t.cport port).exts = (s.cport port).exts ++ [e] ∧ e.base = w ∧
      e.size = size / unitBytes ∧ e.kind = field tag 0 1 ∧ e.pt = field tag 1 1 % 8 ∧ e.region = field tag 4 4 % 2 ^ 20 ∧ e.rbase = i ∧
      e.dc = dc ∧ e.valid = true ∧ e.draining = false ∧ (∀ p, p ≠ port → t.cport p = s.cport p) ∧ t.seq = s.seq ∧ t.mems = s.mems) ∧
  (∀ (s : State) (port dc base size : Nat) (tag : List Byte), s.boot.fatal = false →
    ((s.cport port).up = false ∨ (s.cport port).failed = true ∨ base % unitBytes ≠ 0 ∨ size % unitBytes ≠ 0 ∨
      tagOk s (field tag 0 1) (field tag 1 1 % 8) (field tag 4 4 % 2 ^ 20) = false ∨
      4096 ≤ ((s.cport port).exts.filter (·.valid)).length ∨ windowBase (s.cport port) (size / unitBytes) = none) →
    exec (.extentOffer port dc tag ⟨base, size⟩) s = .next s) ∧
  (∀ (s : State) (port i : Nat) (e : Extent), s.boot.fatal = false → extAt s port i = some e →
    exec (.extentReleaseReq port i) s = .next (if e.draining then s else setExt s port i fun e =>
      { e with draining := true, drainAt := s.time + s.reg pgCxh 0x20C * 1000 })) ∧
  (∀ (s : State) (port i : Nat) (e : Extent), s.boot.fatal = false → extAt s port i = some e → port < s.cxh.ports.length →
    ((s.cxh.reqs.any (fun q => q.port == port && q.ext == i) = true ∨ s.cxh.lines.any (lineIn s port i) = true) →
      exec (.extentDrainEnd port i) s = .next s) ∧
    (s.cxh.reqs.any (fun q => q.port == port && q.ext == i) = false → s.cxh.lines.any (lineIn s port i) = false →
      (e.draining = true → e.kind ≠ 1 → ∃ t, exec (.extentDrainEnd port i) s = .next t ∧ extAt t port i = none ∧ t.mems = s.mems ∧
        t.seq = s.seq) ∧
      (e.draining = false → e.evac = true → (extPages s e).all (fun c => (s.loc c).state == .poisoned || (s.loc c).state == .retired) = true →
        ∃ t, exec (.extentDrainEnd port i) s = .next t ∧ extAt t port i = none) ∧
      (e.draining = false → e.evac = false → exec (.extentDrainEnd port i) s = .next s)) ∧
    (e.draining = true →
      ∃ t, exec (.extentDrainTimeout port i) s = .next t ∧ extAt t port i = none ∧ t.time = (s.reach e.drainAt).time ∧
        (∀ q, q ∈ t.cxh.reqs → ¬ (q.port = port ∧ q.ext = i)) ∧ (∀ l, l ∈ t.cxh.lines → lineIn s port i l = false ∨ l ∉ s.cxh.lines)) ∧
    (e.draining = false → exec (.extentDrainTimeout port i) s = .next s)) ∧
  (∀ (s : State) (rq : Requester) (e : Extent), s.boot.fatal = false →
    (rq.secure = true → rq.src < 4 → extAt s (selExt s).1 (selExt s).2 = some e →
      (e.draining = false → exec (.extRelease rq) s = .next (setExt s (selExt s).1 (selExt s).2 fun e =>
        { e with draining := true, drainAt := s.time + s.reg pgCxh 0x20C * 1000 })) ∧
      (e.kind ≠ 1 → e.draining = false → exec (.extReleaseEvac rq) s = .next (setExt s (selExt s).1 (selExt s).2 fun e =>
        { e with draining := true, drainAt := s.time + s.reg pgCxh 0x20C * 1000 })) ∧
      (∀ c, e.kind = 1 → (selExt s).1 < s.cxh.ports.length → extPages s e = [c] → reqOf s c = none → s.blw.queue.length < 65536 →
        ∃ t q, exec (.extReleaseEvac rq) s = .next t ∧ extAt t (selExt s).1 (selExt s).2 = some { e with evac := true } ∧
          t.blw.queue = s.blw.queue ++ [q] ∧ q.cpn = c ∧ q.kind = .page .t1 ∧ q.cls = 1 ∧ t.mems = s.mems)) ∧
    (rq.secure = false → (∃ t, exec (.extRelease rq) s = .next t ∧ Logged s t pgCxh 0x03) ∧
      ∃ t, exec (.extReleaseEvac rq) s = .next t ∧ Logged s t pgCxh 0x03)) ∧
  (∀ (s : State) (port width : Nat) (lopt : Bool), s.boot.fatal = false →
    exec (.cxlPortUp port width lopt) s = .next (if (s.cport port).failed = false ∧ lget s.boot.perst (16 + port) false = true
      then s.setCport port fun c => { c with up := true, width := width % 4, lopt := lopt } else s)) ∧
  (∀ (s : State) (port id : Nat) (media : Bool) (q : CxlReq), s.boot.fatal = false →
    s.cxh.reqs.find? (fun q => q.port == port && q.id == id) = some q →
    (∃ t, exec (.cxlMemResponse port (.move id) false media) s = .next t ∧ t.cxh.reqs = s.cxh.reqs.filter (fun x => x.id != id) ∧
      t.mems = s.mems ∧ t.blw = s.blw ∧ t.seq = s.seq) ∧
    (q.write = false → pageLive (s.loc q.cpn) = true → ((s.loc q.cpn).refcnt ≠ 0 ∨ (s.loc q.cpn).published = true) →
      s.seq.heldFlush = [] → s.fab.holds = [] →
      ∃ t, exec (.cxlMemResponse port (.move id) true media) s = .next t ∧ (t.loc q.cpn).state = .poisoned ∧
        (t.loc q.cpn).hard = media ∧ moveOf t q.cpn = none) ∧
    (∀ m d, q.write = true → q.cpn < 2 ^ 40 → moveOf s q.cpn = some m → m.kind = .page d → m.heldFill = none → m.clearHeld = false →
      unneeded (s.loc q.cpn) = false → (s.loc q.cpn).state = .moving → s.seq.heldFlush = [] → s.fab.holds = [] →
      ¬ ((s.loc q.cpn).ret = .sharedRo ∧ (s.loc q.cpn).refcnt = 1 ∧ (s.loc q.cpn).published = false) →
      ∃ t, exec (.cxlMemResponse port (.move id) true media) s = .next t ∧ moveOf t q.cpn = none ∧
        t.loc q.cpn = { s.loc q.cpn with state := (s.loc q.cpn).ret })) ∧
  (∀ (s : State) (port id : Nat) (poison media : Bool), s.boot.fatal = false →
    s.cxh.reqs.find? (fun q => q.port == port && q.id == id) = none → exec (.cxlMemResponse port (.move id) poison media) s = .next s) ∧
  (∀ (s : State) (port addr : Nat) (poison media : Bool), s.boot.fatal = false →
    ∃ t, exec (.cxlMemResponse port (.line addr) poison media) s = .next t ∧ t.mems.pool = s.mems.pool ∧ t.seq = s.seq ∧
      (poison = true → poolKey port addr / 64 ∈ t.mems.badLines) ∧
      (∀ k, k ≠ poolKey port addr / 64 → (k ∈ t.mems.badLines ↔ k ∈ s.mems.badLines)) ∧
      (poison = false → t = s)) ∧
  (∀ (s : State) (port : Nat), s.boot.fatal = false → port < s.cxh.ports.length →
    ((s.cport port).failed = true → exec (.cxlPortFail port) s = .next s) ∧
    ((s.cport port).failed = false →
      ∃ t, exec (.cxlPortFail port) s = .next t ∧ (t.cport port).failed = true ∧ (t.cport port).up = false ∧ (t.cport port).snoops = [] ∧
        (∀ l, l ∈ s.cxh.lines → l.port = port → l ∉ t.cxh.lines) ∧ (∀ q, q ∈ s.cxh.reqs → q.port = port → q ∉ t.cxh.reqs) ∧
        (∀ pt, pt < 8 → pt < s.cxh.ckpt.length → ckptRuns s pt = true → (∃ e, ckptPort s pt = some (port, e)) →
          (lget t.cxh.ckpt pt {}).state = 5))) ∧
  (∀ (s : State) (rq : Requester) (val : Word) (r : Nat), s.boot.fatal = false →
     r = bits (s.reg pgCxh 0x224 (s.reg pgCxh 0x220)) 0 20 →
     (rq.secure = true → rq.src < 4 → bit (s.reg pgCxh 0x224 (s.reg pgCxh 0x220)) 20 = true →
       s.cxh.opens.any (fun o => o.region == r) = false → regionPages s r = 0 →
       ∃ t, exec (.rgnFormat rq val) s = .next t ∧ t = writeFormat s r (bits val.toNat 0 27) ∧ r ∉ t.cxh.failed ∧ t.seq = s.seq ∧
         t.mems.hbm = s.mems.hbm ∧ t.mems.host = s.mems.host) ∧
     (rq.secure = true → rq.src < 4 → bit (s.reg pgCxh 0x224 (s.reg pgCxh 0x220)) 20 = true →
       (s.cxh.opens.any (fun o => o.region == r) = true ∨ regionPages s r ≠ 0) →
       ∃ t, exec (.rgnFormat rq val) s = .next t ∧ Logged s t pgCxh 0x06) ∧
     (rq.secure = true → rq.src < 4 → bit (s.reg pgCxh 0x224 (s.reg pgCxh 0x220)) 20 = false → exec (.rgnFormat rq val) s = .next s) ∧
     (rq.secure = false → ∃ t, exec (.rgnFormat rq val) s = .next t ∧ Logged s t pgCxh 0x03))

/-- CHECKPOINTS (after R317, R318, R320; logs 63, 104). GO of the secure world and the timer start a checkpoint of a partition that runs none, whose
extent's port is up; without an extent STATE is 4, with its port down 5; GO and RESTORE while one runs are logged with code 0x06. A running one whose
partition is quiet writes its sections and header, with the next generation number, into the half of the extent that does not hold the last good one,
and STATE is 2; one that is not quiet waits; a wait beyond WAIT_US ends it with STATE 3. A RESTORE loads the checkpoint with the higher generation
number of the extent that fits: its pages of other tiers than T2 are POISONED, its contexts hold no lock, nothing is staged; without one that fits
STATE is 6. -/
def Obligations.Checkpoints : Prop :=
  (∀ (s : State) (rq : Requester) (pt : Nat), s.boot.fatal = false → rq.secure = true → rq.src < 4 → pt = s.reg pgCxh 0x230 →
    (ckptRuns s pt = true → (∃ t, exec (.ckptGo rq) s = .next t ∧ Logged s t pgCxh 0x06) ∧
      ∃ t, exec (.ckptRestore rq) s = .next t ∧ Logged s t pgCxh 0x06) ∧
    (ckptRuns s pt = false → ckptPort s pt = none →
      exec (.ckptGo rq) s = .next (setCkpt s pt fun k => { k with state := 4, last := s.time }) ∧
      exec (.ckptRestore rq) s = .next (setCkpt s pt fun k => { k with state := 4 })) ∧
    (∀ p e, ckptRuns s pt = false → ckptPort s pt = some (p, e) → ((s.cport p).failed = true ∨ (s.cport p).up = false) →
      exec (.ckptGo rq) s = .next (setCkpt s pt fun k => { k with state := 5, last := s.time }) ∧
      exec (.ckptRestore rq) s = .next (setCkpt s pt fun k => { k with state := 5 })) ∧
    (∀ p e, ckptRuns s pt = false → ckptPort s pt = some (p, e) → (s.cport p).failed = false → (s.cport p).up = true →
      exec (.ckptGo rq) s = .next (setCkpt s pt fun k => { k with state := 1, last := s.time, waitFrom := s.time }) ∧
      ((bestCkpt s p e = none ∨ ptQuiet s pt = false ∨ ∀ h c, bestCkpt s p e = some (h, c) → ckptFits s pt c = false) →
        exec (.ckptRestore rq) s = .next (setCkpt s pt fun k => { k with state := 6 })) ∧
      (∀ h c, bestCkpt s p e = some (h, c) → ckptFits s pt c = true → ptQuiet s pt = true → pt < s.cxh.ckpt.length →
        ∃ t, exec (.ckptRestore rq) s = .next t ∧ (lget t.cxh.ckpt pt {}).state = 2 ∧ (lget t.cxh.ckpt pt {}).gen = c.gen ∧
          ((c.locs.map (·.1)).Nodup → ∀ l, l ∈ c.locs → t.loc l.1 = restoreLoc l.2) ∧
          ((c.ctxs.map (·.1)).Nodup → ∀ x, x ∈ c.ctxs → (t.ctx x.1).lockOwner = none ∧ (t.ctx x.1).state = x.2.state ∧
            (t.ctx x.1).profile = x.2.profile ∧ (t.ctx x.1).readers = 0) ∧
          ((c.rows.map (·.1)).Nodup → ∀ x, x ∈ c.rows → tget t.seq.rows x.1 =
            some { x.2 with tokens := x.2.tokens - x.2.staged, staged := 0 })))) ∧
  (∀ (s : State) (rq : Requester), s.boot.fatal = false → rq.secure = false →
    (∃ t, exec (.ckptGo rq) s = .next t ∧ Logged s t pgCxh 0x03) ∧ ∃ t, exec (.ckptRestore rq) s = .next t ∧ Logged s t pgCxh 0x03) ∧
  (∀ (s : State) (pt : Nat), s.boot.fatal = false →
    ((bits (s.reg pgCxh 0x234 pt) 0 16 = 0 ∨ ckptRuns s pt = true) → exec (.ckptTimer pt) s = .next s) ∧
    (∀ p e, bits (s.reg pgCxh 0x234 pt) 0 16 ≠ 0 → ckptRuns s pt = false → ckptPort s pt = some (p, e) → (s.cport p).failed = false →
      (s.cport p).up = true → pt < s.cxh.ckpt.length →
      ∃ t, exec (.ckptTimer pt) s = .next t ∧ (lget t.cxh.ckpt pt {}).state = 1 ∧ (lget t.cxh.ckpt pt {}).last = t.time ∧
        t.time = (s.reach ((lget s.cxh.ckpt pt {}).last + bits (s.reg pgCxh 0x234 pt) 0 16 * 1000000)).time ∧ t.seq = s.seq ∧
        t.mems = s.mems)) ∧
  (∀ (s : State) (pt : Nat), s.boot.fatal = false → pt < s.cxh.ckpt.length →
    ((ckptRuns s pt = false ∨ ptQuiet s pt = false) → exec (.ckptQuiesced pt) s = .next s) ∧
    (∀ p e, ckptRuns s pt = true → ptQuiet s pt = true → s.time ≤ ckptBound s pt → ckptPort s pt = some (p, e) →
      ∃ t g, exec (.ckptQuiesced pt) s = .next t ∧ (lget t.cxh.ckpt pt {}).state = 2 ∧ (lget t.cxh.ckpt pt {}).gen = g ∧
        g = (max (lget s.cxh.ckpt pt {}).gen (((bestCkpt s p e).map (·.2.gen)).getD 0) + 1) % 2 ^ 29 ∧
        tget t.mems.ckpts (halfKey p e (if (bestCkpt s p e).any (·.1 == 0) then 1 else 0)) = some (takeCkpt s pt g) ∧
        t.mems.pool = mwrites s.mems.pool (halfKey p e (if (bestCkpt s p e).any (·.1 == 0) then 1 else 0))
          (ckptHeader (takeCkpt s pt g)) ∧ t.seq = s.seq ∧ t.dep = s.dep) ∧
    (ckptRuns s pt = true → ptQuiet s pt = true → ckptBound s pt < s.time → exec (.ckptQuiesced pt) s = exec (.ckptWaitTimeout pt) s) ∧
    (ckptRuns s pt = true → ptQuiet s pt = true → s.time ≤ ckptBound s pt → ckptPort s pt = none →
      exec (.ckptQuiesced pt) s = .next (setCkpt s pt fun k => { k with state := 4 })) ∧
    (ckptRuns s pt = true → ∃ t, exec (.ckptWaitTimeout pt) s = .next t ∧ (lget t.cxh.ckpt pt {}).state = 3 ∧
      t.time = (s.reach ((lget s.cxh.ckpt pt {}).waitFrom + bits (s.reg pgCxh 0x234 pt) 16 16 * 1000)).time ∧ t.seq = s.seq ∧
      t.dep = s.dep ∧ t.mems = s.mems) ∧
    (ckptRuns s pt = false → exec (.ckptWaitTimeout pt) s = .next s))

/-! ### The flash tier -/

/-- NVH_CFG and NVME_LINK_UP (after R17, R321, R322, R334, R337, R338, R560; log 53). The write of the secure world that sets EN releases the ports'
PERST_N but for those in reset, and brings up each drive whose link has trained: refused with cause 1 where it trains too slowly, else initialising
with its first admin command; the others train, and a failed one stays. SLOT_LOG2 outside 24 to 31 alone is kept and logged with code 0x02; with EN
set a changed one is kept and logged with code 0x06. With EN set, a drive whose link comes up is brought up likewise; without, it waits with what its
link has shown. A drive in reset, a failed, an initialising and a ready one do not change. Admin commands of bring-up complete (after R321 to R323,
R327, R335; logs 53, 104). Each that succeeds is followed by the next. With the queues counted, the first condition of R322 that the drive fails
refuses it with its cause; an admin command or the label that fails refuses it with cause 6. After the last one the label of floor((C - 256) / 263)
groups and 16 slots a group, at most 2^SLOT_LOG2, is written at sector 0; with the label on the media the drive is ready. An event of a ready drive
has its log page read and is asked for again. NVH_DRV_CTRL (after R332, R334; log 53). REINIT of the selected drive, unless it is ready, starts its
bring-up with its lost and retired slots alone taken; of a ready one it changes nothing and is logged with code 0x06. DETACH makes a drive without a
slot in use or lost absent, and stops new slots on another. The non-secure world's writes are logged with code 0x03. -/
def Obligations.DrivesComeAndGo : Prop :=
  (∀ (s : State) (rq : Requester) (f k : Nat), s.boot.fatal = false → rq.secure = true → rq.src < 4 → f < 4 → k < 32 →
    (24 ≤ k → bit f 0 = true → bit (s.reg pgNvh 0x200) 0 = false →
      ∃ t, exec (.nvhEnable rq f k) s = .next t ∧ t.reg pgNvh 0x200 = f + 4 * k ∧ t.seq = s.seq ∧
        (∀ np, np < 16 → np < s.boot.perst.length → lget t.boot.perst np false = (lget s.boot.perst np false || !tmem s.boot.portReset (32 + np))) ∧
        ∀ np, np < 16 → np < s.nvh.drives.length →
          ((s.drive np).state = .failed → t.drive np = s.drive np) ∧
          ((s.drive np).state ≠ .failed → (s.drive np).info = none → (t.drive np).state = .training) ∧
          (∀ d, (s.drive np).state ≠ .failed → (s.drive np).info = some d → d.present = true → d.trains32 = false →
            (t.drive np).state = .refused ∧ (t.drive np).cause = 1) ∧
          (∀ d, (s.drive np).state ≠ .failed → (s.drive np).info = some d → d.present = true → d.trains32 = true →
            (t.drive np).state = .initialising ∧ (t.drive np).steps = bringSteps.drop 1 ∧
            (t.drive np).cmds.map (fun c => (c.queue, c.kind)) = [(4, .admin .identifyController)])) ∧
    (k < 24 →
      ∃ t, exec (.nvhEnable rq f k) s = .next t ∧
        t.reg pgNvh 0x200 = f + 4 * bits (s.reg pgNvh 0x200) 2 5 ∧ t.seq = s.seq ∧
        ((s.page pgNvh).log = none → (t.page pgNvh).log.map (·.code) = some 0x02)) ∧
    (24 ≤ k → bit (s.reg pgNvh 0x200) 0 = true →
      k ≠ bits (s.reg pgNvh 0x200) 2 5 →
      ∃ t, exec (.nvhEnable rq f k) s = .next t ∧
        t.reg pgNvh 0x200 = f + 4 * bits (s.reg pgNvh 0x200) 2 5 ∧ t.nvh = s.nvh ∧ t.seq = s.seq ∧
        ((s.page pgNvh).log = none → (t.page pgNvh).log.map (·.code) = some 0x06)) ∧
    (24 ≤ k → bit (s.reg pgNvh 0x200) 0 = false → bit f 0 = false →
      exec (.nvhEnable rq f k) s = .next (s.setReg pgNvh 0x200 0 (f + 4 * k))) ∧
    (24 ≤ k → bit (s.reg pgNvh 0x200) 0 = true →
      k = bits (s.reg pgNvh 0x200) 2 5 →
      ∃ t, exec (.nvhEnable rq f k) s = .next t ∧ t.nvh = s.nvh ∧ t.boot = s.boot ∧ t.seq = s.seq ∧
        t.reg pgNvh 0x200 = f + 4 * bits (s.reg pgNvh 0x200) 2 5)) ∧
  (∀ (s : State) (rq : Requester) (f k : Nat), s.boot.fatal = false → rq.secure = false →
    ∃ t, exec (.nvhEnable rq f k) s = .next t ∧ Logged s t pgNvh 0x03) ∧
  (∀ (s : State) (np : Nat) (d : DriveInfo), np < s.nvh.drives.length →
    ((s.boot.fatal = true ∨ lget s.boot.perst np false = false ∨ (s.drive np).state = .failed ∨ (s.drive np).state = .initialising ∨
      (s.drive np).state = .ready) → exec (.nvmeLinkUp np d) s = .next s) ∧
    (s.boot.fatal = false → lget s.boot.perst np false = true → (s.drive np).state ≠ .failed → (s.drive np).state ≠ .initialising →
      (s.drive np).state ≠ .ready →
      (bit (s.reg pgNvh 0x200) 0 = true → d.present = true → d.trains32 = true →
        ∃ t, exec (.nvmeLinkUp np d) s = .next t ∧ (t.drive np).state = .initialising ∧ (t.drive np).info = some d ∧
          (t.drive np).slot = (s.drive np).slot.filter (fun e => e.2 == 2 || e.2 == 3) ∧
          (t.drive np).cmds.map (fun c => (c.queue, c.kind)) = [(4, .admin .identifyController)] ∧
          (∀ m, m ≠ np → t.drive m = s.drive m) ∧ t.mems = s.mems) ∧
      (bit (s.reg pgNvh 0x200) 0 = true → d.present = true → d.trains32 = false →
        ∃ t, exec (.nvmeLinkUp np d) s = .next t ∧ (t.drive np).state = .refused ∧ (t.drive np).cause = 1) ∧
      (bit (s.reg pgNvh 0x200) 0 = true → d.present = false → ∃ t, exec (.nvmeLinkUp np d) s = .next t ∧ (t.drive np).state = .absent) ∧
      (bit (s.reg pgNvh 0x200) 0 = false →
        ∃ t, exec (.nvmeLinkUp np d) s = .next t ∧ (t.drive np).state = (if d.present then .training else .absent) ∧
          (t.drive np).info = (if d.present then some d else none) ∧ t.mems = s.mems))) ∧
  (∀ (s : State) (np : Nat) (c : NvmeCmd) (st : NvmeStatus) (i : DriveInfo), s.boot.fatal = false → np < s.nvh.drives.length →
     (s.drive np).cmds = [c] → (s.drive np).sqWait = [] → (s.drive np).freeing = [] → c.timedOut = false → cmdLate s c = false →
     (∀ a op rest, c.kind = .admin a → (s.drive np).state = .initialising → (s.drive np).info = some i → st = .success →
       (a ≠ .setQueueCount ∨ driveCause i = 0) → (s.drive np).steps = op :: rest → op ≠ .asyncEvent →
       ∃ t, exec (.nvmeCompletion np c.cid st) s = .next t ∧ (t.drive np).state = .initialising ∧ (t.drive np).steps = rest ∧
         (t.drive np).cmds.map (fun c => (c.queue, c.kind)) = [(4, .admin op)] ∧ t.mems = s.mems ∧ t.seq = s.seq) ∧
     (c.kind = .admin .setQueueCount → (s.drive np).state = .initialising → (s.drive np).info = some i → st = .success → driveCause i ≠ 0 →
       ∃ t, exec (.nvmeCompletion np c.cid st) s = .next t ∧ (t.drive np).state = .refused ∧ (t.drive np).cause = driveCause i ∧
         (t.drive np).cmds = [] ∧ t.seq = s.seq) ∧
     ((c.kind = .label ∨ ∃ a, c.kind = .admin a) → (s.drive np).state = .initialising → (s.drive np).info = some i → st ≠ .success →
       ∃ t, exec (.nvmeCompletion np c.cid st) s = .next t ∧ (t.drive np).state = .refused ∧ (t.drive np).cause = 6 ∧ t.seq = s.seq) ∧
     (∀ a rest, c.kind = .admin a → (s.drive np).state = .initialising → (s.drive np).info = some i → st = .success →
       (a ≠ .setQueueCount ∨ driveCause i = 0) → (s.drive np).steps = .asyncEvent :: rest →
       ∃ t, exec (.nvmeCompletion np c.cid st) s = .next t ∧ (t.drive np).state = .initialising ∧
         (t.drive np).groups = (i.sectors - 256) / 263 ∧
         (t.drive np).slots = min (16 * ((i.sectors - 256) / 263)) (2 ^ bits (s.reg pgNvh 0x200) 2 5) ∧ (t.drive np).fua = i.cacheStays ∧
         (t.drive np).cmds.map (fun c => (c.queue, c.kind)) = [(4, .admin .asyncEvent), (0, .label)] ∧
         mreads t.mems.flash (np * 2 ^ 48) 4096 = driveLabel s np (t.drive np).groups (t.drive np).slots ∧
         (∀ a, a < np * 2 ^ 48 ∨ np * 2 ^ 48 + 4096 ≤ a → mread t.mems.flash a = mread s.mems.flash a) ∧ t.seq = s.seq) ∧
     (c.kind = .label → (s.drive np).state = .initialising → st = .success →
       inClass s 0 (slotPart s np).1 (slotPart s np).2 = true →
       ∃ t, exec (.nvmeCompletion np c.cid st) s = .next t ∧ (t.drive np).state = .ready ∧ (t.drive np).cmds = [] ∧
         (t.drive np).slot = (s.drive np).slot ∧ t.mems = s.mems ∧ t.seq = s.seq) ∧
     (c.kind = .admin .asyncEvent → (s.drive np).state = .ready → st = .success →
       ∃ t, exec (.nvmeCompletion np c.cid st) s = .next t ∧ (t.drive np).state = .ready ∧
         (t.drive np).cmds.map (fun c => (c.queue, c.kind)) = [(4, .admin .getLogPage), (4, .admin .asyncEvent)] ∧ t.mems = s.mems)) ∧
  (∀ (s : State) (rq : Requester) (np : Nat), s.boot.fatal = false → np = s.reg pgNvh 0x210 → np < s.nvh.drives.length →
     (rq.secure = true → rq.src < 4 → (s.drive np).state ≠ .ready →
       ∃ t, exec (.reinit rq) s = .next t ∧ (t.drive np).state = .training ∧ (t.drive np).detaching = false ∧
         (t.drive np).slot = (s.drive np).slot.filter (fun e => e.2 == 2 || e.2 == 3) ∧
         (∀ m, m ≠ np → t.drive m = s.drive m) ∧ t.mems = s.mems ∧ t.seq = s.seq) ∧
     (rq.secure = true → rq.src < 4 → (s.drive np).state = .ready → ∃ t, exec (.reinit rq) s = .next t ∧ Logged s t pgNvh 0x06) ∧
     (rq.secure = true → rq.src < 4 → (s.drive np).slot.any (fun e => e.2 == 1 || e.2 == 2) = false →
       ∃ t, exec (.detach rq) s = .next t ∧ (t.drive np).state = .absent ∧ (∀ m, m ≠ np → t.drive m = s.drive m) ∧ t.mems = s.mems) ∧
     (rq.secure = true → rq.src < 4 → (s.drive np).slot.any (fun e => e.2 == 1 || e.2 == 2) = true →
       ∃ t, exec (.detach rq) s = .next t ∧ (t.drive np).state = (s.drive np).state ∧ (t.drive np).detaching = true ∧
         (t.drive np).slot = (s.drive np).slot ∧ (∀ pt, driveOpen t np pt = false) ∧ t.mems = s.mems) ∧
     (rq.secure = false → (∃ t, exec (.reinit rq) s = .next t ∧ Logged s t pgNvh 0x03) ∧
       ∃ t, exec (.detach rq) s = .next t ∧ Logged s t pgNvh 0x03))

/-- NVME_COMPLETION and NVME_CMD_TIMEOUT of page transfers (after R324, R325, R327, R329 to R333, R336; logs 87, 104). A completion counts its part off;
the last one ends the transfer and leaves the page alone, and gives the buffer to the move that waits longest. A read that ends badly makes the page
POISONED, with HARD = 1 after a media error; a write that ends badly leaves the page at its source, and a media error retires the slot. The MAC
sectors read for a write hold the new record and are followed by their write, which releases the group to the oldest that waits. A Deallocate that
ends frees its slot; an Abort that ends takes its command away. A command without a completion in NVH_TIMEOUT.MS is aborted and its part fails, also
where its completion comes past the bound first; a completion after that, and one of no command, changes nothing else. An Abort whose completion comes
past the bound finds the drive failed. NVME_DRIVE_FAIL and NVME_ABORT_TIMEOUT (after R333; log 87). A drive that fails, and one whose Abort goes
unanswered for NVH_TIMEOUT.MS, holds no command any more, each of its slots that was in use is lost and the others are as they were; a page that was
being read from it is POISONED with HARD = 0. A failed drive and an absent one do not change, and neither does a drive without such an Abort. -/
def Obligations.DriveCommandsEnd : Prop :=
  (∀ (s : State) (np : Nat) (c : NvmeCmd) (x : Xfer), s.boot.fatal = false → np < s.nvh.drives.length → (s.drive np).cmds = [c] →
    c.timedOut = false → (s.drive np).sqWait = [] → (s.drive np).freeing = [] → (s.drive np).xfers = [x] → x.cpn = c.cpn → x.slot = c.slot →
    (cmdLate s c = false → c.kind = .dataRead ∨ c.kind = .macRead →
      (x.left = 1 → x.bad = false → (s.drive np).bufWait = [] →
        ∃ t, exec (.nvmeCompletion np c.cid .success) s = .next t ∧ (t.drive np).cmds = [] ∧ (t.drive np).xfers = [] ∧ t.seq = s.seq ∧
          t.mems = s.mems ∧ t.blw = s.blw ∧
          (c.kind = .dataRead → (t.drive np).readNs = addLat (s.drive np).readNs (s.time - c.at_))) ∧
      (2 ≤ x.left → ∃ t, exec (.nvmeCompletion np c.cid .success) s = .next t ∧ (t.drive np).cmds = [] ∧
        (t.drive np).xfers = [{ x with left := x.left - 1 }] ∧ t.seq = s.seq ∧ t.mems = s.mems ∧ t.blw = s.blw) ∧
      (∀ w ws m, x.left = 1 → x.bad = false → (s.drive np).bufWait = w :: ws → moveOf s w = some m →
        ∃ t y, exec (.nvmeCompletion np c.cid .success) s = .next t ∧ (t.drive np).bufWait = ws ∧ (t.drive np).xfers = [y] ∧ y.cpn = w ∧
          y.slot = bits m.srcAddr 0 31 ∧ y.write = false ∧ y.left = 2 ∧
          (t.drive np).cmds.map (fun c => (c.kind, c.cpn)) = [(.dataRead, w), (.macRead, w)]) ∧
      (∀ m st, x.left = 1 → x.write = false → x.media = false → (s.drive np).bufWait = [] → moveOf s c.cpn = some m → m.srcTier = .t3 →
        m.srcAddr = np * 2 ^ 31 + c.slot → s.seq.heldFlush = [] → s.fab.holds = [] → pageLive (s.loc c.cpn) = true →
        ((s.loc c.cpn).refcnt ≠ 0 ∨ (s.loc c.cpn).published = true) → st ≠ .success →
        ∃ t, exec (.nvmeCompletion np c.cid st) s = .next t ∧ (t.loc c.cpn).state = .poisoned ∧ (t.loc c.cpn).hard = (st == .mediaError) ∧
          moveOf t c.cpn = none)) ∧
    (cmdLate s c = false → c.kind = .macWrite → x.left = 1 → x.bad = false → (s.drive np).bufWait = [] → (s.drive np).lockWait = [] →
      ∃ t, exec (.nvmeCompletion np c.cid .success) s = .next t ∧ (t.drive np).cmds = [] ∧ (t.drive np).xfers = [] ∧
        (t.drive np).locks = (s.drive np).locks.filter (· != (c.slot / 16, c.cpn)) ∧ t.seq = s.seq ∧ t.mems = s.mems ∧ t.blw = s.blw) ∧
    (cmdLate s c = false → c.kind = .macReadForWrite →
      ∃ t w, exec (.nvmeCompletion np c.cid .success) s = .next t ∧ (t.drive np).cmds = [w] ∧ w.kind = .macWrite ∧ w.cpn = c.cpn ∧
        w.slot = c.slot ∧ w.queue = c.queue ∧ (t.drive np).locks = (s.drive np).locks ∧ (t.drive np).xfers = [x] ∧ t.seq = s.seq ∧
        t.mems.flash = mwrites s.mems.flash
          (np * 2 ^ 48 + (256 + 256 * (s.drive np).groups + 7 * (c.slot / 16)) * 4096 + c.slot % 16 * 1792)
          (macRecord s np c.slot (cpnPt c.cpn) (((moveOf s c.cpn).map fun m => 16 * pageSectors m.compress m.clen).getD 256))) ∧
    (∀ m st, cmdLate s c = false → c.kind = .dataWrite ∨ c.kind = .macReadForWrite ∨ c.kind = .macWrite → x.left = 1 → x.write = true → x.media = false → (s.drive np).bufWait = [] →
      (s.drive np).lockWait = [] → c.cpn < 2 ^ 40 → c.slot < 2 ^ 31 → np < 16 → moveOf s c.cpn = some m → m.kind = .page .t3 →
      m.dst = np * 2 ^ 31 + c.slot → m.heldFill = none → m.clearHeld = false → unneeded (s.loc c.cpn) = false →
      (s.loc c.cpn).state = .moving → s.seq.heldFlush = [] → s.fab.holds = [] →
      ¬ ((s.loc c.cpn).ret = .sharedRo ∧ (s.loc c.cpn).refcnt = 1 ∧ (s.loc c.cpn).published = false) → st ≠ .success →
      ∃ t, exec (.nvmeCompletion np c.cid st) s = .next t ∧ moveOf t c.cpn = none ∧
        t.loc c.cpn = { s.loc c.cpn with state := (s.loc c.cpn).ret } ∧
        (st = .mediaError → tget (t.drive np).slot c.slot = some 3)) ∧
    (2 ≤ x.left → c.kind = .dataRead ∨ c.kind = .macRead ∨ c.kind = .dataWrite →
      ∃ t a, exec (.nvmeCmdTimeout np c.cid) s = .next t ∧ (t.drive np).cmds = [{ c with timedOut := true }, a] ∧
        a.kind = .abort c.cid ∧ (t.drive np).xfers = [{ x with left := x.left - 1, bad := true }] ∧
        t.time = (s.reach (c.at_ + s.reg pgNvh 0x204 * 1000000)).time ∧ t.seq = s.seq ∧ t.mems = s.mems) ∧
    (∀ st, 2 ≤ x.left → cmdLate s c = true → c.kind = .dataRead ∨ c.kind = .macRead ∨ c.kind = .dataWrite → (s.drive np).cidNext ≠ c.cid →
      ∃ t a, exec (.nvmeCompletion np c.cid st) s = .next t ∧ (t.drive np).cmds = [a] ∧ a.kind = .abort c.cid ∧
        (t.drive np).xfers = [{ x with left := x.left - 1, bad := true }] ∧ t.time = s.time ∧ t.seq = s.seq ∧ t.mems = s.mems)) ∧
  (∀ (s : State) (np k : Nat) (c d : NvmeCmd) (st : NvmeStatus), s.boot.fatal = false → np < s.nvh.drives.length →
    (s.drive np).sqWait = [] → (s.drive np).freeing = [] → c.timedOut = false → cmdLate s c = false →
    ((s.drive np).cmds = [c] → c.kind = .trim → tget (s.drive np).slot c.slot ≠ some 3 →
      ∃ t, exec (.nvmeCompletion np c.cid st) s = .next t ∧ (t.drive np).cmds = [] ∧ tget (t.drive np).slot c.slot = none ∧
        (∀ l, l ≠ c.slot → tget (t.drive np).slot l = tget (s.drive np).slot l) ∧ t.mems = s.mems ∧ t.seq = s.seq) ∧
    ((s.drive np).cmds = [c, d] → c.kind = .abort k → d.cid = k → d.cid ≠ c.cid →
      ∃ t, exec (.nvmeCompletion np c.cid st) s = .next t ∧ (t.drive np).cmds = [] ∧ (t.drive np).xfers = (s.drive np).xfers ∧
        t.mems = s.mems ∧ t.seq = s.seq)) ∧
  (∀ (s : State) (np cid : Nat) (st : NvmeStatus), s.boot.fatal = false →
    ((s.drive np).cmds.find? (fun c => c.cid == cid) = none → exec (.nvmeCompletion np cid st) s = .next s) ∧
    ((s.drive np).cmds.find? (fun c => c.cid == cid && !c.timedOut && !isAbort c.kind) = none →
      exec (.nvmeCmdTimeout np cid) s = .next s) ∧
    (∀ c, (s.drive np).cmds.find? (fun c => c.cid == cid) = some c → cmdLate s c = true → isAbort c.kind = true →
      exec (.nvmeCompletion np cid st) s = exec (.nvmeDriveFail np) s) ∧
    (∀ c, np < s.nvh.drives.length → (s.drive np).cmds = [c] → c.cid = cid → c.timedOut = true → (s.drive np).sqWait = [] →
      (s.drive np).freeing = [] →
      ∃ t, exec (.nvmeCompletion np cid st) s = .next t ∧ (t.drive np).cmds = [] ∧ (t.drive np).xfers = (s.drive np).xfers ∧
        (t.drive np).slot = (s.drive np).slot ∧ t.seq = s.seq ∧ t.mems = s.mems ∧ t.blw = s.blw)) ∧
  (∀ (s : State) (np : Nat), s.boot.fatal = false → np < s.nvh.drives.length →
    ((s.drive np).state = .failed ∨ (s.drive np).state = .absent → exec (.nvmeDriveFail np) s = .next s) ∧
    ((s.drive np).state ≠ .failed → (s.drive np).state ≠ .absent → (s.drive np).cmds = [] → (s.drive np).sqWait = [] →
      (s.drive np).xfers = [] → (s.drive np).freeing = [] → (s.drive np).bufWait = [] →
      ∃ t, exec (.nvmeDriveFail np) s = .next t ∧ (t.drive np).state = .failed ∧ (t.drive np).info = none ∧
        (∀ l, tget (t.drive np).slot l = (tget (s.drive np).slot l).map fun v => if v = 1 then 2 else v) ∧ t.seq = s.seq ∧
        (∀ m, m ≠ np → t.drive m = s.drive m)) ∧
    (∀ c x m, (s.drive np).state = .ready → (s.drive np).cmds = [c] → c.timedOut = false → c.kind = .dataRead → (s.drive np).sqWait = [] →
      (s.drive np).xfers = [x] → x.cpn = c.cpn → x.slot = c.slot → x.left = 1 → x.write = false → x.media = false →
      (s.drive np).freeing = [] → (s.drive np).bufWait = [] → moveOf s c.cpn = some m → m.srcTier = .t3 →
      m.srcAddr = np * 2 ^ 31 + c.slot → s.seq.heldFlush = [] → s.fab.holds = [] → pageLive (s.loc c.cpn) = true →
      ((s.loc c.cpn).refcnt ≠ 0 ∨ (s.loc c.cpn).published = true) →
      ∃ t, exec (.nvmeDriveFail np) s = .next t ∧ (t.drive np).state = .failed ∧ (t.drive np).cmds = [] ∧
        (t.loc c.cpn).state = .poisoned ∧ (t.loc c.cpn).hard = false ∧ moveOf t c.cpn = none)) ∧
  (∀ (s : State) (np cid k : Nat) (c : NvmeCmd), s.boot.fatal = false → np < s.nvh.drives.length →
    ((s.drive np).state ≠ .failed → (s.drive np).state ≠ .absent → (s.drive np).cmds = [c] → c.cid = cid → c.kind = .abort k →
      (s.drive np).sqWait = [] → (s.drive np).xfers = [] → (s.drive np).freeing = [] → (s.drive np).bufWait = [] →
      ∃ t, exec (.nvmeAbortTimeout np cid) s = .next t ∧ (t.drive np).state = .failed ∧ (t.drive np).cmds = [] ∧
        (∀ l, tget (t.drive np).slot l = (tget (s.drive np).slot l).map fun v => if v = 1 then 2 else v) ∧
        t.time = (s.reach (c.at_ + s.reg pgNvh 0x204 * 1000000)).time ∧ t.seq = s.seq) ∧
    ((s.drive np).cmds.find? (fun c => c.cid == cid && isAbort c.kind) = none → exec (.nvmeAbortTimeout np cid) s = .next s))

/-! ### The register window -/

/-- REG_WRITE, MMIO_WR and MMIO_RD of a page that R339 does not list (R340): the access reads 0 and has no effect, and GLB records it with code 0x04 in
its error log if that holds no error yet. -/
def Obligations.UnmappedPages : Prop :=
  ∀ (s : State) (rq : Requester) (addr : Nat), s.boot.fatal = false → rq.src < 4 → pageType (winPage addr) = 0 →
    (∀ val, ∃ t, exec (.regWrite rq addr val) s = .next t ∧ Logged s t pgGlb 0x04) ∧
    (∀ size val, ∃ t, exec (.mmioWr rq addr size val) s = .next t ∧ Logged (rxConsume s rq.src (isMmioWr addr)) t pgGlb 0x04) ∧
    (∀ size tag, ∃ t u, exec (.mmioRd rq addr size tag) s = .next t ∧ Logged (rxConsume s rq.src (isTxn .mmioRd tag)) u pgGlb 0x04 ∧
      t = sendTxn u rq.src 0 rq.pt rq.secure { op := .mmioRsp, status := 0, tag := tag, bytes := 4, data := zeros 4 })

/-- REG_WRITE, MMIO_WR and MMIO_RD (after R14, R15, R342, R350, R404; log 91, 93, 96). A write of another size or alignment is discarded and the page
records it with code 0x01; a read of one is recorded so and answered with STATUS 1. An aligned MMIO_WR does what REG_WRITE of its address does once
its frame has left the port's buffer, and REG_WRITE of a register with a command of its own does what that command does. The non-secure world's write
to the block area of a secure page is only reported. A register that the requester may not read answers 0. A read of GLB_TIME_LO latches the high
word: a read of GLB_TIME_HI however much later gives the high word of that moment. No access comes from a port above 3. -/
def Obligations.RegisterWindow : Prop :=
  ∀ (s : State) (rq : Requester) (addr : Nat),
    (rq.src < 4 → s.boot.fatal = false → pageType (winPage addr) ≠ 0 →
      (∀ val, addr % 4 ≠ 0 → ∃ t, exec (.regWrite rq addr val) s = .next t ∧ Logged s t (winPage addr) 0x01) ∧
      ∀ size, (size ≠ 4 ∨ addr % 4 ≠ 0) →
        (∀ val, ∃ t, exec (.mmioWr rq addr size val) s = .next t ∧ Logged (rxConsume s rq.src (isMmioWr addr)) t (winPage addr) 0x01) ∧
        (∀ tag, ∃ t u, exec (.mmioRd rq addr size tag) s = .next t ∧ Logged (rxConsume s rq.src (isTxn .mmioRd tag)) u (winPage addr) 0x01 ∧
          t = sendTxn u rq.src 0 rq.pt rq.secure { op := .mmioRsp, status := 1, tag := tag, bytes := 4, data := zeros 4 })) ∧
    (∀ val, rq.src < 4 → ∃ t, exec (.mmioWr rq addr 4 val) s = .next t ∧ exec (.regWrite rq addr val) (rxConsume s rq.src (isMmioWr addr)) = .next t) ∧
    (∀ val c page off, rq.src < 4 → rq.secure = true →
      (c, page, off) ∈ ([(.clkTileReq rq val, pgClk, 0x20C), (.clkTileAll rq val, pgClk, 0x214), (.clkSsc rq val, pgClk, 0x204),
        (.pwrLimit rq val, pgPwr, 0x200), (.pwrPtCeil rq val, pgPwr, 0x210), (.glbPortRst rq val, pgGlb, 0x22C)] : List (Instr × Nat × Nat)) →
      ∃ t, exec (.regWrite rq (page * 65536 + off) val) s = .next t ∧ exec c s = .next t) ∧
    (∀ val, rq.src < 4 → s.boot.fatal = false → rq.secure = false → addr % 4 = 0 → pageType (winPage addr) ≠ 0 → areaOf (winOff addr) = .block →
      (s.page (winPage addr)).secure = true → ∃ t, exec (.regWrite rq addr val) s = .next t ∧ Reports s t) ∧
    (∀ tag, rq.src < 4 → pageType (winPage addr) ≠ 0 → addr % 4 = 0 → mayReadReg s rq (winPage addr) (winOff addr) = false →
      exec (.mmioRd rq addr 4 tag) s = .next (sendTxn (rxConsume s rq.src (isTxn .mmioRd tag)) rq.src 0 rq.pt rq.secure
        { op := .mmioRsp, status := 0, tag := tag, bytes := 4, data := zeros 4 })) ∧
    (∀ tag, rq.src < 4 → tget (s.page pgGlb).latch (latchKey rq 0x20C) = none →
      ∃ t u, exec (.mmioRd rq (pgGlb * 65536 + 0x20C) 4 tag) s = .next t ∧
        t = sendTxn u rq.src 0 rq.pt rq.secure { op := .mmioRsp, status := 0, tag := tag, bytes := 4, data := toLe 4 (low32 s.time) } ∧
        ∀ k tag', ∃ v w, exec (.mmioRd rq (pgGlb * 65536 + 0x210) 4 tag') { t with time := t.time + k } = .next v ∧
          v = sendTxn w rq.src 0 rq.pt rq.secure { op := .mmioRsp, status := 0, tag := tag', bytes := 4, data := toLe 4 (high32 s.time) }) ∧
    (∀ val size tag, 4 ≤ rq.src → ∀ c, c = .regWrite rq addr val ∨ c = .mmioWr rq addr size val ∨ c = .mmioRd rq addr size tag → exec c s = .next s)

/-- The secure world's commands (after R342, R360, R499, R568; log 91): given by a requester of the non-secure world each is refused and only reported: no
register, table, memory of the pool, drives or host, command or partition changes. -/
def Obligations.NonSecureCommandsAreRefused : Prop :=
  ∀ (s : State) (rq : Requester) (val : Word) (n : Nat), rq.secure = false →
    ∀ c, c ∈ ([.blwT1Cfg rq val, .chnSalt rq n val, .ckptGo rq, .ckptRestore rq, .clkSsc rq val, .clkTileAll rq val, .clkTileReq rq val, .cold rq,
      .depStageLen rq val, .detach rq, .down rq n, .extRelease rq, .extReleaseEvac rq, .glbPortRst rq val, .hbcRetAdd rq n val, .jlkEn rq n val,
      .nvhEnable rq val.toNat n, .pwrLimit rq val, .pwrPtCeil rq val, .recMark rq val, .recReplay rq val, .reinit rq, .rekey rq n, .retrain rq n,
      .rgnFormat rq val, .scrub rq val, .seqSrSeedHi rq val, .snpRelease rq, .snpTrig rq, .warmReset rq] : List Instr) →
    ∃ t, exec c s = .next t ∧ Reports s t

/-- SNAP_REL, LOG_REL and BLK_WORLD (after R340, R342, R348, R350, R353). On a mapped page the secure world's SNAP_REL and LOG_REL clear the page's
snapshot and its error log and nothing else. BLK_WORLD sets SECURE, and LOCK with it, while LOCK is 0; while it is 1 an equal SECURE changes nothing,
and another one is refused with code 0x06. The non-secure world's are refused with code 0x03: snapshot, world and lock stay. On no mapped page GLB
logs code 0x04. SNP_TRIG and SNP_RELEASE (after R352, R353). With SW_EN = 1 a software trigger of the secure world takes the next ID and the time
base's stamp; each block page without a snapshot latches one with them, each other keeps its own, and the trigger is counted as missed where there is
such a page. With SW_EN = 0 it changes nothing. SNP_RELEASE.ALL leaves no page with a snapshot. Neither changes what commands act on. The non-secure
world's writes are logged with code 0x03. -/
def Obligations.HeadersAndSnapshots : Prop :=
  (∀ (s : State) (rq : Requester) (page : Nat) (val : Word), s.boot.fatal = false →
     (pageType page ≠ 0 → rq.secure = true → rq.src < 4 →
       exec (.snapRel rq page) s = .next (s.setPage page fun p => { p with snap := none }) ∧
       exec (.logRel rq page) s = .next (s.setPage page fun p => { p with log := none }) ∧
       ((s.page page).lock = false →
         exec (.blkWorld rq page val) s = .next (s.setPage page fun p => { p with secure := bit val.toNat 0, lock := bit val.toNat 1 })) ∧
       ((s.page page).lock = true → bit val.toNat 0 = (s.page page).secure → exec (.blkWorld rq page val) s = .next s) ∧
       ((s.page page).lock = true → bit val.toNat 0 ≠ (s.page page).secure →
         ∃ t, exec (.blkWorld rq page val) s = .next t ∧ Logged s t page 0x06 ∧ (t.page page).secure = (s.page page).secure ∧
           (t.page page).lock = true)) ∧
     (∀ c, (c = .snapRel rq page ∨ c = .logRel rq page ∨ c = .blkWorld rq page val) →
       (pageType page ≠ 0 → rq.secure = false →
         ∃ t, exec c s = .next t ∧ Logged s t page 0x03 ∧ (t.page page).secure = (s.page page).secure ∧
           (t.page page).lock = (s.page page).lock ∧ ((s.page page).snap ≠ none → (t.page page).snap = (s.page page).snap)) ∧
       (pageType page = 0 → ∃ t, exec c s = .next t ∧ Logged s t pgGlb 0x04))) ∧
  (∀ (s : State) (rq : Requester), s.boot.fatal = false →
     (rq.secure = true → rq.src < 4 → bit (s.reg pgSnp 0x200) 0 = true →
       ∃ t, exec (.snpTrig rq) s = .next t ∧ Reports s t ∧ t.snp.lastId = s.snp.nextId ∧ t.snp.nextId = (s.snp.nextId + 1) % 256 ∧
         t.snp.lastTime = s.time ∧ t.snp.lastSrc = 1 ∧
         t.snp.missed = (if snapPages.any (fun p => (s.page p).snap.isSome) then (s.snp.missed + 1) % 2 ^ 32 else s.snp.missed) ∧
         ∀ page, page ∈ snapPages → ∃ p, (t.page page).snap = some p ∧
           ((s.page page).snap = none → p.id = s.snp.nextId ∧ p.src = 1 ∧ p.time = s.time ∧ p.skew < 64) ∧
           ((s.page page).snap ≠ none → (s.page page).snap = some p)) ∧
     (rq.secure = true → rq.src < 4 → bit (s.reg pgSnp 0x200) 0 = false → exec (.snpTrig rq) s = .next s) ∧
     (rq.secure = true → rq.src < 4 →
       ∃ t, exec (.snpRelease rq) s = .next t ∧ Reports s t ∧ (∀ page, page ∈ snapPages → (t.page page).snap = none) ∧
         (∀ page, (t.page page).log = (s.page page).log)) ∧
     (rq.secure = false → (∃ t, exec (.snpTrig rq) s = .next t ∧ Logged s t pgSnp 0x03) ∧
       ∃ t, exec (.snpRelease rq) s = .next t ∧ Logged s t pgSnp 0x03))

/-- CLK_TILE_REQ, CLK_TILE_ALL and CLK_SSC (after R17, R357). The secure world's write of a step of at most 28 sets the selected tile's request, or that
of every tile; a higher one leaves every request alone and is logged with code 0x02. CLK_SSC takes the modes 0 to 2 and keeps its mode on 3. The non-
secure world's writes are logged with code 0x03. TILE_STEP_CHANGE (after R358). A tile that replay does not pin moves to a step at which its clock
lies within a factor of 1.25 of each of its neighbours' present clocks, wherever one of the 29 steps does so; where such a step is at most its goal,
which REQ and LIMIT bound, it takes the highest of them. It is marked as held where its step lies below its request and its LIMIT; no other tile
changes. A pinned tile keeps its step. -/
def Obligations.ClocksAndSteps : Prop :=
  (∀ (s : State) (rq : Requester) (val : Word), s.boot.fatal = false →
     (rq.secure = true → rq.src < 4 → bits val.toNat 0 5 ≤ 28 →
       (∃ t, exec (.clkTileReq rq val) s = .next t ∧ tileReq t (bits (s.reg pgClk 0x208) 0 6) = bits val.toNat 0 5 ∧ t.tiles = s.tiles ∧
         ∀ tile, tile < 64 → tile ≠ bits (s.reg pgClk 0x208) 0 6 → tileReq t tile = tileReq s tile) ∧
       (∃ t, exec (.clkTileAll rq val) s = .next t ∧ t.tiles = s.tiles ∧ ∀ tile, tile < 48 → tileReq t tile = bits val.toNat 0 5)) ∧
     (rq.secure = true → rq.src < 4 → 28 < bits val.toNat 0 5 →
       (∃ t, exec (.clkTileReq rq val) s = .next t ∧ (∀ tile, tile < 64 → tileReq t tile = tileReq s tile) ∧
         ((s.page pgClk).log = none → (t.page pgClk).log.map (·.code) = some 0x02)) ∧
       (∃ t, exec (.clkTileAll rq val) s = .next t ∧ Logged s t pgClk 0x02)) ∧
     (rq.secure = true → rq.src < 4 → val.toNat % 4 < 3 →
       ∃ t, exec (.clkSsc rq val) s = .next t ∧ t.clk.ssc = val.toNat % 4 ∧ t.reg pgClk 0x204 % 4 = val.toNat % 4 ∧ t.tiles = s.tiles) ∧
     (rq.secure = true → rq.src < 4 → val.toNat % 4 = 3 →
       ∃ t, exec (.clkSsc rq val) s = .next t ∧ t.reg pgClk 0x204 % 4 = s.reg pgClk 0x204 % 4 ∧
         ((s.page pgClk).log = none → (t.page pgClk).log.map (·.code) = some 0x02)) ∧
     (rq.secure = false → ∀ c, (c = .clkTileReq rq val ∨ c = .clkTileAll rq val ∨ c = .clkSsc rq val) →
       ∃ t, exec c s = .next t ∧ Logged s t pgClk 0x03)) ∧
  (∀ (s : State) (tile k : Nat), s.boot.fatal = false → tile < s.tiles.length → (s.tile tile).pinned = false → k < 29 →
    (∀ n, n ∈ neighbours tile → stepsFit k (s.tile n).step = true) →
    ∃ t, exec (.tileStepChange tile) s = .next t ∧ (∀ n, n ∈ neighbours tile → stepsFit (t.tile tile).step (s.tile n).step = true) ∧
      (k ≤ lget (stepGoals s) tile 0 → k ≤ (t.tile tile).step ∧ (t.tile tile).step ≤ lget (stepGoals s) tile 0) ∧
      (t.tile tile).nbr = decide ((t.tile tile).step < min (tileReq s tile) (s.tile tile).limit) ∧
      (∀ x, x ≠ tile → t.tile x = s.tile x) ∧ t.regs = s.regs ∧ t.dep = s.dep) ∧
  (∀ (s : State) (tile : Nat), tile < 48 → lget (stepGoals s) tile 0 ≤ min (tileReq s tile) (s.tile tile).limit) ∧
  (∀ (s : State) (tile : Nat), (s.tile tile).pinned = true → exec (.tileStepChange tile) s = .next s)

/-! ### The DMA engine -/

/-- DMA_CH_CTRL (after R342, R370, R374, R377, R378). Of the selected channel, for its owner or the secure world: START of an idle or stopped channel with
COUNT ≠ 0 whose list is still to be fetched lets it run, or wait for a request where it is paced by them, with a full bucket and no error; STOP at a
descriptor boundary stops it with COUNT as it was, and within a descriptor lets the descriptor finish; CLEAR takes a channel in error to stopped, with
COUNT and DPOS as they were, and the failing descriptor is fetched again. In any other state each changes nothing, and so does another requester's
write. A requester that may not reach the page is refused with code 0x03. DMA_CH_SWREQ, DMA_REQUEST and DMA_CREDIT_REFILL (after R368 to R370).
Requests of DMA_CH_SWREQ and of a periodic line add to PEND, up to 255, with OVR set beyond, and a waiting channel runs on; the other channels are as
they were. A privileged channel counts none, and another requester's write changes nothing. A line that is not periodic asserts nothing here. At each
refill a privileged channel gains SHARE credits up to BUCKET. -/
def Obligations.ChannelsAndRequests : Prop :=
  (∀ (s : State) (rq : Requester) (c : Nat), s.boot.fatal = false → mayReach s rq pgDma = true → c = chanSel s → c < s.dma.chs.length →
    (maySelectChan s rq c = true →
      (((s.chan c).state = .idle ∨ (s.chan c).state = .stopped) → (s.chan c).count ≠ 0 → (s.chan c).fetched = [] →
        ∃ t, exec (.dmaStart rq) s = .next t ∧ (t.chan c).state = (if privileged c = false ∧ (s.chan c).pend = 0 then .waiting else .running) ∧
          (t.chan c).err = 0 ∧ (t.chan c).credits = chanBucket s c ∧ (t.chan c).count = (s.chan c).count ∧
          (t.chan c).fetchAt = (s.chan c).fetchAt ∧ (∀ d, d ≠ c → t.chan d = s.chan d) ∧ t.mems = s.mems) ∧
      ((s.chan c).state = .running ∨ (s.chan c).state = .waiting ∨ (s.chan c).state = .stopping ∨ (s.chan c).state = .fencing →
        ((s.chan c).started = false → exec (.dmaStop rq) s = .next (s.setChan c fun x => { x with state := .stopped, mover := false })) ∧
        ((s.chan c).started = true → exec (.dmaStop rq) s = .next (s.setChan c fun x => { x with state := .stopping, stopReq := true }))) ∧
      ((s.chan c).state = .error →
        ∃ t, exec (.dmaClear rq) s = .next t ∧ (t.chan c).state = .stopped ∧ (t.chan c).err = 0 ∧ (t.chan c).fetched = [] ∧
          (t.chan c).count = (s.chan c).count ∧ (t.chan c).dpos = (s.chan c).dpos ∧
          (∀ d, chanHead (s.chan c) = some d → (t.chan c).fetchAt = d.addr) ∧ (∀ d, d ≠ c → t.chan d = s.chan d) ∧ t.mems = s.mems) ∧
      ((s.chan c).count = 0 ∨ ((s.chan c).state ≠ .idle ∧ (s.chan c).state ≠ .stopped) → exec (.dmaStart rq) s = .next s) ∧
      (chanRuns (s.chan c) = false → exec (.dmaStop rq) s = .next s) ∧
      ((s.chan c).state ≠ .error → exec (.dmaClear rq) s = .next s)) ∧
    (maySelectChan s rq c = false →
      exec (.dmaStart rq) s = .next s ∧ exec (.dmaStop rq) s = .next s ∧ exec (.dmaClear rq) s = .next s)) ∧
  (∀ (s : State) (rq : Requester) (x : Instr), s.boot.fatal = false → mayReach s rq pgDma = false →
    (x = .dmaStart rq ∨ x = .dmaStop rq ∨ x = .dmaClear rq) → ∃ t, exec x s = .next t ∧ Logged s t pgDma 0x03) ∧
  (∀ (s : State) (rq : Requester) (val : Word) (c : Nat), s.boot.fatal = false → mayReach s rq pgDma = true → c = chanSel s →
    c < s.dma.chs.length →
    (maySelectChan s rq c = true → privileged c = false →
      ∃ t, exec (.dmaChSwreq rq val) s = .next t ∧ (t.chan c).pend = min 255 ((s.chan c).pend + val.toNat % 256) ∧
        (t.chan c).ovr = ((s.chan c).ovr || decide (255 < (s.chan c).pend + val.toNat % 256)) ∧
        ((s.chan c).state = .waiting → (t.chan c).state = (if (s.chan c).pend + val.toNat % 256 = 0 then .waiting else .running)) ∧
        ((s.chan c).state ≠ .waiting → (t.chan c).state = (s.chan c).state) ∧ (t.chan c).count = (s.chan c).count ∧
        (∀ d, d ≠ c → t.chan d = s.chan d) ∧ t.mems = s.mems) ∧
    (maySelectChan s rq c = false ∨ privileged c = true → exec (.dmaChSwreq rq val) s = .next s)) ∧
  (∀ (s : State) (line : Nat), s.boot.fatal = false →
    (16 ≤ line → line < 32 →
      ∃ t, exec (.dmaRequest line) s = .next t ∧ t.time = (s.reach (roundUp s.time (2 ^ (line - 16) * 1000))).time ∧ t.mems = s.mems ∧
        ∀ c, c < s.dma.chs.length →
          if chanRuns (s.chan c) = true ∧ chanLine s c = line then
            (t.chan c).pend = min 255 ((s.chan c).pend + 1) ∧ (t.chan c).ovr = ((s.chan c).ovr || decide (255 < (s.chan c).pend + 1)) ∧
              (t.chan c).state = (if (s.chan c).state = .waiting then .running else (s.chan c).state)
          else t.chan c = s.chan c) ∧
    (line < 16 ∨ 32 ≤ line → exec (.dmaRequest line) s = .next s)) ∧
  (∀ (s : State), s.boot.fatal = false →
    ∃ t, exec .dmaCreditRefill s = .next t ∧ t.mems = s.mems ∧ ∀ c, c < s.dma.chs.length →
      t.chan c = (if c < 8 then { s.chan c with credits := min (chanBucket s c) ((s.chan c).credits + chanShare s c) } else s.chan c))

/-- DMA_DESC_FETCH, DMA_DESC_DONE and DMA_FENCE_DONE (after R363 to R367, R375 to R377). A channel that runs ahead fetches the descriptor at its pointer,
and the pointer moves on by 32 bytes, or to the address that a LINK names; a descriptor with a reserved OP or a bad length, and one whose place fails,
puts a channel at its boundary into error, COUNT as it was. A valid transfer at the boundary begins at its own addresses, or where the one before it
ended; CONT with none before it is INVALID. A transfer whose last byte is written, and a LINK, complete: COUNT falls and DPOS rises by one, and at
COUNT 0 the channel is idle with its interrupt set; a stop takes effect. A FENCE completes once no write of the channel is outstanding, or fails with
WRITE where one has failed. Otherwise each changes nothing. DMA_BEAT (after R361, R367, R368, R370 to R373, R377; log 70). A channel that alone has a
beat ready takes a mover and reads its next beats into its buffer, one at least; how many it reads ahead is a free value. A FILL has its pattern, a
COPY its source bytes, and a source that fails ends it with that error; a request-paced channel begins a burst with one of its requests. The holder of
a mover with one beat in its buffer and no more to read writes it to the place of that beat, and spends a credit where it is privileged; a place that
fails ends the channel with that error. A channel without a credit or with SHARE 0 has no beat ready. With no beat ready anywhere and no mover held
nothing changes. -/
def Obligations.DescriptorsAndBeats : Prop :=
  (∀ (s : State) (c : Nat) (bs : List Byte), s.boot.fatal = false → c < s.dma.chs.length → mayFetch (s.chan c) = true →
    dmaRead s c (s.chan c).fetchAt 32 = .data bs → (s.chan c).started = true →
    ∃ t, exec (.dmaDescFetch c) s = .next t ∧ (t.chan c).fetched = (s.chan c).fetched ++ [parseDesc (s.chan c).fetchAt 0 bs] ∧
      (t.chan c).fetchAt = (if field bs 0 1 = 3 ∧ descErr bs = 0 then field bs 8 8 else (s.chan c).fetchAt + 32) ∧
      (t.chan c).state = (s.chan c).state ∧ (∀ d, d ≠ c → t.chan d = s.chan d) ∧ t.mems = s.mems) ∧
  (∀ (s : State) (c e : Nat) (bs : List Byte), s.boot.fatal = false → c < s.dma.chs.length → mayFetch (s.chan c) = true →
    (s.chan c).started = false → (s.chan c).fetched = [] → e ≠ 0 → (s.chan c).count ≠ 0 →
    ((dmaRead s c (s.chan c).fetchAt 32 = .data bs ∧ descErr bs = e) ∨ dmaRead s c (s.chan c).fetchAt 32 = .err e) →
    ∃ t, exec (.dmaDescFetch c) s = .next t ∧ (t.chan c).state = .error ∧ (t.chan c).err = e ∧ (t.chan c).irq = true ∧
      (t.chan c).count = (s.chan c).count ∧ (t.chan c).dpos = (s.chan c).dpos) ∧
  (∀ (s : State) (c : Nat) (bs : List Byte) (d : Desc), s.boot.fatal = false → c < s.dma.chs.length → mayFetch (s.chan c) = true →
    dmaRead s c (s.chan c).fetchAt 32 = .data bs → (s.chan c).started = false → (s.chan c).fetched = [] → (s.chan c).count ≠ 0 →
    descErr bs = 0 → d = parseDesc (s.chan c).fetchAt 0 bs → d.op < 2 →
    (∀ a b, transferBases (s.chan c) d = some (a, b) → (d.op = 0 → spaceErr a (chanOwner s c).2 = 0) → spaceErr b (chanOwner s c).2 = 0 →
      ∃ t, exec (.dmaDescFetch c) s = .next t ∧ (t.chan c).started = true ∧ (t.chan c).srcBase = a ∧ (t.chan c).dstBase = b ∧
        (t.chan c).rd = 0 ∧ (t.chan c).wr = 0 ∧ (t.chan c).fetched = [d] ∧ t.mems = s.mems) ∧
    (transferBases (s.chan c) d = none → ∃ t, exec (.dmaDescFetch c) s = .next t ∧ (t.chan c).state = .error ∧ (t.chan c).err = 2) ∧
    (d.scont = true → (s.chan c).srcEnd = none → d.op = 0 → transferBases (s.chan c) d = none) ∧
    (d.scont = true → (s.chan c).dstEnd = none → d.op = 1 → transferBases (s.chan c) d = none) ∧
    (d.dcont = true → (s.chan c).dstEnd = none → transferBases (s.chan c) d = none)) ∧
  (∀ (s : State) (c : Nat) (d : Desc) (rest : List Desc), s.boot.fatal = false → c < s.dma.chs.length → chanRuns (s.chan c) = true →
    (s.chan c).started = true → (s.chan c).fetched = d :: rest → (d.op = 3 ∨ (d.op < 2 ∧ (s.chan c).wr = d.len)) →
    ((s.chan c).count = 1 → ∃ t, exec (.dmaDescDone c) s = .next t ∧ (t.chan c).count = 0 ∧ (t.chan c).state = .idle ∧
      (t.chan c).irq = true ∧ (t.chan c).dpos = ((s.chan c).dpos + 1) % 2 ^ 24 ∧ (∀ x, x ≠ c → t.chan x = s.chan x) ∧ t.mems = s.mems) ∧
    (1 < (s.chan c).count → rest = [] → (s.chan c).stopReq = false →
      ∃ t, exec (.dmaDescDone c) s = .next t ∧ (t.chan c).count = (s.chan c).count - 1 ∧ (t.chan c).fetched = [] ∧
        (t.chan c).dpos = ((s.chan c).dpos + 1) % 2 ^ 24 ∧ (t.chan c).irq = (s.chan c).irq ∧ (t.chan c).started = false ∧
        (d.op < 2 → (t.chan c).dstEnd = some (wrapAddr (s.chan c).dstBase d.dwrap d.len)) ∧
        (d.op = 0 → (t.chan c).srcEnd = some (wrapAddr (s.chan c).srcBase d.swrap d.len)) ∧ t.mems = s.mems) ∧
    (1 < (s.chan c).count → (s.chan c).stopReq = true →
      ∃ t, exec (.dmaDescDone c) s = .next t ∧ (t.chan c).count = (s.chan c).count - 1 ∧ (t.chan c).state = .stopped ∧ t.mems = s.mems)) ∧
  (∀ (s : State) (c : Nat), s.boot.fatal = false → c < s.dma.chs.length → chanRuns (s.chan c) = true → inFence (s.chan c) = true →
    (List.range 4).any (fun p => writesOut s p (2 ^ 40 + c)) = false →
    ((s.chan c).writeFailed = true → ∃ t, exec (.dmaFenceDone c) s = .next t ∧ (t.chan c).state = .error ∧ (t.chan c).err = 4 ∧
      (t.chan c).writeFailed = false) ∧
    ((s.chan c).writeFailed = false → (s.chan c).count = 1 → ∃ t, exec (.dmaFenceDone c) s = .next t ∧ (t.chan c).count = 0 ∧
      (t.chan c).state = .idle ∧ (t.chan c).irq = true ∧ t.mems = s.mems) ∧
    (∀ d, (s.chan c).writeFailed = false → 1 < (s.chan c).count → (s.chan c).fetched = [d] → (s.chan c).stopReq = false →
      ∃ t, exec (.dmaFenceDone c) s = .next t ∧ (t.chan c).count = (s.chan c).count - 1 ∧ (t.chan c).fetched = [] ∧
        (t.chan c).dpos = ((s.chan c).dpos + 1) % 2 ^ 24 ∧ t.mems = s.mems)) ∧
  (∀ (s : State) (c : Nat), s.boot.fatal = false →
    (mayFetch (s.chan c) = false → exec (.dmaDescFetch c) s = .next s) ∧
    (chanRuns (s.chan c) = false ∨ (s.chan c).started = false ∨ chanHead (s.chan c) = none ∨
        (∃ d, chanHead (s.chan c) = some d ∧ d.op ≠ 3 ∧ (d.op < 2 → (s.chan c).wr ≠ d.len)) →
      exec (.dmaDescDone c) s = .next s) ∧
    (chanRuns (s.chan c) = false ∨ inFence (s.chan c) = false ∨ (List.range 4).any (fun p => writesOut s p (2 ^ 40 + c)) = true →
      exec (.dmaFenceDone c) s = .next s)) ∧
  (∀ (s : State) (c k : Nat) (d : Desc) (bs : List Byte), s.boot.fatal = false → c < 64 → c < s.dma.chs.length →
    (∀ x, x ≠ c → beatReady s x = false ∧ (s.chan x).mover = false) → (s.chan c).state = .running → (s.chan c).mover = false →
    (s.chan c).buf = [] → chanHead (s.chan c) = some d → inTransfer (s.chan c) = true → mayRead c (s.chan c) d = true →
    beatReady s c = true → k = (beatsAhead s c d).1 →
    (d.op = 1 ∧ bs = patternBytes d.src (s.chan c).rd (beatsLen (s.chan c) d k) ∨
      d.op = 0 ∧ refSpace (s.chan c).srcBase ≠ 0 ∧ sourceBytes s c (s.chan c) d (s.chan c).rd (beatsLen (s.chan c) d k) = .data bs) →
    ∃ t, exec .dmaBeat s = .next t ∧ (t.chan c).buf = cutBeats (s.chan c) d bs ∧ (t.chan c).rd = (s.chan c).rd + bs.length ∧
      (t.chan c).wr = (s.chan c).wr ∧ t.mems = s.mems ∧
      (t.chan c).pend = (if privileged c = true ∨ 0 < (s.chan c).burst then (s.chan c).pend else (s.chan c).pend - 1)) ∧
  (∀ (s : State) (c e : Nat) (d : Desc), s.boot.fatal = false → c < 64 → c < s.dma.chs.length →
    (∀ x, x ≠ c → beatReady s x = false ∧ (s.chan x).mover = false) → (s.chan c).state = .running → (s.chan c).mover = false →
    (s.chan c).buf = [] → chanHead (s.chan c) = some d → inTransfer (s.chan c) = true → mayRead c (s.chan c) d = true →
    beatReady s c = true → d.op = 0 → refSpace (s.chan c).srcBase ≠ 0 →
    sourceBytes s c (s.chan c) d (s.chan c).rd (beatsLen (s.chan c) d (beatsAhead s c d).1) = .err e →
    ∃ t, exec .dmaBeat s = .next t ∧ (t.chan c).state = .error ∧ (t.chan c).err = e ∧ (t.chan c).irq = true) ∧
  (∀ (s : State) (c : Nat) (d : Desc), s.boot.fatal = false → c < 64 → c < s.dma.chs.length →
    (∀ x, x ≠ c → beatReady s x = false ∧ (s.chan x).mover = false) → (s.chan c).state = .running → (s.chan c).mover = false →
    (s.chan c).buf = [] → chanHead (s.chan c) = some d → inTransfer (s.chan c) = true → mayRead c (s.chan c) d = true →
    beatReady s c = true → d.op = 0 → refSpace (s.chan c).srcBase = 0 →
    (portActive s (chanPort s c) = false → (s.link (chanPort s c)).reads.length < 1024 → ∃ t, exec .dmaBeat s = .next t ∧ (t.chan c).state = .error ∧ (t.chan c).err = 3) ∧
    (portActive s (chanPort s c) = true → (s.link (chanPort s c)).reads.length < 1024 → chanPort s c < s.jlk.length →
      ∃ t r, exec .dmaBeat s = .next t ∧ (t.link (chanPort s c)).reads = (s.link (chanPort s c)).reads ++ [r] ∧ r.use = .dmaBeats c ∧
        r.addr = refAddr (wrapAddr (s.chan c).srcBase d.swrap (s.chan c).rd) ∧ 0 < r.bytes ∧ (t.chan c).buf = [] ∧
        (t.chan c).rd = (s.chan c).rd ∧ t.mems = s.mems)) ∧
  (∀ (s : State) (c : Nat) (d : Desc) (b : List Byte), s.boot.fatal = false → c < 64 → c < s.dma.chs.length →
    (∀ x, x ≠ c → beatReady s x = false ∧ (s.chan x).mover = false) → (s.chan c).state = .running → (s.chan c).mover = true →
    (s.chan c).buf = [b] → beatReady s c = true → chanHead (s.chan c) = some d → inTransfer (s.chan c) = true → d.len ≤ (s.chan c).rd →
    (placeErr s c (wrapAddr (s.chan c).dstBase d.dwrap (s.chan c).wr) b.length = 0 →
      ∃ t, exec .dmaBeat s = .next t ∧ (t.chan c).buf = [] ∧ (t.chan c).wr = (s.chan c).wr + b.length ∧
        t.mems = (dmaWrite s c (wrapAddr (s.chan c).dstBase d.dwrap (s.chan c).wr) b).mems ∧
        (privileged c = true → (t.chan c).credits = min (chanBucket s c) (s.chan c).credits - 1)) ∧
    (placeErr s c (wrapAddr (s.chan c).dstBase d.dwrap (s.chan c).wr) b.length ≠ 0 →
      ∃ t, exec .dmaBeat s = .next t ∧ (t.chan c).state = .error ∧
        (t.chan c).err = placeErr s c (wrapAddr (s.chan c).dstBase d.dwrap (s.chan c).wr) b.length ∧ t.mems.spad = s.mems.spad ∧
        t.mems.pool = s.mems.pool)) ∧
  (∀ (s : State) (c a : Nat) (bs : List Byte), refSpace a = 5 →
    (dmaWrite s c a bs).mems = { s.mems with spad := mwrites s.mems.spad (bits a 40 6 * 2 ^ 24 + bits a 0 24) bs }) ∧
  (∀ (s : State) (c : Nat), privileged c = true → (chanShare s c = 0 ∨ (s.chan c).credits = 0 ∨ chanBucket s c = 0) →
    beatReady s c = false) ∧
  (∀ (s : State), s.boot.fatal = false → (∀ c, beatReady s c = false ∧ (s.chan c).mover = false) → exec .dmaBeat s = .next s)

/-! ### The Jurola links -/

/-- JLK_EN, SIGNAL_DETECT, EQ_DONE, EQ_TIMEOUT, ALIGN_LOCK and ALIGN_FAIL (after R342, R385 to R387, R413; logs 8, 67, 104). On a port in the state that
R387's row names, the row's event leads to the row's next state: EN from DISABLED to DETECT, and EN = 0 from any state to DISABLED without replay
buffer, keys and session; a signal to EQ; the best group that qualifies, no wider than MAX_WIDTH, to ALIGN, or DETECT with CAUSE 2 after 20 ms; lock
within 1 ms to CONFIG, where the port sends a block with a nonce it draws, or the next narrower group, or DETECT with CAUSE 3. An EQ_DONE or
ALIGN_LOCK past its bound is the bound's own event. In any other state, without a group that passes, for a group or a port that does not exist, the
event changes nothing; nor does a write of EN that keeps it change the port. A write that is not the secure world's is refused with code 0x03. No
other port changes. CONFIG_BLOCK_RX (after R385 to R387, R389, R411; logs 67, 104). In CONFIG, a far end of a KIND that does not suit the port takes
it DOWN with CAUSE 4; one that suits, with another nonce and a common lane group, makes it ACTIVE at that group, with FSEQ, credits, counters and keys
reset, and MASTER exactly on a fabric port whose nonce is the greater: such a port begins the SPDM exchange once attestation is available. On equal
nonces it stays in CONFIG, draws again and sends its block anew; without a common group, or past 100 µs, it waits on, and in any other state nothing
changes. -/
def Obligations.LinkTraining : Prop :=
  (∀ (s : State) (rq : Requester) (port : Nat) (val : Word), s.boot.fatal = false → port < 12 → port < s.jlk.length →
    (rq.secure = true → rq.src < 4 →
      ∃ t, exec (.jlkEn rq port val) s = .next t ∧ (∀ p, p ≠ port → t.link p = s.link p) ∧ t.dep = s.dep ∧
        ((s.link port).state = .disabled → bit val.toNat 0 = true → (t.link port).state = .detect ∧ (t.link port).held = (s.link port).held) ∧
        ((s.link port).state ≠ .disabled → bit val.toNat 0 = false →
          (t.link port).state = .disabled ∧ (t.link port).held = [] ∧ (t.link port).keyed = false ∧ (t.link port).session = false ∧
            (t.link port).ctl = []) ∧
        (((s.link port).state = .disabled ↔ bit val.toNat 0 = false) → t.link port = s.link port)) ∧
    (rq.secure = false → ∃ t, exec (.jlkEn rq port val) s = .next t ∧ Logged s t (pgJlk port) 0x03)) ∧
  (∀ (s : State) (rq : Requester) (port : Nat) (val : Word), 12 ≤ port → exec (.jlkEn rq port val) s = .next s) ∧
  (∀ (s : State) (port : Nat), port < s.jlk.length →
    (∀ g, (s.link port).state = .detect → g < 4 →
      ∃ t, exec (.signalDetect port g) s = .next t ∧ (t.link port).state = .eq ∧ (∀ p, p ≠ port → t.link p = s.link p) ∧
        t.mems = s.mems ∧ t.dep = s.dep) ∧
    (∀ g, (s.link port).state ≠ .detect ∨ 4 ≤ g → exec (.signalDetect port g) s = .next s) ∧
    (∀ lanes g, (s.link port).state = .eq → linkLate s port 20000000 = false → bestGroup (maxWidth s port) (lanes % 256) = some g →
      ∃ t, exec (.eqDone port lanes) s = .next t ∧ (t.link port).state = .align ∧ (t.link port).passed = lanes % 256 ∧
        (t.link port).group = g.first ∧ (t.link port).groupWidth = g.width ∧ (∀ p, p ≠ port → t.link p = s.link p) ∧
        t.mems = s.mems ∧ t.dep = s.dep) ∧
    (∀ lanes, (s.link port).state ≠ .eq ∨ (linkLate s port 20000000 = false ∧ bestGroup (maxWidth s port) (lanes % 256) = none) →
      exec (.eqDone port lanes) s = .next s) ∧
    (∀ lanes, (s.link port).state = .eq → linkLate s port 20000000 = true →
      exec (.eqDone port lanes) s = exec (.eqTimeout port) s) ∧
    ((s.link port).state = .eq → ∃ t, exec (.eqTimeout port) s = .next t ∧ (t.link port).state = .detect ∧ (t.link port).cause = 2 ∧
      t.time = (s.reach ((s.link port).stateAt + 20000000)).time ∧ (∀ p, p ≠ port → t.link p = s.link p) ∧ t.mems = s.mems ∧ t.dep = s.dep) ∧
    ((s.link port).state ≠ .eq → exec (.eqTimeout port) s = .next s) ∧
    ((s.link port).state = .align → linkLate s port 1000000 = false →
      ∃ t, exec (.alignLock port) s = .next t ∧ (t.link port).state = .config ∧
      (t.link port).group = (s.link port).group ∧ (t.link port).groupWidth = (s.link port).groupWidth ∧
      (t.link port).nonce = (draw s).1 ∧ (t.link port).sent = some (ownBlock port (s.link port).passed (draw s).1 0) ∧
      (∀ p, p ≠ port → t.link p = s.link p) ∧ t.mems = s.mems ∧ t.dep = s.dep) ∧
    ((s.link port).state = .align → linkLate s port 1000000 = true → exec (.alignLock port) s = exec (.alignFail port) s) ∧
    ((s.link port).state ≠ .align → exec (.alignLock port) s = .next s ∧ exec (.alignFail port) s = .next s) ∧
    (∀ g, (s.link port).state = .align → narrowerGroup (s.link port).groupWidth (s.link port).passed = some g →
      ∃ t, exec (.alignFail port) s = .next t ∧ (t.link port).state = .align ∧ (t.link port).group = g.first ∧
        (t.link port).groupWidth = g.width ∧ (∀ p, p ≠ port → t.link p = s.link p) ∧ t.mems = s.mems ∧ t.dep = s.dep) ∧
    ((s.link port).state = .align → narrowerGroup (s.link port).groupWidth (s.link port).passed = none →
      ∃ t, exec (.alignFail port) s = .next t ∧ (t.link port).state = .detect ∧ (t.link port).cause = 3 ∧
        (∀ p, p ≠ port → t.link p = s.link p) ∧ t.mems = s.mems ∧ t.dep = s.dep)) ∧
  (∀ (s : State) (port : Nat) (b : CfgBlock), port < s.jlk.length →
     ((s.link port).state ≠ .config → exec (.configBlockRx port b) s = .next s) ∧
     ((s.link port).state = .config →
       (kindSuits port b.kind = false → (s.link port).reads = [] →
         ∃ t, exec (.configBlockRx port b) s = .next t ∧ (t.link port).state = .down ∧ (t.link port).cause = 4 ∧ (t.link port).held = [] ∧
           (t.link port).keyed = false) ∧
       (kindSuits port b.kind = true → linkLate s port 100000 = true → exec (.configBlockRx port b) s = .next s) ∧
       (∀ g, kindSuits port b.kind = true → linkLate s port 100000 = false → b.nonce ≠ (s.link port).nonce →
         bestGroup (s.link port).groupWidth ((s.link port).passed &&& b.lanes) = some g →
         ∃ t, exec (.configBlockRx port b) s = .next t ∧ (t.link port).state = .active ∧ (t.link port).width = g.width ∧
           (t.link port).lanes = g.mask ∧ (t.link port).txSeq = 0 ∧ (t.link port).rxNext = 0 ∧ (t.link port).keyed = false ∧
           (t.link port).kgenTx = 0 ∧ (t.link port).kgenRx = 0 ∧ (t.link port).txCtr = 0 ∧ (t.link port).rxCtr = 0 ∧
           (t.link port).held = [] ∧ (∀ c, c < 5 → lget (t.link port).txLimit c 0 = lget b.cred c 0 % 65536) ∧
           (t.link port).master = (!isHostPort port && decide (b.nonce < (s.link port).nonce)) ∧
           (t.link port).mgmt = (if (t.link port).master = true ∧ s.boot.attReady = true then [⟨1, [0x10, 0x84, 0, 0]⟩] else []) ∧
           (∀ p, p ≠ port → t.link p = s.link p) ∧ t.mems = s.mems ∧ t.dep = s.dep) ∧
       (kindSuits port b.kind = true → linkLate s port 100000 = false → b.nonce = (s.link port).nonce →
         ∃ t, exec (.configBlockRx port b) s = .next t ∧ (t.link port).state = .config ∧ (t.link port).held = (s.link port).held ∧
           (t.link port).nonce = (draw s).1 ∧ (t.link port).sent = some (ownBlock port (s.link port).passed (draw s).1 0) ∧
           (∀ p, p ≠ port → t.link p = s.link p) ∧ t.mems = s.mems) ∧
       (kindSuits port b.kind = true → linkLate s port 100000 = false → b.nonce ≠ (s.link port).nonce →
         bestGroup (s.link port).groupWidth ((s.link port).passed &&& b.lanes) = none → exec (.configBlockRx port b) s = .next s)))

/-- ROW_LOCK_LOSS, LINK_DEGRADE, RETRAIN, RECOVER_DONE and RECOVER_TIMEOUT (after R342, R386 to R388; logs 8, 67, 104). An ACTIVE port whose row lock is
lost, one of whose lanes exceeds DEG_UCW in the 1 ms window that runs, or that is to RETRAIN, enters RECOVER with its replay buffer, FSEQ counters,
credits and keys as they were; a recovery on a group that may be used within its bound returns it to ACTIVE at that width with its NEXT sent to the
far end, and replays what the far end has not accepted. Without such a group, or past the bound, it goes DOWN with CAUSE 5. RETRAIN takes a DOWN port
to DETECT. Otherwise each changes nothing; a write that is not the secure world's is refused with code 0x03. DOWN (after R342, R387, R408, R449; log
67). JLK_CTRL.DOWN takes an ACTIVE or recovering port DOWN with CAUSE 8 and discards replay buffer and keys. The rings of a host port halt and its
unacknowledged writes are forgotten; routes through a fabric port are dead and its queues are empty. On a port in any other state it changes nothing,
and a write that is not the secure world's is refused with code 0x03. -/
def Obligations.RecoveryAndDown : Prop :=
  (∀ (s : State) (port : Nat), port < s.jlk.length →
    ((s.link port).state = .active →
      (∀ c rq, s.boot.fatal = false → rq.secure = true → rq.src < 4 → port < 12 →
        (c = .rowLockLoss port ∨ c = .retrain rq port ∨
          ∃ lane, c = .linkDegrade port lane ∧ bits (s.reg (pgJlk port) 0x200) 8 8 < laneWindow s (s.link port) lane) →
        ∃ t, exec c s = .next t ∧ (t.link port).state = .recover ∧ (t.link port).retraining = (c == .retrain rq port) ∧
          (t.link port).recoverCnt = ((s.link port).recoverCnt + 1) % 65536 ∧ (t.link port).held = (s.link port).held ∧
          (t.link port).txSeq = (s.link port).txSeq ∧ (t.link port).rxNext = (s.link port).rxNext ∧
          (t.link port).txLimit = (s.link port).txLimit ∧ (t.link port).keyed = (s.link port).keyed ∧
          (t.link port).kgenTx = (s.link port).kgenTx ∧ (∀ p, p ≠ port → t.link p = s.link p) ∧ t.mems = s.mems ∧ t.dep = s.dep) ∧
      (∀ lane, laneWindow s (s.link port) lane ≤ bits (s.reg (pgJlk port) 0x200) 8 8 → exec (.linkDegrade port lane) s = .next s)) ∧
    ((s.link port).state ≠ .active → exec (.rowLockLoss port) s = .next s ∧ ∀ lane, exec (.linkDegrade port lane) s = .next s) ∧
    ((s.link port).state = .down → ∀ rq, s.boot.fatal = false → rq.secure = true → rq.src < 4 → port < 12 →
      ∃ t, exec (.retrain rq port) s = .next t ∧ (t.link port).state = .detect ∧ (∀ p, p ≠ port → t.link p = s.link p) ∧ t.mems = s.mems) ∧
    ((s.link port).state ≠ .active → (s.link port).state ≠ .down → ∀ rq, s.boot.fatal = false → rq.secure = true → rq.src < 4 → port < 12 →
      exec (.retrain rq port) s = .next s) ∧
    ((s.link port).state ≠ .recover → (∀ lanes next, exec (.recoverDone port lanes next) s = .next s) ∧
      exec (.recoverTimeout port) s = .next s) ∧
    ((s.link port).state = .recover →
      (∀ lanes next g, recoverGroup s port lanes = some g → linkLate s port (recoverNs s port) = true →
        exec (.recoverDone port lanes next) s = exec (.recoverTimeout port) s) ∧
      (∀ lanes next g, recoverGroup s port lanes = some g → linkLate s port (recoverNs s port) = false →
        ∃ t, exec (.recoverDone port lanes next) s = .next t ∧ (t.link port).state = .active ∧ (t.link port).width = g.width ∧
          (t.link port).lanes = g.mask ∧ (t.link port).held = (s.link port).held.filter (fun h => !seqBelow h.fseq next) ∧
          ((t.link port).held ≠ [] → (t.link port).replayFrom = some next) ∧ (t.link port).txSeq = (s.link port).txSeq ∧
          (t.link port).rxNext = (s.link port).rxNext ∧ (t.link port).txLimit = (s.link port).txLimit ∧
          (t.link port).sent = some (ownBlock port (lanes % 256) (s.link port).nonce (s.link port).rxNext) ∧
          (t.link port).keyed = (s.link port).keyed ∧ (∀ p, p ≠ port → t.link p = s.link p) ∧ t.dep = s.dep) ∧
      (∀ lanes next, recoverGroup s port lanes = none → (s.link port).reads = [] →
        ∃ t, exec (.recoverDone port lanes next) s = .next t ∧ (t.link port).state = .down ∧ (t.link port).cause = 5 ∧
          (t.link port).held = [] ∧ (t.link port).keyed = false) ∧
      ((s.link port).reads = [] →
        ∃ t, exec (.recoverTimeout port) s = .next t ∧ (t.link port).state = .down ∧ (t.link port).cause = 5 ∧ (t.link port).held = [] ∧
          (t.link port).keyed = false ∧
          t.time = (s.reach ((s.link port).stateAt + (if (s.link port).retraining then 30000000 else 50000))).time))) ∧
  (∀ (s : State) (rq : Requester) (port : Nat), s.boot.fatal = false → rq.secure = false → port < 12 →
    ∃ t, exec (.retrain rq port) s = .next t ∧ Logged s t (pgJlk port) 0x03) ∧
  (∀ (s : State) (rq : Requester) (port : Nat), s.boot.fatal = false → port < 12 → port < s.jlk.length →
     (rq.secure = true → rq.src < 4 → ((s.link port).state = .active ∨ (s.link port).state = .recover) → (s.link port).reads = [] →
       ∃ t, exec (.down rq port) s = .next t ∧ (t.link port).state = .down ∧ (t.link port).cause = 8 ∧ (t.link port).held = [] ∧
         (t.link port).keyed = false ∧ (t.link port).session = false ∧
         (isHostPort port = true → (t.link port).unacked = [] ∧
           (∀ r, (s.subRing r).en = true → (s.subRing r).port = port → (t.subRing r).halted = true) ∧ t.fab = s.fab) ∧
         (isHostPort port = false → t.fab.deadPorts.contains (port - 4) = true ∧ (∀ q, q ∈ (t.sched port).qs → q.frames = []) ∧
           t.dep = s.dep)) ∧
     (rq.secure = true → rq.src < 4 → (s.link port).state ≠ .active → (s.link port).state ≠ .recover →
       exec (.down rq port) s = .next s) ∧
     (rq.secure = false → ∃ t, exec (.down rq port) s = .next t ∧ Logged s t (pgJlk port) 0x03))

/-- DATA_FRAME_RX and CODEWORD_UNCORRECTABLE (after R384, R391 to R393, R400, R401, R439; log 65). On an ACTIVE port that is not discarding, an acceptable
DATA frame with FSEQ = NEXT advances NEXT and stands in the receive buffer of its channel; one with a lower FSEQ leaves the port as it was; one with a
higher FSEQ, one with a bad LEN or a reserved TYPE, one whose tag fails, and a codeword that cannot be corrected make the port ask for NEXT with a NAK
and discard. A tag failure counts, and the eighth on one FSEQ takes the port DOWN with CAUSE 6. An accepted packet with a reserved PTYPE is dropped
and counts in FAB_DROP. A port that discards drops every frame but that with FSEQ = NEXT. On a port that is not ACTIVE nothing changes. -/
def Obligations.FramesAreReceived : Prop :=
  (∀ (s : State) (port : Nat), port < s.jlk.length → (s.link port).state = .active → (s.link port).discarding = false →
    (∀ f a, isData f = true → frameOk port f = true → (f.enc = true → (s.link port).keyed = true ∧ a = true) →
      (f.fseq = (s.link port).rxNext → frameRefused s port f = none → ((s.part f.pt).state ≠ .scrubbing ∨ f.secure = true) → reservedPkt f = false →
        frameChannel f < (s.link port).rxBuf.length →
        ∃ t, exec (.dataFrameRx port f a) s = .next t ∧ (t.link port).rxNext = ((s.link port).rxNext + 1) % 2 ^ 32 ∧
          lget (t.link port).rxBuf (frameChannel f) [] = lget (s.link port).rxBuf (frameChannel f) [] ++ [f] ∧
          (t.link port).held = (s.link port).held ∧ t.mems.host = s.mems.host ∧ t.dep = s.dep ∧ (∀ p, p ≠ port → t.link p = s.link p)) ∧
      (f.fseq ≠ (s.link port).rxNext → seqBelow f.fseq (s.link port).rxNext = true →
        ∃ t, exec (.dataFrameRx port f a) s = .next t ∧ Reports s t) ∧
      (f.fseq ≠ (s.link port).rxNext → seqBelow f.fseq (s.link port).rxNext = false →
        ∃ t, exec (.dataFrameRx port f a) s = .next t ∧ (t.link port).discarding = true ∧
          (t.link port).ctl = (s.link port).ctl ++ [.nak (s.link port).rxNext] ∧ (t.link port).rxNext = (s.link port).rxNext ∧
          (t.link port).rxBuf = (s.link port).rxBuf ∧ t.dep = s.dep)) ∧
    (∀ f a, (8 ≤ frameType f.body ∨ reservedFrame f = true) → frameOk port f = false →
      ∃ t, exec (.dataFrameRx port f a) s = .next t ∧ (t.link port).discarding = true ∧
        (t.link port).ctl = (s.link port).ctl ++ [.nak (s.link port).rxNext] ∧ (t.link port).rxNext = (s.link port).rxNext ∧
        (t.link port).rxBuf = (s.link port).rxBuf ∧ t.dep = s.dep) ∧
    (∀ f, isData f = true → frameOk port f = true → f.enc = true → (s.link port).tagFails = (0, 0) → f.fseq ≠ 0 →
      ∃ t, exec (.dataFrameRx port f false) s = .next t ∧ (t.link port).authFail = ((s.link port).authFail + 1) % 2 ^ 32 ∧
        (t.link port).discarding = true ∧ (t.link port).ctl = (s.link port).ctl ++ [.nak (s.link port).rxNext] ∧
        (t.link port).rxNext = (s.link port).rxNext ∧ (t.link port).tagFails = (f.fseq, 1)) ∧
    (∀ f, isData f = true → frameOk port f = true → f.enc = true → (s.link port).tagFails = (f.fseq, 7) → (s.link port).reads = [] →
      ∃ t, exec (.dataFrameRx port f false) s = .next t ∧ (t.link port).state = .down ∧ (t.link port).cause = 6) ∧
    (∀ lane, ∃ t, exec (.codewordUncorrectable port lane) s = .next t ∧
      (t.link port).fecUncorr = ((s.link port).fecUncorr + 1) % 2 ^ 32 ∧ (t.link port).discarding = true ∧
      (t.link port).ctl = (s.link port).ctl ++ [.nak (s.link port).rxNext] ∧ (t.link port).rxNext = (s.link port).rxNext ∧
      t.mems = s.mems ∧ t.dep = s.dep) ∧
    (∀ f a, isData f = true → frameOk port f = true → (f.enc = true → (s.link port).keyed = true ∧ a = true) →
      f.fseq = (s.link port).rxNext → frameRefused s port f = none → ((s.part f.pt).state ≠ .scrubbing ∨ f.secure = true) →
      reservedPkt f = true →
      ∃ t, exec (.dataFrameRx port f a) s = .next t ∧ (t.link port).rxNext = ((s.link port).rxNext + 1) % 2 ^ 32 ∧
        t.fab.drop = (s.fab.drop + 1) % 2 ^ 32 ∧ (t.link port).rxBuf = (s.link port).rxBuf ∧ t.mems.host = s.mems.host ∧ t.dep = s.dep)) ∧
  (∀ (s : State) (port : Nat) (f : Frame) (a : Bool), (s.link port).state = .active → (s.link port).discarding = true →
    f.fseq ≠ (s.link port).rxNext → exec (.dataFrameRx port f a) s = .next s) ∧
  (∀ (s : State) (port : Nat), (s.link port).state ≠ .active →
    (∀ f a, exec (.dataFrameRx port f a) s = .next s) ∧ ∀ lane, exec (.codewordUncorrectable port lane) s = .next s)

/-- JLK_ACK_RX, JLK_NAK_RX, CREDIT_RX, KEY_RX and REKEY (after R393, R394, R396, R399 to R401). On an ACTIVE port, an authentic ACK frees every held frame
below its NEXT; a NAK does so too, and the held frames are replayed from NEXT, or the port enters RECOVER at the sixteenth replay in a row; a CREDIT
raises each channel's limit by the growth of its cumulative count; a KEY names the next generation and where it begins. One whose tag fails only
counts, and on a port that is not ACTIVE nothing changes. REKEY of a keyed port announces a generation from the next FSEQ on; on one that is not keyed
it does nothing, and it is the secure world's alone. REPLAY_TIMEOUT, ACK_TIMER and CREDIT_TIMER (after R393, R394, R396; log 8). On an ACTIVE port, 10
µs without an advance replay from the oldest held frame, the sixteenth time in a row by RECOVER; 1 µs after a frame was accepted an ACK with NEXT is
queued; a due CREDIT frame is queued. With no frame held, with no ACK owed, and on a port that is not ACTIVE nothing changes. -/
def Obligations.ControlFramesAndTimers : Prop :=
  (∀ (s : State) (port ctr : Nat) (a : Bool), port < s.jlk.length → (s.link port).state = .active →
    (((s.link port).keyed = false ∨ a = true) →
      (∀ next, ∃ t, exec (.jlkAckRx port next ctr a) s = .next t ∧ (t.link port).state = .active ∧
        (t.link port).held = (s.link port).held.filter (fun h => !seqBelow h.fseq next) ∧
        (t.link port).replayFrom = (s.link port).replayFrom ∧ (∀ p, p ≠ port → t.link p = s.link p) ∧ t.mems = s.mems ∧ t.dep = s.dep) ∧
      (∀ next h hs, (s.link port).held.filter (fun h => !seqBelow h.fseq next) = h :: hs → (s.link port).replays < 15 →
        ∃ t, exec (.jlkNakRx port next ctr a) s = .next t ∧ (t.link port).state = .active ∧ (t.link port).held = h :: hs ∧
          (t.link port).replayFrom = some next ∧ (∀ p, p ≠ port → t.link p = s.link p) ∧ t.mems = s.mems ∧ t.dep = s.dep) ∧
      (∀ next, (s.link port).held ≠ [] → (∀ h, h ∈ (s.link port).held → seqBelow h.fseq next = false) → (s.link port).replays = 15 →
        ∃ t, exec (.jlkNakRx port next ctr a) s = .next t ∧ (t.link port).state = .recover ∧ (t.link port).held = (s.link port).held) ∧
      (∀ next, (s.link port).replays < 16 → (∀ h, h ∈ (s.link port).held → seqBelow h.fseq next = true) →
        ∃ t, exec (.jlkNakRx port next ctr a) s = .next t ∧ (t.link port).state = .active ∧ (t.link port).held = [] ∧
          (t.link port).replayFrom = (s.link port).replayFrom) ∧
      (∀ counts, ∃ t, exec (.creditRx port counts ctr a) s = .next t ∧ (∀ c, c < 5 →
        lget (t.link port).txLimit c 0 = lget (s.link port).txLimit c 0 + subMod (lget counts c 0) (lget (s.link port).txCount c 0) 16) ∧
        (t.link port).held = (s.link port).held ∧ (∀ p, p ≠ port → t.link p = s.link p) ∧ t.mems = s.mems ∧ t.dep = s.dep) ∧
      (∀ g n, ∃ t, exec (.keyRx port g n ctr a) s = .next t ∧ (t.link port).nextRxGen = some (g % 256, n % 2 ^ 32) ∧
        (t.link port).kgenRx = (s.link port).kgenRx ∧ (t.link port).held = (s.link port).held ∧
        (∀ p, p ≠ port → t.link p = s.link p) ∧ t.mems = s.mems ∧ t.dep = s.dep)) ∧
    ((s.link port).keyed = true → a = false →
      (∀ c, ((∃ n, c = .jlkAckRx port n ctr a) ∨ (∃ n, c = .jlkNakRx port n ctr a) ∨ (∃ n, c = .creditRx port n ctr a) ∨
          (∃ g n, c = .keyRx port g n ctr a)) →
        ∃ t, exec c s = .next t ∧ t.link port = { s.link port with authFail := ((s.link port).authFail + 1) % 2 ^ 32 }))) ∧
  (∀ (s : State) (port ctr : Nat) (a : Bool), (s.link port).state ≠ .active →
    (∀ n, exec (.jlkAckRx port n ctr a) s = .next s ∧ exec (.jlkNakRx port n ctr a) s = .next s) ∧
    (∀ n, exec (.creditRx port n ctr a) s = .next s) ∧ ∀ g n, exec (.keyRx port g n ctr a) s = .next s) ∧
  (∀ (s : State) (rq : Requester) (port : Nat), s.boot.fatal = false → port < 12 → port < s.jlk.length →
    (rq.secure = true → rq.src < 4 → (s.link port).keyed = true →
      ∃ t, exec (.rekey rq port) s = .next t ∧ (t.link port).kgenTx = ((s.link port).kgenTx + 1) % 256 ∧
        (t.link port).ctl = (s.link port).ctl ++ [.key (((s.link port).kgenTx + 1) % 256) (s.link port).txSeq] ∧
        (t.link port).held = (s.link port).held ∧ (∀ p, p ≠ port → t.link p = s.link p) ∧ t.mems = s.mems) ∧
    (rq.secure = true → rq.src < 4 → (s.link port).keyed = false → exec (.rekey rq port) s = .next s) ∧
    (rq.secure = false → ∃ t, exec (.rekey rq port) s = .next t ∧ Logged s t (pgJlk port) 0x03)) ∧
  (∀ (s : State) (port : Nat), port < s.jlk.length → (s.link port).state = .active →
    (∀ h hs, (s.link port).held = h :: hs → (s.link port).replays < 15 →
      ∃ t, exec (.replayTimeout port) s = .next t ∧ (t.link port).state = .active ∧ (t.link port).replayFrom = some h.fseq ∧
        (t.link port).held = h :: hs ∧ t.time = (s.reach ((s.link port).advanceAt + 10000)).time ∧ t.mems = s.mems ∧ t.dep = s.dep) ∧
    ((s.link port).held ≠ [] → (s.link port).replays = 15 →
      ∃ t, exec (.replayTimeout port) s = .next t ∧ (t.link port).state = .recover ∧ (t.link port).held = (s.link port).held) ∧
    ((s.link port).held = [] → exec (.replayTimeout port) s = .next s) ∧
    (∀ x, (s.link port).ackAt = some x →
      ∃ t, exec (.ackTimer port) s = .next t ∧ (t.link port).ctl = (s.link port).ctl ++ [.ack (s.link port).rxNext] ∧
        (t.link port).ackAt = none ∧ t.time = (s.reach (x + 1000)).time ∧ t.mems = s.mems ∧ t.dep = s.dep) ∧
    ((s.link port).ackAt = none → exec (.ackTimer port) s = .next s) ∧
    (∃ t, exec (.creditTimer port) s = .next t ∧ (t.link port).ctl.contains .credit = true ∧
      t.time = (s.reach (creditDue (s.link port))).time ∧ (t.link port).rxNext = (s.link port).rxNext ∧ t.mems = s.mems ∧ t.dep = s.dep)) ∧
  (∀ (s : State) (port : Nat), (s.link port).state ≠ .active →
    exec (.replayTimeout port) s = .next s ∧ exec (.ackTimer port) s = .next s ∧ exec (.creditTimer port) s = .next s)

/-- MEM_CPL, MEM_RD_TIMEOUT and WR_ACK (after R275, R405 to R407; logs 6, 8, 68, 104). A part of an answer that is not the last joins its read, and its
bytes stand in host memory; the last part of a page's read makes the read complete. An answer with STATUS 1 or 2, one past JLK_CPL_TO, or none within
it, fails the read, and a ring fetch halts its ring. A WR_ACK acknowledges the write with its tag and every earlier one, and one that names no write
acknowledges none. An answer to no read changes no memory. An answer for a command's buffer gives the lines their bytes, or with STATUS 1 or 2 marks
the line as failed; without an ACTIVE host port nothing changes. -/
def Obligations.HostMemoryAnswers : Prop :=
  (∀ (s : State) (port tag : Nat) (r : MemRd), port < 4 → port < s.jlk.length → s.boot.fatal = false → (s.link port).reads = [r] →
    r.tag = tag →
    (∀ data, portActive s port = true → s.time ≤ readBound s port r → data.length + r.got.length < r.bytes →
      ∃ t, exec (.memCpl port (.read tag) r.got.length 0 data) s = .next t ∧ (t.link port).reads = [{ r with got := r.got ++ data }] ∧
        t.mems.host = mwrites s.mems.host (port * 2 ^ 64 + r.addr + r.got.length) data ∧ t.dep = s.dep) ∧
    (∀ cpn data, portActive s port = true → s.time ≤ readBound s port r → data.length + r.got.length = r.bytes → r.use = .movePage cpn →
      ∃ t, exec (.memCpl port (.read tag) r.got.length 0 data) s = .next t ∧ (t.link port).reads = [] ∧
        t.mems.host = mwrites s.mems.host (port * 2 ^ 64 + r.addr + r.got.length) data ∧ t.dep = s.dep ∧ t.blw = s.blw) ∧
    (∀ ring n st off data, portActive s port = true → r.use = .ringFetch ring → (s.subRing ring).fetch = some (tag, n) → (st = 1 ∨ st = 2 ∨ readBound s port r < s.time) →
      ∃ t, exec (.memCpl port (.read tag) off st data) s = .next t ∧ (t.link port).reads = [] ∧ (t.subRing ring).halted = true ∧
        t.mems.host = s.mems.host) ∧
    (∀ ring n, r.use = .ringFetch ring → (s.subRing ring).fetch = some (tag, n) →
      ∃ t, exec (.memRdTimeout port tag) s = .next t ∧ (t.link port).reads = [] ∧ (t.subRing ring).halted = true ∧
        t.time = (s.reach (r.at_ + bits (s.reg (pgJlk port) 0x230) 0 16 * 1000)).time)) ∧
  (∀ (s : State) (port tag : Nat), port < 4 → port < s.jlk.length → portActive s port = true → s.boot.fatal = false →
    (∀ r, r ∈ (s.link port).reads → r.tag ≠ tag) →
    (∀ off st data, ∃ t, exec (.memCpl port (.read tag) off st data) s = .next t ∧ (t.link port).reads = (s.link port).reads ∧ t.mems = s.mems ∧
      t.dep = s.dep) ∧
    exec (.memRdTimeout port tag) s = .next s) ∧
  (∀ (s : State) (port tag org : Nat) (ws rest : List (Nat × Nat)), port < 4 → port < s.jlk.length → portActive s port = true →
    (s.link port).unacked = ws ++ (tag, org) :: rest → (∀ w, w ∈ ws → w.1 ≠ tag) →
    ∃ t, exec (.wrAck port tag) s = .next t ∧ (t.link port).unacked = rest ∧ t.mems = s.mems ∧ t.dep = s.dep) ∧
  (∀ (s : State) (port tag : Nat), port < 4 → port < s.jlk.length → portActive s port = true →
    (∀ w, w ∈ (s.link port).unacked → w.1 ≠ tag) →
    ∃ t, exec (.wrAck port tag) s = .next t ∧ (t.link port).unacked = (s.link port).unacked ∧ t.mems = s.mems ∧ t.dep = s.dep) ∧
  (∀ (s : State) (port tag : Nat), portActive s port = false ∨ 4 ≤ port →
    (∀ ans off st data, exec (.memCpl port ans off st data) s = .next s) ∧ exec (.wrAck port tag) s = .next s) ∧
  (∀ (s : State) (port addr pt off : Nat) (data : List Byte), port < 4 → port < s.jlk.length → portActive s port = true →
    s.boot.fatal = false →
    (∀ st, st = 1 ∨ st = 2 →
      ∃ t, exec (.memCpl port (.buffer addr pt) off st data) s = .next t ∧
        t.mems.badHost.contains ((port * 2 ^ 64 + (addr + off)) / 64) = true ∧ t.mems.host = s.mems.host) ∧
    (∃ t, exec (.memCpl port (.buffer addr pt) off 0 data) s = .next t ∧
      t.mems.host = mwrites s.mems.host (port * 2 ^ 64 + (addr + off)) data ∧
      (∀ l, t.mems.badHost.contains l = (s.mems.badHost.contains l && !(hostLines port (addr + off) data.length).contains l)) ∧
      t.dep = s.dep))

/-! ### The traffic schedulers -/

/-- TX_FRAME_SELECT (after R393, R394, R396, R405, R406, R415, R420, R438, R491; logs 6, 66). On an ACTIVE port that no partition's scrub holds, a replay
in progress sends its next held frame as first sent; else the first control frame by type goes out under the control counter and takes no FSEQ; else,
with room in the replay buffer, the oldest management message goes out while its channel has credits; else, with none waiting, the head of the queue
chosen from the lowest band with an eligible queue goes out as the next FSEQ and is held, and the bytes of a host write stand in host memory from then
on; with no eligible queue, without room, and on a fabric port without keys nothing goes. A port that a scrub holds alone sends one ACK and one CREDIT
each microsecond. On a port that is not ACTIVE nothing changes. The decision is the model's own function `chooseQueue` of the queues as they stand at
that time. GATE_ENTRY_ADVANCE and GATE_TAKEOVER (after R430, R431; log 8). The running entry ends where its duration or the cycle ends, and no frame,
link or other port is touched; at its take-over time a pending list becomes the running one from its entry 0, with credits and buckets brought up to
that time. Without a list, or without a pending one, nothing changes. -/
def Obligations.FrameOrderAndGates : Prop :=
  (∀ (s : State) (port : Nat), s.boot.fatal = false → port < 12 → port < s.jlk.length → port < s.tsc.length → portActive s port = true →
    scrubHeld s port = false →
    (∀ h, nextReplay (s.link port) = some h →
      ∃ t, exec (.txFrameSelect port) s = .next t ∧ (t.sched port).sent.head? = some h.frame ∧ (t.link port).held = (s.link port).held ∧
        (t.link port).txSeq = (s.link port).txSeq ∧ (t.link port).txCtr = (s.link port).txCtr ∧ (∀ p, p ≠ port → t.link p = s.link p) ∧
        t.mems = s.mems ∧ t.dep = s.dep) ∧
    (nextReplay (s.link port) = none →
      (∀ c, minBy ctlRank (s.link port).ctl = some c →
        ∃ t, exec (.txFrameSelect port) s = .next t ∧ (t.sched port).sent.head?.map (·.body) = some (ctlBody (s.link port) c) ∧
          (t.link port).txCtr = (s.link port).txCtr + 1 ∧ (t.link port).txSeq = (s.link port).txSeq ∧
          (t.link port).ctl = (s.link port).ctl.erase c ∧ (t.link port).held = (s.link port).held ∧
          (∀ p, p ≠ port → t.link p = s.link p) ∧ t.mems = s.mems ∧ t.dep = s.dep) ∧
      (∀ m ms, (s.link port).ctl = [] → holdRoom (s.link port) = true → (s.link port).mgmt = m :: ms →
        frameCredits (dressed (s.link port) (mgmtFrame m)) ≤ creditsLeft (s.link port) 4 →
        ∃ t, exec (.txFrameSelect port) s = .next t ∧ (t.link port).mgmt = ms ∧
          (t.sched port).sent.head? = some { dressed (s.link port) (mgmtFrame m) with fseq := (s.link port).txSeq } ∧
          (t.link port).txSeq = ((s.link port).txSeq + 1) % 2 ^ 32 ∧
          (t.link port).held.map (·.fseq) = (s.link port).held.map (·.fseq) ++ [(s.link port).txSeq] ∧ t.mems = s.mems ∧ t.dep = s.dep) ∧
      ((s.link port).ctl = [] → (holdRoom (s.link port) = false ∨
          ((s.link port).mgmt = [] ∧ isHostPort port = false ∧ (s.link port).keyed = false)) →
        ∃ t, exec (.txFrameSelect port) s = .next t ∧ (t.sched port).sent = (s.sched port).sent ∧ t.jlk = s.jlk ∧ t.mems = s.mems ∧
          t.dep = s.dep) ∧
      ((s.link port).ctl = [] → (s.link port).mgmt = [] → holdRoom (s.link port) = true →
        (isHostPort port = true ∨ (s.link port).keyed = true) →
        (chooseQueue (decideAll (schedSync (s.sched port) s.time) (s.link port)) (s.link port) = none →
          ∃ t, exec (.txFrameSelect port) s = .next t ∧ (t.sched port).sent = (s.sched port).sent ∧ t.jlk = s.jlk ∧ t.mems = s.mems ∧
            t.dep = s.dep) ∧
        (∀ b q u f, chooseQueue (decideAll (schedSync (s.sched port) s.time) (s.link port)) (s.link port) = some (b, q, u) →
          (lget u.qs q {}).frames.head? = some f → replayDiscards s f.frame = false →
          (∀ q', q' < 64 → (lget (decideAll (schedSync (s.sched port) s.time) (s.link port)).qs q' {}).elig = true →
            (lget (decideAll (schedSync (s.sched port) s.time) (s.link port)).qs q' {}).eband < 4 →
            b ≤ (lget (decideAll (schedSync (s.sched port) s.time) (s.link port)).qs q' {}).eband) ∧
          ((∀ x, f.frame.body = .txn x → x.op ≠ .memWr) →
            ∃ t, exec (.txFrameSelect port) s = .next t ∧
              (t.sched port).sent.head? = some { dressed (s.link port) f.frame with fseq := (s.link port).txSeq } ∧
              (t.link port).txSeq = ((s.link port).txSeq + 1) % 2 ^ 32 ∧
              (t.link port).held.map (·.fseq) = (s.link port).held.map (·.fseq) ++ [(s.link port).txSeq] ∧ t.mems.host = s.mems.host ∧
              t.dep = s.dep) ∧
          (∀ x, f.frame.body = .txn x → x.op = .memWr →
            ∃ t, exec (.txFrameSelect port) s = .next t ∧ (t.link port).txSeq = ((s.link port).txSeq + 1) % 2 ^ 32 ∧
              (t.link port).unacked = (s.link port).unacked ++ [((s.link port).wrNum, f.origin)] ∧
              (t.link port).wrNum = ((s.link port).wrNum + 1) % 65536 ∧
              t.mems.host = mwrites s.mems.host (port * 2 ^ 64 + x.addr) x.data ∧ t.dep = s.dep))))) ∧
  (∀ (s : State) (port : Nat), s.boot.fatal = false → port < s.jlk.length → port < s.tsc.length → portActive s port = true →
    scrubHeld s port = true →
    ∃ t, exec (.txFrameSelect port) s = .next t ∧ (t.link port).held = (s.link port).held ∧ (t.link port).txSeq = (s.link port).txSeq ∧
      t.mems = s.mems ∧ t.dep = s.dep ∧
      ((s.link port).scrubAt.1 ≠ s.time / 1000 →
        (t.sched port).sent.head?.map (·.body) = some (.ack (s.link port).rxNext)) ∧
      ((s.link port).scrubAt.1 = s.time / 1000 → 2 ≤ (s.link port).scrubAt.2 → (t.sched port).sent = (s.sched port).sent)) ∧
  (∀ (s : State) (port : Nat), portActive s port = false → exec (.txFrameSelect port) s = .next s) ∧
  (∀ (s : State) (port : Nat), port < s.tsc.length →
     (∀ e, gateSegment (s.sched port).gates (s.sched port).gateStart s.time = some e → (s.sched port).pending = none →
       ∃ t, exec (.gateEntryAdvance port) s = .next t ∧ t.time = (s.reach e.2.2).time ∧ (t.sched port).gates = (s.sched port).gates ∧
         (t.sched port).gateStart = (s.sched port).gateStart ∧ (t.sched port).sent = (s.sched port).sent ∧ t.jlk = s.jlk ∧ t.mems = s.mems ∧
         (t.sched port).qs.map (·.frames) = (s.sched port).qs.map (·.frames) ∧ ∀ p, p ≠ port → t.sched p = s.sched p) ∧
     (gateSegment (s.sched port).gates (s.sched port).gateStart s.time = none → exec (.gateEntryAdvance port) s = .next s) ∧
     (∀ g take, (s.sched port).pending = some (g, take) →
       ∃ t, exec (.gateTakeover port) s = .next t ∧ t.time = (s.reach take).time ∧ (t.sched port).gates = g ∧
         (t.sched port).gateStart = take ∧ (t.sched port).pending = none ∧ (t.sched port).sent = (s.sched port).sent ∧ t.jlk = s.jlk ∧
         t.mems = s.mems ∧ (t.sched port).qs.map (·.frames) = (s.sched port).qs.map (·.frames) ∧ ∀ p, p ≠ port → t.sched p = s.sched p) ∧
     ((s.sched port).pending = none → exec (.gateTakeover port) s = .next s))

/-! ### The management channel -/

/-- STATUS_RD and the SPDM requests (after R409 to R411, R488, R489; logs 26, 69). On an ACTIVE port each is answered on the same port, and no other port,
memory or register changes. STATUS_RD gives the selected register's 4 bytes and 0, or 1 for an unknown selector, whatever the boot stage; an SPDM
request before attestation is available gets Busy, one out of its place in the exchange, or on a port where the device is the requester,
UnexpectedRequest, and any other request UnsupportedRequest; in its place it is answered with its response code and moves the exchange on; a slot
other than 0, an offset past the chain and an index that is not measured get InvalidRequest, a second session SessionLimitExceeded. On a port that is
not ACTIVE nothing changes. The codes of DSP0274, the order of the exchange and the session limit are PRESUMED (log 26). -/
def Obligations.SpdmResponder : Prop :=
  (∀ (s : State) (port : Nat), port < s.jlk.length → portActive s port = true →
    (∀ sel data, (sel, data) ∈ [(0, toLe 4 romVer ++ [0]), (1, toLe 4 (devIdReg s) ++ [0]), (2, toLe 4 (bootStat s) ++ [0])] ∨
        (2 < sel ∧ data = zeros 4 ++ [1]) →
      ∃ t, exec (.statusRd port sel) s = .next t ∧ t.mems = s.mems ∧ t.regs = s.regs ∧ (∀ p, p ≠ port → t.link p = s.link p) ∧
        (t.link port).mgmt = (s.link port).mgmt ++ [{ mtype := 3, data := data }]) ∧
    (∀ code, ∃ t, exec (.spdmUnsupported port code) s = .next t ∧
      (t.link port).mgmt = (s.link port).mgmt ++ [{ mtype := spdmType s port, data :=
        (if s.boot.attReady = true then [0x12, 0x7F, 7] ++ toLe 1 (code % 256) else [0x12, 0x7F, 3, 0]) }] ∧
      (t.link port).spdm = (s.link port).spdm ∧ t.mems = s.mems ∧ ∀ p, p ≠ port → t.link p = s.link p) ∧
    (∀ c inPlace nonce pub slot off len index sign v, (c, inPlace) ∈ ([(.getVersion port, !(s.link port).session),
        (.getCapabilities port, (s.link port).spdm == .versioned), (.negotiateAlgorithms port, (s.link port).spdm == .capable),
        (.getDigests port, negotiated (s.link port)), (.getCertificate port slot off len, negotiated (s.link port)),
        (.challenge port nonce, negotiated (s.link port)), (.getMeasurements port index sign, negotiated (s.link port)),
        (.keyExchange port pub, negotiated (s.link port)), (.finish port v, (s.link port).spdm == .handshake),
        (.heartbeat port, (s.link port).session), (.keyUpdate port, (s.link port).session),
        (.endSession port, (s.link port).session)] : List (Instr × Bool)) →
      (s.boot.attReady = false → ∃ t, exec c s = .next t ∧ (t.link port).spdm = (s.link port).spdm ∧ t.mems = s.mems ∧ t.regs = s.regs ∧
        (∀ p, p ≠ port → t.link p = s.link p) ∧ (t.link port).mgmt = (s.link port).mgmt ++ [{ mtype := spdmType s port, data := [0x12, 0x7F, 3, 0] }]) ∧
      (s.boot.attReady = true → (responds s port = false ∨ inPlace = false) →
        ∃ t, exec c s = .next t ∧ (t.link port).spdm = (s.link port).spdm ∧ (t.link port).session = (s.link port).session ∧
          (t.link port).keyed = (s.link port).keyed ∧ t.mems = s.mems ∧ (∀ p, p ≠ port → t.link p = s.link p) ∧
          (t.link port).mgmt = (s.link port).mgmt ++ [{ mtype := spdmType s port, data := [0x12, 0x7F, 4, 0] }])) ∧
    (s.boot.attReady = true → responds s port = true →
      ((s.link port).session = false → ∃ t, exec (.getVersion port) s = .next t ∧ (t.link port).spdm = .versioned ∧
        (t.link port).mgmt = (s.link port).mgmt ++ [{ mtype := 1, data := [0x10, 0x04, 0, 0, 0, 1, 0, 0x12] }] ∧ t.mems = s.mems ∧
        ∀ p, p ≠ port → t.link p = s.link p) ∧
      ((s.link port).spdm = .versioned → ∃ t m, exec (.getCapabilities port) s = .next t ∧ (t.link port).spdm = .capable ∧
        (t.link port).mgmt = (s.link port).mgmt ++ [m] ∧ m.data.take 2 = [0x12, 0x61] ∧ t.mems = s.mems ∧
        ∀ p, p ≠ port → t.link p = s.link p) ∧
      ((s.link port).spdm = .capable → ∃ t m, exec (.negotiateAlgorithms port) s = .next t ∧ (t.link port).spdm = .negotiated ∧
        (t.link port).mgmt = (s.link port).mgmt ++ [m] ∧ m.data.take 2 = [0x12, 0x63] ∧ t.mems = s.mems ∧
        ∀ p, p ≠ port → t.link p = s.link p) ∧
      (negotiated (s.link port) = true →
        (∀ c code nonce slot off len, (c, code) ∈ ([(.getDigests port, 0x01), (.getCertificate port slot off len, 0x02), (.challenge port nonce, 0x03)] :
            List (Instr × Byte)) → (slot = 0 ∧ off ≤ (certChain s).length) →
          ∃ t m, exec c s = .next t ∧ (t.link port).mgmt = (s.link port).mgmt ++ [m] ∧ m.data.take 2 = [0x12, code] ∧
            (t.link port).spdm = (s.link port).spdm ∧ t.mems = s.mems ∧ t.regs = s.regs ∧ ∀ p, p ≠ port → t.link p = s.link p) ∧
        (∀ slot off len, slot ≠ 0 → ∃ t, exec (.getCertificate port slot off len) s = .next t ∧
          (t.link port).mgmt = (s.link port).mgmt ++ [{ mtype := spdmType s port, data := [0x12, 0x7F, 1, 0] }] ∧ t.mems = s.mems ∧
          (t.link port).spdm = (s.link port).spdm) ∧
        (∀ index sign bs, measureBlocks s index = some bs →
          ∃ t m, exec (.getMeasurements port index sign) s = .next t ∧ (t.link port).mgmt = (s.link port).mgmt ++ [m] ∧
            m.data.take 2 = [0x12, 0x60] ∧ ((m.data.drop 8).take bs.flatten.length = bs.flatten.take 4088) ∧
            (t.link port).spdm = (s.link port).spdm ∧ t.mems = s.mems ∧ t.regs = s.regs) ∧
        (∀ index sign, measureBlocks s index = none → ∃ t, exec (.getMeasurements port index sign) s = .next t ∧
          (t.link port).mgmt = (s.link port).mgmt ++ [{ mtype := spdmType s port, data := [0x12, 0x7F, 1, 0] }] ∧ t.mems = s.mems ∧
          (t.link port).spdm = (s.link port).spdm) ∧
        ((s.link port).session = false → ∀ pub, ∃ t m, exec (.keyExchange port pub) s = .next t ∧ (t.link port).spdm = .handshake ∧
          (t.link port).mgmt = (s.link port).mgmt ++ [m] ∧ m.data.take 2 = [0x12, 0x64] ∧ (t.link port).keyed = (s.link port).keyed ∧
          t.mems = s.mems ∧ ∀ p, p ≠ port → t.link p = s.link p) ∧
        ((s.link port).session = true → ∀ pub, ∃ t, exec (.keyExchange port pub) s = .next t ∧ (t.link port).spdm = (s.link port).spdm ∧
          (t.link port).mgmt = (s.link port).mgmt ++ [{ mtype := 4, data := [0x12, 0x7F, 0x0A, 0] }])))) ∧
  (∀ (s : State) (port : Nat), portActive s port = false →
    ∀ c sel code nonce pub slot off len index sign v, c ∈ ([.statusRd port sel, .spdmUnsupported port code, .getVersion port, .getCapabilities port,
      .negotiateAlgorithms port, .getDigests port, .getCertificate port slot off len, .challenge port nonce, .getMeasurements port index sign,
      .keyExchange port pub, .finish port v, .heartbeat port, .keyUpdate port, .endSession port, .sessionTimeout port,
      .spdmResponseRx port code v, .heartbeatSend port, .provision port nonce] : List Instr) → exec c s = .next s)

/-- FINISH, HEARTBEAT, KEY_UPDATE, END_SESSION, SESSION_TIMEOUT, SPDM_RESPONSE_RX and HEARTBEAT_SEND (after R398, R400, R410 to R412; logs 8, 26, 69,
104). A FINISH that verifies keys the port with generation 0 and its session stands, one that does not leaves it without; HEARTBEAT within its period
keeps it, KEY_UPDATE changes the key generation, and END_SESSION or a missed heartbeat period takes the port DOWN with CAUSE 7, its session and keys
gone. On a fabric port the MASTER end runs the exchange: each verified response of the far end takes it one request further, until the port is keyed;
an ERROR has the request sent again, a response that does not verify ends the exchange, and another code does nothing. Without a session no timeout
comes, and another port takes no response. The heartbeat period is a value of the configuration (log 26). PROVISION (after R474, R487; log 69). Inside
a session on a host port, a 48-byte message for a KEYING partition that holds the port gives it PEPOCH and TS with the derived key, seed and salt in
place of the loaded ones, and makes it ACTIVE with RESULT 0; RESULT 1 where the partition is not KEYING, 2 where it lacks the port, 3 for any other
data, and then no partition changes. On a fabric port and outside a session nothing changes. -/
def Obligations.SessionsAndProvisioning : Prop :=
  (∀ (s : State) (port : Nat), port < s.jlk.length → portActive s port = true → (s.link port).reads = [] →
     (s.boot.attReady = true → responds s port = true →
       ((s.link port).spdm = .handshake →
         (∃ t m, exec (.finish port true) s = .next t ∧ (t.link port).spdm = .established ∧ (t.link port).session = true ∧ (t.link port).keyed = true ∧
           (t.link port).kgenTx = 0 ∧ (t.link port).kgenRx = 0 ∧ (t.link port).mgmt = (s.link port).mgmt ++ [m] ∧ m.data.take 2 = [0x12, 0x65] ∧
           (t.link port).heartbeatAt = s.time ∧ t.mems = s.mems ∧ ∀ p, p ≠ port → t.link p = s.link p) ∧
         (∃ t, exec (.finish port false) s = .next t ∧ (t.link port).spdm = .negotiated ∧ (t.link port).session = (s.link port).session ∧
           (t.link port).keyed = (s.link port).keyed ∧
           (t.link port).mgmt = (s.link port).mgmt ++ [{ mtype := spdmType s port, data := [0x12, 0x7F, 6, 0] }] ∧ t.mems = s.mems)) ∧
       ((s.link port).session = true →
         (heartLate s port = true → ∃ t, exec (.heartbeat port) s = .next t ∧ (t.link port).state = .down ∧ (t.link port).cause = 7 ∧
           (t.link port).session = false ∧ (t.link port).keyed = false) ∧
         (heartLate s port = false → ∃ t, exec (.heartbeat port) s = .next t ∧ (t.link port).heartbeatAt = s.time ∧ (t.link port).session = true ∧
           (t.link port).mgmt = (s.link port).mgmt ++ [{ mtype := 4, data := [0x12, 0x68, 0, 0] }] ∧ t.mems = s.mems) ∧
         ((s.link port).keyed = true → ∃ t, exec (.keyUpdate port) s = .next t ∧ (t.link port).kgenTx = ((s.link port).kgenTx + 1) % 256 ∧
           (t.link port).kgenRx = (s.link port).kgenRx ∧
           (t.link port).mgmt = (s.link port).mgmt ++ [{ mtype := 4, data := [0x12, 0x69, 1, 0] }] ∧ t.mems = s.mems) ∧
         (∃ t, exec (.endSession port) s = .next t ∧ (t.link port).state = .down ∧ (t.link port).cause = 7 ∧ (t.link port).session = false ∧
           (t.link port).keyed = false))) ∧
     ((s.link port).session = true → ∃ t, exec (.sessionTimeout port) s = .next t ∧ (t.link port).state = .down ∧ (t.link port).cause = 7 ∧
       (t.link port).session = false ∧ (t.link port).keyed = false ∧ t.time = (s.reach ((s.link port).heartbeatAt + Config.heartbeatNs)).time) ∧
     ((s.link port).session = false → exec (.sessionTimeout port) s = .next s ∧ exec (.heartbeatSend port) s = .next s) ∧
     (isHostPort port = true ∨ (s.link port).master = false →
       (∀ code v, exec (.spdmResponseRx port code v) s = .next s) ∧ exec (.heartbeatSend port) s = .next s) ∧
     (isHostPort port = false → (s.link port).master = true →
       (∀ st code nxt req, (st, code, nxt, req) ∈ ([(.none, 0x04, .versioned, 0xE1), (.versioned, 0x61, .capable, 0xE3),
           (.capable, 0x63, .negotiated, 0x82), (.negotiated, 0x02, .negotiated, 0xE4), (.negotiated, 0x64, .handshake, 0xE5)] :
           List (SpdmState × Nat × SpdmState × Byte)) → (s.link port).spdm = st →
         ∃ t m, exec (.spdmResponseRx port code true) s = .next t ∧ (t.link port).spdm = nxt ∧
           (t.link port).mgmt = (s.link port).mgmt ++ [m] ∧ m.data.take 2 = [0x12, req] ∧ (t.link port).keyed = (s.link port).keyed ∧
           t.mems = s.mems) ∧
       ((s.link port).spdm = .handshake → ∃ t, exec (.spdmResponseRx port 0x65 true) s = .next t ∧ (t.link port).spdm = .established ∧
         (t.link port).session = true ∧ (t.link port).keyed = true ∧ (t.link port).kgenTx = 0 ∧ t.mems = s.mems) ∧
       ((s.link port).spdm = .established → heartLate s port = true → ∃ t, exec (.spdmResponseRx port 0x68 true) s = .next t ∧
         (t.link port).state = .down ∧ (t.link port).cause = 7 ∧ (t.link port).keyed = false) ∧
       ((s.link port).spdm = .established → heartLate s port = false → ∃ t, exec (.spdmResponseRx port 0x68 true) s = .next t ∧ (t.link port).heartbeatAt = s.time ∧
         (t.link port).spdm = .established ∧ (t.link port).mgmt = (s.link port).mgmt) ∧
       (∀ st req v, (st, req) ∈ ([(.none, [0x10, 0x84]), (.versioned, [0x12, 0xE1]), (.capable, [0x12, 0xE3]), (.negotiated, [0x12, 0x82]),
           (.handshake, [0x12, 0xE5])] : List (SpdmState × List Byte)) → (s.link port).spdm = st →
         ∃ t m, exec (.spdmResponseRx port 0x7F v) s = .next t ∧ (t.link port).spdm = st ∧ (t.link port).mgmt = (s.link port).mgmt ++ [m] ∧
           m.data.take 2 = req ∧ t.mems = s.mems) ∧
       (∀ code, code ≠ 0x7F → ∃ t, exec (.spdmResponseRx port code false) s = .next t ∧ (t.link port).spdm = .none ∧
         (t.link port).keyed = (s.link port).keyed ∧ (t.link port).mgmt = (s.link port).mgmt ∧ t.mems = s.mems) ∧
       (∀ code, code ∉ [0x7F, 0x04, 0x61, 0x63, 0x02, 0x64, 0x65, 0x68] → ∃ t, exec (.spdmResponseRx port code true) s = .next t ∧
         (t.link port).spdm = (s.link port).spdm ∧ (t.link port).mgmt = (s.link port).mgmt ∧ (t.link port).keyed = (s.link port).keyed) ∧
       ((s.link port).session = true → ∃ t, exec (.heartbeatSend port) s = .next t ∧
         (t.link port).mgmt = (s.link port).mgmt ++ [{ mtype := 4, data := [0x12, 0xE8, 0, 0] }] ∧ t.mems = s.mems))) ∧
  (∀ (s : State) (port pt : Nat) (m : List Byte), port < 4 → port < s.jlk.length → portActive s port = true → (s.link port).session = true →
    s.sec.pts.length = 8 → s.chn.salt.length = 8 →
    ((m.length ≠ 48 ∨ field m 0 1 ≠ 1 ∨ 8 ≤ field m 1 1 ∨ allZero m 2 6 = false) →
      ∃ t, exec (.provision port m) s = .next t ∧ t.sec = s.sec ∧ t.chn = s.chn ∧ t.mems = s.mems ∧
      ((t.link port).mgmt.getLast?.map (fun r => r.data.getD 2 0)) = some 3) ∧
    (m.length = 48 → field m 0 1 = 1 → field m 1 1 = pt → pt < 8 → allZero m 2 6 = true →
      ((s.part pt).state ≠ .keying → ∃ t, exec (.provision port m) s = .next t ∧ t.sec = s.sec ∧ t.chn = s.chn ∧ t.mems = s.mems ∧
        (t.link port).mgmt = (s.link port).mgmt ++ [{ mtype := 4, data := [0x81] ++ toLe 1 pt ++ [1] ++ zeros 5 }]) ∧
      ((s.part pt).state = .keying → bit (s.mapOf pt).hp port = false → ∃ t, exec (.provision port m) s = .next t ∧ t.sec = s.sec ∧ t.chn = s.chn ∧
        t.mems = s.mems ∧ (t.link port).mgmt = (s.link port).mgmt ++ [{ mtype := 4, data := [0x81] ++ toLe 1 pt ++ [2] ++ zeros 5 }]) ∧
      ((s.part pt).state = .keying → bit (s.mapOf pt).hp port = true → ∃ t, exec (.provision port m) s = .next t ∧
        (t.link port).mgmt = (s.link port).mgmt ++ [{ mtype := 4, data := [0x81] ++ toLe 1 pt ++ [0] ++ zeros 5 }] ∧
        (t.part pt).state = .active ∧ (t.part pt).provEpoch = some (field m 8 8) ∧ (t.part pt).ts = some (m.drop 16) ∧
        (t.part pt).prk = derivePrk pt (field m 8 8) (some (m.drop 16)) ∧
        (t.part pt).seed = leNat (kdf (m.drop 16) (ascii "QK SR SEED") [] 64) ∧
        lget t.chn.salt pt [] = kdf (m.drop 16) (ascii "QK SALT") [] 256 ∧ ∀ p, p ≠ pt → t.part p = s.part p))) ∧
  (∀ (s : State) (port : Nat) (m : List Byte), (isHostPort port = false ∨ (s.link port).session = false) →
    exec (.provision port m) s = .next s)

/-! ### Remote access -/

/-- QP_CONNECT and QP_RESET (after R44, R342, R450, R451, R469). CONNECT takes a RESET pair whose domain is valid and of the pair's partition to READY
with PSNs and ANS_LOG 0, and is refused with code 0x06 for another domain and for a pair in no range; RESET takes an idle READY pair or one in ERROR
to RESET, and is refused with code 0x06 while requests or receives are outstanding. No other pair and no memory changes. On a pair in another state,
and for a requester that may not select the pair, nothing changes; one that may not reach the page is refused with code 0x03. PUT_PAGE, GET_PAGE, SEND
and POST_RECV at the initiator (after R114, R257, R260, R449 to R453, R456, R459 to R461, R463; logs 12, 24, 36, 41, 71). One that fails a check that
its unit repeats ends with that check's outcome, on a pair that is not READY each ends with INVALID and DETAIL1 = 20, and without the pair's context
at hand a fetch of it begins or goes on. On a READY pair at hand, a PUT_PAGE that passes its checks with its page in T0 or T1, a GET_PAGE into a
window that takes it and for which a frame is free, and a SEND whose buffer is readable, are sent when their turn comes and count their packets. A
PUT_PAGE of a page below T1 has it moved up first, and poison in the page ends it with POISONED; a GET_PAGE outside the windows ends with INVALID and
DETAIL1 = 24, and one without a frame waits; a SEND whose buffer cannot be read ends with that outcome. One whose turn has not come, or that was sent,
changes nothing. A POST_RECV in its domain's window joins the tail of the pair's FIFO once, outside it completes with PERM and DETAIL1 = 32, and with
64 posted with NOSPACE. FAB_ACK_RX and QP_RETX_TIMEOUT (after R452, R455, R462, R466; logs 8, 71, 72). The ACK of a request that was sent ends it with
the status and details of R466's table, a SEQ answer leaves it, and BUSY gives its PSN back and renumbers the later requests from it; OK of a GET
waits for the page to land. An ACK of no outstanding request ends nothing, and one for another device, or after a device-fatal error, changes nothing.
A lapse of QP_TO_US sends every outstanding request again and counts, and after RETRY_MAX of them the pair is in ERROR and its commands end with
TIMEOUT; on a pair that is not READY, or has nothing sent, it changes nothing. -/
def Obligations.QueuePairsSendAndEnd : Prop :=
  (∀ (s : State) (rq : Requester), s.boot.fatal = false → mayReach s rq pgFab = true →
    (maySelectQp s rq = true →
      (∀ p, qpnOwner s (qpSel s) = some p → (s.qp (qpSel s)).state = .reset → pdPt s (s.qp (qpSel s)).pd = some p →
        ∃ t, exec (.qpConnect rq) s = .next t ∧ (t.qp (qpSel s)).state = .ready ∧ (t.qp (qpSel s)).pt = p ∧ (t.qp (qpSel s)).sndPsn = 0 ∧
          (t.qp (qpSel s)).expPsn = 0 ∧ (t.qp (qpSel s)).ansLog = [] ∧ (t.qp (qpSel s)).reqs = [] ∧ t.mems = s.mems ∧ t.dep = s.dep ∧
          ∀ q, q ≠ qpSel s → t.qp q = s.qp q) ∧
      (∀ p, qpnOwner s (qpSel s) = some p → (s.qp (qpSel s)).state = .reset → pdPt s (s.qp (qpSel s)).pd ≠ some p →
        ∃ t, exec (.qpConnect rq) s = .next t ∧ Logged s t pgFab 0x06) ∧
      (qpnOwner s (qpSel s) = none → ∃ t, exec (.qpConnect rq) s = .next t ∧ Logged s t pgFab 0x06) ∧
      (∀ p, qpnOwner s (qpSel s) = some p → (s.qp (qpSel s)).state ≠ .reset → exec (.qpConnect rq) s = .next s) ∧
      ((s.qp (qpSel s)).state = .ready → ((s.qp (qpSel s)).reqs ≠ [] ∨ (s.qp (qpSel s)).rq ≠ []) →
        ∃ t, exec (.qpReset rq) s = .next t ∧ Logged s t pgFab 0x06) ∧
      (((s.qp (qpSel s)).state = .error ∨ ((s.qp (qpSel s)).state = .ready ∧ (s.qp (qpSel s)).reqs = [] ∧ (s.qp (qpSel s)).rq = [])) →
        ∃ t, exec (.qpReset rq) s = .next t ∧ (t.qp (qpSel s)).state = .reset ∧ t.mems = s.mems ∧ t.dep = s.dep ∧
          ∀ q, q ≠ qpSel s → t.qp q = s.qp q) ∧
      ((s.qp (qpSel s)).state = .reset → exec (.qpReset rq) s = .next s)) ∧
    (maySelectQp s rq = false → exec (.qpConnect rq) s = .next s ∧ exec (.qpReset rq) s = .next s)) ∧
  (∀ (s : State) (rq : Requester) (x : Instr), s.boot.fatal = false → mayReach s rq pgFab = false → (x = .qpConnect rq ∨ x = .qpReset rq) →
    ∃ t, exec x s = .next t ∧ Logged s t pgFab 0x03) ∧
  (∀ (s : State) (acc q : Nat) (n : Node), liveNode s acc = some n → n.acc = acc →
     (∀ c x l r, (c, n.cmd) ∈ ([(.putPage acc, .putPage x), (.getPage acc, .getPage x), (.send acc, .send q l r), (.postRecv acc, .postRecv q l r)] :
         List (Instr × Cmd)) → x.qpn = q →
       (∀ k, beginCheck s n = some k → ∃ t, exec c s = .next t ∧ Ended t acc k ∧ t.mems = s.mems ∧ t.seq.rows = s.seq.rows) ∧
       (beginCheck s n = none → (s.qp q).state ≠ .ready → ∃ t, exec c s = .next t ∧ Ended t acc (invalidAt 20) ∧ t.mems = s.mems) ∧
       (beginCheck s n = none → (s.qp q).state = .ready → s.fab.cached.contains q = false →
         ∃ t, exec c s = .next t ∧ t.fab.fetching.contains q = true ∧ t.fab.qps = s.fab.qps ∧ t.dep = s.dep ∧ t.mems = s.mems)) ∧
     (beginCheck s n = none → (s.qp q).state = .ready → s.fab.cached.contains q = true →
       (∀ c x l b, (c, n.cmd) ∈ ([(.putPage acc, .putPage x), (.getPage acc, .getPage x), (.send acc, .send q l b)] : List (Instr × Cmd)) →
         x.qpn = q → (qpReqOf s q acc = none ∨ qpTurn s q acc = false ∨ (qpReqOf s q acc).any (·.sent) = true) → exec c s = .next s) ∧
       (∀ r, qpReqOf s q acc = some r → r.sent = false → qpTurn s q acc = true →
         (∀ x, n.cmd = .putPage x → x.qpn = q →
           (∀ c, putRefused s (ringPt n.ring) x.localCpn = some c →
             ∃ t, exec (.putPage acc) s = .next t ∧ Ended t acc c ∧ t.mems = s.mems ∧ (t.qp q).reqs.any (fun y => y.acc == acc) = false) ∧
           (putRefused s (ringPt n.ring) x.localCpn = none → upper (s.loc x.localCpn) = true →
             storeBad s (pageStore s x.localCpn) 0 frameBytes = false → (s.loc x.localCpn).compressed = false →
             ∃ t, exec (.putPage acc) s = .next t ∧ t.dep.nodes = s.dep.nodes ∧ (t.qp q).pktsTx = ((s.qp q).pktsTx + 16) % 2 ^ 64 ∧
               (t.qp q).reqs.map (fun y => (y.acc, y.psn)) = (s.qp q).reqs.map (fun y => (y.acc, y.psn)) ∧
               (∀ y, y ∈ (t.qp q).reqs → y.acc = acc → y.sent = true) ∧ t.mems = s.mems ∧ t.seq = s.seq) ∧
           (putRefused s (ringPt n.ring) x.localCpn = none → upper (s.loc x.localCpn) = true →
             storeBad s (pageStore s x.localCpn) 0 frameBytes = true →
             ∃ t, exec (.putPage acc) s = .next t ∧ Ended t acc (failWith .poisoned) ∧
               (t.qp q).reqs.any (fun y => y.acc == acc) = false) ∧
           (putRefused s (ringPt n.ring) x.localCpn = none → upper (s.loc x.localCpn) = false → rising s x.localCpn = true →
             exec (.putPage acc) s = .next s) ∧
           (putRefused s (ringPt n.ring) x.localCpn = none → upper (s.loc x.localCpn) = false → rising s x.localCpn = false →
             s.blw.queue = [] →
             ∃ t m, exec (.putPage acc) s = .next t ∧ t.blw.queue = [m] ∧ m.cpn = x.localCpn ∧ m.kind = .page .t1 ∧ m.cls = 3 ∧ m.seq = acc ∧
               t.fab = s.fab ∧ t.dep = s.dep ∧ t.mems = s.mems)) ∧
         (∀ x, n.cmd = .getPage x → x.qpn = q →
           ((windowKey s x.localCpn = none ∨ ∃ i k, windowKey s x.localCpn = some (i, k) ∧ (k.state ≠ .valid ∨ k.owner ≠ ringPt n.ring ∨
               k.landed.contains x.localCpn = true)) →
             ∃ t, exec (.getPage acc) s = .next t ∧ Ended t acc (invalidAt 24) ∧ t.mems = s.mems ∧
               (t.qp q).reqs.any (fun y => y.acc == acc) = false) ∧
           (∀ i k, windowKey s x.localCpn = some (i, k) → k.state = .valid → k.owner = ringPt n.ring → k.landed.contains x.localCpn = false →
             (∀ a u, t1Alloc s (ringPt n.ring) (landField s k) (.reserved acc) = some (a, u) →
               ∃ t, exec (.getPage acc) s = .next t ∧ t.dep.nodes = s.dep.nodes ∧ tget t.blw.t1 a = some (.reserved acc) ∧
                 (t.qp q).pktsTx = ((s.qp q).pktsTx + 1) % 2 ^ 64 ∧ (∀ y, y ∈ (t.qp q).reqs → y.acc = acc → y.sent = true) ∧
                 t.mems = s.mems) ∧
             (t1Alloc s (ringPt n.ring) (landField s k) (.reserved acc) = none →
               ∃ t, exec (.getPage acc) s = .next t ∧ allocWaiting t acc = true ∧ t.dep = s.dep ∧ t.fab = s.fab ∧ t.mems = s.mems))) ∧
         (∀ l b, n.cmd = .send q l b →
           (∀ bs, readRef s n b l = .ok bs →
             ∃ t, exec (.send acc) s = .next t ∧ t.dep.nodes = s.dep.nodes ∧
               (t.qp q).pktsTx = ((s.qp q).pktsTx + (chunks 4096 (bs.length / 4096 + 1) bs).length) % 2 ^ 64 ∧
               (∀ y, y ∈ (t.qp q).reqs → y.acc = acc → y.sent = true) ∧ t.mems = s.mems) ∧
           (∀ u k, readRef s n b l = .error (u, k) →
             ∃ t, exec (.send acc) s = .next t ∧ Ended t acc k ∧ (t.qp q).reqs.any (fun y => y.acc == acc) = false))) ∧
       (∀ l b, n.cmd = .postRecv q l b →
         ((s.qp q).rq.any (fun x => x.acc == acc) = true → exec (.postRecv acc) s = .next s) ∧
         ((s.qp q).rq.any (fun x => x.acc == acc) = false →
           (inPdWindow s (s.qp q).pd b l = true → (s.qp q).rq.length < 64 →
             ∃ t, exec (.postRecv acc) s = .next t ∧ (t.qp q).rq = (s.qp q).rq ++ [{ acc := acc, bufRef := b, len := l }] ∧
               t.dep.nodes = s.dep.nodes ∧ t.mems = s.mems ∧ ∀ q', q' ≠ q → t.qp q' = s.qp q') ∧
           (inPdWindow s (s.qp q).pd b l = false → ∃ t, exec (.postRecv acc) s = .next t ∧ Ended t acc (failWith .perm 32) ∧ t.fab = s.fab ∧
             t.mems = s.mems) ∧
           (inPdWindow s (s.qp q).pd b l = true → 64 ≤ (s.qp q).rq.length →
             ∃ t, exec (.postRecv acc) s = .next t ∧ Ended t acc (failWith .nospace) ∧ t.fab = s.fab ∧ t.mems = s.mems))))) ∧
  (∀ (s : State) (port : Nat) (p : Packet), mine s p = true → p.ptype = .ack →
    (∀ r n, s.node r.acc = some n → n.outcome = none → (s.qp p.dstQpn).reqs.find? (fun y => y.psn == p.psn && y.sent) = some r →
      (∀ a, p.answer = a → 2 < a → ∃ t, exec (.fabAckRx port p) s = .next t ∧ Ended t r.acc (ansComp a p.arg) ∧
        (t.qp p.dstQpn).reqs.any (fun y => y.acc == r.acc) = false ∧ getOf t r.acc = none ∧ t.mems.host = s.mems.host) ∧
      (p.answer = 0 → getOf s r.acc = none → ∃ t, exec (.fabAckRx port p) s = .next t ∧ Ended t r.acc { result := xferResult s r.acc } ∧
        (t.qp p.dstQpn).reqs.any (fun y => y.acc == r.acc) = false ∧ t.mems = s.mems) ∧
      (∀ g, p.answer = 0 → getOf s r.acc = some g → g.landed = false →
        ∃ t, exec (.fabAckRx port p) s = .next t ∧ (getOf t r.acc).map (·.acked) = some true ∧ t.dep = s.dep ∧ t.mems = s.mems) ∧
      (∀ g, p.answer = 0 → getOf s r.acc = some g → g.landed = true → g.qpn = p.dstQpn →
        ∃ t, exec (.fabAckRx port p) s = .next t ∧ Ended t r.acc { result := xferResult s r.acc } ∧ getOf t r.acc = none ∧
          (t.qp p.dstQpn).reqs.any (fun y => y.acc == r.acc) = false ∧ t.mems = s.mems) ∧
      (p.answer = 2 → ∃ t, exec (.fabAckRx port p) s = .next t ∧ (t.qp p.dstQpn).reqs = (s.qp p.dstQpn).reqs ∧ t.dep = s.dep ∧
        t.mems = s.mems) ∧
      (p.answer = 1 → getOf s r.acc = none → ∃ t, exec (.fabAckRx port p) s = .next t ∧ Ended t r.acc { status := .busy, detail0 := 1 } ∧
        (t.qp p.dstQpn).busyRx = ((s.qp p.dstQpn).busyRx + 1) % 2 ^ 32 ∧
        (t.qp p.dstQpn).sndPsn = (r.psn + (laterReqs s p.dstQpn r.acc).length) % 2 ^ 24)) ∧
    ((s.qp p.dstQpn).reqs.find? (fun y => y.psn == p.psn && y.sent) = none →
      ∃ t, exec (.fabAckRx port p) s = .next t ∧ (t.qp p.dstQpn).reqs = (s.qp p.dstQpn).reqs ∧ t.dep = s.dep ∧ t.mems = s.mems)) ∧
  (∀ (s : State) (port : Nat) (p : Packet), mine s p = false ∨ p.ptype ≠ .ack → exec (.fabAckRx port p) s = .next s) ∧
  (∀ (s : State) (q : Nat), s.boot.fatal = false → (s.qp q).state = .ready → (s.qp q).reqs.any (·.sent) = true →
    ((s.qp q).retries < retryMax s (s.qp q).pt →
      ∃ t, exec (.qpRetxTimeout q) s = .next t ∧ (t.qp q).state = .ready ∧ (t.qp q).retries = (s.qp q).retries + 1 ∧
        t.time = (s.reach ((s.qp q).unaAt + qpTimeout s (s.qp q).pt)).time ∧ (t.qp q).reqs.map (·.psn) = (s.qp q).reqs.map (·.psn) ∧
        t.dep.nodes = s.dep.nodes ∧ t.mems = s.mems) ∧
    (retryMax s (s.qp q).pt ≤ (s.qp q).retries →
      ∃ t, exec (.qpRetxTimeout q) s = .next t ∧ (t.qp q).state = .error ∧ (t.qp q).rq = [] ∧
        ∀ r n, (r ∈ (s.qp q).reqs ∨ ∃ x ∈ (s.qp q).rq, x.acc = r.acc) → s.node r.acc = some n → n.outcome = none →
          Ended t r.acc (failWith .timeout))) ∧
  (∀ (s : State) (q : Nat), s.boot.fatal = true ∨ (s.qp q).state ≠ .ready ∨ (s.qp q).reqs.any (·.sent) = false →
    exec (.qpRetxTimeout q) s = .next s)

/-- PKT_SEND_RX, PKT_PUT_RX, PKT_GET_REQ_RX and QPC_FETCH_DONE (after R452 to R454, R459 to R463, R466, R494; logs 22, 71, 72). A first packet whose pair
is in no range, or whose partition is scrubbed, is answered NOQP, one whose context is not cached waits in the miss buffer while one fetch runs (which
ends with the context at hand), one of a pair not READY is answered NOQP and one that is not the peer's PEER, and none of these raises EXP_PSN. A PSN
beyond the window is answered SEQ. A PSN equal to EXP_PSN raises EXP_PSN by 1, whatever the later checks say. A SEND that fits the oldest receive in
one packet fills it, completes it with its length and sender, and is answered OK, a longer one assembles; without a receive it is answered NORECV, for
a shorter one TOOLONG. A PUT that passes reserves a T1 frame, counts in INFLIGHT and assembles; a key that fails, a page landed or landing, a header
that differs and a want of frames are answered with their codes. A GET_REQ of a page in T0 or T1 sends it and is answered OK, one of a page below is
held and counts in INFLIGHT; a page that is not whole, is held by a WARM, or is POISONED is answered so. A later packet joins its transfer in order,
and the last of a SEND delivers it; one of no transfer is discarded. A duplicate is answered from ANS_LOG, or dropped before its answer. A packet that
is not for this device changes nothing. PUT_LANDED, PKT_GET_DATA_RX and ODP_HOLD_EXPIRE (after R95, R268, R459, R461, R462, R466; logs 8, 72, 73). A
whole page of a PUT whose write is confirmed makes its FREE CPN RESIDENT in its T1 frame with REFCNT 1, joins the key's landed pages, sets the layer's
PTEs and TOKENS to the unbroken run, and leaves INFLIGHT; one whose write fails leaves the CPN as it was. A page that a GET brought becomes RESIDENT
in its frame and joins the key's landed pages likewise, and its command ends once the ACK has come; one whose header the profile refuses ends with
FORMAT, one whose write fails with NOSPACE, one whose key is gone with REVOKED. A GET's packets gather in order, and one of no request changes nothing
but the count. A hold whose page has not come ends with RETRY, its INFLIGHT given back, one whose page has come is served. Without such an assembly,
GET or hold nothing changes. -/
def Obligations.TargetsServePackets : Prop :=
  (∀ (s : State) (port : Nat) (p : Packet) (c : Instr), (c, p.ptype) ∈ [(.pktSendRx port p, .send), (.pktPutRx port p, .put), (.pktGetReqRx port p, .getReq)] →
    mine s p = true → p.srcDev ≠ s.fab.devId → routeOut s 8 p.srcDev < 8 →
    ((qpnOwner s p.dstQpn = none ∨ ∃ pt, qpnOwner s p.dstQpn = some pt ∧ (s.part pt).state = .scrubbing) →
      ∃ t, exec c s = .next t ∧ t.fab.qps = s.fab.qps ∧ t.fab.asms = s.fab.asms ∧ t.mems = s.mems ∧ t.dep = s.dep) ∧
    (∀ pt, qpnOwner s p.dstQpn = some pt → (s.part pt).state ≠ .scrubbing →
      (s.fab.cached.contains p.dstQpn = false → capRoom s p.dstPt 512 1 (fun x => (s.fab.miss.filter fun m => m.2.dstPt == x).length) = true →
        ∃ t, exec c s = .next t ∧ t.fab.miss = s.fab.miss ++ [(p.dstQpn, p)] ∧ t.fab.fetching.contains p.dstQpn = true ∧ t.fab.qps = s.fab.qps ∧
          t.mems = s.mems ∧ t.dep = s.dep) ∧
      (s.fab.cached.contains p.dstQpn = true → s.fab.holds = [] → s.fab.miss = [] →
        (((s.qp p.dstQpn).state ≠ .ready ∨ (s.qp p.dstQpn).pt ≠ p.dstPt ∨ p.srcDev ≠ (s.qp p.dstQpn).peerDev ∨
            p.srcQpn ≠ (s.qp p.dstQpn).peerQpn ∨ p.framePt ≠ (s.qp p.dstQpn).peerPt ∨
            (p.seg = 0 ∧ p.psn ≠ (s.qp p.dstQpn).expPsn ∧ 16 < psnBack (s.qp p.dstQpn) p.psn)) →
          ∃ t, exec c s = .next t ∧ (t.qp p.dstQpn).expPsn = (s.qp p.dstQpn).expPsn ∧ (t.qp p.dstQpn).ansLog = (s.qp p.dstQpn).ansLog ∧
            t.fab.asms = s.fab.asms ∧ t.mems = s.mems ∧ t.seq = s.seq ∧ t.dep = s.dep) ∧
        ((s.qp p.dstQpn).state = .ready → (s.qp p.dstQpn).pt = p.dstPt → p.srcDev = (s.qp p.dstQpn).peerDev → p.srcQpn = (s.qp p.dstQpn).peerQpn →
          p.framePt = (s.qp p.dstQpn).peerPt →
          (p.seg = 0 → p.psn ≠ (s.qp p.dstQpn).expPsn → psnBack (s.qp p.dstQpn) p.psn ≤ 16 →
            (lget (s.qp p.dstQpn).ansLog (psnBack (s.qp p.dstQpn) p.psn - 1) 0 ≠ 0 ∨ p.ptype ≠ .getReq) →
            ∃ t, exec c s = .next t ∧ (t.qp p.dstQpn).expPsn = (s.qp p.dstQpn).expPsn ∧ (t.qp p.dstQpn).ansLog = (s.qp p.dstQpn).ansLog ∧
              t.fab.asms = s.fab.asms ∧ t.mems = s.mems ∧ t.dep = s.dep) ∧
          (p.seg ≠ 0 → s.fab.asms.find? (fun a => a.qpn == p.dstQpn && a.psn == p.psn) = none →
            ∃ t, exec c s = .next t ∧ t.fab.asms = s.fab.asms ∧ (t.qp p.dstQpn).expPsn = (s.qp p.dstQpn).expPsn ∧ t.mems = s.mems ∧
              t.dep = s.dep) ∧
          (∀ x, p.seg ≠ 0 → s.fab.asms.find? (fun a => a.qpn == p.dstQpn && a.psn == p.psn) = some x → s.fab.asms = [x] → x.complete = false →
            (p.seg ≠ x.nextSeg → ∃ t, exec c s = .next t ∧ t.fab.asms = [x] ∧ t.mems = s.mems ∧ t.dep = s.dep) ∧
            (p.seg = x.nextSeg → (x.isPut = true ∨ p.last = false) →
              ∃ t, exec c s = .next t ∧ t.mems = s.mems ∧ t.dep = s.dep ∧
                t.fab.asms = [{ x with nextSeg := x.nextSeg + 1, data := x.data ++ p.data, complete := p.last }]) ∧
            (∀ r rest m, p.seg = x.nextSeg → x.isPut = false → p.last = true → (s.qp p.dstQpn).rq = r :: rest →
              (x.data ++ p.data).length = p.arg → s.node r.acc = some m → m.outcome = none →
              ∃ t, exec c s = .next t ∧ t.fab.asms = [] ∧ (t.qp p.dstQpn).rq = rest ∧
                Ended t r.acc { detail0 := p.srcDev + p.framePt * 2 ^ 12, result := p.arg })) ∧
          (p.seg = 0 → p.psn = (s.qp p.dstQpn).expPsn → p.psn < 2 ^ 24 →
            (∃ t, exec c s = .next t ∧ (t.qp p.dstQpn).expPsn = (p.psn + 1) % 2 ^ 24) ∧
            (∀ e, ((p.ptype = .send ∧ (s.qp p.dstQpn).rq[sendsOpen s p.dstQpn]? = none ∧ e = 12) ∨
                (p.ptype = .send ∧ (∃ r, (s.qp p.dstQpn).rq[sendsOpen s p.dstQpn]? = some r ∧ r.len < p.arg) ∧ e = 13) ∨
                (p.ptype = .put ∧ keyCheck s p.dstQpn p.arg p.cpn true = .error e) ∨
                (∃ i, p.ptype = .put ∧ keyCheck s p.dstQpn p.arg p.cpn true = .ok i ∧
                  ((s.key i).landed.contains p.cpn = true ∨ landing s p.cpn = true) ∧ e = 8) ∨
                (∃ i, p.ptype = .put ∧ keyCheck s p.dstQpn p.arg p.cpn true = .ok i ∧ (s.key i).landed.contains p.cpn = false ∧
                  landing s p.cpn = false ∧ s.fab.gets = [] ∧ headerOk s (s.key i) (p.data.take 256) = false ∧ e = 9) ∨
                (∃ i, p.ptype = .put ∧ keyCheck s p.dstQpn p.arg p.cpn true = .ok i ∧ (s.key i).landed.contains p.cpn = false ∧
                  landing s p.cpn = false ∧ s.fab.gets = [] ∧ headerOk s (s.key i) (p.data.take 256) = true ∧
                  t1Alloc s (s.key i).owner (landField s (s.key i)) (.page p.cpn) = none ∧ e = 11) ∨
                (p.ptype = .getReq ∧ keyCheck s p.dstQpn p.arg p.cpn false = .error e) ∨
                (∃ i, p.ptype = .getReq ∧ keyCheck s p.dstQpn p.arg p.cpn false = .ok i ∧
                  ((s.loc p.cpn).state = .free ∨ (s.loc p.cpn).state = .retired ∨ effState (s.loc p.cpn) = .staging ∨
                    ((s.loc p.cpn).state ≠ .poisoned ∧ (fullPage s p.cpn = false ∨ warmHeld s p.cpn = true))) ∧ e = 8) ∨
                (∃ i, p.ptype = .getReq ∧ keyCheck s p.dstQpn p.arg p.cpn false = .ok i ∧ (s.loc p.cpn).state = .poisoned ∧ e = 10)) →
              ∃ t, exec c s = .next t ∧ lget (t.qp p.dstQpn).ansLog 0 1 = e ∧ (t.qp p.dstQpn).rq = (s.qp p.dstQpn).rq ∧
                t.fab.asms = s.fab.asms ∧ t.fab.keys = s.fab.keys ∧ t.mems = s.mems ∧ t.dep = s.dep) ∧
            (∀ r, p.ptype = .send → (s.qp p.dstQpn).rq[sendsOpen s p.dstQpn]? = some r → p.arg ≤ r.len → p.last = false →
              ∃ t x, exec c s = .next t ∧ t.fab.asms = s.fab.asms ++ [x] ∧ x.qpn = p.dstQpn ∧ x.isPut = false ∧ x.data = p.data ∧
                x.nextSeg = 1 ∧ t.mems = s.mems ∧ t.dep = s.dep) ∧
            (∀ r rest, p.ptype = .send → (s.qp p.dstQpn).rq = r :: rest → sendsOpen s p.dstQpn = 0 → p.arg ≤ r.len → p.last = true →
              p.data.length = p.arg → ∀ m, s.node r.acc = some m → m.outcome = none →
              ∃ t, exec c s = .next t ∧ (t.qp p.dstQpn).rq = rest ∧
                Ended t r.acc { detail0 := p.srcDev + p.framePt * 2 ^ 12, result := p.arg } ∧
                lget (t.qp p.dstQpn).ansLog 0 1 = 0) ∧
            (∀ i a u, p.ptype = .put → keyCheck s p.dstQpn p.arg p.cpn true = .ok i → (s.key i).landed.contains p.cpn = false → landing s p.cpn = false →
              s.fab.gets = [] → headerOk s (s.key i) (p.data.take 256) = true →
              t1Alloc s (s.key i).owner (landField s (s.key i)) (.page p.cpn) = some (a, u) →
              ∃ t, exec c s = .next t ∧ (t.key i).inflight = (s.key i).inflight + 1 ∧ tget t.blw.t1 a = some (.page p.cpn) ∧
                t.fab.asms.length = s.fab.asms.length + 1 ∧ t.loc p.cpn = s.loc p.cpn ∧ t.mems = s.mems) ∧
            (∀ i, p.ptype = .getReq → keyCheck s p.dstQpn p.arg p.cpn false = .ok i → pageLive (s.loc p.cpn) = true → effState (s.loc p.cpn) ≠ .staging →
              fullPage s p.cpn = true → warmHeld s p.cpn = false →
              (upper (s.loc p.cpn) = true → (s.loc p.cpn).compressed = false → storeBad s (pageStore s p.cpn) 0 frameBytes = false →
                ∃ t, exec c s = .next t ∧ (t.qp p.dstQpn).pktsTx = ((s.qp p.dstQpn).pktsTx + 16) % 2 ^ 64 ∧ lget (t.qp p.dstQpn).ansLog 0 1 = 0 ∧
                  t.mems = s.mems ∧ t.seq = s.seq ∧ t.key i = s.key i) ∧
              (upper (s.loc p.cpn) = false → (s.key i).state = .valid →
                ∃ t h, exec c s = .next t ∧ t.fab.holds = [h] ∧ h.cpn = p.cpn ∧ h.key = i ∧ h.pkt = p ∧
                  (t.key i).inflight = (s.key i).inflight + 1 ∧ lget (t.qp p.dstQpn).ansLog 0 1 = 15 ∧ t.mems = s.mems ∧ t.dep = s.dep))))))) ∧
  (∀ (s : State) (port : Nat) (p : Packet), mine s p = false →
    exec (.pktSendRx port p) s = .next s ∧ exec (.pktPutRx port p) s = .next s ∧ exec (.pktGetReqRx port p) s = .next s) ∧
  (∀ (s : State) (q : Nat), s.boot.fatal = false →
    (s.fab.fetching.contains q = true → inClass s 0 ((qpcTable s).1 + 64 * q) 64 = true → s.fab.miss.any (fun m => m.1 == q) = false →
      ∃ t, exec (.qpcFetchDone q) s = .next t ∧ t.fab.cached.contains q = true ∧ t.fab.fetching.contains q = false ∧ t.fab.qps = s.fab.qps ∧
        t.mems = s.mems ∧ t.dep = s.dep) ∧
    (s.fab.fetching.contains q = false → exec (.qpcFetchDone q) s = .next s)) ∧
  (∀ (s : State) (cpn : Nat) (x : Assembly), s.boot.fatal = false →
    s.fab.asms.find? (fun a => a.isPut && a.ok && a.complete && a.cpn == cpn) = some x →
    (∃ t, exec (.putLanded cpn false) s = .next t ∧ t.loc cpn = s.loc cpn ∧ (t.key x.key).landed = (s.key x.key).landed ∧
      (t.key x.key).inflight = (s.key x.key).inflight - 1 ∧ t.fab.asms = s.fab.asms.filter (· != x) ∧
      (s.rec_.running = [] → t.mems = s.mems)) ∧
    (∃ t, exec (.putLanded cpn true) s = .next t ∧ (t.loc cpn).state = .resident ∧ (t.loc cpn).tier = .t1 ∧ (t.loc cpn).addr = x.frame ∧
      (t.loc cpn).refcnt = 1 ∧ (t.key x.key).landed = (s.key x.key).landed ++ [cpn] ∧ (t.key x.key).inflight = (s.key x.key).inflight - 1 ∧
      t.fab.asms = s.fab.asms.filter (· != x) ∧ (∀ c, c ≠ cpn → t.loc c = s.loc c) ∧
      ∀ p i, tget s.dep.cfg.profiles (s.ctx (s.key x.key).seq).profile = some p → i = (cpn - (s.key x.key).cpn) / max (s.key x.key).span 1 →
        (t.row (s.key x.key).seq ((s.key x.key).layerFirst + i)).tokens = p.tpp * landedRun (t.key x.key) i ∧
        (t.row (s.key x.key).seq ((s.key x.key).layerFirst + i)).ptes.length = landedRun (t.key x.key) i)) ∧
  (∀ (s : State) (cpn : Nat) (ok : Bool), s.boot.fatal = false →
    s.fab.asms.find? (fun a => a.isPut && a.ok && a.complete && a.cpn == cpn) = none →
    (s.fab.gets.find? (fun g => g.whole && !g.landed && xferResult s g.acc == cpn) = none → exec (.putLanded cpn ok) s = .next s) ∧
    (∀ g n, s.fab.gets.find? (fun g => g.whole && !g.landed && xferResult s g.acc == cpn) = some g → s.node g.acc = some n → n.outcome = none →
      (∀ k, ((windowKey s cpn = none ∧ k = failWith .revoked) ∨
          (∃ i w, windowKey s cpn = some (i, w) ∧ headerOk s w (g.data.take 256) = false ∧ k = failWith .format) ∨
          (∃ i w, windowKey s cpn = some (i, w) ∧ headerOk s w (g.data.take 256) = true ∧ ok = false ∧ k = failWith .nospace 0 11)) →
        ∃ t, exec (.putLanded cpn ok) s = .next t ∧ Ended t g.acc k ∧ t.loc cpn = s.loc cpn ∧ t.fab.keys = s.fab.keys ∧
          (s.rec_.running = [] → t.mems = s.mems)) ∧
      (∀ i w, windowKey s cpn = some (i, w) → s.key i = w → getOf s g.acc = some g → headerOk s w (g.data.take 256) = true → ok = true →
        ∃ t, exec (.putLanded cpn ok) s = .next t ∧ (t.loc cpn).state = .resident ∧ (t.loc cpn).addr = g.frame ∧ (t.loc cpn).refcnt = 1 ∧
          (t.key i).landed = w.landed ++ [cpn] ∧ (g.acked = true → Ended t g.acc { result := cpn }) ∧
          (g.acked = false → t.dep.nodes = s.dep.nodes) ∧ ∀ c, c ≠ cpn → t.loc c = s.loc c))) ∧
  (∀ (s : State) (port : Nat) (p : Packet), mine s p = true → p.ptype = .getData →
    (∀ r g, (s.qp p.dstQpn).reqs.find? (fun y => y.psn == p.psn) = some r → getOf s r.acc = some g → g.whole = false →
      p.seg = g.data.length / 4096 →
      ∃ t, exec (.pktGetDataRx port p) s = .next t ∧ (getOf t r.acc).map (fun h => (h.data, h.whole)) = some (g.data ++ p.data, p.last) ∧
        t.mems = s.mems ∧ t.dep = s.dep ∧ t.seq = s.seq) ∧
    (((s.qp p.dstQpn).reqs.find? (fun y => y.psn == p.psn) = none ∨ s.fab.gets = []) →
      ∃ t, exec (.pktGetDataRx port p) s = .next t ∧ t.fab.gets = s.fab.gets ∧ t.mems = s.mems ∧ t.dep = s.dep ∧ t.seq = s.seq)) ∧
  (∀ (s : State) (port : Nat) (p : Packet), mine s p = false ∨ p.ptype ≠ .getData → exec (.pktGetDataRx port p) s = .next s) ∧
  (∀ (s : State) (q psn : Nat), s.boot.fatal = false →
    (s.fab.holds.find? (fun h => h.qpn == q && h.psn == psn) = none → exec (.odpHoldExpire q psn) s = .next s) ∧
    (∀ h, s.fab.holds = [h] → h.qpn = q → h.psn = psn → s.fab.miss.any (fun m => m.1 == q) = false → h.pkt.dstQpn = q → h.pkt.psn = psn →
      h.pkt.cpn = h.cpn → psn < 2 ^ 24 → psnBack (s.qp q) psn ∈ [1, 2, 3, 4, 5, 6, 7, 8, 9, 10, 11, 12, 13, 14, 15, 16] →
      pageLive (s.loc h.cpn) = true →
      (upper (s.loc h.cpn) = false →
        ∃ t, exec (.odpHoldExpire q psn) s = .next t ∧ t.time = (s.reach h.until_).time ∧ t.fab.holds = [] ∧
          (t.key h.key).inflight = (s.key h.key).inflight - 1 ∧ lget (t.qp q).ansLog (psnBack (s.qp q) psn - 1) 0 = 7 ∧ t.mems = s.mems ∧
          t.seq = s.seq) ∧
      (upper (s.loc h.cpn) = true → (s.loc h.cpn).compressed = false → storeBad s (pageStore s h.cpn) 0 frameBytes = false →
        ∃ t, exec (.odpHoldExpire q psn) s = .next t ∧ t.fab.holds = [] ∧ (t.key h.key).inflight = (s.key h.key).inflight - 1 ∧
          lget (t.qp q).ansLog (psnBack (s.qp q) psn - 1) 1 = 0 ∧ (t.qp q).pktsTx = ((s.qp q).pktsTx + 16) % 2 ^ 64 ∧ t.mems = s.mems ∧
          t.seq = s.seq)))

/-- KEY_CREATE, KEY_REVOKE and KEY_REVOKE_DONE (after R44, R342, R457 to R459, R467, R469; log 73). CREATE of a FREE key fails with R458's cause and
leaves it FREE, or makes it VALID for the writer's partition with its GEN raised, a fresh CHECK and no landed page; a READ key keeps its bounds, a
WRITE key gets a run of free CPNs. REVOKE takes a VALID key to REVOKING, and a key that is not FREE or not VALID refuses the one or the other with
code 0x06. With INFLIGHT 0 a REVOKING key becomes FREE, keeps its GEN, and raises KEY_DONE; with INFLIGHT not 0 it waits, and a key in another state
stays. For a requester that may not select the key nothing changes, and one that may not reach the page is refused with code 0x03. -/
def Obligations.KeysAreCreatedAndRevoked : Prop :=
  (∀ (s : State) (rq : Requester), s.boot.fatal = false → mayReach s rq pgFab = true →
    (maySelectKey s rq = true →
      ((s.key (keySel s)).state = .free →
        (∀ e, keyErr s rq.pt (s.key (keySel s)) = e → e ≠ 0 →
          ∃ t, exec (.keyCreate rq) s = .next t ∧ (t.key (keySel s)).state = .free ∧ (t.key (keySel s)).err = e ∧ t.mems = s.mems ∧ t.seq = s.seq ∧
            ∀ k, k ≠ keySel s → t.key k = s.key k) ∧
        (keyErr s rq.pt (s.key (keySel s)) = 0 →
          ∃ t, exec (.keyCreate rq) s = .next t ∧ (t.key (keySel s)).state = .valid ∧ (t.key (keySel s)).owner = rq.pt ∧
            (t.key (keySel s)).gen = ((s.key (keySel s)).gen + 1) % 256 ∧ (t.key (keySel s)).check < 4096 ∧ (t.key (keySel s)).landed = [] ∧
            (t.key (keySel s)).inflight = 0 ∧ ((s.key (keySel s)).write = false → (t.key (keySel s)).cpn = (s.key (keySel s)).cpn ∧ t.seq = s.seq) ∧
            (∀ b u, (s.key (keySel s)).write = true →
              cpnRun s rq.pt ((s.key (keySel s)).layers * (s.key (keySel s)).span) = some (b, u) →
              (t.key (keySel s)).cpn = b ∧ t.seq = u.seq) ∧
            t.mems = s.mems ∧ ∀ k, k ≠ keySel s → t.key k = s.key k)) ∧
      ((s.key (keySel s)).state ≠ .free → ∃ t, exec (.keyCreate rq) s = .next t ∧ Logged s t pgFab 0x06) ∧
      ((s.key (keySel s)).state = .valid → ∃ t, exec (.keyRevoke rq) s = .next t ∧ (t.key (keySel s)).state = .revoking ∧
        (t.key (keySel s)).inflight = (s.key (keySel s)).inflight ∧ t.mems = s.mems ∧ t.seq = s.seq ∧ ∀ k, k ≠ keySel s → t.key k = s.key k) ∧
      ((s.key (keySel s)).state ≠ .valid → ∃ t, exec (.keyRevoke rq) s = .next t ∧ Logged s t pgFab 0x06)) ∧
    (maySelectKey s rq = false → exec (.keyCreate rq) s = .next s ∧ exec (.keyRevoke rq) s = .next s)) ∧
  (∀ (s : State) (rq : Requester) (x : Instr), s.boot.fatal = false → mayReach s rq pgFab = false → (x = .keyCreate rq ∨ x = .keyRevoke rq) →
    ∃ t, exec x s = .next t ∧ Logged s t pgFab 0x03) ∧
  (∀ (s : State) (i : Nat), s.boot.fatal = false →
    ((s.key i).state = .revoking → (s.key i).inflight = 0 →
      ∃ t, exec (.keyRevokeDone i) s = .next t ∧ (t.key i).state = .free ∧ (t.key i).gen = (s.key i).gen ∧
      bit (t.page pgFab).irqStat 9 = true ∧ ((s.key i).write = false → t.seq = s.seq ∧ t.mems = s.mems) ∧ ∀ k, k ≠ i → t.key k = s.key k) ∧
    ((s.key i).state ≠ .revoking ∨ (s.key i).inflight ≠ 0 → exec (.keyRevokeDone i) s = .next s))

/-- FAB_DISC_GO, PROBE_RX, DISC_REPORT_TIMER, REPORT_RX, DISC_REPORT_QUIET, ASSIGN_RX, DISC_TIMEOUT and SNAP_PACKET_RX (after R352, R442, R443, R445,
R470; logs 8, 74). GO at the root raises DGEN and gives it ID 0 and level 0, elsewhere it is refused. A PROBE of a newer generation, or one that
offers a lower level, gives the device that level plus 1 and that port as its parent and a REPORT 20 µs later; one that offers the same level changes
only the parent, to a lower port; one of an older generation, without a level, or with a higher one, only shows its neighbour. The REPORT goes to the
parent once. The root keeps each device's last REPORT of its generation, and any other device hands it on; when no REPORT has come for 200 µs every
serial keeps the ID it holds, distinct IDs stay distinct, STATE is 2 and DISC_DONE is raised. The target of an ASSIGN takes its ID and level, another
hands it on. Past 5 ms STATE is 3. Where no discovery runs, the timers change nothing. A SNAP packet is a trigger exactly with FAB_IN = 1. What comes
from a host port changes nothing. FAB_FORWARD (after R440, R448, R449, R476; log 88). A packet for another device goes out of the port its input
port's table names, class 3, with HOPS one less; where the entry is 15 or names a port that went DOWN, HOPS is used up, or a strict owner of the port
bars it, it is dropped and counted. A packet for this device, one at a device without an ID, and one from a host port are not forwarded. -/
def Obligations.DiscoveryAndForwarding : Prop :=
  (∀ (s : State) (rq : Requester), s.boot.fatal = false →
    (mayReach s rq pgFab = true → isRoot s = true → ∃ t, exec (.fabDiscGo rq) s = .next t ∧ t.fab.devId = 0 ∧ t.fab.idValid = true ∧
      t.fab.disc.state = 1 ∧ t.fab.disc.dgen = (s.fab.disc.dgen + 1) % 65536 ∧ t.fab.disc.level = some 0 ∧ t.fab.qps = s.fab.qps ∧
      t.mems = s.mems ∧ t.dep = s.dep) ∧
    (mayReach s rq pgFab = true → isRoot s = false → ∃ t, exec (.fabDiscGo rq) s = .next t ∧ Logged s t pgFab 0x06) ∧
    (mayReach s rq pgFab = false → ∃ t, exec (.fabDiscGo rq) s = .next t ∧ Logged s t pgFab 0x03)) ∧
  (∀ (s : State) (port : Nat) (p : Probe), s.boot.fatal = false → 4 ≤ port →
    ((p.level ≠ 0xFF ∧ (newerGen s.fab.disc.seenDgen p.dgen = true ∨
        (newerGen s.fab.disc.seenDgen p.dgen = false ∧ s.fab.disc.seenDgen = some p.dgen ∧ s.fab.disc.level.all (fun o => decide (p.level + 1 < o)) = true))) →
      ∃ t, exec (.probeRx port p) s = .next t ∧ t.fab.disc.level = some (p.level + 1) ∧ t.fab.disc.parent = some (port - 4) ∧
        t.fab.disc.seenDgen = some p.dgen ∧ t.fab.disc.reportAt = some (s.time + 20000) ∧ t.fab.disc.neigh = tset s.fab.disc.neigh (port - 4) p ∧
        t.mems = s.mems ∧ t.dep = s.dep) ∧
    (newerGen s.fab.disc.seenDgen p.dgen = false → s.fab.disc.seenDgen = some p.dgen → p.level ≠ 0xFF → s.fab.disc.level = some (p.level + 1) →
      ∃ t, exec (.probeRx port p) s = .next t ∧ t.fab.disc.level = s.fab.disc.level ∧ t.fab.disc.reportAt = s.fab.disc.reportAt ∧
        t.fab.disc.neigh = tset s.fab.disc.neigh (port - 4) p ∧ t.mems = s.mems ∧
        t.fab.disc.parent = (if s.fab.disc.parent.any (fun q => decide (port - 4 < q)) then some (port - 4) else s.fab.disc.parent)) ∧
    (newerGen s.fab.disc.seenDgen p.dgen = false → (s.fab.disc.seenDgen ≠ some p.dgen ∨ p.level = 0xFF ∨
        s.fab.disc.level.any (fun o => decide (o < p.level + 1)) = true) →
      ∃ t, exec (.probeRx port p) s = .next t ∧ t.fab = { s.fab with disc := { s.fab.disc with neigh := tset s.fab.disc.neigh (port - 4) p } } ∧
        t.mems = s.mems ∧ t.dep = s.dep)) ∧
  (∀ (s : State), s.boot.fatal = false →
    (∀ a x, s.fab.disc.reportAt = some a → s.fab.disc.parent = some x →
      ∃ t, exec .discReportTimer s = .next t ∧ t.time = (s.reach a).time ∧ t.fab.disc.reportAt = none ∧ t.fab.disc.level = s.fab.disc.level ∧
        t.mems = s.mems ∧ t.dep = s.dep) ∧
    ((s.fab.disc.reportAt = none ∨ s.fab.disc.parent = none) → exec .discReportTimer s = .next s) ∧
    (∀ port r, 4 ≤ port → isRoot s = true → s.fab.disc.state = 1 → r.dgen = s.fab.disc.dgen →
      ∃ t, exec (.reportRx port r) s = .next t ∧ t.fab.disc.reports.contains r = true ∧ t.fab.disc.lastReport = s.time ∧
        t.fab.disc.ids = s.fab.disc.ids) ∧
    (∀ port r, 4 ≤ port → (isRoot s = false ∨ s.fab.disc.state ≠ 1 ∨ r.dgen ≠ s.fab.disc.dgen) →
      ∃ t, exec (.reportRx port r) s = .next t ∧ t.fab = s.fab ∧ t.mems = s.mems ∧ t.dep = s.dep) ∧
    (isRoot s = true → s.fab.disc.state = 1 →
      ∃ t, exec .discReportQuiet s = .next t ∧ t.time = (s.reach (s.fab.disc.lastReport + 200000)).time ∧ t.fab.disc.state = 2 ∧
        bit (t.page pgFab).irqStat 8 = true ∧ (∀ i, i ∈ s.fab.disc.ids → i ∈ t.fab.disc.ids) ∧
        ((s.fab.disc.ids.map (·.2)).Nodup → (t.fab.disc.ids.map (·.2)).Nodup)) ∧
    ((isRoot s = false ∨ s.fab.disc.state ≠ 1) → exec .discReportQuiet s = .next s) ∧
    (∀ port a, 4 ≤ port → a.serial = s.sec.serial → ∃ t, exec (.assignRx port a) s = .next t ∧ t.fab.devId = a.id ∧ t.fab.idValid = true ∧
      t.fab.disc.level = some a.level ∧ t.fab.disc.ids = s.fab.disc.ids ∧ t.mems = s.mems) ∧
    (∀ port a, 4 ≤ port → a.serial ≠ s.sec.serial → ∃ t, exec (.assignRx port a) s = .next t ∧ t.fab = s.fab ∧ t.mems = s.mems) ∧
    (s.fab.disc.state = 1 → ∃ t, exec .discTimeout s = .next t ∧ t.fab.disc.state = 3 ∧ t.time = (s.reach (s.fab.disc.startedAt + 5000000)).time ∧
      t.fab.disc.ids = s.fab.disc.ids ∧ t.mems = s.mems) ∧
    (s.fab.disc.state ≠ 1 → exec .discTimeout s = .next s) ∧
    (∀ port i d stamp, 4 ≤ port → bit (s.reg pgSnp 0x200) 2 = true → ∃ t, exec (.snapPacketRx port i d stamp) s = .next t ∧ t.snp.lastSrc = 8 ∧
      t.snp.lastId = s.snp.nextId ∧ ∀ n, n ∈ snapPages → (t.page n).snap.isSome = true) ∧
    (∀ port i d stamp, 4 ≤ port → bit (s.reg pgSnp 0x200) 2 = false → ∃ t, exec (.snapPacketRx port i d stamp) s = .next t ∧ t.snp = s.snp ∧
      t.pages = s.pages)) ∧
  (∀ (s : State) (port : Nat), port < 4 → (∀ p, exec (.probeRx port p) s = .next s) ∧ (∀ r, exec (.reportRx port r) s = .next s) ∧
    (∀ a, exec (.assignRx port a) s = .next s) ∧ ∀ i d stamp, exec (.snapPacketRx port i d stamp) s = .next s) ∧
  (∀ (s : State) (port : Nat) (p : Packet), s.boot.fatal = false → 4 ≤ port → s.fab.idValid = true → p.dstDev ≠ s.fab.devId →
    (routeOut s (port - 4) p.dstDev ≤ 7 → 1 < p.hops → forwardAllowed s (routeOut s (port - 4) p.dstDev) p.framePt = true →
      4 + routeOut s (port - 4) p.dstDev < s.tsc.length →
      ∃ t, exec (.fabForward port p) s = .next t ∧ t.fab = s.fab ∧ t.mems = s.mems ∧ t.dep = s.dep ∧
        t.sched (4 + routeOut s (port - 4) p.dstDev) =
          pushFrame (schedSync (s.sched (4 + routeOut s (port - 4) p.dstDev)) s.time)
            { key := p.framePt * 16 + pktVc p.ptype * 4 + 3, origin := 0, frame :=
              { vc := pktVc p.ptype, pt := p.framePt, secure := p.frameSecure, body := .pkt { p with hops := p.hops - 1 },
                enc := (s.link (4 + routeOut s (port - 4) p.dstDev)).keyed } } ∧
        ∀ x, x ≠ 4 + routeOut s (port - 4) p.dstDev → t.sched x = s.sched x) ∧
    ((7 < routeOut s (port - 4) p.dstDev ∨ p.hops ≤ 1 ∨ forwardAllowed s (routeOut s (port - 4) p.dstDev) p.framePt = false) →
      ∃ t, exec (.fabForward port p) s = .next t ∧ t.fab.drop = (s.fab.drop + 1) % 2 ^ 32 ∧ t.tsc = s.tsc ∧ t.mems = s.mems ∧ t.dep = s.dep)) ∧
  (∀ (s : State) (port : Nat) (p : Packet), s.boot.fatal = true ∨ port < 4 ∨ p.dstDev = s.fab.devId ∨ s.fab.idValid = false →
    ∃ t, exec (.fabForward port p) s = .next t ∧ t.fab = s.fab ∧ t.tsc = s.tsc ∧ t.mems = s.mems ∧ t.dep = s.dep)

/-! ### The tenant switch -/

/-- SCRUB (after R342, R362, R436, R474, R490, R494, R529; log 88). The write of SEC_PT_CTRL by the secure world, for a KEYING, ACTIVE or FAILED
partition, begins the scrub: the partition is SCRUBBING in step 1, its rings are disabled, its recording ends, its channels stop, and no scheduler
holds or takes a frame of it; of an EMPTY or SCRUBBING one it is refused with code 0x06. Without the SCRUB bit nothing changes, and a write that is
not the secure world's is refused with code 0x03. SCRUB_STEP_END (after R82, R467, R474, R490, R492, R507; logs 8, 10, 88). The steps follow each
other, each by its time; when step 1 ends no accepted node of the partition is left; when step 2 ends it holds no key; when step 3 ends its tiles'
scratchpads read 0 and no other tile's is touched; when step 4 ends its sequences are FREE, its pages' directory entries are 0 and it has no profile;
when step 6 ends PEPOCH is one higher and TS, derived key and seed are gone; when step 8 ends the partition is EMPTY, SCRUB_DONE is raised, and its
four sweeps begin; with ZERO = 1 its frames read 0 then. From step 3 on no other partition's state changes. For a partition that is not SCRUBBING
nothing changes. SCRUB_SWEEP_END (after R493; log 88). A sweep frees what the departed tenant held in its tier, a frame that failed apart, and nothing
of another partition; a sweep that does not run changes nothing. -/
def Obligations.ScrubRuns : Prop :=
  (∀ (s : State) (rq : Requester) (val : Word) (pt : Nat), s.boot.fatal = false → s.reg pgSec 0x200 = pt → pt < s.sec.pts.length →
     (rq.secure = true → rq.src < 4 → bit val.toNat 0 = true →
       (((s.part pt).state = .keying ∨ (s.part pt).state = .active ∨ (s.part pt).state = .failed) →
         ∃ t, exec (.scrub rq val) s = .next t ∧ (t.part pt).state = .scrubbing ∧ (t.part pt).scrub.step = 1 ∧
           (t.part pt).scrub.zero = bit val.toNat 1 ∧ (t.part pt).scrub.startedAt = s.time ∧
           (∀ r, r ∈ t.dep.sq → ringPt r.1 = pt → r.2.en = false ∧ r.2.buf = []) ∧ (∀ c, c ∈ t.dep.cq → c.1 / 64 = pt → c.2.en = false) ∧
           (∀ u, u ∈ t.tsc → u.scrubbing.contains pt = true ∧ (∀ f, f ∈ u.stalled → f.key / 16 ≠ pt) ∧
             ∀ e, e ∈ u.qs.zipIdx → (queueCfg u e.2).pt = pt → e.1.frames = [] ∧ e.1.deficit = 0 ∧ e.1.credit = 0) ∧
           (∀ c, c < s.dma.chs.length → chanOwner s c = (pt, false) → chanRuns (t.chan c) = false) ∧
           t.rec_.running.contains pt = false ∧ (∀ p, p ≠ pt → t.part p = s.part p) ∧ t.mems = s.mems ∧
           (∀ p, (t.link p).state = (s.link p).state) ∧ t.seq = s.seq) ∧
       (((s.part pt).state = .empty ∨ (s.part pt).state = .scrubbing) → ∃ t, exec (.scrub rq val) s = .next t ∧ Logged s t pgSec 0x06)) ∧
     (rq.secure = true → rq.src < 4 → bit val.toNat 0 = false → exec (.scrub rq val) s = .next s) ∧
     (rq.secure = false → ∃ t, exec (.scrub rq val) s = .next t ∧ Logged s t pgSec 0x03)) ∧
  (∀ (s : State) (pt : Nat), s.boot.fatal = false → pt < s.sec.pts.length →
     ((s.part pt).state ≠ .scrubbing → exec (.scrubStepEnd pt) s = .next s) ∧
     ((s.part pt).state = .scrubbing → 1 ≤ (s.part pt).scrub.step →
       ((s.part pt).scrub.step < 8 → ∃ t, exec (.scrubStepEnd pt) s = .next t ∧ (t.part pt).state = .scrubbing ∧
         (t.part pt).scrub.step = (s.part pt).scrub.step + 1 ∧
         t.time = (s.reach ((s.part pt).scrub.startedAt + scrubBound (s.part pt).scrub.zero (s.part pt).scrub.step)).time ∧
         (3 ≤ (s.part pt).scrub.step → ∀ p, p ≠ pt → t.part p = s.part p) ∧
         ((s.part pt).scrub.step = 1 → ∀ n, n ∈ t.dep.nodes → ringPt n.2.ring ≠ pt) ∧
         ((s.part pt).scrub.step = 2 → ∀ i, (t.key i).owner = pt → (t.key i).state = .free) ∧
         ((s.part pt).scrub.step = 3 →
           (∀ k a, k ∈ ptTiles s pt → k * 2 ^ 24 ≤ a → a < (k + 1) * 2 ^ 24 → mread t.mems.spad a = 0) ∧
           (∀ a, a / 2 ^ 24 ∉ ptTiles s pt → mread t.mems.spad a = mread s.mems.spad a) ∧ t.mems.hbm = s.mems.hbm) ∧
         ((s.part pt).scrub.step = 4 →
           (∀ q, seqOwned s pt q = true → t.ctx q = {}) ∧ (∀ c, cpnPt c = pt → t.loc c = {}) ∧
           (∀ q, seqOwned s pt q = false → t.ctx q = s.ctx q) ∧ (∀ c, cpnPt c ≠ pt → t.loc c = s.loc c) ∧
           (∀ p, p ∈ t.dep.cfg.profiles → p.2.owner ≠ pt) ∧ t.mems = s.mems) ∧
         ((s.part pt).scrub.step = 6 →
           (t.part pt).pepoch = ((s.part pt).pepoch + 1) % 2 ^ 64 ∧ (t.part pt).ts = none ∧ (t.part pt).prk = [] ∧ (t.part pt).seed = 0 ∧
           ∀ a, byteOwned s pt a = false → mread t.mems.hbm a = mread s.mems.hbm a)) ∧
       ((s.part pt).scrub.step = 8 → ∃ t, exec (.scrubStepEnd pt) s = .next t ∧ (t.part pt).state = .empty ∧ (t.part pt).sweeps = [2, 3, 4, 5] ∧
         bit (t.page pgSec).irqStat 8 = true ∧ (∀ u, u ∈ t.tsc → u.scrubbing.contains pt = false) ∧ (∀ p, p ≠ pt → t.part p = s.part p) ∧
         ((s.part pt).scrub.zero = true → ∀ a, byteOwned s pt a = true → a % 2 ^ 36 / frameBytes / 32 < hbcFrames → mread t.mems.hbm a = 0) ∧
         ∀ a, byteOwned s pt a = false → mread t.mems.hbm a = mread s.mems.hbm a))) ∧
  (∀ (s : State) (pt tier : Nat), s.boot.fatal = false → pt < s.sec.pts.length →
     ((s.part pt).sweeps.contains tier = true →
       ∃ t, exec (.scrubSweepEnd pt tier) s = .next t ∧ (t.part pt).sweeps = (s.part pt).sweeps.filter (· != tier) ∧
         (∀ p, p ≠ pt → t.part p = s.part p) ∧ t.mems = s.mems ∧ t.seq = s.seq ∧
         (tier = 2 → t.blw.t2 = s.blw.t2.filter fun e => e.1 / 2 ^ 48 != pt || e.2 == .faulty) ∧ (tier ≠ 2 → t.blw.t2 = s.blw.t2) ∧
         (tier = 4 → t.blw.th = s.blw.th.filter fun e => e.1 / 2 ^ 48 != pt || e.2 == .faulty) ∧ (tier ≠ 4 → t.blw.th = s.blw.th) ∧
         (tier = 3 → ∀ n, n < 16 → n < s.nvh.drives.length → ∀ e, e ∈ (t.drive n).slot → e.2 = 1 → (shareOf s n pt).1 ≤ e.1 →
           (shareOf s n pt).1 + (shareOf s n pt).2 ≤ e.1) ∧
         (tier ≠ 3 → t.nvh = s.nvh) ∧
         (tier = 5 → ∀ e, e ∈ t.chn.dir → e.2.pt = pt → e.2.state ≠ .live) ∧ (2 ≤ tier → tier < 5 → t.chn = s.chn)) ∧
     ((s.part pt).sweeps.contains tier = false → exec (.scrubSweepEnd pt tier) s = .next s))

/-! ### Errors, counters, the recorder -/

/-- DEVICE_FATAL (after R506; log 90). From a device that runs, all work stops for good, a snapshot trigger with the error source latches every page, the
recorder empties its buffer into its ring, and GLB_BOOT_STAT reads STAGE 0xF and CODE 0x70; commands, memory of the host and links are as they were. A
second one changes nothing. ERROR_ENTRY_POST, COUNTER_GATHER and PMC_CLR (after R503, R507, R510 to R513; logs 8, 19, 20, 27, 92). An error buffer's
oldest entry is posted when its completion ring has a returned slot, and waits otherwise; a gather takes place one period after the last, raises
GATHER_NO, and writes the secure record of the counters as they then are, and with a period of 0 none does; CLR of TIL_PMC_CFG zeroes that one
counter, and from a requester that may not write it is refused with code 0x03. For a tile or counter that does not exist nothing changes. The size of
a record's slot is the model's (log 27). -/
def Obligations.ErrorsAndCounters : Prop :=
  (∀ (s : State) (cause : Nat),
     (s.boot.fatal = false → ∃ t, exec (.deviceFatal cause) s = .next t ∧ t.boot.fatal = true ∧ bootStat t = 0xF + 0x70 * 2 ^ 8 ∧ t.snp.lastSrc = 2 ∧
       (∀ n, n ∈ snapPages → (t.page n).snap.isSome = true) ∧ (s.rec_.state = 1 → t.rec_.buf = []) ∧ t.dep = s.dep ∧ t.seq = s.seq ∧
       t.mems.host = s.mems.host ∧ t.mems.pool = s.mems.pool ∧ t.mems.flash = s.mems.flash ∧ t.jlk = s.jlk) ∧
     (s.boot.fatal = true → exec (.deviceFatal cause) s = .next s)) ∧
  (∀ (s : State) (ring : Nat), s.boot.fatal = false → ring < s.cnt.bufs.length →
    (∀ e rest, (lget s.cnt.bufs ring {}).entries = e :: rest → cqRoom (s.cplRing (errRing s ring).1 (errRing s ring).2) = true →
      ∃ t, exec (.errorEntryPost ring) s = .next t ∧ lget t.cnt.bufs ring {} = { entries := rest, lost := 0 } ∧
        (t.cplRing (errRing s ring).1 (errRing s ring).2).next =
          ((s.cplRing (errRing s ring).1 (errRing s ring).2).next + 1) % 2 ^ (s.cplRing (errRing s ring).1 (errRing s ring).2).sizeLog2 ∧
        t.mems = s.mems ∧ ∀ r, r ≠ ring → lget t.cnt.bufs r {} = lget s.cnt.bufs r {}) ∧
    (((lget s.cnt.bufs ring {}).entries = [] ∨ cqRoom (s.cplRing (errRing s ring).1 (errRing s ring).2) = false) →
      exec (.errorEntryPost ring) s = .next s)) ∧
  (∀ (s : State), s.boot.fatal = false →
    (bits (s.reg pgCnt 0x200) 0 16 ≠ 0 →
      ∃ t, exec .counterGather s = .next t ∧ t.time = (s.reach (s.cnt.gatherAt + bits (s.reg pgCnt 0x200) 0 16 * 1000)).time ∧
        t.cnt.gatherAt = t.time ∧ t.cnt.gatherNo = (s.cnt.gatherNo + 1) % 2 ^ 64 ∧ t.seq = s.seq ∧ t.dep = s.dep ∧ t.mems.host = s.mems.host ∧
        (s.rec_.state ≠ 1 → (∀ p, p < 8 → bit (s.reg pgCnt 0x21C p) 24 = false) →
          t.mems.hbm = mwrites s.mems.hbm (s.reg pgCnt 0x204 + bits (s.reg pgCnt 0x208) 0 8 * 2 ^ 32 + gatherSlot s (bits (s.reg pgCnt 0x208) 8 16))
            (gatherRecord (gatherDue s) (secEntries (gatherDue s))))) ∧
    (bits (s.reg pgCnt 0x200) 0 16 = 0 → exec .counterGather s = .next s)) ∧
  (∀ (s : State) (rq : Requester) (tile n : Nat), s.boot.fatal = false →
    (tile < 48 → n < 8 → mayPerf s rq tile = true → ∃ t, exec (.pmcClr rq tile n) s = .next t ∧ lget (t.tile tile).pmc n 0 = 0 ∧
      (∀ m, m ≠ n → lget (t.tile tile).pmc m 0 = lget (s.tile tile).pmc m 0) ∧ (∀ k, k ≠ tile → t.tile k = s.tile k) ∧ t.mems = s.mems ∧
      t.regs = s.regs ∧ t.dep = s.dep) ∧
    (tile < 48 → n < 8 → mayPerf s rq tile = false → ∃ t, exec (.pmcClr rq tile n) s = .next t ∧ Logged s t (pgTil tile) 0x03) ∧
    ((48 ≤ tile ∨ 8 ≤ n) → exec (.pmcClr rq tile n) s = .next s))

/-- REC_MARK, REC_SEGMENT_DONE and REC_LOSS_RECORD (after R342, R517, R519, R520; log 18). A MARK record of a recorded partition goes into the running
segment behind its used bytes; where the oldest buffered record does not fit, the segment completes with its header at its start and the next begins,
or recording stops with STATE = 2 when a ring with WRAP = 0 is full; a partition's LOSS record enters once the buffer has room, and its count starts
anew. Without a recording, a record that waits, or a loss, nothing changes; a MARK that is not the secure world's is refused with code 0x03.
REC_REPLAY and REPLAY_STEP (after R523 to R525; log 17). REC_REPLAY.EN starts a replay at the recording's first record with every tile pinned at STEP
where R523's conditions hold, gives STATE 4 where they do not, and EN = 0 ends one; EN = 1 while one runs is refused with code 0x06. A step takes the
next record: another partition's changes nothing, at the recording's end STATE is 2, a LOSS record gives STATE 5, a SEED record gives the partition
its seed, and a CPL record that agrees with the replay's own completion is taken, while one that differs is a divergence, which ends the replay with
STATE 3 when STOP = 1; a record that is no input is passed over. Where no replay runs a step changes nothing. -/
def Obligations.RecorderAndReplay : Prop :=
  (∀ (s : State) (rq : Requester) (val : Word), s.boot.fatal = false →
    (∀ p, rq.secure = true → rq.src < 4 → s.rec_.state = 1 →
      s.rec_.running = [p] → s.rec_.buf = [] → (if s.rec_.used = 0 then 64 else s.rec_.used) + 16 ≤ recSegBytes s → bit (s.reg pgRec 0x200) 1 = false →
      ∃ t, exec (.recMark rq val) s = .next t ∧ t.rec_.used = (if s.rec_.used = 0 then 64 else s.rec_.used) + 16 ∧
        t.rec_.count = s.rec_.count + 1 ∧ t.rec_.segNo = s.rec_.segNo ∧ t.seq = s.seq ∧ t.dep = s.dep ∧
        t.mems.hbm = mwrites s.mems.hbm (recSegAddr s s.rec_.segNo + (if s.rec_.used = 0 then 64 else s.rec_.used))
          (toLe 1 0x0C ++ toLe 1 p ++ toLe 2 16 ++ toLe 4 val.toNat ++ toLe 8 s.time)) ∧
    (rq.secure = true → rq.src < 4 → s.rec_.running = [] → exec (.recMark rq val) s = .next s) ∧
    (rq.secure = false → ∃ t, exec (.recMark rq val) s = .next t ∧ Logged s t pgRec 0x03)) ∧
  (∀ (s : State), s.boot.fatal = false →
    (∀ r rest, s.rec_.state = 1 → s.rec_.buf = r :: rest → recFits s r = false →
      ∃ t, exec .recSegmentDone s = .next t ∧ t.rec_.segNo = s.rec_.segNo + 1 ∧ t.seq = s.seq ∧ t.dep = s.dep ∧
        (bit (s.reg pgRec 0x200) 1 = false → mreads t.mems.hbm (recSegAddr s s.rec_.segNo) 64 = segHeader s) ∧
        ((bit (s.reg pgRec 0x200) 2 = false ∧ recNseg s ≤ s.rec_.segNo + 1) → t.rec_.state = 2 ∧ t.rec_.buf = r :: rest) ∧
        ((bit (s.reg pgRec 0x200) 2 = true ∨ s.rec_.segNo + 1 < recNseg s) → t.rec_.state = 1 ∧ (64 + recordLen r ≤ recSegBytes s → t.rec_.buf.length ≤ rest.length))) ∧
    ((s.rec_.state ≠ 1 ∨ s.rec_.buf = [] ∨ (∃ r rest, s.rec_.buf = r :: rest ∧ recFits s r = true)) →
      exec .recSegmentDone s = .next s)) ∧
  (∀ (s : State), s.boot.fatal = false →
    (∀ p, s.rec_.state = 1 → s.rec_.lostPending.length = 8 →
      (List.range 8).find? (fun p => decide (0 < lget s.rec_.lostPending p 0) && recRoom s p 16) = some p →
      ∃ t, exec .recLossRecord s = .next t ∧ lget t.rec_.lostPending p 0 = 0 ∧ t.rec_.lost = s.rec_.lost ∧ t.seq = s.seq ∧ t.dep = s.dep ∧
        ∀ k, k ≠ p → lget t.rec_.lostPending k 0 = lget s.rec_.lostPending k 0) ∧
    ((s.rec_.state ≠ 1 ∨ (List.range 8).find? (fun p => decide (0 < lget s.rec_.lostPending p 0) && recRoom s p 16) = none) →
      exec .recLossRecord s = .next s)) ∧
  (∀ (s : State) (rq : Requester) (val : Word), s.boot.fatal = false →
    (rq.secure = true → rq.src < 4 →
      (s.rec_.replay = 1 → bit val.toNat 0 = true → ∃ t, exec (.recReplay rq val) s = .next t ∧ Logged s t pgRec 0x06) ∧
      (s.rec_.replay ≠ 1 → bit val.toNat 0 = true → replayReady (storeFields s rq pgRec 0x224 0 val.toNat) = true →
        ∃ t, exec (.recReplay rq val) s = .next t ∧ t.rec_.replay = 1 ∧ t.rec_.pos = 0 ∧ t.rec_.div = none ∧ t.mems.host = s.mems.host ∧
          ∀ u, u ∈ t.tiles → u.pinned = true ∧ u.step = bits (t.reg pgRec 0x224) 4 5) ∧
      (s.rec_.replay ≠ 1 → bit val.toNat 0 = true → replayReady (storeFields s rq pgRec 0x224 0 val.toNat) = false →
        ∃ t, exec (.recReplay rq val) s = .next t ∧ t.rec_.replay = 4) ∧
      (bit val.toNat 0 = false → ∃ t, exec (.recReplay rq val) s = .next t ∧ t.rec_.replay = 0 ∧ ∀ u, u ∈ t.tiles → u.pinned = false)) ∧
    (rq.secure = false → ∃ t, exec (.recReplay rq val) s = .next t ∧ Logged s t pgRec 0x03)) ∧
  (∀ (s : State), s.boot.fatal = false → s.rec_.replay = 1 →
    (nextRecord s s.rec_.pos = none → ∃ t, exec .replayStep s = .next t ∧ t.rec_.replay = 2 ∧ t.mems = s.mems ∧ t.dep = s.dep) ∧
    (∀ r a next, nextRecord s s.rec_.pos = some (r, a, next) →
      ((r.pt ≠ replayPt s ∨ r.rtype ∉ [1, 2, 3, 5, 6, 7, 8, 0x0D]) →
        exec .replayStep s = .next { s with rec_ := { s.rec_ with pos := next } }) ∧
      (r.pt = replayPt s →
        (r.rtype = 0x0D → ∃ t, exec .replayStep s = .next t ∧ t.rec_.replay = 5 ∧ t.rec_.pos = next) ∧
        (r.rtype = 7 → replayPt s < s.sec.pts.length → ∃ t, exec .replayStep s = .next t ∧ (t.part (replayPt s)).seed = field r.body 0 8 ∧
          t.rec_.pos = next ∧ t.dep = s.dep ∧ t.mems = s.mems) ∧
        (∀ o, r.rtype = 3 → tget s.rec_.own r.ref = some o →
          (sameCpl s o r.body = true → ∃ t, exec .replayStep s = .next t ∧ t.rec_.pos = next ∧ tget t.rec_.own r.ref = none ∧
            t.rec_.div = s.rec_.div ∧ t.rec_.replay = 1) ∧
          (sameCpl s o r.body = false → ∃ t, exec .replayStep s = .next t ∧ t.rec_.pos = next ∧
            t.rec_.div = some (s.rec_.div.getD (a / recSegBytes s, a % recSegBytes s)) ∧
            t.rec_.replay = (if bit (s.reg pgRec 0x224) 10 then 3 else 1)))))) ∧
  (∀ (s : State), s.boot.fatal = true ∨ s.rec_.replay ≠ 1 → exec .replayStep s = .next s)

/-! ### Power and heat -/

/-- POWER_EVAL, POWER_SAMPLE, PROCHOT_N, REFCLK_LOSS, PWR_LIMIT and PWR_PT_CEIL (after R17, R342, R495, R548 to R552, R557, R564; logs 23, 25, 29). An
evaluation over LIMIT − GUARD takes one action of the first stage not exhausted: the shared ceiling falls, traffic is held by one more sixteenth, Reed
work is held; below LIMIT − 2 × GUARD one action of recovery in the opposite order, and otherwise none; a strict tile's LIMIT stays its partition's
ceiling. PROCHOT_N holds the shared ceiling at or below STEP. A rail out of 90 to 110 % for 5 samples is device-fatal, and a sample within tolerance
is not; it joins both averages. The loss of the reference clock is device-fatal. A write of PWR_LIMIT or PWR_PT_CEIL sets its field where no partition
is strict, and never breaks the sum of R551: one that would is refused with code 0x06; one that is not the secure world's with code 0x03. After a
device-fatal error, and without power, no sample or evaluation does anything. THERMAL_SAMPLE, THERMAL_LEVEL_FALL, THERMAL_LIMIT_STEP,
THERMAL_DIFF_THROTTLE and THERM_LEVEL_SAMPLE (after R495, R537, R554, R555; logs 8, 25, 29). A sample whose readings reach 115 °C on a die sensor or
105 °C on a stack sensor is device-fatal and asserts THERMTRIP_N; any other raises the level at once and never lowers it; 10 ms after a lower
condition began the level falls to what the readings give; at level 3 every tile's LIMIT is 0. At level 2 the LIMIT of each tile that is not strict
and is at or above WARN falls one step at a time; between neighbours more than 30 °C apart the hotter tile's does, and goes on until they are at most
25 °C apart. SEC_PT_THERM takes the level at multiples of 10 ms. Below level 2, without a lower condition, for tiles that are not neighbours, and for
a strict tile nothing changes. -/
def Obligations.PowerAndHeat : Prop :=
  (∀ (s : State), s.boot.fatal = false → s.tiles.length = 48 →
    (∃ t, exec .powerEval s = .next t ∧ t.mems = s.mems ∧ t.dep = s.dep ∧ t.jlk = s.jlk ∧
      (∀ k p, k < 48 → s.pwr.heldCold = false → strictOn s.appliedMap k = some p → (t.tile k).limit = ptCeil s p) ∧
      (bits (s.reg pgPwr 0x200) 0 11 - bits (s.reg pgPwr 0x200) 16 7 < fastAvg s →
        (stage1Done s = false → t.pwr.ceil = s.pwr.ceil - 1 ∧ t.pwr.hold = s.pwr.hold ∧ t.pwr.reedHold = s.pwr.reedHold) ∧
        (stage1Done s = true → s.pwr.hold < 12 → t.pwr.ceil = s.pwr.ceil ∧ t.pwr.hold = s.pwr.hold + 1) ∧
        (stage1Done s = true → 12 ≤ s.pwr.hold → t.pwr.reedHold = true ∧ t.pwr.stage = 3)) ∧
      (fastAvg s < bits (s.reg pgPwr 0x200) 0 11 - 2 * bits (s.reg pgPwr 0x200) 16 7 → s.pwr.recoverAt ≤ s.time →
        t.pwr.recoverAt = s.time + 100000 ∧
        (s.pwr.reedHold = true → t.pwr.reedHold = false ∧ t.pwr.hold = s.pwr.hold) ∧
        (s.pwr.reedHold = false → 0 < s.pwr.hold → t.pwr.hold = s.pwr.hold - 1 ∧ t.pwr.ceil = s.pwr.ceil) ∧
        (s.pwr.reedHold = false → s.pwr.hold = 0 → t.pwr.ceil = min 28 (s.pwr.ceil + 1))) ∧
      (bits (s.reg pgPwr 0x200) 0 11 - 2 * bits (s.reg pgPwr 0x200) 16 7 ≤ fastAvg s →
        fastAvg s ≤ bits (s.reg pgPwr 0x200) 0 11 - bits (s.reg pgPwr 0x200) 16 7 → t.pwr.ceil = s.pwr.ceil ∧ t.pwr.hold = s.pwr.hold ∧
          t.pwr.reedHold = s.pwr.reedHold)) ∧
    (∀ x, s.boot.pwrOk = true → ∃ t, exec (.powerSample x) s = .next t ∧ t.pwr.fast = (x.watts :: s.pwr.fast).take 10 ∧
      t.pwr.slow = (x.watts :: s.pwr.slow).take 1000 ∧ (∀ i, i < 10 → lget t.pwr.railMv i 0 = lget x.mv i 0) ∧ t.dep = s.dep ∧
      (t.boot.fatal = true ↔ (∃ i, i < 10 ∧ ((100 * lget x.mv i 0 < 90 * lget railNominal i 0 ∧ 4 ≤ lget s.pwr.low i 0 ∧ i < s.pwr.low.length) ∨
        (110 * lget railNominal i 0 < 100 * lget x.mv i 0 ∧ 4 ≤ lget s.pwr.high i 0 ∧ i < s.pwr.high.length))))) ∧
    (∀ x, s.boot.pwrOk = false → exec (.powerSample x) s = .next s) ∧
    (∃ t, exec .refclkLoss s = .next t ∧ t.boot.fatal = true ∧ t.clk.refOk = false ∧ t.dep = s.dep)) ∧
  (∀ (s : State) (low : Bool), ∃ t, exec (.prochotN low) s = .next t ∧ t.pwr.prochot = low ∧ t.mems = s.mems ∧ t.dep = s.dep ∧
    (low = true → bit (s.reg pgPwr 0x214) 5 = true → sharedCeil t ≤ bits (s.reg pgPwr 0x214) 0 5) ∧ (low = false → sharedCeil t = t.pwr.ceil)) ∧
  (∀ (s : State) (x : RailSample) (q : List Nat) (a b : Nat), s.boot.fatal = true →
    ∀ c, c ∈ ([.powerEval, .powerSample x, .refclkLoss, .thermalSample q, .thermalLevelFall, .thermalLimitStep, .thermalDiffThrottle a b,
      .thermLevelSample] : List Instr) → exec c s = .next s) ∧
  (∀ (s : State) (rq : Requester) (val : Word) (c : Instr), (c = .pwrLimit rq val ∨ c = .pwrPtCeil rq val) → s.boot.fatal = false →
    (rq.secure = true → rq.src < 4 →
      (hasStrict s.appliedMap = true → powerFits s.appliedMap (ptCeil s) (bits (s.reg pgPwr 0x200) 0 11) = true) →
      ∃ t, exec c s = .next t ∧ t.mems.host = s.mems.host ∧ t.dep = s.dep ∧ t.pwr = s.pwr ∧
        (hasStrict t.appliedMap = true → powerFits t.appliedMap (ptCeil t) (bits (t.reg pgPwr 0x200) 0 11) = true) ∧
        (c = .pwrLimit rq val → hasStrict s.appliedMap = false → 600 ≤ bits val.toNat 0 11 → bits val.toNat 0 11 ≤ 1500 →
          bits (t.reg pgPwr 0x200) 0 11 = bits val.toNat 0 11) ∧
        (c = .pwrPtCeil rq val → hasStrict s.appliedMap = false → bits val.toNat 0 5 ≤ 28 →
          ptCeil t (bits (s.reg pgPwr 0x20C) 0 3) = bits val.toNat 0 5)) ∧
    (rq.secure = true → rq.src < 4 → c = .pwrLimit rq val → hasStrict s.appliedMap = true → 600 ≤ bits val.toNat 0 11 →
      bits val.toNat 0 11 ≤ 1500 → powerFits s.appliedMap (ptCeil s) (bits val.toNat 0 11) = false →
      ∃ t, exec c s = .next t ∧ Logged s t pgPwr 0x06) ∧
    (rq.secure = false → ∃ t, exec c s = .next t ∧ Logged s t pgPwr 0x03)) ∧
  (∀ (s : State), s.boot.fatal = false → s.tiles.length = 48 →
     (∀ q u, u = { s with pwr := { s.pwr with temps := (List.range 64).map fun i => lget q i 0 % 1024 } } →
       (tripped u = true → ∃ t, exec (.thermalSample q) s = .next t ∧ t.boot.fatal = true ∧ t.pwr.thermtrip = true ∧ t.dep = s.dep) ∧
       (tripped u = false → ∃ t, exec (.thermalSample q) s = .next t ∧ t.boot = s.boot ∧ t.pwr.level = max s.pwr.level (readLevel u) ∧
         t.pwr.temps = u.pwr.temps ∧ t.mems = s.mems ∧ t.dep = s.dep ∧
         (readLevel u = 3 → s.pwr.level ≤ 3 → ∀ k, k < 48 → (t.tile k).limit = 0) ∧ (readLevel u < s.pwr.level → t.pwr.lowSince.isSome = true))) ∧
     (∀ a, s.pwr.lowSince = some a → ∃ t, exec .thermalLevelFall s = .next t ∧ t.time = (s.reach (a + 10000000)).time ∧
       t.pwr.level = min s.pwr.level (readLevel s) ∧ t.pwr.lowSince = none ∧ (t.pwr.level < 2 → t.pwr.heldCold = false) ∧ t.mems = s.mems ∧
       t.dep = s.dep) ∧
     (s.pwr.lowSince = none → exec .thermalLevelFall s = .next s) ∧
     (2 ≤ s.pwr.level → s.pwr.thermDrop.length = 48 → ∃ t, exec .thermalLimitStep s = .next t ∧ t.pwr.level = s.pwr.level ∧ t.mems = s.mems ∧
       t.dep = s.dep ∧ ∀ k, k < 48 →
       lget t.pwr.thermDrop k 0 = (if (strictOn s.appliedMap k).isNone ∧ sensorWarn s k ≤ lget s.pwr.temps k 0 then min 28 (lget s.pwr.thermDrop k 0 + 1)
         else lget s.pwr.thermDrop k 0)) ∧
     (s.pwr.level < 2 → exec .thermalLimitStep s = .next s) ∧
     (∀ a b, a < 48 → b < 48 → lget s.pwr.temps a 0 < lget s.pwr.temps b 0 →
       ((neighbours a).contains b = true → (strictOn s.appliedMap b).isNone = true →
         (120 < tileDiff s a b ∨ (100 < tileDiff s a b ∧ 0 < (s.tile b).diffHold) →
           ∃ t, exec (.thermalDiffThrottle a b) s = .next t ∧ (t.tile b).diffHold = min 28 ((s.tile b).diffHold + 1) ∧
             (∀ k, k ≠ b → (t.tile k).diffHold = (s.tile k).diffHold) ∧ t.pwr = s.pwr ∧ t.mems = s.mems ∧ t.dep = s.dep) ∧
         ((tileDiff s a b ≤ 100 ∨ (tileDiff s a b ≤ 120 ∧ (s.tile b).diffHold = 0)) → exec (.thermalDiffThrottle a b) s = .next s)) ∧
       ((neighbours a).contains b = false ∨ (strictOn s.appliedMap b).isSome = true → exec (.thermalDiffThrottle a b) s = .next s)) ∧
     (∃ t, exec .thermLevelSample s = .next t ∧ t.time = (s.reach (roundUp s.time 10000000)).time ∧
       (∀ p, p ∈ t.sec.pts → p.therm = s.pwr.level) ∧ t.pwr = s.pwr ∧ t.mems = s.mems ∧ t.dep = s.dep))

/-! ### Reset and boot -/

/-- COLD, PWR_OK_RISE, PWR_OK_FALL, RST_N_LOW and RST_N_RISE (after R548, R555, R567 to R570; log 28). COLD of the secure world, PWR_OK rising, PWR_OK
falling while RST_N is high, and RST_N falling each give the machine after reset, with its time base at 0 and HBM, scratchpads, registers, partitions
and commands gone, GLB_RST_CAUSE set by the reset, and stage 1 running exactly while RST_N and PWR_OK are both high; what lies outside the device
stays, which is the model's reading (log 28). RST_N rising starts boot at stage 1 once there is power. A pin that already stands so changes nothing,
and a COLD that is not the secure world's is refused with code 0x03. WARM (after R342, R567 to R570; log 89). The secure world's write of
GLB_RST_CTRL.WARM brings the device to stage 2 whatever ran: commands, sequences, keys of ports and sessions are gone, every partition is EMPTY with
PEPOCH raised by 1, and DEPOCH, the time base, the fuses, the region table and the retirement logs stay; a write while a warm reset runs is refused
with code 0x06, and one that is not the secure world's with code 0x03. -/
def Obligations.ColdAndWarmReset : Prop :=
  (∀ (s : State) (rq : Requester),
     (∀ c cause pw rs, (c, cause, pw, rs) ∈ ([(.cold rq, 4, s.boot.pwrOk, s.boot.rstN), (.pwrOkRise, 1, true, s.boot.rstN), (.pwrOkFall, 3, false, true),
         (.rstNLow, 2, s.boot.pwrOk, false)] : List (Instr × Nat × Bool × Bool)) →
       (c = .cold rq → rq.secure = true ∧ rq.src < 4) → (c = .pwrOkRise → s.boot.pwrOk = false) →
       (c = .pwrOkFall → s.boot.pwrOk = true ∧ s.boot.rstN = true) → (c = .rstNLow → s.boot.rstN = true) →
       ∃ t, exec c s = .next t ∧ t.time = 0 ∧ t.regs = [] ∧ t.pages = [] ∧ t.mems.hbm = [] ∧ t.mems.spad = [] ∧ t.dep = {} ∧ t.seq = {} ∧
         t.fab = {} ∧ t.blw = State.reset.blw ∧ t.cxh = State.reset.cxh ∧ t.nvh = State.reset.nvh ∧ t.jlk = State.reset.jlk ∧ t.sec = {} ∧ t.mems.host = s.mems.host ∧ t.mems.pool = s.mems.pool ∧ t.mems.flash = s.mems.flash ∧
         t.pending = s.pending ∧ t.boot.cause = cause ∧ t.boot.fatal = false ∧ t.boot.attReady = false ∧ t.boot.pwrOk = pw ∧ t.boot.rstN = rs ∧
         t.boot.stage = (if pw && rs then 1 else 0)) ∧
     (s.boot.rstN = false → ∃ t, exec .rstNRise s = .next t ∧ t.boot.stage = (if s.boot.pwrOk then 1 else s.boot.stage) ∧ t.boot.rstN = true ∧
       t.mems = s.mems ∧ t.dep = s.dep) ∧
     (s.boot.pwrOk = false ∨ s.boot.rstN = false → ∃ t, exec .pwrOkFall s = .next t ∧ t.boot.pwrOk = false ∧ t.pwr.thermtrip = false ∧
       t.boot.stage = s.boot.stage ∧ t.mems = s.mems ∧ t.dep = s.dep) ∧
     (s.boot.pwrOk = true → exec .pwrOkRise s = .next s) ∧ (s.boot.rstN = false → exec .rstNLow s = .next s) ∧
     (s.boot.rstN = true → exec .rstNRise s = .next s) ∧
     (rq.secure = false → ∃ t, exec (.cold rq) s = .next t ∧ Logged s t pgGlb 0x03)) ∧
  (∀ (s : State) (rq : Requester), rq.src < 4 →
     (rq.secure = true → s.boot.warmRunning = false →
       ∃ t, exec (.warmReset rq) s = .next t ∧ t.boot.stage = 2 ∧ t.boot.fatal = false ∧ t.boot.cause = 5 ∧ t.boot.prevStage = s.boot.stage ∧
         t.boot.prevCode = s.boot.code ∧ t.time = s.time ∧ t.dep = {} ∧ t.seq = {} ∧ t.fab = {} ∧ t.sec.depoch = s.sec.depoch ∧
         t.sec.serial = s.sec.serial ∧ t.sec.drkOk = s.sec.drkOk ∧ t.sec.pts = s.sec.pts.map (fun p => { pepoch := (p.pepoch + 1) % 2 ^ 64 }) ∧
         (∀ i, i < 16 → rgnEntry t i = rgnEntry s i) ∧ t.hbc.map (·.log) = s.hbc.map (·.log) ∧ t.mems.hbm = s.mems.hbm ∧ t.mems.spad = [] ∧
         ∀ l, l ∈ t.jlk → l.keyed = false ∧ l.session = false ∧ l.held = []) ∧
     (rq.secure = true → s.boot.warmRunning = true → ∃ t, exec (.warmReset rq) s = .next t ∧ Logged s t pgGlb 0x06) ∧
     (rq.secure = false → ∃ t, exec (.warmReset rq) s = .next t ∧ Logged s t pgGlb 0x03))

/-- FUSE_LOAD, ROM_SELF_CHECK, MEMORY_FILL_DONE, HOST_PORT_WAIT_TIMEOUT, ATTESTATION_READY and BOOT_STAGE_TIMEOUT (after R411, R570, R572 to R575; logs 8,
9, 85, 89, 104). Each stage's event ends it, or halts boot with the CODE of R573 and the STAGE it halted in. Stage 1 draws the epochs and starts the
ports' training; stage 2 checks the ROM, excludes the stacks that do not train, and ends with every byte outside class 1 ranges and kept count tables
0 and CP0 and CP1 out of PERST; stage 3 past 25 ms shows 0x86 and waits on; stage 4 opens attestation; the bound of a stage gives 0x8F, and so does a
stage's event past it. An event in another stage, or after boot has halted, changes nothing. GLB_PORT_RST and PERST_HOLD_END (after R316, R333, R342,
R387, R560, R569, R571, R578; logs 8, 89, 94). The secure world's write resets one port: a Jurola port that is not off is in DETECT with no key,
session or replay buffer, one that is off stays so; a CXL port and a drive have PERST_N low for 100 µs, after which a CXL port leaves it and a drive
does with NVH_CFG.EN = 1. A code that names no port is refused with code 0x02, a port whose reset runs with code 0x06, and a write that is not the
secure world's with code 0x03. Where no hold runs its end changes nothing. -/
def Obligations.BootAndPortReset : Prop :=
  (∀ (s : State), s.boot.halted = false → s.boot.fatal = false → s.boot.perst.length = 18 →
    (s.boot.stage = 1 → (stageBound s).all (s.time ≤ ·) = true → ∀ d a r,
      (d = false → ∃ t, exec (.fuseLoad d a r) s = .next t ∧ t.boot.halted = true ∧ bootStat t = 1 + 0x81 * 2 ^ 8) ∧
      (d = true → r = false → ∃ t, exec (.fuseLoad d a r) s = .next t ∧ t.boot.halted = true ∧ bootStat t = 1 + 0x82 * 2 ^ 8) ∧
      (d = true → r = true → ∃ t, exec (.fuseLoad d a r) s = .next t ∧ t.boot.stage = 2 ∧ t.boot.halted = false ∧ t.sec.drkOk = true ∧
        t.sec.attOk = a ∧ ∀ p, p < 12 → p < s.jlk.length → bit (s.reg (pgJlk p) 0x200) 0 = true → (s.link p).state = .disabled →
          (t.link p).state = .detect)) ∧
    (s.boot.stage = 2 → s.boot.romOk = false → (stageBound s).all (s.time ≤ ·) = true →
      (∀ f, ∃ t, exec (.romSelfCheck false f) s = .next t ∧ t.boot.halted = true ∧ bootStat t = 2 + 0x83 * 2 ^ 8) ∧
      (∀ f, f % 2 ^ 12 = 2 ^ 12 - 1 → ∃ t, exec (.romSelfCheck true f) s = .next t ∧ t.boot.halted = true ∧ bootStat t = 2 + 0x84 * 2 ^ 8) ∧
      (∀ f, f % 2 ^ 12 ≠ 2 ^ 12 - 1 → ∃ t, exec (.romSelfCheck true f) s = .next t ∧ t.boot.romOk = true ∧ t.boot.halted = false ∧
        t.boot.code = (if f % 2 ^ 12 = 0 then 0 else 2) ∧ (∀ m, m < 12 → m < s.hbc.length → (t.hb m).excluded = bit f m))) ∧
    (s.boot.stage = 2 → s.boot.romOk = true → (stageBound s).all (s.time ≤ ·) = true →
      ∃ t, exec .memoryFillDone s = .next t ∧
      t.boot.stage = (if (List.range 4).any (portActive s) then 4 else 3) ∧ lget t.boot.perst 16 false = true ∧ lget t.boot.perst 17 false = true ∧
      (∀ a, (keptRanges s).any (fun r => decide (r.1 ≤ a ∧ a < r.2)) = true → mread t.mems.hbm a = mread s.mems.hbm a) ∧
      (∀ a, (keptRanges s).any (fun r => decide (r.1 ≤ a ∧ a < r.2)) = false → mread t.mems.hbm a = 0)) ∧
    (s.boot.stage = 3 → ∃ t, exec .hostPortWaitTimeout s = .next t ∧ t.boot.code = 0x86 ∧ t.boot.stage = 3 ∧ t.boot.halted = false ∧
      t.time = (s.reach (s.boot.trainAt + 25000000)).time ∧ t.mems = s.mems ∧ t.dep = s.dep) ∧
    (s.boot.stage = 4 → (stageBound s).all (s.time ≤ ·) = true →
      (s.sec.attOk = true → ∃ t, exec .attestationReady s = .next t ∧ t.boot.stage = 5 ∧ t.boot.attReady = true ∧ t.boot.warmRunning = false) ∧
      (s.sec.attOk = false → ∃ t, exec .attestationReady s = .next t ∧ t.boot.halted = true ∧ bootStat t = 4 + 0x85 * 2 ^ 8 ∧ t.boot.attReady = s.boot.attReady)) ∧
    (∀ b, stageBound s = some b → ∃ t, exec .bootStageTimeout s = .next t ∧ t.boot.halted = true ∧ t.boot.code = 0x8F ∧ t.boot.stage = s.boot.stage ∧
      t.time = (s.reach b).time ∧ t.mems = s.mems)) ∧
  (∀ (s : State) (b : Nat), s.boot.halted = false → s.boot.fatal = false → stageBound s = some b → b < s.time →
    ∀ c d a r m f,
      (s.boot.stage = 1 ∧ c = .fuseLoad d a r) ∨ (s.boot.stage = 2 ∧ s.boot.romOk = false ∧ c = .romSelfCheck m f) ∨
        (s.boot.stage = 2 ∧ s.boot.romOk = true ∧ c = .memoryFillDone) ∨ (s.boot.stage = 4 ∧ c = .attestationReady) →
      exec c s = exec .bootStageTimeout s ∧ ∃ t, exec c s = .next t ∧ t.boot.halted = true ∧ bootStat t = s.boot.stage + 0x8F * 2 ^ 8) ∧
  (∀ (s : State) (d a r m : Bool) (f : Nat),
    (inStage s 1 = false → exec (.fuseLoad d a r) s = .next s) ∧
    (inStage s 2 = false ∨ s.boot.romOk = true → exec (.romSelfCheck m f) s = .next s) ∧
    (inStage s 2 = false ∨ s.boot.romOk = false → exec .memoryFillDone s = .next s) ∧
    (inStage s 3 = false → exec .hostPortWaitTimeout s = .next s) ∧
    (inStage s 4 = false → exec .attestationReady s = .next s) ∧
    (stageBound s = none ∨ s.boot.halted = true ∨ s.boot.fatal = true → exec .bootStageTimeout s = .next s)) ∧
  (∀ (s : State) (rq : Requester) (val : Word) (p : Nat), s.boot.fatal = false → rq.secure = true → rq.src < 4 → p = val.toNat % 64 →
    (((12 ≤ p ∧ p < 16) ∨ (18 ≤ p ∧ p < 32) ∨ 48 ≤ p) → ∃ t, exec (.glbPortRst rq val) s = .next t ∧ Logged s t pgGlb 0x02) ∧
    ((p < 12 ∨ (16 ≤ p ∧ p < 18) ∨ (32 ≤ p ∧ p < 48)) → (s.boot.warmRunning = true ∨ tmem s.boot.portReset p = true) →
      ∃ t, exec (.glbPortRst rq val) s = .next t ∧ Logged s t pgGlb 0x06) ∧
    (s.boot.warmRunning = false → tmem s.boot.portReset p = false →
      (p < 12 → p < s.jlk.length → (s.link p).reads = [] → (s.link p).state ≠ .disabled →
        ∃ t, exec (.glbPortRst rq val) s = .next t ∧ (t.link p).state = .detect ∧ (t.link p).keyed = false ∧ (t.link p).session = false ∧
          (t.link p).held = []) ∧
      (p < 12 → (s.link p).state = .disabled → exec (.glbPortRst rq val) s = .next s) ∧
      (((16 ≤ p ∧ p < 18) ∨ (32 ≤ p ∧ p < 48)) → s.boot.perst.length = 18 →
        ∃ t, exec (.glbPortRst rq val) s = .next t ∧ lget t.boot.perst (if p < 18 then p else p - 32) true = false ∧
          tget t.boot.portReset p = some (s.time + 100000)))) ∧
  (∀ (s : State) (p b : Nat), s.boot.fatal = false → tget s.boot.portReset p = some b → s.boot.perst.length = 18 →
    (16 ≤ p → p < 18 → ∃ t, exec (.perstHoldEnd p) s = .next t ∧ lget t.boot.perst p false = true ∧ tget t.boot.portReset p = none ∧
      t.time = (s.reach b).time ∧ t.mems = s.mems) ∧
    (32 ≤ p → p < 48 → bit (s.reg pgNvh 0x200) 0 = true → ∃ t, exec (.perstHoldEnd p) s = .next t ∧ lget t.boot.perst (p - 32) false = true ∧
      tget t.boot.portReset p = none ∧ t.time = (s.reach b).time ∧ t.mems = s.mems) ∧
    (32 ≤ p → p < 48 → bit (s.reg pgNvh 0x200) 0 = false → ∃ t, exec (.perstHoldEnd p) s = .next t ∧ t.boot.perst = s.boot.perst ∧
      tget t.boot.portReset p = none ∧ t.mems = s.mems)) ∧
  (∀ (s : State) (rq : Requester) (val : Word), s.boot.fatal = false → rq.secure = false →
    ∃ t, exec (.glbPortRst rq val) s = .next t ∧ Logged s t pgGlb 0x03) ∧
  (∀ (s : State) (p : Nat), s.boot.fatal = true ∨ tget s.boot.portReset p = none → exec (.perstHoldEnd p) s = .next s)
end

