-- ==== Sys2Proof/Laws/Clock.lean ====
section
/-!
SUPPORT. What waiting for an instant does to the time base: it never steps back, it gets there, and it overshoots by less than one cycle.
-/

namespace Sys2Proof.Machine

theorem refNs_pos (p : Nat) : 6 ≤ refNs p ∧ refNs p ≤ 7 := by unfold refNs; split <;> omega

theorem clockRun_ge (k : Nat) (c : Nat × Nat) (t : Nat) : c.1 ≤ (clockRun k c t).1 := by
  induction k generalizing c with
  | zero => exact Nat.le_refl _
  | succ k ih =>
    unfold clockRun
    split
    · exact Nat.le_refl _
    · exact Nat.le_trans (Nat.le_add_right c.1 (refNs c.2)) (ih (c.1 + refNs c.2, (c.2 + 1) % 5))

/-- A run stops less than a cycle's 7 ns past the instant, unless it began there. -/
theorem clockRun_near (k : Nat) (c : Nat × Nat) (t : Nat) (h : c.1 < t + 7) : (clockRun k c t).1 < t + 7 := by
  induction k generalizing c with
  | zero => exact h
  | succ k ih =>
    unfold clockRun
    split
    · exact h
    · exact ih _ (by have := (refNs_pos c.2).2; simp only; omega)

/-- The five cycles of a pattern add 32 ns, wherever in the pattern they begin. -/
theorem refNs_pattern (p : Nat) : refNs p + refNs ((p + 1) % 5) + refNs (((p + 1) % 5 + 1) % 5) +
    refNs ((((p + 1) % 5 + 1) % 5 + 1) % 5) + refNs (((((p + 1) % 5 + 1) % 5 + 1) % 5 + 1) % 5) = 32 := by
  have h : p % 5 = 0 ∨ p % 5 = 1 ∨ p % 5 = 2 ∨ p % 5 = 3 ∨ p % 5 = 4 := by omega
  rcases h with h | h | h | h | h <;> simp [refNs, Nat.add_mod, h]

theorem clockRun_reaches (c : Nat × Nat) (t : Nat) (h : t < c.1 + 32) : t ≤ (clockRun 5 c t).1 := by
  have hp := refNs_pattern c.2
  simp only [clockRun]
  repeat' split
  all_goals omega

theorem reach_time_reaches (s : State) (t : Nat) : t ≤ (s.reach t).time :=
  clockRun_reaches (s.time + 32 * ((t - s.time) / 32), s.phase) t (by simp only; omega)

theorem reach_time_ge (s : State) (t : Nat) : s.time ≤ (s.reach t).time :=
  Nat.le_trans (Nat.le_add_right s.time (32 * ((t - s.time) / 32))) (clockRun_ge 5 (_, s.phase) t)

theorem reach_time_near (s : State) (t : Nat) (h : s.time ≤ t) : (s.reach t).time < t + 7 :=
  clockRun_near 5 _ t (by simp only; omega)

/-- An instant already past moves nothing. -/
theorem reach_past (s : State) (t : Nat) (h : t ≤ s.time) : (s.reach t).time = s.time := by
  have h0 : (t - s.time) / 32 = 0 := by rw [Nat.sub_eq_zero_of_le h]
  unfold State.reach clockTo
  simp only [h0, Nat.mul_zero, Nat.add_zero]
  unfold clockRun
  simp [h]

end Sys2Proof.Machine
end

