-- ==== Sys2Proof/Laws/Table.lean ====
section
/-!
SUPPORT. Sparse tables, lists of units and the accessors built on them: what a read gives after a write, at the same key and at another.
-/

namespace Sys2Proof.Machine

/-! ### Tables -/

theorem tget_tset {V : Type} (t : Tbl V) (a b : Nat) (v : V) : tget (tset t a v) b = if a = b then some v else tget t b := by
  induction t with
  | nil => simp [tset, tget]
  | cons e t ih =>
    obtain ⟨k, w⟩ := e
    simp only [tset]
    split
    · simp [tget]
    · split
      · subst_vars; simp only [tget]; split <;> simp_all
      · simp only [tget, ih]; split <;> split <;> simp_all

theorem tget_tdel {V : Type} (t : Tbl V) (a b : Nat) : tget (tdel t a) b = if a = b then none else tget t b := by
  induction t with
  | nil => simp [tdel, tget]
  | cons e t ih =>
    obtain ⟨k, w⟩ := e
    by_cases h : k = a
    · subst h
      have : tdel ((k, w) :: t) k = tdel t k := by simp [tdel]
      rw [this, ih]; simp only [tget]; split <;> simp_all
    · have : tdel ((k, w) :: t) a = (k, w) :: tdel t a := by simp [tdel, h]
      rw [this]; simp only [tget, ih]; split <;> split <;> simp_all

@[simp] theorem tget_tset_same {V : Type} (t : Tbl V) (a : Nat) (v : V) : tget (tset t a v) a = some v := by simp [tget_tset]
@[simp] theorem tget_tdel_same {V : Type} (t : Tbl V) (a : Nat) : tget (tdel t a) a = none := by simp [tget_tdel]

theorem tgetD_tset {V : Type} (t : Tbl V) (a b : Nat) (v d : V) : tgetD (tset t a v) b d = if a = b then v else tgetD t b d := by
  simp only [tgetD, tget_tset]; split <;> rfl

theorem tgetD_tput {V : Type} [DecidableEq V] (d : V) (t : Tbl V) (a b : Nat) (v : V) :
    tgetD (tput d t a v) b d = if a = b then v else tgetD t b d := by
  unfold tput tgetD
  split
  · rw [tget_tdel]; split <;> simp_all
  · rw [tget_tset]; split <;> simp_all

@[simp] theorem tgetD_tput_same {V : Type} [DecidableEq V] (d : V) (t : Tbl V) (a : Nat) (v : V) : tgetD (tput d t a v) a d = v := by
  simp [tgetD_tput]

/-! ### Lists of units -/

theorem lget_lmod {α : Type} (l : List α) (i j : Nat) (f : α → α) (d : α) :
    lget (lmod l i f) j d = if i = j ∧ j < l.length then f (lget l j d) else lget l j d := by
  unfold lget lmod
  rw [List.getElem?_modify]
  by_cases h : j < l.length
  · by_cases e : i = j <;> simp [h, e]
  · by_cases e : i = j <;> simp [h, e]

theorem lget_lset {α : Type} (l : List α) (i j : Nat) (v d : α) :
    lget (lset l i v) j d = if i = j ∧ j < l.length then v else lget l j d := by
  unfold lget lset
  rw [List.getElem?_set]
  by_cases e : i = j
  · subst e
    by_cases h : i < l.length
    · simp [h]
    · simp [h]
  · simp [e]

@[simp] theorem length_lmod {α : Type} (l : List α) (i : Nat) (f : α → α) : (lmod l i f).length = l.length := by simp [lmod]
@[simp] theorem length_lset {α : Type} (l : List α) (i : Nat) (v : α) : (lset l i v).length = l.length := by simp [lset]

/-! ### Units after their own update -/

theorem State.link_setLink (s : State) (p q : Nat) (f : Jlk → Jlk) :
    (s.setLink p f).link q = if p = q ∧ q < s.jlk.length then f (s.link q) else s.link q := lget_lmod ..
theorem State.sched_setSched (s : State) (p q : Nat) (f : Tsc → Tsc) :
    (s.setSched p f).sched q = if p = q ∧ q < s.tsc.length then f (s.sched q) else s.sched q := lget_lmod ..
theorem State.tile_setTile (s : State) (p q : Nat) (f : Tile → Tile) :
    (s.setTile p f).tile q = if p = q ∧ q < s.tiles.length then f (s.tile q) else s.tile q := lget_lmod ..
theorem State.part_setPart (s : State) (p q : Nat) (f : Part → Part) :
    (s.setPart p f).part q = if p = q ∧ q < s.sec.pts.length then f (s.part q) else s.part q := lget_lmod ..
theorem State.hb_setHb (s : State) (p q : Nat) (f : Hbc → Hbc) :
    (s.setHb p f).hb q = if p = q ∧ q < s.hbc.length then f (s.hb q) else s.hb q := lget_lmod ..
theorem State.chan_setChan (s : State) (p q : Nat) (f : DmaCh → DmaCh) :
    (s.setChan p f).chan q = if p = q ∧ q < s.dma.chs.length then f (s.chan q) else s.chan q := lget_lmod ..
theorem State.cport_setCport (s : State) (p q : Nat) (f : CxlPort → CxlPort) :
    (s.setCport p f).cport q = if p = q ∧ q < s.cxh.ports.length then f (s.cport q) else s.cport q := lget_lmod ..
theorem State.drive_setDrive (s : State) (p q : Nat) (f : Drive → Drive) :
    (s.setDrive p f).drive q = if p = q ∧ q < s.nvh.drives.length then f (s.drive q) else s.drive q := lget_lmod ..
theorem State.bank_setBank (s : State) (p q : Nat) (f : Bank → Bank) :
    (s.setBank p f).bank q = if p = q ∧ q < s.chn.banks.length then f (s.bank q) else s.bank q := lget_lmod ..
theorem State.ctx_setCtx (s : State) (p q : Nat) (f : Ctx → Ctx) :
    (s.setCtx p f).ctx q = if p = q then f (s.ctx p) else s.ctx q := tgetD_tput ..
theorem State.loc_setLoc (s : State) (p q : Nat) (f : Loc → Loc) :
    (s.setLoc p f).loc q = if p = q then f (s.loc p) else s.loc q := tgetD_tput ..
theorem State.row_setRow (s : State) (q l q' l' : Nat) (f : LayerRow → LayerRow) :
    (s.setRow q l f).row q' l' = if q * 256 + l = q' * 256 + l' then f (s.row q l) else s.row q' l' := tgetD_tput ..
theorem State.subRing_setSubRing (s : State) (p q : Nat) (f : SubRing → SubRing) :
    (s.setSubRing p f).subRing q = if p = q then f (s.subRing p) else s.subRing q := tgetD_tput ..
theorem State.cplRing_setCplRing (s : State) (p c p' c' : Nat) (f : CplRing → CplRing) :
    (s.setCplRing p c f).cplRing p' c' = if p * 64 + c = p' * 64 + c' then f (s.cplRing p c) else s.cplRing p' c' := tgetD_tput ..
theorem State.slot_setSlot (s : State) (p q : Nat) (f : DirSlot → DirSlot) :
    (s.setSlot p f).slot q = if p = q then f (s.slot p) else s.slot q := tgetD_tput ..
theorem State.qp_setQp (s : State) (p q : Nat) (f : Qpc → Qpc) :
    (s.setQp p f).qp q = if p = q then f (s.qp p) else s.qp q := tgetD_tput ..
theorem State.key_setKey (s : State) (p q : Nat) (f : Key → Key) :
    (s.setKey p f).key q = if p = q then f (s.key p) else s.key q := tgetD_tput ..
theorem State.ptr_setPtr (s : State) (p q v : Nat) : (s.setPtr p v).ptr q = if p = q then v else s.ptr q := tgetD_tput ..
theorem State.node_setNode (s : State) (p q : Nat) (f : Node → Node) :
    (s.setNode p f).node q = if p = q then (s.node p).map f else s.node q := by
  unfold State.setNode State.node
  split
  · rename_i n h
    rw [tget_tset]; split <;> simp_all
  · rename_i h
    split <;> simp_all
theorem State.page_setPage_same (s : State) (n : Nat) (f : Page → Page) : (s.setPage n f).page n = f (s.page n) := by
  simp [State.page, State.setPage]
theorem State.page_setPage_ne (s : State) (n m : Nat) (f : Page → Page) (h : n ≠ m) : (s.setPage n f).page m = s.page m := by
  unfold State.page State.setPage tput tgetD
  dsimp only
  split
  · rw [tget_tdel, if_neg h]
  · rw [tget_tset, if_neg h]
/-- A register written reads as written, in 32 bits. -/
theorem State.reg_setReg_same (s : State) (p o b v : Nat) (h : regReset p o < 2 ^ 32) : (s.setReg p o b v).reg p o b = v % 2 ^ 32 := by
  unfold State.reg State.setReg tput
  dsimp only
  by_cases e : BitVec.ofNat 32 v = BitVec.ofNat 32 (regReset p o)
  · rw [if_pos e, tget_tdel_same]
    have := congrArg BitVec.toNat e
    simp only [BitVec.toNat_ofNat] at this
    show regReset p o = _
    omega
  · rw [if_neg e, tget_tset_same]; simp

end Sys2Proof.Machine
end

