-- ==== Sys2Proof/Laws/Memory.lean ====
section
/-!
SUPPORT. Memories: what a byte reads as after each operation, and that every operation keeps the canonical form `Memory.wf`.
-/

namespace Sys2Proof.Machine

/-! ### Reading -/

/-- A byte reads back as written, and every other byte is as before. -/
theorem mread_mwrite (m : Memory) (a c : Nat) (b : Byte) : mread (mwrite m a b) c = if a = c then b else mread m c := by
  unfold mread mwrite tgetD
  split
  · rename_i h; subst h; rw [tget_tdel]; split <;> rfl
  · rw [tget_tset]; split <;> rfl

/-- A byte outside the written range is as before. -/
theorem mread_mwrites_out (bs : List Byte) : ∀ (m : Memory) (a c : Nat), c < a ∨ a + bs.length ≤ c → mread (mwrites m a bs) c = mread m c := by
  induction bs with
  | nil => intro m a c _; rfl
  | cons b bs ih =>
    intro m a c h
    simp only [List.length_cons] at h
    rw [mwrites, ih _ _ _ (by omega), mread_mwrite, if_neg (by omega)]

/-- Byte i of the written range reads as byte i of what was written. -/
theorem mread_mwrites_in (bs : List Byte) : ∀ (m : Memory) (a i : Nat), i < bs.length → mread (mwrites m a bs) (a + i) = bs.getD i 0 := by
  induction bs with
  | nil => intro m a i h; simp at h
  | cons b bs ih =>
    intro m a i h
    rw [mwrites]
    cases i with
    | zero => rw [mread_mwrites_out _ _ _ _ (by omega), mread_mwrite]; simp
    | succ i =>
      have := ih (mwrite m a b) (a + 1) i (by simpa using h)
      rw [show a + (i + 1) = a + 1 + i by omega, this]; simp

theorem tget_filter (p : Nat → Bool) (t : Tbl Byte) (c : Nat) : tget (t.filter fun e => p e.1) c = if p c then tget t c else none := by
  induction t with
  | nil => simp [tget]
  | cons e t ih =>
    obtain ⟨k, v⟩ := e
    by_cases h : p k
    · simp only [List.filter_cons, h, if_true, tget, ih]
      split <;> simp_all
    · simp only [List.filter_cons, h, tget]
      by_cases e : k = c
      · subst e; simp [h, ih]
      · simp [e, ih]

theorem mread_mclear (m : Memory) (a n c : Nat) : mread (mclear m a n) c = if a ≤ c ∧ c < a + n then 0 else mread m c := by
  have := tget_filter (fun x => decide (x < a ∨ a + n ≤ x)) m c
  unfold mread mclear tgetD
  rw [this]
  by_cases h : c < a ∨ a + n ≤ c
  · rw [if_pos (by simpa using h), if_neg (by omega)]
  · rw [if_neg (by simpa using h), if_pos (by omega)]; rfl

/-! ### The canonical form -/

theorem wfFrom_mono {lo lo' : Nat} : ∀ {m : Memory}, Memory.wfFrom lo m = true → lo' ≤ lo → Memory.wfFrom lo' m = true
  | [], _, _ => rfl
  | (a, b) :: m, h, hl => by
    simp only [Memory.wfFrom, Bool.and_eq_true, decide_eq_true_eq] at h ⊢
    exact ⟨⟨by omega, h.1.2⟩, h.2⟩

theorem wfFrom_filter (p : Nat × Byte → Bool) : ∀ {m : Memory} {lo : Nat}, Memory.wfFrom lo m = true → Memory.wfFrom lo (m.filter p) = true
  | [], _, _ => rfl
  | (a, b) :: m, lo, h => by
    simp only [Memory.wfFrom, Bool.and_eq_true, decide_eq_true_eq] at h
    have := wfFrom_filter p h.2
    by_cases e : p (a, b)
    · simp only [List.filter_cons, e, if_true, Memory.wfFrom, Bool.and_eq_true, decide_eq_true_eq]
      exact ⟨h.1, this⟩
    · simp only [List.filter_cons, e]
      exact wfFrom_mono this (by omega)

theorem wfFrom_tset {b : Byte} (hb : b ≠ 0) : ∀ {m : Memory} {lo a : Nat}, Memory.wfFrom lo m = true → lo ≤ a →
    Memory.wfFrom lo (tset m a b) = true
  | [], lo, a, _, h => by simpa [tset, Memory.wfFrom, h] using hb
  | (k, w) :: m, lo, a, h, hl => by
    simp only [Memory.wfFrom, Bool.and_eq_true, decide_eq_true_eq] at h
    simp only [tset]
    split
    · rename_i c
      simp only [Memory.wfFrom, Bool.and_eq_true, decide_eq_true_eq]
      exact ⟨⟨hl, hb⟩, ⟨by omega, h.1.2⟩, h.2⟩
    · split
      · rename_i c e
        subst e
        simp only [Memory.wfFrom, Bool.and_eq_true, decide_eq_true_eq]
        exact ⟨⟨hl, hb⟩, h.2⟩
      · rename_i c e
        simp only [Memory.wfFrom, Bool.and_eq_true, decide_eq_true_eq]
        exact ⟨h.1, wfFrom_tset hb h.2 (by omega)⟩

theorem wf_filter {m : Memory} (p : Nat × Byte → Bool) (h : m.wf = true) : Memory.wf (m.filter p) = true := wfFrom_filter p h

theorem wf_mwrite {m : Memory} (a : Nat) (b : Byte) (h : m.wf = true) : (mwrite m a b).wf = true := by
  unfold mwrite
  split
  · exact wf_filter _ h
  · rename_i e; exact wfFrom_tset e h (Nat.zero_le a)

theorem wf_mwrites (bs : List Byte) : ∀ {m : Memory} (a : Nat), m.wf = true → (mwrites m a bs).wf = true := by
  induction bs with
  | nil => intro m a h; exact h
  | cons b bs ih => intro m a h; exact ih _ (wf_mwrite a b h)

theorem wf_mclear {m : Memory} (a n : Nat) (h : m.wf = true) : (mclear m a n).wf = true := wf_filter _ h
theorem wf_mkeep {m : Memory} (a n : Nat) (h : m.wf = true) : (mkeep m a n).wf = true := wf_filter _ h

theorem wf_mputCells (d e : Nat) : ∀ {m : Memory} (cs : List Host.Cell), m.wf = true → (mputCells m d e cs).wf = true
  | _, [], h => h
  | _, _ :: cs, h => wf_mputCells d e cs (wf_mwrite _ _ h)

theorem wf_mcopy {dst : Memory} (src : Memory) (a n b : Nat) (h : dst.wf = true) : (mcopy src a n dst b).wf = true :=
  wf_mputCells _ _ _ (wf_mclear _ _ h)

/-! ### The operations on the state's memories -/

theorem reset_memsWf : State.reset.memsWf = true := rfl

theorem hbmWrite_memsWf (s : State) (a : Nat) (bs : List Byte) (h : s.memsWf = true) : (hbmWrite s a bs).memsWf = true := by
  simp only [State.memsWf, hbmWrite, Bool.and_eq_true] at h ⊢
  exact ⟨⟨⟨⟨wf_mwrites _ _ h.1.1.1.1, h.1.1.1.2⟩, h.1.1.2⟩, h.1.2⟩, h.2⟩

theorem hbmZero_memsWf (s : State) (a n : Nat) (h : s.memsWf = true) : (hbmZero s a n).memsWf = true := by
  simp only [State.memsWf, hbmZero, Bool.and_eq_true] at h ⊢
  exact ⟨⟨⟨⟨wf_mclear _ _ h.1.1.1.1, h.1.1.1.2⟩, h.1.1.2⟩, h.1.2⟩, h.2⟩

/-- A byte outside the written range of HBM is as before. -/
theorem hbmWrite_out (s : State) (a c : Nat) (bs : List Byte) (h : c < a ∨ a + bs.length ≤ c) :
    mread (hbmWrite s a bs).mems.hbm c = mread s.mems.hbm c := mread_mwrites_out _ _ _ _ h

end Sys2Proof.Machine
end

