-- ==== Sys2Proof/Laws/State.lean ====
section
/-!
SUPPORT. What each named update of the state leaves alone: one lemma per field and one per unit accessor, each true by the form of the
update, so that no proof unfolds a record update.
-/

namespace Sys2Proof.Machine

/-! ### setLink -/

@[simp] theorem State.setLink_pending (s : State) (p : Nat) (f : Jlk → Jlk) : (s.setLink p f).pending = s.pending := rfl
@[simp] theorem State.setLink_time (s : State) (p : Nat) (f : Jlk → Jlk) : (s.setLink p f).time = s.time := rfl
@[simp] theorem State.setLink_phase (s : State) (p : Nat) (f : Jlk → Jlk) : (s.setLink p f).phase = s.phase := rfl
@[simp] theorem State.setLink_fresh (s : State) (p : Nat) (f : Jlk → Jlk) : (s.setLink p f).fresh = s.fresh := rfl
@[simp] theorem State.setLink_regs (s : State) (p : Nat) (f : Jlk → Jlk) : (s.setLink p f).regs = s.regs := rfl
@[simp] theorem State.setLink_pages (s : State) (p : Nat) (f : Jlk → Jlk) : (s.setLink p f).pages = s.pages := rfl
@[simp] theorem State.setLink_ptrs (s : State) (p : Nat) (f : Jlk → Jlk) : (s.setLink p f).ptrs = s.ptrs := rfl
@[simp] theorem State.setLink_mems (s : State) (p : Nat) (f : Jlk → Jlk) : (s.setLink p f).mems = s.mems := rfl
@[simp] theorem State.setLink_boot (s : State) (p : Nat) (f : Jlk → Jlk) : (s.setLink p f).boot = s.boot := rfl
@[simp] theorem State.setLink_clk (s : State) (p : Nat) (f : Jlk → Jlk) : (s.setLink p f).clk = s.clk := rfl
@[simp] theorem State.setLink_pwr (s : State) (p : Nat) (f : Jlk → Jlk) : (s.setLink p f).pwr = s.pwr := rfl
@[simp] theorem State.setLink_sec (s : State) (p : Nat) (f : Jlk → Jlk) : (s.setLink p f).sec = s.sec := rfl
@[simp] theorem State.setLink_dep (s : State) (p : Nat) (f : Jlk → Jlk) : (s.setLink p f).dep = s.dep := rfl
@[simp] theorem State.setLink_seq (s : State) (p : Nat) (f : Jlk → Jlk) : (s.setLink p f).seq = s.seq := rfl
@[simp] theorem State.setLink_chn (s : State) (p : Nat) (f : Jlk → Jlk) : (s.setLink p f).chn = s.chn := rfl
@[simp] theorem State.setLink_att (s : State) (p : Nat) (f : Jlk → Jlk) : (s.setLink p f).att = s.att := rfl
@[simp] theorem State.setLink_warm (s : State) (p : Nat) (f : Jlk → Jlk) : (s.setLink p f).warm = s.warm := rfl
@[simp] theorem State.setLink_tiles (s : State) (p : Nat) (f : Jlk → Jlk) : (s.setLink p f).tiles = s.tiles := rfl
@[simp] theorem State.setLink_blw (s : State) (p : Nat) (f : Jlk → Jlk) : (s.setLink p f).blw = s.blw := rfl
@[simp] theorem State.setLink_hbc (s : State) (p : Nat) (f : Jlk → Jlk) : (s.setLink p f).hbc = s.hbc := rfl
@[simp] theorem State.setLink_nvh (s : State) (p : Nat) (f : Jlk → Jlk) : (s.setLink p f).nvh = s.nvh := rfl
@[simp] theorem State.setLink_cxh (s : State) (p : Nat) (f : Jlk → Jlk) : (s.setLink p f).cxh = s.cxh := rfl
@[simp] theorem State.setLink_fab (s : State) (p : Nat) (f : Jlk → Jlk) : (s.setLink p f).fab = s.fab := rfl
@[simp] theorem State.setLink_dma (s : State) (p : Nat) (f : Jlk → Jlk) : (s.setLink p f).dma = s.dma := rfl
@[simp] theorem State.setLink_cnt (s : State) (p : Nat) (f : Jlk → Jlk) : (s.setLink p f).cnt = s.cnt := rfl
@[simp] theorem State.setLink_snp (s : State) (p : Nat) (f : Jlk → Jlk) : (s.setLink p f).snp = s.snp := rfl
@[simp] theorem State.setLink_rec_ (s : State) (p : Nat) (f : Jlk → Jlk) : (s.setLink p f).rec_ = s.rec_ := rfl
@[simp] theorem State.setLink_tsc (s : State) (p : Nat) (f : Jlk → Jlk) : (s.setLink p f).tsc = s.tsc := rfl

/-! ### setSched -/

@[simp] theorem State.setSched_pending (s : State) (p : Nat) (f : Tsc → Tsc) : (s.setSched p f).pending = s.pending := rfl
@[simp] theorem State.setSched_time (s : State) (p : Nat) (f : Tsc → Tsc) : (s.setSched p f).time = s.time := rfl
@[simp] theorem State.setSched_phase (s : State) (p : Nat) (f : Tsc → Tsc) : (s.setSched p f).phase = s.phase := rfl
@[simp] theorem State.setSched_fresh (s : State) (p : Nat) (f : Tsc → Tsc) : (s.setSched p f).fresh = s.fresh := rfl
@[simp] theorem State.setSched_regs (s : State) (p : Nat) (f : Tsc → Tsc) : (s.setSched p f).regs = s.regs := rfl
@[simp] theorem State.setSched_pages (s : State) (p : Nat) (f : Tsc → Tsc) : (s.setSched p f).pages = s.pages := rfl
@[simp] theorem State.setSched_ptrs (s : State) (p : Nat) (f : Tsc → Tsc) : (s.setSched p f).ptrs = s.ptrs := rfl
@[simp] theorem State.setSched_mems (s : State) (p : Nat) (f : Tsc → Tsc) : (s.setSched p f).mems = s.mems := rfl
@[simp] theorem State.setSched_boot (s : State) (p : Nat) (f : Tsc → Tsc) : (s.setSched p f).boot = s.boot := rfl
@[simp] theorem State.setSched_clk (s : State) (p : Nat) (f : Tsc → Tsc) : (s.setSched p f).clk = s.clk := rfl
@[simp] theorem State.setSched_pwr (s : State) (p : Nat) (f : Tsc → Tsc) : (s.setSched p f).pwr = s.pwr := rfl
@[simp] theorem State.setSched_sec (s : State) (p : Nat) (f : Tsc → Tsc) : (s.setSched p f).sec = s.sec := rfl
@[simp] theorem State.setSched_dep (s : State) (p : Nat) (f : Tsc → Tsc) : (s.setSched p f).dep = s.dep := rfl
@[simp] theorem State.setSched_seq (s : State) (p : Nat) (f : Tsc → Tsc) : (s.setSched p f).seq = s.seq := rfl
@[simp] theorem State.setSched_chn (s : State) (p : Nat) (f : Tsc → Tsc) : (s.setSched p f).chn = s.chn := rfl
@[simp] theorem State.setSched_att (s : State) (p : Nat) (f : Tsc → Tsc) : (s.setSched p f).att = s.att := rfl
@[simp] theorem State.setSched_warm (s : State) (p : Nat) (f : Tsc → Tsc) : (s.setSched p f).warm = s.warm := rfl
@[simp] theorem State.setSched_tiles (s : State) (p : Nat) (f : Tsc → Tsc) : (s.setSched p f).tiles = s.tiles := rfl
@[simp] theorem State.setSched_blw (s : State) (p : Nat) (f : Tsc → Tsc) : (s.setSched p f).blw = s.blw := rfl
@[simp] theorem State.setSched_hbc (s : State) (p : Nat) (f : Tsc → Tsc) : (s.setSched p f).hbc = s.hbc := rfl
@[simp] theorem State.setSched_nvh (s : State) (p : Nat) (f : Tsc → Tsc) : (s.setSched p f).nvh = s.nvh := rfl
@[simp] theorem State.setSched_cxh (s : State) (p : Nat) (f : Tsc → Tsc) : (s.setSched p f).cxh = s.cxh := rfl
@[simp] theorem State.setSched_fab (s : State) (p : Nat) (f : Tsc → Tsc) : (s.setSched p f).fab = s.fab := rfl
@[simp] theorem State.setSched_dma (s : State) (p : Nat) (f : Tsc → Tsc) : (s.setSched p f).dma = s.dma := rfl
@[simp] theorem State.setSched_cnt (s : State) (p : Nat) (f : Tsc → Tsc) : (s.setSched p f).cnt = s.cnt := rfl
@[simp] theorem State.setSched_snp (s : State) (p : Nat) (f : Tsc → Tsc) : (s.setSched p f).snp = s.snp := rfl
@[simp] theorem State.setSched_rec_ (s : State) (p : Nat) (f : Tsc → Tsc) : (s.setSched p f).rec_ = s.rec_ := rfl
@[simp] theorem State.setSched_jlk (s : State) (p : Nat) (f : Tsc → Tsc) : (s.setSched p f).jlk = s.jlk := rfl

/-! ### setTile -/

@[simp] theorem State.setTile_pending (s : State) (t : Nat) (f : Tile → Tile) : (s.setTile t f).pending = s.pending := rfl
@[simp] theorem State.setTile_time (s : State) (t : Nat) (f : Tile → Tile) : (s.setTile t f).time = s.time := rfl
@[simp] theorem State.setTile_phase (s : State) (t : Nat) (f : Tile → Tile) : (s.setTile t f).phase = s.phase := rfl
@[simp] theorem State.setTile_fresh (s : State) (t : Nat) (f : Tile → Tile) : (s.setTile t f).fresh = s.fresh := rfl
@[simp] theorem State.setTile_regs (s : State) (t : Nat) (f : Tile → Tile) : (s.setTile t f).regs = s.regs := rfl
@[simp] theorem State.setTile_pages (s : State) (t : Nat) (f : Tile → Tile) : (s.setTile t f).pages = s.pages := rfl
@[simp] theorem State.setTile_ptrs (s : State) (t : Nat) (f : Tile → Tile) : (s.setTile t f).ptrs = s.ptrs := rfl
@[simp] theorem State.setTile_mems (s : State) (t : Nat) (f : Tile → Tile) : (s.setTile t f).mems = s.mems := rfl
@[simp] theorem State.setTile_boot (s : State) (t : Nat) (f : Tile → Tile) : (s.setTile t f).boot = s.boot := rfl
@[simp] theorem State.setTile_clk (s : State) (t : Nat) (f : Tile → Tile) : (s.setTile t f).clk = s.clk := rfl
@[simp] theorem State.setTile_pwr (s : State) (t : Nat) (f : Tile → Tile) : (s.setTile t f).pwr = s.pwr := rfl
@[simp] theorem State.setTile_sec (s : State) (t : Nat) (f : Tile → Tile) : (s.setTile t f).sec = s.sec := rfl
@[simp] theorem State.setTile_dep (s : State) (t : Nat) (f : Tile → Tile) : (s.setTile t f).dep = s.dep := rfl
@[simp] theorem State.setTile_seq (s : State) (t : Nat) (f : Tile → Tile) : (s.setTile t f).seq = s.seq := rfl
@[simp] theorem State.setTile_chn (s : State) (t : Nat) (f : Tile → Tile) : (s.setTile t f).chn = s.chn := rfl
@[simp] theorem State.setTile_att (s : State) (t : Nat) (f : Tile → Tile) : (s.setTile t f).att = s.att := rfl
@[simp] theorem State.setTile_warm (s : State) (t : Nat) (f : Tile → Tile) : (s.setTile t f).warm = s.warm := rfl
@[simp] theorem State.setTile_blw (s : State) (t : Nat) (f : Tile → Tile) : (s.setTile t f).blw = s.blw := rfl
@[simp] theorem State.setTile_hbc (s : State) (t : Nat) (f : Tile → Tile) : (s.setTile t f).hbc = s.hbc := rfl
@[simp] theorem State.setTile_nvh (s : State) (t : Nat) (f : Tile → Tile) : (s.setTile t f).nvh = s.nvh := rfl
@[simp] theorem State.setTile_cxh (s : State) (t : Nat) (f : Tile → Tile) : (s.setTile t f).cxh = s.cxh := rfl
@[simp] theorem State.setTile_fab (s : State) (t : Nat) (f : Tile → Tile) : (s.setTile t f).fab = s.fab := rfl
@[simp] theorem State.setTile_dma (s : State) (t : Nat) (f : Tile → Tile) : (s.setTile t f).dma = s.dma := rfl
@[simp] theorem State.setTile_cnt (s : State) (t : Nat) (f : Tile → Tile) : (s.setTile t f).cnt = s.cnt := rfl
@[simp] theorem State.setTile_snp (s : State) (t : Nat) (f : Tile → Tile) : (s.setTile t f).snp = s.snp := rfl
@[simp] theorem State.setTile_rec_ (s : State) (t : Nat) (f : Tile → Tile) : (s.setTile t f).rec_ = s.rec_ := rfl
@[simp] theorem State.setTile_jlk (s : State) (t : Nat) (f : Tile → Tile) : (s.setTile t f).jlk = s.jlk := rfl
@[simp] theorem State.setTile_tsc (s : State) (t : Nat) (f : Tile → Tile) : (s.setTile t f).tsc = s.tsc := rfl

/-! ### setPart -/

@[simp] theorem State.setPart_pending (s : State) (p : Nat) (f : Part → Part) : (s.setPart p f).pending = s.pending := rfl
@[simp] theorem State.setPart_time (s : State) (p : Nat) (f : Part → Part) : (s.setPart p f).time = s.time := rfl
@[simp] theorem State.setPart_phase (s : State) (p : Nat) (f : Part → Part) : (s.setPart p f).phase = s.phase := rfl
@[simp] theorem State.setPart_fresh (s : State) (p : Nat) (f : Part → Part) : (s.setPart p f).fresh = s.fresh := rfl
@[simp] theorem State.setPart_regs (s : State) (p : Nat) (f : Part → Part) : (s.setPart p f).regs = s.regs := rfl
@[simp] theorem State.setPart_pages (s : State) (p : Nat) (f : Part → Part) : (s.setPart p f).pages = s.pages := rfl
@[simp] theorem State.setPart_ptrs (s : State) (p : Nat) (f : Part → Part) : (s.setPart p f).ptrs = s.ptrs := rfl
@[simp] theorem State.setPart_mems (s : State) (p : Nat) (f : Part → Part) : (s.setPart p f).mems = s.mems := rfl
@[simp] theorem State.setPart_boot (s : State) (p : Nat) (f : Part → Part) : (s.setPart p f).boot = s.boot := rfl
@[simp] theorem State.setPart_clk (s : State) (p : Nat) (f : Part → Part) : (s.setPart p f).clk = s.clk := rfl
@[simp] theorem State.setPart_pwr (s : State) (p : Nat) (f : Part → Part) : (s.setPart p f).pwr = s.pwr := rfl
@[simp] theorem State.setPart_dep (s : State) (p : Nat) (f : Part → Part) : (s.setPart p f).dep = s.dep := rfl
@[simp] theorem State.setPart_seq (s : State) (p : Nat) (f : Part → Part) : (s.setPart p f).seq = s.seq := rfl
@[simp] theorem State.setPart_chn (s : State) (p : Nat) (f : Part → Part) : (s.setPart p f).chn = s.chn := rfl
@[simp] theorem State.setPart_att (s : State) (p : Nat) (f : Part → Part) : (s.setPart p f).att = s.att := rfl
@[simp] theorem State.setPart_warm (s : State) (p : Nat) (f : Part → Part) : (s.setPart p f).warm = s.warm := rfl
@[simp] theorem State.setPart_tiles (s : State) (p : Nat) (f : Part → Part) : (s.setPart p f).tiles = s.tiles := rfl
@[simp] theorem State.setPart_blw (s : State) (p : Nat) (f : Part → Part) : (s.setPart p f).blw = s.blw := rfl
@[simp] theorem State.setPart_hbc (s : State) (p : Nat) (f : Part → Part) : (s.setPart p f).hbc = s.hbc := rfl
@[simp] theorem State.setPart_nvh (s : State) (p : Nat) (f : Part → Part) : (s.setPart p f).nvh = s.nvh := rfl
@[simp] theorem State.setPart_cxh (s : State) (p : Nat) (f : Part → Part) : (s.setPart p f).cxh = s.cxh := rfl
@[simp] theorem State.setPart_fab (s : State) (p : Nat) (f : Part → Part) : (s.setPart p f).fab = s.fab := rfl
@[simp] theorem State.setPart_dma (s : State) (p : Nat) (f : Part → Part) : (s.setPart p f).dma = s.dma := rfl
@[simp] theorem State.setPart_cnt (s : State) (p : Nat) (f : Part → Part) : (s.setPart p f).cnt = s.cnt := rfl
@[simp] theorem State.setPart_snp (s : State) (p : Nat) (f : Part → Part) : (s.setPart p f).snp = s.snp := rfl
@[simp] theorem State.setPart_rec_ (s : State) (p : Nat) (f : Part → Part) : (s.setPart p f).rec_ = s.rec_ := rfl
@[simp] theorem State.setPart_jlk (s : State) (p : Nat) (f : Part → Part) : (s.setPart p f).jlk = s.jlk := rfl
@[simp] theorem State.setPart_tsc (s : State) (p : Nat) (f : Part → Part) : (s.setPart p f).tsc = s.tsc := rfl

/-! ### setHb -/

@[simp] theorem State.setHb_pending (s : State) (m : Nat) (f : Hbc → Hbc) : (s.setHb m f).pending = s.pending := rfl
@[simp] theorem State.setHb_time (s : State) (m : Nat) (f : Hbc → Hbc) : (s.setHb m f).time = s.time := rfl
@[simp] theorem State.setHb_phase (s : State) (m : Nat) (f : Hbc → Hbc) : (s.setHb m f).phase = s.phase := rfl
@[simp] theorem State.setHb_fresh (s : State) (m : Nat) (f : Hbc → Hbc) : (s.setHb m f).fresh = s.fresh := rfl
@[simp] theorem State.setHb_regs (s : State) (m : Nat) (f : Hbc → Hbc) : (s.setHb m f).regs = s.regs := rfl
@[simp] theorem State.setHb_pages (s : State) (m : Nat) (f : Hbc → Hbc) : (s.setHb m f).pages = s.pages := rfl
@[simp] theorem State.setHb_ptrs (s : State) (m : Nat) (f : Hbc → Hbc) : (s.setHb m f).ptrs = s.ptrs := rfl
@[simp] theorem State.setHb_mems (s : State) (m : Nat) (f : Hbc → Hbc) : (s.setHb m f).mems = s.mems := rfl
@[simp] theorem State.setHb_boot (s : State) (m : Nat) (f : Hbc → Hbc) : (s.setHb m f).boot = s.boot := rfl
@[simp] theorem State.setHb_clk (s : State) (m : Nat) (f : Hbc → Hbc) : (s.setHb m f).clk = s.clk := rfl
@[simp] theorem State.setHb_pwr (s : State) (m : Nat) (f : Hbc → Hbc) : (s.setHb m f).pwr = s.pwr := rfl
@[simp] theorem State.setHb_sec (s : State) (m : Nat) (f : Hbc → Hbc) : (s.setHb m f).sec = s.sec := rfl
@[simp] theorem State.setHb_dep (s : State) (m : Nat) (f : Hbc → Hbc) : (s.setHb m f).dep = s.dep := rfl
@[simp] theorem State.setHb_seq (s : State) (m : Nat) (f : Hbc → Hbc) : (s.setHb m f).seq = s.seq := rfl
@[simp] theorem State.setHb_chn (s : State) (m : Nat) (f : Hbc → Hbc) : (s.setHb m f).chn = s.chn := rfl
@[simp] theorem State.setHb_att (s : State) (m : Nat) (f : Hbc → Hbc) : (s.setHb m f).att = s.att := rfl
@[simp] theorem State.setHb_warm (s : State) (m : Nat) (f : Hbc → Hbc) : (s.setHb m f).warm = s.warm := rfl
@[simp] theorem State.setHb_tiles (s : State) (m : Nat) (f : Hbc → Hbc) : (s.setHb m f).tiles = s.tiles := rfl
@[simp] theorem State.setHb_blw (s : State) (m : Nat) (f : Hbc → Hbc) : (s.setHb m f).blw = s.blw := rfl
@[simp] theorem State.setHb_nvh (s : State) (m : Nat) (f : Hbc → Hbc) : (s.setHb m f).nvh = s.nvh := rfl
@[simp] theorem State.setHb_cxh (s : State) (m : Nat) (f : Hbc → Hbc) : (s.setHb m f).cxh = s.cxh := rfl
@[simp] theorem State.setHb_fab (s : State) (m : Nat) (f : Hbc → Hbc) : (s.setHb m f).fab = s.fab := rfl
@[simp] theorem State.setHb_dma (s : State) (m : Nat) (f : Hbc → Hbc) : (s.setHb m f).dma = s.dma := rfl
@[simp] theorem State.setHb_cnt (s : State) (m : Nat) (f : Hbc → Hbc) : (s.setHb m f).cnt = s.cnt := rfl
@[simp] theorem State.setHb_snp (s : State) (m : Nat) (f : Hbc → Hbc) : (s.setHb m f).snp = s.snp := rfl
@[simp] theorem State.setHb_rec_ (s : State) (m : Nat) (f : Hbc → Hbc) : (s.setHb m f).rec_ = s.rec_ := rfl
@[simp] theorem State.setHb_jlk (s : State) (m : Nat) (f : Hbc → Hbc) : (s.setHb m f).jlk = s.jlk := rfl
@[simp] theorem State.setHb_tsc (s : State) (m : Nat) (f : Hbc → Hbc) : (s.setHb m f).tsc = s.tsc := rfl

/-! ### setChan -/

@[simp] theorem State.setChan_pending (s : State) (c : Nat) (f : DmaCh → DmaCh) : (s.setChan c f).pending = s.pending := rfl
@[simp] theorem State.setChan_time (s : State) (c : Nat) (f : DmaCh → DmaCh) : (s.setChan c f).time = s.time := rfl
@[simp] theorem State.setChan_phase (s : State) (c : Nat) (f : DmaCh → DmaCh) : (s.setChan c f).phase = s.phase := rfl
@[simp] theorem State.setChan_fresh (s : State) (c : Nat) (f : DmaCh → DmaCh) : (s.setChan c f).fresh = s.fresh := rfl
@[simp] theorem State.setChan_regs (s : State) (c : Nat) (f : DmaCh → DmaCh) : (s.setChan c f).regs = s.regs := rfl
@[simp] theorem State.setChan_pages (s : State) (c : Nat) (f : DmaCh → DmaCh) : (s.setChan c f).pages = s.pages := rfl
@[simp] theorem State.setChan_ptrs (s : State) (c : Nat) (f : DmaCh → DmaCh) : (s.setChan c f).ptrs = s.ptrs := rfl
@[simp] theorem State.setChan_mems (s : State) (c : Nat) (f : DmaCh → DmaCh) : (s.setChan c f).mems = s.mems := rfl
@[simp] theorem State.setChan_boot (s : State) (c : Nat) (f : DmaCh → DmaCh) : (s.setChan c f).boot = s.boot := rfl
@[simp] theorem State.setChan_clk (s : State) (c : Nat) (f : DmaCh → DmaCh) : (s.setChan c f).clk = s.clk := rfl
@[simp] theorem State.setChan_pwr (s : State) (c : Nat) (f : DmaCh → DmaCh) : (s.setChan c f).pwr = s.pwr := rfl
@[simp] theorem State.setChan_sec (s : State) (c : Nat) (f : DmaCh → DmaCh) : (s.setChan c f).sec = s.sec := rfl
@[simp] theorem State.setChan_dep (s : State) (c : Nat) (f : DmaCh → DmaCh) : (s.setChan c f).dep = s.dep := rfl
@[simp] theorem State.setChan_seq (s : State) (c : Nat) (f : DmaCh → DmaCh) : (s.setChan c f).seq = s.seq := rfl
@[simp] theorem State.setChan_chn (s : State) (c : Nat) (f : DmaCh → DmaCh) : (s.setChan c f).chn = s.chn := rfl
@[simp] theorem State.setChan_att (s : State) (c : Nat) (f : DmaCh → DmaCh) : (s.setChan c f).att = s.att := rfl
@[simp] theorem State.setChan_warm (s : State) (c : Nat) (f : DmaCh → DmaCh) : (s.setChan c f).warm = s.warm := rfl
@[simp] theorem State.setChan_tiles (s : State) (c : Nat) (f : DmaCh → DmaCh) : (s.setChan c f).tiles = s.tiles := rfl
@[simp] theorem State.setChan_blw (s : State) (c : Nat) (f : DmaCh → DmaCh) : (s.setChan c f).blw = s.blw := rfl
@[simp] theorem State.setChan_hbc (s : State) (c : Nat) (f : DmaCh → DmaCh) : (s.setChan c f).hbc = s.hbc := rfl
@[simp] theorem State.setChan_nvh (s : State) (c : Nat) (f : DmaCh → DmaCh) : (s.setChan c f).nvh = s.nvh := rfl
@[simp] theorem State.setChan_cxh (s : State) (c : Nat) (f : DmaCh → DmaCh) : (s.setChan c f).cxh = s.cxh := rfl
@[simp] theorem State.setChan_fab (s : State) (c : Nat) (f : DmaCh → DmaCh) : (s.setChan c f).fab = s.fab := rfl
@[simp] theorem State.setChan_cnt (s : State) (c : Nat) (f : DmaCh → DmaCh) : (s.setChan c f).cnt = s.cnt := rfl
@[simp] theorem State.setChan_snp (s : State) (c : Nat) (f : DmaCh → DmaCh) : (s.setChan c f).snp = s.snp := rfl
@[simp] theorem State.setChan_rec_ (s : State) (c : Nat) (f : DmaCh → DmaCh) : (s.setChan c f).rec_ = s.rec_ := rfl
@[simp] theorem State.setChan_jlk (s : State) (c : Nat) (f : DmaCh → DmaCh) : (s.setChan c f).jlk = s.jlk := rfl
@[simp] theorem State.setChan_tsc (s : State) (c : Nat) (f : DmaCh → DmaCh) : (s.setChan c f).tsc = s.tsc := rfl

/-! ### setCport -/

@[simp] theorem State.setCport_pending (s : State) (c : Nat) (f : CxlPort → CxlPort) : (s.setCport c f).pending = s.pending := rfl
@[simp] theorem State.setCport_time (s : State) (c : Nat) (f : CxlPort → CxlPort) : (s.setCport c f).time = s.time := rfl
@[simp] theorem State.setCport_phase (s : State) (c : Nat) (f : CxlPort → CxlPort) : (s.setCport c f).phase = s.phase := rfl
@[simp] theorem State.setCport_fresh (s : State) (c : Nat) (f : CxlPort → CxlPort) : (s.setCport c f).fresh = s.fresh := rfl
@[simp] theorem State.setCport_regs (s : State) (c : Nat) (f : CxlPort → CxlPort) : (s.setCport c f).regs = s.regs := rfl
@[simp] theorem State.setCport_pages (s : State) (c : Nat) (f : CxlPort → CxlPort) : (s.setCport c f).pages = s.pages := rfl
@[simp] theorem State.setCport_ptrs (s : State) (c : Nat) (f : CxlPort → CxlPort) : (s.setCport c f).ptrs = s.ptrs := rfl
@[simp] theorem State.setCport_mems (s : State) (c : Nat) (f : CxlPort → CxlPort) : (s.setCport c f).mems = s.mems := rfl
@[simp] theorem State.setCport_boot (s : State) (c : Nat) (f : CxlPort → CxlPort) : (s.setCport c f).boot = s.boot := rfl
@[simp] theorem State.setCport_clk (s : State) (c : Nat) (f : CxlPort → CxlPort) : (s.setCport c f).clk = s.clk := rfl
@[simp] theorem State.setCport_pwr (s : State) (c : Nat) (f : CxlPort → CxlPort) : (s.setCport c f).pwr = s.pwr := rfl
@[simp] theorem State.setCport_sec (s : State) (c : Nat) (f : CxlPort → CxlPort) : (s.setCport c f).sec = s.sec := rfl
@[simp] theorem State.setCport_dep (s : State) (c : Nat) (f : CxlPort → CxlPort) : (s.setCport c f).dep = s.dep := rfl
@[simp] theorem State.setCport_seq (s : State) (c : Nat) (f : CxlPort → CxlPort) : (s.setCport c f).seq = s.seq := rfl
@[simp] theorem State.setCport_chn (s : State) (c : Nat) (f : CxlPort → CxlPort) : (s.setCport c f).chn = s.chn := rfl
@[simp] theorem State.setCport_att (s : State) (c : Nat) (f : CxlPort → CxlPort) : (s.setCport c f).att = s.att := rfl
@[simp] theorem State.setCport_warm (s : State) (c : Nat) (f : CxlPort → CxlPort) : (s.setCport c f).warm = s.warm := rfl
@[simp] theorem State.setCport_tiles (s : State) (c : Nat) (f : CxlPort → CxlPort) : (s.setCport c f).tiles = s.tiles := rfl
@[simp] theorem State.setCport_blw (s : State) (c : Nat) (f : CxlPort → CxlPort) : (s.setCport c f).blw = s.blw := rfl
@[simp] theorem State.setCport_hbc (s : State) (c : Nat) (f : CxlPort → CxlPort) : (s.setCport c f).hbc = s.hbc := rfl
@[simp] theorem State.setCport_nvh (s : State) (c : Nat) (f : CxlPort → CxlPort) : (s.setCport c f).nvh = s.nvh := rfl
@[simp] theorem State.setCport_fab (s : State) (c : Nat) (f : CxlPort → CxlPort) : (s.setCport c f).fab = s.fab := rfl
@[simp] theorem State.setCport_dma (s : State) (c : Nat) (f : CxlPort → CxlPort) : (s.setCport c f).dma = s.dma := rfl
@[simp] theorem State.setCport_cnt (s : State) (c : Nat) (f : CxlPort → CxlPort) : (s.setCport c f).cnt = s.cnt := rfl
@[simp] theorem State.setCport_snp (s : State) (c : Nat) (f : CxlPort → CxlPort) : (s.setCport c f).snp = s.snp := rfl
@[simp] theorem State.setCport_rec_ (s : State) (c : Nat) (f : CxlPort → CxlPort) : (s.setCport c f).rec_ = s.rec_ := rfl
@[simp] theorem State.setCport_jlk (s : State) (c : Nat) (f : CxlPort → CxlPort) : (s.setCport c f).jlk = s.jlk := rfl
@[simp] theorem State.setCport_tsc (s : State) (c : Nat) (f : CxlPort → CxlPort) : (s.setCport c f).tsc = s.tsc := rfl

/-! ### setDrive -/

@[simp] theorem State.setDrive_pending (s : State) (n : Nat) (f : Drive → Drive) : (s.setDrive n f).pending = s.pending := rfl
@[simp] theorem State.setDrive_time (s : State) (n : Nat) (f : Drive → Drive) : (s.setDrive n f).time = s.time := rfl
@[simp] theorem State.setDrive_phase (s : State) (n : Nat) (f : Drive → Drive) : (s.setDrive n f).phase = s.phase := rfl
@[simp] theorem State.setDrive_fresh (s : State) (n : Nat) (f : Drive → Drive) : (s.setDrive n f).fresh = s.fresh := rfl
@[simp] theorem State.setDrive_regs (s : State) (n : Nat) (f : Drive → Drive) : (s.setDrive n f).regs = s.regs := rfl
@[simp] theorem State.setDrive_pages (s : State) (n : Nat) (f : Drive → Drive) : (s.setDrive n f).pages = s.pages := rfl
@[simp] theorem State.setDrive_ptrs (s : State) (n : Nat) (f : Drive → Drive) : (s.setDrive n f).ptrs = s.ptrs := rfl
@[simp] theorem State.setDrive_mems (s : State) (n : Nat) (f : Drive → Drive) : (s.setDrive n f).mems = s.mems := rfl
@[simp] theorem State.setDrive_boot (s : State) (n : Nat) (f : Drive → Drive) : (s.setDrive n f).boot = s.boot := rfl
@[simp] theorem State.setDrive_clk (s : State) (n : Nat) (f : Drive → Drive) : (s.setDrive n f).clk = s.clk := rfl
@[simp] theorem State.setDrive_pwr (s : State) (n : Nat) (f : Drive → Drive) : (s.setDrive n f).pwr = s.pwr := rfl
@[simp] theorem State.setDrive_sec (s : State) (n : Nat) (f : Drive → Drive) : (s.setDrive n f).sec = s.sec := rfl
@[simp] theorem State.setDrive_dep (s : State) (n : Nat) (f : Drive → Drive) : (s.setDrive n f).dep = s.dep := rfl
@[simp] theorem State.setDrive_seq (s : State) (n : Nat) (f : Drive → Drive) : (s.setDrive n f).seq = s.seq := rfl
@[simp] theorem State.setDrive_chn (s : State) (n : Nat) (f : Drive → Drive) : (s.setDrive n f).chn = s.chn := rfl
@[simp] theorem State.setDrive_att (s : State) (n : Nat) (f : Drive → Drive) : (s.setDrive n f).att = s.att := rfl
@[simp] theorem State.setDrive_warm (s : State) (n : Nat) (f : Drive → Drive) : (s.setDrive n f).warm = s.warm := rfl
@[simp] theorem State.setDrive_tiles (s : State) (n : Nat) (f : Drive → Drive) : (s.setDrive n f).tiles = s.tiles := rfl
@[simp] theorem State.setDrive_blw (s : State) (n : Nat) (f : Drive → Drive) : (s.setDrive n f).blw = s.blw := rfl
@[simp] theorem State.setDrive_hbc (s : State) (n : Nat) (f : Drive → Drive) : (s.setDrive n f).hbc = s.hbc := rfl
@[simp] theorem State.setDrive_cxh (s : State) (n : Nat) (f : Drive → Drive) : (s.setDrive n f).cxh = s.cxh := rfl
@[simp] theorem State.setDrive_fab (s : State) (n : Nat) (f : Drive → Drive) : (s.setDrive n f).fab = s.fab := rfl
@[simp] theorem State.setDrive_dma (s : State) (n : Nat) (f : Drive → Drive) : (s.setDrive n f).dma = s.dma := rfl
@[simp] theorem State.setDrive_cnt (s : State) (n : Nat) (f : Drive → Drive) : (s.setDrive n f).cnt = s.cnt := rfl
@[simp] theorem State.setDrive_snp (s : State) (n : Nat) (f : Drive → Drive) : (s.setDrive n f).snp = s.snp := rfl
@[simp] theorem State.setDrive_rec_ (s : State) (n : Nat) (f : Drive → Drive) : (s.setDrive n f).rec_ = s.rec_ := rfl
@[simp] theorem State.setDrive_jlk (s : State) (n : Nat) (f : Drive → Drive) : (s.setDrive n f).jlk = s.jlk := rfl
@[simp] theorem State.setDrive_tsc (s : State) (n : Nat) (f : Drive → Drive) : (s.setDrive n f).tsc = s.tsc := rfl

/-! ### setLoc -/

@[simp] theorem State.setLoc_pending (s : State) (c : Nat) (f : Loc → Loc) : (s.setLoc c f).pending = s.pending := rfl
@[simp] theorem State.setLoc_time (s : State) (c : Nat) (f : Loc → Loc) : (s.setLoc c f).time = s.time := rfl
@[simp] theorem State.setLoc_phase (s : State) (c : Nat) (f : Loc → Loc) : (s.setLoc c f).phase = s.phase := rfl
@[simp] theorem State.setLoc_fresh (s : State) (c : Nat) (f : Loc → Loc) : (s.setLoc c f).fresh = s.fresh := rfl
@[simp] theorem State.setLoc_regs (s : State) (c : Nat) (f : Loc → Loc) : (s.setLoc c f).regs = s.regs := rfl
@[simp] theorem State.setLoc_pages (s : State) (c : Nat) (f : Loc → Loc) : (s.setLoc c f).pages = s.pages := rfl
@[simp] theorem State.setLoc_ptrs (s : State) (c : Nat) (f : Loc → Loc) : (s.setLoc c f).ptrs = s.ptrs := rfl
@[simp] theorem State.setLoc_mems (s : State) (c : Nat) (f : Loc → Loc) : (s.setLoc c f).mems = s.mems := rfl
@[simp] theorem State.setLoc_boot (s : State) (c : Nat) (f : Loc → Loc) : (s.setLoc c f).boot = s.boot := rfl
@[simp] theorem State.setLoc_clk (s : State) (c : Nat) (f : Loc → Loc) : (s.setLoc c f).clk = s.clk := rfl
@[simp] theorem State.setLoc_pwr (s : State) (c : Nat) (f : Loc → Loc) : (s.setLoc c f).pwr = s.pwr := rfl
@[simp] theorem State.setLoc_sec (s : State) (c : Nat) (f : Loc → Loc) : (s.setLoc c f).sec = s.sec := rfl
@[simp] theorem State.setLoc_dep (s : State) (c : Nat) (f : Loc → Loc) : (s.setLoc c f).dep = s.dep := rfl
@[simp] theorem State.setLoc_chn (s : State) (c : Nat) (f : Loc → Loc) : (s.setLoc c f).chn = s.chn := rfl
@[simp] theorem State.setLoc_att (s : State) (c : Nat) (f : Loc → Loc) : (s.setLoc c f).att = s.att := rfl
@[simp] theorem State.setLoc_warm (s : State) (c : Nat) (f : Loc → Loc) : (s.setLoc c f).warm = s.warm := rfl
@[simp] theorem State.setLoc_tiles (s : State) (c : Nat) (f : Loc → Loc) : (s.setLoc c f).tiles = s.tiles := rfl
@[simp] theorem State.setLoc_hbc (s : State) (c : Nat) (f : Loc → Loc) : (s.setLoc c f).hbc = s.hbc := rfl
@[simp] theorem State.setLoc_nvh (s : State) (c : Nat) (f : Loc → Loc) : (s.setLoc c f).nvh = s.nvh := rfl
@[simp] theorem State.setLoc_cxh (s : State) (c : Nat) (f : Loc → Loc) : (s.setLoc c f).cxh = s.cxh := rfl
@[simp] theorem State.setLoc_fab (s : State) (c : Nat) (f : Loc → Loc) : (s.setLoc c f).fab = s.fab := rfl
@[simp] theorem State.setLoc_dma (s : State) (c : Nat) (f : Loc → Loc) : (s.setLoc c f).dma = s.dma := rfl
@[simp] theorem State.setLoc_cnt (s : State) (c : Nat) (f : Loc → Loc) : (s.setLoc c f).cnt = s.cnt := rfl
@[simp] theorem State.setLoc_snp (s : State) (c : Nat) (f : Loc → Loc) : (s.setLoc c f).snp = s.snp := rfl
@[simp] theorem State.setLoc_rec_ (s : State) (c : Nat) (f : Loc → Loc) : (s.setLoc c f).rec_ = s.rec_ := rfl
@[simp] theorem State.setLoc_jlk (s : State) (c : Nat) (f : Loc → Loc) : (s.setLoc c f).jlk = s.jlk := rfl
@[simp] theorem State.setLoc_tsc (s : State) (c : Nat) (f : Loc → Loc) : (s.setLoc c f).tsc = s.tsc := rfl
@[simp] theorem State.setLoc_ctx (s : State) (c : Nat) (f : Loc → Loc) (x : Nat) : (s.setLoc c f).ctx x = s.ctx x := rfl
@[simp] theorem State.setLoc_row (s : State) (c : Nat) (f : Loc → Loc) (x y : Nat) : (s.setLoc c f).row x y = s.row x y := rfl

/-! ### setCtx -/

@[simp] theorem State.setCtx_pending (s : State) (q : Nat) (f : Ctx → Ctx) : (s.setCtx q f).pending = s.pending := rfl
@[simp] theorem State.setCtx_time (s : State) (q : Nat) (f : Ctx → Ctx) : (s.setCtx q f).time = s.time := rfl
@[simp] theorem State.setCtx_phase (s : State) (q : Nat) (f : Ctx → Ctx) : (s.setCtx q f).phase = s.phase := rfl
@[simp] theorem State.setCtx_fresh (s : State) (q : Nat) (f : Ctx → Ctx) : (s.setCtx q f).fresh = s.fresh := rfl
@[simp] theorem State.setCtx_regs (s : State) (q : Nat) (f : Ctx → Ctx) : (s.setCtx q f).regs = s.regs := rfl
@[simp] theorem State.setCtx_pages (s : State) (q : Nat) (f : Ctx → Ctx) : (s.setCtx q f).pages = s.pages := rfl
@[simp] theorem State.setCtx_ptrs (s : State) (q : Nat) (f : Ctx → Ctx) : (s.setCtx q f).ptrs = s.ptrs := rfl
@[simp] theorem State.setCtx_mems (s : State) (q : Nat) (f : Ctx → Ctx) : (s.setCtx q f).mems = s.mems := rfl
@[simp] theorem State.setCtx_boot (s : State) (q : Nat) (f : Ctx → Ctx) : (s.setCtx q f).boot = s.boot := rfl
@[simp] theorem State.setCtx_clk (s : State) (q : Nat) (f : Ctx → Ctx) : (s.setCtx q f).clk = s.clk := rfl
@[simp] theorem State.setCtx_pwr (s : State) (q : Nat) (f : Ctx → Ctx) : (s.setCtx q f).pwr = s.pwr := rfl
@[simp] theorem State.setCtx_sec (s : State) (q : Nat) (f : Ctx → Ctx) : (s.setCtx q f).sec = s.sec := rfl
@[simp] theorem State.setCtx_dep (s : State) (q : Nat) (f : Ctx → Ctx) : (s.setCtx q f).dep = s.dep := rfl
@[simp] theorem State.setCtx_chn (s : State) (q : Nat) (f : Ctx → Ctx) : (s.setCtx q f).chn = s.chn := rfl
@[simp] theorem State.setCtx_att (s : State) (q : Nat) (f : Ctx → Ctx) : (s.setCtx q f).att = s.att := rfl
@[simp] theorem State.setCtx_warm (s : State) (q : Nat) (f : Ctx → Ctx) : (s.setCtx q f).warm = s.warm := rfl
@[simp] theorem State.setCtx_tiles (s : State) (q : Nat) (f : Ctx → Ctx) : (s.setCtx q f).tiles = s.tiles := rfl
@[simp] theorem State.setCtx_blw (s : State) (q : Nat) (f : Ctx → Ctx) : (s.setCtx q f).blw = s.blw := rfl
@[simp] theorem State.setCtx_hbc (s : State) (q : Nat) (f : Ctx → Ctx) : (s.setCtx q f).hbc = s.hbc := rfl
@[simp] theorem State.setCtx_nvh (s : State) (q : Nat) (f : Ctx → Ctx) : (s.setCtx q f).nvh = s.nvh := rfl
@[simp] theorem State.setCtx_cxh (s : State) (q : Nat) (f : Ctx → Ctx) : (s.setCtx q f).cxh = s.cxh := rfl
@[simp] theorem State.setCtx_fab (s : State) (q : Nat) (f : Ctx → Ctx) : (s.setCtx q f).fab = s.fab := rfl
@[simp] theorem State.setCtx_dma (s : State) (q : Nat) (f : Ctx → Ctx) : (s.setCtx q f).dma = s.dma := rfl
@[simp] theorem State.setCtx_cnt (s : State) (q : Nat) (f : Ctx → Ctx) : (s.setCtx q f).cnt = s.cnt := rfl
@[simp] theorem State.setCtx_snp (s : State) (q : Nat) (f : Ctx → Ctx) : (s.setCtx q f).snp = s.snp := rfl
@[simp] theorem State.setCtx_rec_ (s : State) (q : Nat) (f : Ctx → Ctx) : (s.setCtx q f).rec_ = s.rec_ := rfl
@[simp] theorem State.setCtx_jlk (s : State) (q : Nat) (f : Ctx → Ctx) : (s.setCtx q f).jlk = s.jlk := rfl
@[simp] theorem State.setCtx_tsc (s : State) (q : Nat) (f : Ctx → Ctx) : (s.setCtx q f).tsc = s.tsc := rfl
@[simp] theorem State.setCtx_loc (s : State) (q : Nat) (f : Ctx → Ctx) (x : Nat) : (s.setCtx q f).loc x = s.loc x := rfl
@[simp] theorem State.setCtx_row (s : State) (q : Nat) (f : Ctx → Ctx) (x y : Nat) : (s.setCtx q f).row x y = s.row x y := rfl

/-! ### setRow -/

@[simp] theorem State.setRow_pending (s : State) (q l : Nat) (f : LayerRow → LayerRow) : (s.setRow q l f).pending = s.pending := rfl
@[simp] theorem State.setRow_time (s : State) (q l : Nat) (f : LayerRow → LayerRow) : (s.setRow q l f).time = s.time := rfl
@[simp] theorem State.setRow_phase (s : State) (q l : Nat) (f : LayerRow → LayerRow) : (s.setRow q l f).phase = s.phase := rfl
@[simp] theorem State.setRow_fresh (s : State) (q l : Nat) (f : LayerRow → LayerRow) : (s.setRow q l f).fresh = s.fresh := rfl
@[simp] theorem State.setRow_regs (s : State) (q l : Nat) (f : LayerRow → LayerRow) : (s.setRow q l f).regs = s.regs := rfl
@[simp] theorem State.setRow_pages (s : State) (q l : Nat) (f : LayerRow → LayerRow) : (s.setRow q l f).pages = s.pages := rfl
@[simp] theorem State.setRow_ptrs (s : State) (q l : Nat) (f : LayerRow → LayerRow) : (s.setRow q l f).ptrs = s.ptrs := rfl
@[simp] theorem State.setRow_mems (s : State) (q l : Nat) (f : LayerRow → LayerRow) : (s.setRow q l f).mems = s.mems := rfl
@[simp] theorem State.setRow_boot (s : State) (q l : Nat) (f : LayerRow → LayerRow) : (s.setRow q l f).boot = s.boot := rfl
@[simp] theorem State.setRow_clk (s : State) (q l : Nat) (f : LayerRow → LayerRow) : (s.setRow q l f).clk = s.clk := rfl
@[simp] theorem State.setRow_pwr (s : State) (q l : Nat) (f : LayerRow → LayerRow) : (s.setRow q l f).pwr = s.pwr := rfl
@[simp] theorem State.setRow_sec (s : State) (q l : Nat) (f : LayerRow → LayerRow) : (s.setRow q l f).sec = s.sec := rfl
@[simp] theorem State.setRow_dep (s : State) (q l : Nat) (f : LayerRow → LayerRow) : (s.setRow q l f).dep = s.dep := rfl
@[simp] theorem State.setRow_chn (s : State) (q l : Nat) (f : LayerRow → LayerRow) : (s.setRow q l f).chn = s.chn := rfl
@[simp] theorem State.setRow_att (s : State) (q l : Nat) (f : LayerRow → LayerRow) : (s.setRow q l f).att = s.att := rfl
@[simp] theorem State.setRow_warm (s : State) (q l : Nat) (f : LayerRow → LayerRow) : (s.setRow q l f).warm = s.warm := rfl
@[simp] theorem State.setRow_tiles (s : State) (q l : Nat) (f : LayerRow → LayerRow) : (s.setRow q l f).tiles = s.tiles := rfl
@[simp] theorem State.setRow_blw (s : State) (q l : Nat) (f : LayerRow → LayerRow) : (s.setRow q l f).blw = s.blw := rfl
@[simp] theorem State.setRow_hbc (s : State) (q l : Nat) (f : LayerRow → LayerRow) : (s.setRow q l f).hbc = s.hbc := rfl
@[simp] theorem State.setRow_nvh (s : State) (q l : Nat) (f : LayerRow → LayerRow) : (s.setRow q l f).nvh = s.nvh := rfl
@[simp] theorem State.setRow_cxh (s : State) (q l : Nat) (f : LayerRow → LayerRow) : (s.setRow q l f).cxh = s.cxh := rfl
@[simp] theorem State.setRow_fab (s : State) (q l : Nat) (f : LayerRow → LayerRow) : (s.setRow q l f).fab = s.fab := rfl
@[simp] theorem State.setRow_dma (s : State) (q l : Nat) (f : LayerRow → LayerRow) : (s.setRow q l f).dma = s.dma := rfl
@[simp] theorem State.setRow_cnt (s : State) (q l : Nat) (f : LayerRow → LayerRow) : (s.setRow q l f).cnt = s.cnt := rfl
@[simp] theorem State.setRow_snp (s : State) (q l : Nat) (f : LayerRow → LayerRow) : (s.setRow q l f).snp = s.snp := rfl
@[simp] theorem State.setRow_rec_ (s : State) (q l : Nat) (f : LayerRow → LayerRow) : (s.setRow q l f).rec_ = s.rec_ := rfl
@[simp] theorem State.setRow_jlk (s : State) (q l : Nat) (f : LayerRow → LayerRow) : (s.setRow q l f).jlk = s.jlk := rfl
@[simp] theorem State.setRow_tsc (s : State) (q l : Nat) (f : LayerRow → LayerRow) : (s.setRow q l f).tsc = s.tsc := rfl
@[simp] theorem State.setRow_loc (s : State) (q l : Nat) (f : LayerRow → LayerRow) (x : Nat) : (s.setRow q l f).loc x = s.loc x := rfl
@[simp] theorem State.setRow_ctx (s : State) (q l : Nat) (f : LayerRow → LayerRow) (x : Nat) : (s.setRow q l f).ctx x = s.ctx x := rfl

/-! ### setNode -/

@[simp] theorem State.setNode_pending (s : State) (a : Nat) (f : Node → Node) : (s.setNode a f).pending = s.pending := by unfold State.setNode; split <;> rfl
@[simp] theorem State.setNode_time (s : State) (a : Nat) (f : Node → Node) : (s.setNode a f).time = s.time := by unfold State.setNode; split <;> rfl
@[simp] theorem State.setNode_phase (s : State) (a : Nat) (f : Node → Node) : (s.setNode a f).phase = s.phase := by unfold State.setNode; split <;> rfl
@[simp] theorem State.setNode_fresh (s : State) (a : Nat) (f : Node → Node) : (s.setNode a f).fresh = s.fresh := by unfold State.setNode; split <;> rfl
@[simp] theorem State.setNode_regs (s : State) (a : Nat) (f : Node → Node) : (s.setNode a f).regs = s.regs := by unfold State.setNode; split <;> rfl
@[simp] theorem State.setNode_pages (s : State) (a : Nat) (f : Node → Node) : (s.setNode a f).pages = s.pages := by unfold State.setNode; split <;> rfl
@[simp] theorem State.setNode_ptrs (s : State) (a : Nat) (f : Node → Node) : (s.setNode a f).ptrs = s.ptrs := by unfold State.setNode; split <;> rfl
@[simp] theorem State.setNode_mems (s : State) (a : Nat) (f : Node → Node) : (s.setNode a f).mems = s.mems := by unfold State.setNode; split <;> rfl
@[simp] theorem State.setNode_boot (s : State) (a : Nat) (f : Node → Node) : (s.setNode a f).boot = s.boot := by unfold State.setNode; split <;> rfl
@[simp] theorem State.setNode_clk (s : State) (a : Nat) (f : Node → Node) : (s.setNode a f).clk = s.clk := by unfold State.setNode; split <;> rfl
@[simp] theorem State.setNode_pwr (s : State) (a : Nat) (f : Node → Node) : (s.setNode a f).pwr = s.pwr := by unfold State.setNode; split <;> rfl
@[simp] theorem State.setNode_sec (s : State) (a : Nat) (f : Node → Node) : (s.setNode a f).sec = s.sec := by unfold State.setNode; split <;> rfl
@[simp] theorem State.setNode_seq (s : State) (a : Nat) (f : Node → Node) : (s.setNode a f).seq = s.seq := by unfold State.setNode; split <;> rfl
@[simp] theorem State.setNode_chn (s : State) (a : Nat) (f : Node → Node) : (s.setNode a f).chn = s.chn := by unfold State.setNode; split <;> rfl
@[simp] theorem State.setNode_att (s : State) (a : Nat) (f : Node → Node) : (s.setNode a f).att = s.att := by unfold State.setNode; split <;> rfl
@[simp] theorem State.setNode_warm (s : State) (a : Nat) (f : Node → Node) : (s.setNode a f).warm = s.warm := by unfold State.setNode; split <;> rfl
@[simp] theorem State.setNode_tiles (s : State) (a : Nat) (f : Node → Node) : (s.setNode a f).tiles = s.tiles := by unfold State.setNode; split <;> rfl
@[simp] theorem State.setNode_blw (s : State) (a : Nat) (f : Node → Node) : (s.setNode a f).blw = s.blw := by unfold State.setNode; split <;> rfl
@[simp] theorem State.setNode_hbc (s : State) (a : Nat) (f : Node → Node) : (s.setNode a f).hbc = s.hbc := by unfold State.setNode; split <;> rfl
@[simp] theorem State.setNode_nvh (s : State) (a : Nat) (f : Node → Node) : (s.setNode a f).nvh = s.nvh := by unfold State.setNode; split <;> rfl
@[simp] theorem State.setNode_cxh (s : State) (a : Nat) (f : Node → Node) : (s.setNode a f).cxh = s.cxh := by unfold State.setNode; split <;> rfl
@[simp] theorem State.setNode_fab (s : State) (a : Nat) (f : Node → Node) : (s.setNode a f).fab = s.fab := by unfold State.setNode; split <;> rfl
@[simp] theorem State.setNode_dma (s : State) (a : Nat) (f : Node → Node) : (s.setNode a f).dma = s.dma := by unfold State.setNode; split <;> rfl
@[simp] theorem State.setNode_cnt (s : State) (a : Nat) (f : Node → Node) : (s.setNode a f).cnt = s.cnt := by unfold State.setNode; split <;> rfl
@[simp] theorem State.setNode_snp (s : State) (a : Nat) (f : Node → Node) : (s.setNode a f).snp = s.snp := by unfold State.setNode; split <;> rfl
@[simp] theorem State.setNode_rec_ (s : State) (a : Nat) (f : Node → Node) : (s.setNode a f).rec_ = s.rec_ := by unfold State.setNode; split <;> rfl
@[simp] theorem State.setNode_jlk (s : State) (a : Nat) (f : Node → Node) : (s.setNode a f).jlk = s.jlk := by unfold State.setNode; split <;> rfl
@[simp] theorem State.setNode_tsc (s : State) (a : Nat) (f : Node → Node) : (s.setNode a f).tsc = s.tsc := by unfold State.setNode; split <;> rfl
@[simp] theorem State.setNode_subRing (s : State) (a : Nat) (f : Node → Node) (x : Nat) : (s.setNode a f).subRing x = s.subRing x := by unfold State.setNode; split <;> rfl
@[simp] theorem State.setNode_cplRing (s : State) (a : Nat) (f : Node → Node) (x y : Nat) : (s.setNode a f).cplRing x y = s.cplRing x y := by unfold State.setNode; split <;> rfl

/-! ### setSubRing -/

@[simp] theorem State.setSubRing_pending (s : State) (r : Nat) (f : SubRing → SubRing) : (s.setSubRing r f).pending = s.pending := rfl
@[simp] theorem State.setSubRing_time (s : State) (r : Nat) (f : SubRing → SubRing) : (s.setSubRing r f).time = s.time := rfl
@[simp] theorem State.setSubRing_phase (s : State) (r : Nat) (f : SubRing → SubRing) : (s.setSubRing r f).phase = s.phase := rfl
@[simp] theorem State.setSubRing_fresh (s : State) (r : Nat) (f : SubRing → SubRing) : (s.setSubRing r f).fresh = s.fresh := rfl
@[simp] theorem State.setSubRing_regs (s : State) (r : Nat) (f : SubRing → SubRing) : (s.setSubRing r f).regs = s.regs := rfl
@[simp] theorem State.setSubRing_pages (s : State) (r : Nat) (f : SubRing → SubRing) : (s.setSubRing r f).pages = s.pages := rfl
@[simp] theorem State.setSubRing_ptrs (s : State) (r : Nat) (f : SubRing → SubRing) : (s.setSubRing r f).ptrs = s.ptrs := rfl
@[simp] theorem State.setSubRing_mems (s : State) (r : Nat) (f : SubRing → SubRing) : (s.setSubRing r f).mems = s.mems := rfl
@[simp] theorem State.setSubRing_boot (s : State) (r : Nat) (f : SubRing → SubRing) : (s.setSubRing r f).boot = s.boot := rfl
@[simp] theorem State.setSubRing_clk (s : State) (r : Nat) (f : SubRing → SubRing) : (s.setSubRing r f).clk = s.clk := rfl
@[simp] theorem State.setSubRing_pwr (s : State) (r : Nat) (f : SubRing → SubRing) : (s.setSubRing r f).pwr = s.pwr := rfl
@[simp] theorem State.setSubRing_sec (s : State) (r : Nat) (f : SubRing → SubRing) : (s.setSubRing r f).sec = s.sec := rfl
@[simp] theorem State.setSubRing_seq (s : State) (r : Nat) (f : SubRing → SubRing) : (s.setSubRing r f).seq = s.seq := rfl
@[simp] theorem State.setSubRing_chn (s : State) (r : Nat) (f : SubRing → SubRing) : (s.setSubRing r f).chn = s.chn := rfl
@[simp] theorem State.setSubRing_att (s : State) (r : Nat) (f : SubRing → SubRing) : (s.setSubRing r f).att = s.att := rfl
@[simp] theorem State.setSubRing_warm (s : State) (r : Nat) (f : SubRing → SubRing) : (s.setSubRing r f).warm = s.warm := rfl
@[simp] theorem State.setSubRing_tiles (s : State) (r : Nat) (f : SubRing → SubRing) : (s.setSubRing r f).tiles = s.tiles := rfl
@[simp] theorem State.setSubRing_blw (s : State) (r : Nat) (f : SubRing → SubRing) : (s.setSubRing r f).blw = s.blw := rfl
@[simp] theorem State.setSubRing_hbc (s : State) (r : Nat) (f : SubRing → SubRing) : (s.setSubRing r f).hbc = s.hbc := rfl
@[simp] theorem State.setSubRing_nvh (s : State) (r : Nat) (f : SubRing → SubRing) : (s.setSubRing r f).nvh = s.nvh := rfl
@[simp] theorem State.setSubRing_cxh (s : State) (r : Nat) (f : SubRing → SubRing) : (s.setSubRing r f).cxh = s.cxh := rfl
@[simp] theorem State.setSubRing_fab (s : State) (r : Nat) (f : SubRing → SubRing) : (s.setSubRing r f).fab = s.fab := rfl
@[simp] theorem State.setSubRing_dma (s : State) (r : Nat) (f : SubRing → SubRing) : (s.setSubRing r f).dma = s.dma := rfl
@[simp] theorem State.setSubRing_cnt (s : State) (r : Nat) (f : SubRing → SubRing) : (s.setSubRing r f).cnt = s.cnt := rfl
@[simp] theorem State.setSubRing_snp (s : State) (r : Nat) (f : SubRing → SubRing) : (s.setSubRing r f).snp = s.snp := rfl
@[simp] theorem State.setSubRing_rec_ (s : State) (r : Nat) (f : SubRing → SubRing) : (s.setSubRing r f).rec_ = s.rec_ := rfl
@[simp] theorem State.setSubRing_jlk (s : State) (r : Nat) (f : SubRing → SubRing) : (s.setSubRing r f).jlk = s.jlk := rfl
@[simp] theorem State.setSubRing_tsc (s : State) (r : Nat) (f : SubRing → SubRing) : (s.setSubRing r f).tsc = s.tsc := rfl
@[simp] theorem State.setSubRing_node (s : State) (r : Nat) (f : SubRing → SubRing) (x : Nat) : (s.setSubRing r f).node x = s.node x := rfl
@[simp] theorem State.setSubRing_cplRing (s : State) (r : Nat) (f : SubRing → SubRing) (x y : Nat) : (s.setSubRing r f).cplRing x y = s.cplRing x y := rfl

/-! ### setCplRing -/

@[simp] theorem State.setCplRing_pending (s : State) (p c : Nat) (f : CplRing → CplRing) : (s.setCplRing p c f).pending = s.pending := rfl
@[simp] theorem State.setCplRing_time (s : State) (p c : Nat) (f : CplRing → CplRing) : (s.setCplRing p c f).time = s.time := rfl
@[simp] theorem State.setCplRing_phase (s : State) (p c : Nat) (f : CplRing → CplRing) : (s.setCplRing p c f).phase = s.phase := rfl
@[simp] theorem State.setCplRing_fresh (s : State) (p c : Nat) (f : CplRing → CplRing) : (s.setCplRing p c f).fresh = s.fresh := rfl
@[simp] theorem State.setCplRing_regs (s : State) (p c : Nat) (f : CplRing → CplRing) : (s.setCplRing p c f).regs = s.regs := rfl
@[simp] theorem State.setCplRing_pages (s : State) (p c : Nat) (f : CplRing → CplRing) : (s.setCplRing p c f).pages = s.pages := rfl
@[simp] theorem State.setCplRing_ptrs (s : State) (p c : Nat) (f : CplRing → CplRing) : (s.setCplRing p c f).ptrs = s.ptrs := rfl
@[simp] theorem State.setCplRing_mems (s : State) (p c : Nat) (f : CplRing → CplRing) : (s.setCplRing p c f).mems = s.mems := rfl
@[simp] theorem State.setCplRing_boot (s : State) (p c : Nat) (f : CplRing → CplRing) : (s.setCplRing p c f).boot = s.boot := rfl
@[simp] theorem State.setCplRing_clk (s : State) (p c : Nat) (f : CplRing → CplRing) : (s.setCplRing p c f).clk = s.clk := rfl
@[simp] theorem State.setCplRing_pwr (s : State) (p c : Nat) (f : CplRing → CplRing) : (s.setCplRing p c f).pwr = s.pwr := rfl
@[simp] theorem State.setCplRing_sec (s : State) (p c : Nat) (f : CplRing → CplRing) : (s.setCplRing p c f).sec = s.sec := rfl
@[simp] theorem State.setCplRing_seq (s : State) (p c : Nat) (f : CplRing → CplRing) : (s.setCplRing p c f).seq = s.seq := rfl
@[simp] theorem State.setCplRing_chn (s : State) (p c : Nat) (f : CplRing → CplRing) : (s.setCplRing p c f).chn = s.chn := rfl
@[simp] theorem State.setCplRing_att (s : State) (p c : Nat) (f : CplRing → CplRing) : (s.setCplRing p c f).att = s.att := rfl
@[simp] theorem State.setCplRing_warm (s : State) (p c : Nat) (f : CplRing → CplRing) : (s.setCplRing p c f).warm = s.warm := rfl
@[simp] theorem State.setCplRing_tiles (s : State) (p c : Nat) (f : CplRing → CplRing) : (s.setCplRing p c f).tiles = s.tiles := rfl
@[simp] theorem State.setCplRing_blw (s : State) (p c : Nat) (f : CplRing → CplRing) : (s.setCplRing p c f).blw = s.blw := rfl
@[simp] theorem State.setCplRing_hbc (s : State) (p c : Nat) (f : CplRing → CplRing) : (s.setCplRing p c f).hbc = s.hbc := rfl
@[simp] theorem State.setCplRing_nvh (s : State) (p c : Nat) (f : CplRing → CplRing) : (s.setCplRing p c f).nvh = s.nvh := rfl
@[simp] theorem State.setCplRing_cxh (s : State) (p c : Nat) (f : CplRing → CplRing) : (s.setCplRing p c f).cxh = s.cxh := rfl
@[simp] theorem State.setCplRing_fab (s : State) (p c : Nat) (f : CplRing → CplRing) : (s.setCplRing p c f).fab = s.fab := rfl
@[simp] theorem State.setCplRing_dma (s : State) (p c : Nat) (f : CplRing → CplRing) : (s.setCplRing p c f).dma = s.dma := rfl
@[simp] theorem State.setCplRing_cnt (s : State) (p c : Nat) (f : CplRing → CplRing) : (s.setCplRing p c f).cnt = s.cnt := rfl
@[simp] theorem State.setCplRing_snp (s : State) (p c : Nat) (f : CplRing → CplRing) : (s.setCplRing p c f).snp = s.snp := rfl
@[simp] theorem State.setCplRing_rec_ (s : State) (p c : Nat) (f : CplRing → CplRing) : (s.setCplRing p c f).rec_ = s.rec_ := rfl
@[simp] theorem State.setCplRing_jlk (s : State) (p c : Nat) (f : CplRing → CplRing) : (s.setCplRing p c f).jlk = s.jlk := rfl
@[simp] theorem State.setCplRing_tsc (s : State) (p c : Nat) (f : CplRing → CplRing) : (s.setCplRing p c f).tsc = s.tsc := rfl
@[simp] theorem State.setCplRing_node (s : State) (p c : Nat) (f : CplRing → CplRing) (x : Nat) : (s.setCplRing p c f).node x = s.node x := rfl
@[simp] theorem State.setCplRing_subRing (s : State) (p c : Nat) (f : CplRing → CplRing) (x : Nat) : (s.setCplRing p c f).subRing x = s.subRing x := rfl

/-! ### setSlot -/

@[simp] theorem State.setSlot_pending (s : State) (i : Nat) (f : DirSlot → DirSlot) : (s.setSlot i f).pending = s.pending := rfl
@[simp] theorem State.setSlot_time (s : State) (i : Nat) (f : DirSlot → DirSlot) : (s.setSlot i f).time = s.time := rfl
@[simp] theorem State.setSlot_phase (s : State) (i : Nat) (f : DirSlot → DirSlot) : (s.setSlot i f).phase = s.phase := rfl
@[simp] theorem State.setSlot_fresh (s : State) (i : Nat) (f : DirSlot → DirSlot) : (s.setSlot i f).fresh = s.fresh := rfl
@[simp] theorem State.setSlot_regs (s : State) (i : Nat) (f : DirSlot → DirSlot) : (s.setSlot i f).regs = s.regs := rfl
@[simp] theorem State.setSlot_pages (s : State) (i : Nat) (f : DirSlot → DirSlot) : (s.setSlot i f).pages = s.pages := rfl
@[simp] theorem State.setSlot_ptrs (s : State) (i : Nat) (f : DirSlot → DirSlot) : (s.setSlot i f).ptrs = s.ptrs := rfl
@[simp] theorem State.setSlot_mems (s : State) (i : Nat) (f : DirSlot → DirSlot) : (s.setSlot i f).mems = s.mems := rfl
@[simp] theorem State.setSlot_boot (s : State) (i : Nat) (f : DirSlot → DirSlot) : (s.setSlot i f).boot = s.boot := rfl
@[simp] theorem State.setSlot_clk (s : State) (i : Nat) (f : DirSlot → DirSlot) : (s.setSlot i f).clk = s.clk := rfl
@[simp] theorem State.setSlot_pwr (s : State) (i : Nat) (f : DirSlot → DirSlot) : (s.setSlot i f).pwr = s.pwr := rfl
@[simp] theorem State.setSlot_sec (s : State) (i : Nat) (f : DirSlot → DirSlot) : (s.setSlot i f).sec = s.sec := rfl
@[simp] theorem State.setSlot_dep (s : State) (i : Nat) (f : DirSlot → DirSlot) : (s.setSlot i f).dep = s.dep := rfl
@[simp] theorem State.setSlot_seq (s : State) (i : Nat) (f : DirSlot → DirSlot) : (s.setSlot i f).seq = s.seq := rfl
@[simp] theorem State.setSlot_att (s : State) (i : Nat) (f : DirSlot → DirSlot) : (s.setSlot i f).att = s.att := rfl
@[simp] theorem State.setSlot_warm (s : State) (i : Nat) (f : DirSlot → DirSlot) : (s.setSlot i f).warm = s.warm := rfl
@[simp] theorem State.setSlot_tiles (s : State) (i : Nat) (f : DirSlot → DirSlot) : (s.setSlot i f).tiles = s.tiles := rfl
@[simp] theorem State.setSlot_blw (s : State) (i : Nat) (f : DirSlot → DirSlot) : (s.setSlot i f).blw = s.blw := rfl
@[simp] theorem State.setSlot_hbc (s : State) (i : Nat) (f : DirSlot → DirSlot) : (s.setSlot i f).hbc = s.hbc := rfl
@[simp] theorem State.setSlot_nvh (s : State) (i : Nat) (f : DirSlot → DirSlot) : (s.setSlot i f).nvh = s.nvh := rfl
@[simp] theorem State.setSlot_cxh (s : State) (i : Nat) (f : DirSlot → DirSlot) : (s.setSlot i f).cxh = s.cxh := rfl
@[simp] theorem State.setSlot_fab (s : State) (i : Nat) (f : DirSlot → DirSlot) : (s.setSlot i f).fab = s.fab := rfl
@[simp] theorem State.setSlot_dma (s : State) (i : Nat) (f : DirSlot → DirSlot) : (s.setSlot i f).dma = s.dma := rfl
@[simp] theorem State.setSlot_cnt (s : State) (i : Nat) (f : DirSlot → DirSlot) : (s.setSlot i f).cnt = s.cnt := rfl
@[simp] theorem State.setSlot_snp (s : State) (i : Nat) (f : DirSlot → DirSlot) : (s.setSlot i f).snp = s.snp := rfl
@[simp] theorem State.setSlot_rec_ (s : State) (i : Nat) (f : DirSlot → DirSlot) : (s.setSlot i f).rec_ = s.rec_ := rfl
@[simp] theorem State.setSlot_jlk (s : State) (i : Nat) (f : DirSlot → DirSlot) : (s.setSlot i f).jlk = s.jlk := rfl
@[simp] theorem State.setSlot_tsc (s : State) (i : Nat) (f : DirSlot → DirSlot) : (s.setSlot i f).tsc = s.tsc := rfl
@[simp] theorem State.setSlot_bank (s : State) (i : Nat) (f : DirSlot → DirSlot) (x : Nat) : (s.setSlot i f).bank x = s.bank x := rfl

/-! ### setBank -/

@[simp] theorem State.setBank_pending (s : State) (b : Nat) (f : Bank → Bank) : (s.setBank b f).pending = s.pending := rfl
@[simp] theorem State.setBank_time (s : State) (b : Nat) (f : Bank → Bank) : (s.setBank b f).time = s.time := rfl
@[simp] theorem State.setBank_phase (s : State) (b : Nat) (f : Bank → Bank) : (s.setBank b f).phase = s.phase := rfl
@[simp] theorem State.setBank_fresh (s : State) (b : Nat) (f : Bank → Bank) : (s.setBank b f).fresh = s.fresh := rfl
@[simp] theorem State.setBank_regs (s : State) (b : Nat) (f : Bank → Bank) : (s.setBank b f).regs = s.regs := rfl
@[simp] theorem State.setBank_pages (s : State) (b : Nat) (f : Bank → Bank) : (s.setBank b f).pages = s.pages := rfl
@[simp] theorem State.setBank_ptrs (s : State) (b : Nat) (f : Bank → Bank) : (s.setBank b f).ptrs = s.ptrs := rfl
@[simp] theorem State.setBank_mems (s : State) (b : Nat) (f : Bank → Bank) : (s.setBank b f).mems = s.mems := rfl
@[simp] theorem State.setBank_boot (s : State) (b : Nat) (f : Bank → Bank) : (s.setBank b f).boot = s.boot := rfl
@[simp] theorem State.setBank_clk (s : State) (b : Nat) (f : Bank → Bank) : (s.setBank b f).clk = s.clk := rfl
@[simp] theorem State.setBank_pwr (s : State) (b : Nat) (f : Bank → Bank) : (s.setBank b f).pwr = s.pwr := rfl
@[simp] theorem State.setBank_sec (s : State) (b : Nat) (f : Bank → Bank) : (s.setBank b f).sec = s.sec := rfl
@[simp] theorem State.setBank_dep (s : State) (b : Nat) (f : Bank → Bank) : (s.setBank b f).dep = s.dep := rfl
@[simp] theorem State.setBank_seq (s : State) (b : Nat) (f : Bank → Bank) : (s.setBank b f).seq = s.seq := rfl
@[simp] theorem State.setBank_att (s : State) (b : Nat) (f : Bank → Bank) : (s.setBank b f).att = s.att := rfl
@[simp] theorem State.setBank_warm (s : State) (b : Nat) (f : Bank → Bank) : (s.setBank b f).warm = s.warm := rfl
@[simp] theorem State.setBank_tiles (s : State) (b : Nat) (f : Bank → Bank) : (s.setBank b f).tiles = s.tiles := rfl
@[simp] theorem State.setBank_blw (s : State) (b : Nat) (f : Bank → Bank) : (s.setBank b f).blw = s.blw := rfl
@[simp] theorem State.setBank_hbc (s : State) (b : Nat) (f : Bank → Bank) : (s.setBank b f).hbc = s.hbc := rfl
@[simp] theorem State.setBank_nvh (s : State) (b : Nat) (f : Bank → Bank) : (s.setBank b f).nvh = s.nvh := rfl
@[simp] theorem State.setBank_cxh (s : State) (b : Nat) (f : Bank → Bank) : (s.setBank b f).cxh = s.cxh := rfl
@[simp] theorem State.setBank_fab (s : State) (b : Nat) (f : Bank → Bank) : (s.setBank b f).fab = s.fab := rfl
@[simp] theorem State.setBank_dma (s : State) (b : Nat) (f : Bank → Bank) : (s.setBank b f).dma = s.dma := rfl
@[simp] theorem State.setBank_cnt (s : State) (b : Nat) (f : Bank → Bank) : (s.setBank b f).cnt = s.cnt := rfl
@[simp] theorem State.setBank_snp (s : State) (b : Nat) (f : Bank → Bank) : (s.setBank b f).snp = s.snp := rfl
@[simp] theorem State.setBank_rec_ (s : State) (b : Nat) (f : Bank → Bank) : (s.setBank b f).rec_ = s.rec_ := rfl
@[simp] theorem State.setBank_jlk (s : State) (b : Nat) (f : Bank → Bank) : (s.setBank b f).jlk = s.jlk := rfl
@[simp] theorem State.setBank_tsc (s : State) (b : Nat) (f : Bank → Bank) : (s.setBank b f).tsc = s.tsc := rfl
@[simp] theorem State.setBank_slot (s : State) (b : Nat) (f : Bank → Bank) (x : Nat) : (s.setBank b f).slot x = s.slot x := rfl

/-! ### setQp -/

@[simp] theorem State.setQp_pending (s : State) (q : Nat) (f : Qpc → Qpc) : (s.setQp q f).pending = s.pending := rfl
@[simp] theorem State.setQp_time (s : State) (q : Nat) (f : Qpc → Qpc) : (s.setQp q f).time = s.time := rfl
@[simp] theorem State.setQp_phase (s : State) (q : Nat) (f : Qpc → Qpc) : (s.setQp q f).phase = s.phase := rfl
@[simp] theorem State.setQp_fresh (s : State) (q : Nat) (f : Qpc → Qpc) : (s.setQp q f).fresh = s.fresh := rfl
@[simp] theorem State.setQp_regs (s : State) (q : Nat) (f : Qpc → Qpc) : (s.setQp q f).regs = s.regs := rfl
@[simp] theorem State.setQp_pages (s : State) (q : Nat) (f : Qpc → Qpc) : (s.setQp q f).pages = s.pages := rfl
@[simp] theorem State.setQp_ptrs (s : State) (q : Nat) (f : Qpc → Qpc) : (s.setQp q f).ptrs = s.ptrs := rfl
@[simp] theorem State.setQp_mems (s : State) (q : Nat) (f : Qpc → Qpc) : (s.setQp q f).mems = s.mems := rfl
@[simp] theorem State.setQp_boot (s : State) (q : Nat) (f : Qpc → Qpc) : (s.setQp q f).boot = s.boot := rfl
@[simp] theorem State.setQp_clk (s : State) (q : Nat) (f : Qpc → Qpc) : (s.setQp q f).clk = s.clk := rfl
@[simp] theorem State.setQp_pwr (s : State) (q : Nat) (f : Qpc → Qpc) : (s.setQp q f).pwr = s.pwr := rfl
@[simp] theorem State.setQp_sec (s : State) (q : Nat) (f : Qpc → Qpc) : (s.setQp q f).sec = s.sec := rfl
@[simp] theorem State.setQp_dep (s : State) (q : Nat) (f : Qpc → Qpc) : (s.setQp q f).dep = s.dep := rfl
@[simp] theorem State.setQp_seq (s : State) (q : Nat) (f : Qpc → Qpc) : (s.setQp q f).seq = s.seq := rfl
@[simp] theorem State.setQp_chn (s : State) (q : Nat) (f : Qpc → Qpc) : (s.setQp q f).chn = s.chn := rfl
@[simp] theorem State.setQp_att (s : State) (q : Nat) (f : Qpc → Qpc) : (s.setQp q f).att = s.att := rfl
@[simp] theorem State.setQp_warm (s : State) (q : Nat) (f : Qpc → Qpc) : (s.setQp q f).warm = s.warm := rfl
@[simp] theorem State.setQp_tiles (s : State) (q : Nat) (f : Qpc → Qpc) : (s.setQp q f).tiles = s.tiles := rfl
@[simp] theorem State.setQp_blw (s : State) (q : Nat) (f : Qpc → Qpc) : (s.setQp q f).blw = s.blw := rfl
@[simp] theorem State.setQp_hbc (s : State) (q : Nat) (f : Qpc → Qpc) : (s.setQp q f).hbc = s.hbc := rfl
@[simp] theorem State.setQp_nvh (s : State) (q : Nat) (f : Qpc → Qpc) : (s.setQp q f).nvh = s.nvh := rfl
@[simp] theorem State.setQp_cxh (s : State) (q : Nat) (f : Qpc → Qpc) : (s.setQp q f).cxh = s.cxh := rfl
@[simp] theorem State.setQp_dma (s : State) (q : Nat) (f : Qpc → Qpc) : (s.setQp q f).dma = s.dma := rfl
@[simp] theorem State.setQp_cnt (s : State) (q : Nat) (f : Qpc → Qpc) : (s.setQp q f).cnt = s.cnt := rfl
@[simp] theorem State.setQp_snp (s : State) (q : Nat) (f : Qpc → Qpc) : (s.setQp q f).snp = s.snp := rfl
@[simp] theorem State.setQp_rec_ (s : State) (q : Nat) (f : Qpc → Qpc) : (s.setQp q f).rec_ = s.rec_ := rfl
@[simp] theorem State.setQp_jlk (s : State) (q : Nat) (f : Qpc → Qpc) : (s.setQp q f).jlk = s.jlk := rfl
@[simp] theorem State.setQp_tsc (s : State) (q : Nat) (f : Qpc → Qpc) : (s.setQp q f).tsc = s.tsc := rfl
@[simp] theorem State.setQp_key (s : State) (q : Nat) (f : Qpc → Qpc) (x : Nat) : (s.setQp q f).key x = s.key x := rfl

/-! ### setKey -/

@[simp] theorem State.setKey_pending (s : State) (k : Nat) (f : Key → Key) : (s.setKey k f).pending = s.pending := rfl
@[simp] theorem State.setKey_time (s : State) (k : Nat) (f : Key → Key) : (s.setKey k f).time = s.time := rfl
@[simp] theorem State.setKey_phase (s : State) (k : Nat) (f : Key → Key) : (s.setKey k f).phase = s.phase := rfl
@[simp] theorem State.setKey_fresh (s : State) (k : Nat) (f : Key → Key) : (s.setKey k f).fresh = s.fresh := rfl
@[simp] theorem State.setKey_regs (s : State) (k : Nat) (f : Key → Key) : (s.setKey k f).regs = s.regs := rfl
@[simp] theorem State.setKey_pages (s : State) (k : Nat) (f : Key → Key) : (s.setKey k f).pages = s.pages := rfl
@[simp] theorem State.setKey_ptrs (s : State) (k : Nat) (f : Key → Key) : (s.setKey k f).ptrs = s.ptrs := rfl
@[simp] theorem State.setKey_mems (s : State) (k : Nat) (f : Key → Key) : (s.setKey k f).mems = s.mems := rfl
@[simp] theorem State.setKey_boot (s : State) (k : Nat) (f : Key → Key) : (s.setKey k f).boot = s.boot := rfl
@[simp] theorem State.setKey_clk (s : State) (k : Nat) (f : Key → Key) : (s.setKey k f).clk = s.clk := rfl
@[simp] theorem State.setKey_pwr (s : State) (k : Nat) (f : Key → Key) : (s.setKey k f).pwr = s.pwr := rfl
@[simp] theorem State.setKey_sec (s : State) (k : Nat) (f : Key → Key) : (s.setKey k f).sec = s.sec := rfl
@[simp] theorem State.setKey_dep (s : State) (k : Nat) (f : Key → Key) : (s.setKey k f).dep = s.dep := rfl
@[simp] theorem State.setKey_seq (s : State) (k : Nat) (f : Key → Key) : (s.setKey k f).seq = s.seq := rfl
@[simp] theorem State.setKey_chn (s : State) (k : Nat) (f : Key → Key) : (s.setKey k f).chn = s.chn := rfl
@[simp] theorem State.setKey_att (s : State) (k : Nat) (f : Key → Key) : (s.setKey k f).att = s.att := rfl
@[simp] theorem State.setKey_warm (s : State) (k : Nat) (f : Key → Key) : (s.setKey k f).warm = s.warm := rfl
@[simp] theorem State.setKey_tiles (s : State) (k : Nat) (f : Key → Key) : (s.setKey k f).tiles = s.tiles := rfl
@[simp] theorem State.setKey_blw (s : State) (k : Nat) (f : Key → Key) : (s.setKey k f).blw = s.blw := rfl
@[simp] theorem State.setKey_hbc (s : State) (k : Nat) (f : Key → Key) : (s.setKey k f).hbc = s.hbc := rfl
@[simp] theorem State.setKey_nvh (s : State) (k : Nat) (f : Key → Key) : (s.setKey k f).nvh = s.nvh := rfl
@[simp] theorem State.setKey_cxh (s : State) (k : Nat) (f : Key → Key) : (s.setKey k f).cxh = s.cxh := rfl
@[simp] theorem State.setKey_dma (s : State) (k : Nat) (f : Key → Key) : (s.setKey k f).dma = s.dma := rfl
@[simp] theorem State.setKey_cnt (s : State) (k : Nat) (f : Key → Key) : (s.setKey k f).cnt = s.cnt := rfl
@[simp] theorem State.setKey_snp (s : State) (k : Nat) (f : Key → Key) : (s.setKey k f).snp = s.snp := rfl
@[simp] theorem State.setKey_rec_ (s : State) (k : Nat) (f : Key → Key) : (s.setKey k f).rec_ = s.rec_ := rfl
@[simp] theorem State.setKey_jlk (s : State) (k : Nat) (f : Key → Key) : (s.setKey k f).jlk = s.jlk := rfl
@[simp] theorem State.setKey_tsc (s : State) (k : Nat) (f : Key → Key) : (s.setKey k f).tsc = s.tsc := rfl
@[simp] theorem State.setKey_qp (s : State) (k : Nat) (f : Key → Key) (x : Nat) : (s.setKey k f).qp x = s.qp x := rfl

/-! ### setHbm -/

@[simp] theorem State.setHbm_pending (s : State) (m : Memory) : (s.setHbm m).pending = s.pending := rfl
@[simp] theorem State.setHbm_time (s : State) (m : Memory) : (s.setHbm m).time = s.time := rfl
@[simp] theorem State.setHbm_phase (s : State) (m : Memory) : (s.setHbm m).phase = s.phase := rfl
@[simp] theorem State.setHbm_fresh (s : State) (m : Memory) : (s.setHbm m).fresh = s.fresh := rfl
@[simp] theorem State.setHbm_regs (s : State) (m : Memory) : (s.setHbm m).regs = s.regs := rfl
@[simp] theorem State.setHbm_pages (s : State) (m : Memory) : (s.setHbm m).pages = s.pages := rfl
@[simp] theorem State.setHbm_ptrs (s : State) (m : Memory) : (s.setHbm m).ptrs = s.ptrs := rfl
@[simp] theorem State.setHbm_boot (s : State) (m : Memory) : (s.setHbm m).boot = s.boot := rfl
@[simp] theorem State.setHbm_clk (s : State) (m : Memory) : (s.setHbm m).clk = s.clk := rfl
@[simp] theorem State.setHbm_pwr (s : State) (m : Memory) : (s.setHbm m).pwr = s.pwr := rfl
@[simp] theorem State.setHbm_sec (s : State) (m : Memory) : (s.setHbm m).sec = s.sec := rfl
@[simp] theorem State.setHbm_dep (s : State) (m : Memory) : (s.setHbm m).dep = s.dep := rfl
@[simp] theorem State.setHbm_seq (s : State) (m : Memory) : (s.setHbm m).seq = s.seq := rfl
@[simp] theorem State.setHbm_chn (s : State) (m : Memory) : (s.setHbm m).chn = s.chn := rfl
@[simp] theorem State.setHbm_att (s : State) (m : Memory) : (s.setHbm m).att = s.att := rfl
@[simp] theorem State.setHbm_warm (s : State) (m : Memory) : (s.setHbm m).warm = s.warm := rfl
@[simp] theorem State.setHbm_tiles (s : State) (m : Memory) : (s.setHbm m).tiles = s.tiles := rfl
@[simp] theorem State.setHbm_blw (s : State) (m : Memory) : (s.setHbm m).blw = s.blw := rfl
@[simp] theorem State.setHbm_hbc (s : State) (m : Memory) : (s.setHbm m).hbc = s.hbc := rfl
@[simp] theorem State.setHbm_nvh (s : State) (m : Memory) : (s.setHbm m).nvh = s.nvh := rfl
@[simp] theorem State.setHbm_cxh (s : State) (m : Memory) : (s.setHbm m).cxh = s.cxh := rfl
@[simp] theorem State.setHbm_fab (s : State) (m : Memory) : (s.setHbm m).fab = s.fab := rfl
@[simp] theorem State.setHbm_dma (s : State) (m : Memory) : (s.setHbm m).dma = s.dma := rfl
@[simp] theorem State.setHbm_cnt (s : State) (m : Memory) : (s.setHbm m).cnt = s.cnt := rfl
@[simp] theorem State.setHbm_snp (s : State) (m : Memory) : (s.setHbm m).snp = s.snp := rfl
@[simp] theorem State.setHbm_rec_ (s : State) (m : Memory) : (s.setHbm m).rec_ = s.rec_ := rfl
@[simp] theorem State.setHbm_jlk (s : State) (m : Memory) : (s.setHbm m).jlk = s.jlk := rfl
@[simp] theorem State.setHbm_tsc (s : State) (m : Memory) : (s.setHbm m).tsc = s.tsc := rfl

/-! ### setSpad -/

@[simp] theorem State.setSpad_pending (s : State) (m : Memory) : (s.setSpad m).pending = s.pending := rfl
@[simp] theorem State.setSpad_time (s : State) (m : Memory) : (s.setSpad m).time = s.time := rfl
@[simp] theorem State.setSpad_phase (s : State) (m : Memory) : (s.setSpad m).phase = s.phase := rfl
@[simp] theorem State.setSpad_fresh (s : State) (m : Memory) : (s.setSpad m).fresh = s.fresh := rfl
@[simp] theorem State.setSpad_regs (s : State) (m : Memory) : (s.setSpad m).regs = s.regs := rfl
@[simp] theorem State.setSpad_pages (s : State) (m : Memory) : (s.setSpad m).pages = s.pages := rfl
@[simp] theorem State.setSpad_ptrs (s : State) (m : Memory) : (s.setSpad m).ptrs = s.ptrs := rfl
@[simp] theorem State.setSpad_boot (s : State) (m : Memory) : (s.setSpad m).boot = s.boot := rfl
@[simp] theorem State.setSpad_clk (s : State) (m : Memory) : (s.setSpad m).clk = s.clk := rfl
@[simp] theorem State.setSpad_pwr (s : State) (m : Memory) : (s.setSpad m).pwr = s.pwr := rfl
@[simp] theorem State.setSpad_sec (s : State) (m : Memory) : (s.setSpad m).sec = s.sec := rfl
@[simp] theorem State.setSpad_dep (s : State) (m : Memory) : (s.setSpad m).dep = s.dep := rfl
@[simp] theorem State.setSpad_seq (s : State) (m : Memory) : (s.setSpad m).seq = s.seq := rfl
@[simp] theorem State.setSpad_chn (s : State) (m : Memory) : (s.setSpad m).chn = s.chn := rfl
@[simp] theorem State.setSpad_att (s : State) (m : Memory) : (s.setSpad m).att = s.att := rfl
@[simp] theorem State.setSpad_warm (s : State) (m : Memory) : (s.setSpad m).warm = s.warm := rfl
@[simp] theorem State.setSpad_tiles (s : State) (m : Memory) : (s.setSpad m).tiles = s.tiles := rfl
@[simp] theorem State.setSpad_blw (s : State) (m : Memory) : (s.setSpad m).blw = s.blw := rfl
@[simp] theorem State.setSpad_hbc (s : State) (m : Memory) : (s.setSpad m).hbc = s.hbc := rfl
@[simp] theorem State.setSpad_nvh (s : State) (m : Memory) : (s.setSpad m).nvh = s.nvh := rfl
@[simp] theorem State.setSpad_cxh (s : State) (m : Memory) : (s.setSpad m).cxh = s.cxh := rfl
@[simp] theorem State.setSpad_fab (s : State) (m : Memory) : (s.setSpad m).fab = s.fab := rfl
@[simp] theorem State.setSpad_dma (s : State) (m : Memory) : (s.setSpad m).dma = s.dma := rfl
@[simp] theorem State.setSpad_cnt (s : State) (m : Memory) : (s.setSpad m).cnt = s.cnt := rfl
@[simp] theorem State.setSpad_snp (s : State) (m : Memory) : (s.setSpad m).snp = s.snp := rfl
@[simp] theorem State.setSpad_rec_ (s : State) (m : Memory) : (s.setSpad m).rec_ = s.rec_ := rfl
@[simp] theorem State.setSpad_jlk (s : State) (m : Memory) : (s.setSpad m).jlk = s.jlk := rfl
@[simp] theorem State.setSpad_tsc (s : State) (m : Memory) : (s.setSpad m).tsc = s.tsc := rfl

/-! ### setPool -/

@[simp] theorem State.setPool_pending (s : State) (m : Memory) : (s.setPool m).pending = s.pending := rfl
@[simp] theorem State.setPool_time (s : State) (m : Memory) : (s.setPool m).time = s.time := rfl
@[simp] theorem State.setPool_phase (s : State) (m : Memory) : (s.setPool m).phase = s.phase := rfl
@[simp] theorem State.setPool_fresh (s : State) (m : Memory) : (s.setPool m).fresh = s.fresh := rfl
@[simp] theorem State.setPool_regs (s : State) (m : Memory) : (s.setPool m).regs = s.regs := rfl
@[simp] theorem State.setPool_pages (s : State) (m : Memory) : (s.setPool m).pages = s.pages := rfl
@[simp] theorem State.setPool_ptrs (s : State) (m : Memory) : (s.setPool m).ptrs = s.ptrs := rfl
@[simp] theorem State.setPool_boot (s : State) (m : Memory) : (s.setPool m).boot = s.boot := rfl
@[simp] theorem State.setPool_clk (s : State) (m : Memory) : (s.setPool m).clk = s.clk := rfl
@[simp] theorem State.setPool_pwr (s : State) (m : Memory) : (s.setPool m).pwr = s.pwr := rfl
@[simp] theorem State.setPool_sec (s : State) (m : Memory) : (s.setPool m).sec = s.sec := rfl
@[simp] theorem State.setPool_dep (s : State) (m : Memory) : (s.setPool m).dep = s.dep := rfl
@[simp] theorem State.setPool_seq (s : State) (m : Memory) : (s.setPool m).seq = s.seq := rfl
@[simp] theorem State.setPool_chn (s : State) (m : Memory) : (s.setPool m).chn = s.chn := rfl
@[simp] theorem State.setPool_att (s : State) (m : Memory) : (s.setPool m).att = s.att := rfl
@[simp] theorem State.setPool_warm (s : State) (m : Memory) : (s.setPool m).warm = s.warm := rfl
@[simp] theorem State.setPool_tiles (s : State) (m : Memory) : (s.setPool m).tiles = s.tiles := rfl
@[simp] theorem State.setPool_blw (s : State) (m : Memory) : (s.setPool m).blw = s.blw := rfl
@[simp] theorem State.setPool_hbc (s : State) (m : Memory) : (s.setPool m).hbc = s.hbc := rfl
@[simp] theorem State.setPool_nvh (s : State) (m : Memory) : (s.setPool m).nvh = s.nvh := rfl
@[simp] theorem State.setPool_cxh (s : State) (m : Memory) : (s.setPool m).cxh = s.cxh := rfl
@[simp] theorem State.setPool_fab (s : State) (m : Memory) : (s.setPool m).fab = s.fab := rfl
@[simp] theorem State.setPool_dma (s : State) (m : Memory) : (s.setPool m).dma = s.dma := rfl
@[simp] theorem State.setPool_cnt (s : State) (m : Memory) : (s.setPool m).cnt = s.cnt := rfl
@[simp] theorem State.setPool_snp (s : State) (m : Memory) : (s.setPool m).snp = s.snp := rfl
@[simp] theorem State.setPool_rec_ (s : State) (m : Memory) : (s.setPool m).rec_ = s.rec_ := rfl
@[simp] theorem State.setPool_jlk (s : State) (m : Memory) : (s.setPool m).jlk = s.jlk := rfl
@[simp] theorem State.setPool_tsc (s : State) (m : Memory) : (s.setPool m).tsc = s.tsc := rfl

/-! ### setFlash -/

@[simp] theorem State.setFlash_pending (s : State) (m : Memory) : (s.setFlash m).pending = s.pending := rfl
@[simp] theorem State.setFlash_time (s : State) (m : Memory) : (s.setFlash m).time = s.time := rfl
@[simp] theorem State.setFlash_phase (s : State) (m : Memory) : (s.setFlash m).phase = s.phase := rfl
@[simp] theorem State.setFlash_fresh (s : State) (m : Memory) : (s.setFlash m).fresh = s.fresh := rfl
@[simp] theorem State.setFlash_regs (s : State) (m : Memory) : (s.setFlash m).regs = s.regs := rfl
@[simp] theorem State.setFlash_pages (s : State) (m : Memory) : (s.setFlash m).pages = s.pages := rfl
@[simp] theorem State.setFlash_ptrs (s : State) (m : Memory) : (s.setFlash m).ptrs = s.ptrs := rfl
@[simp] theorem State.setFlash_boot (s : State) (m : Memory) : (s.setFlash m).boot = s.boot := rfl
@[simp] theorem State.setFlash_clk (s : State) (m : Memory) : (s.setFlash m).clk = s.clk := rfl
@[simp] theorem State.setFlash_pwr (s : State) (m : Memory) : (s.setFlash m).pwr = s.pwr := rfl
@[simp] theorem State.setFlash_sec (s : State) (m : Memory) : (s.setFlash m).sec = s.sec := rfl
@[simp] theorem State.setFlash_dep (s : State) (m : Memory) : (s.setFlash m).dep = s.dep := rfl
@[simp] theorem State.setFlash_seq (s : State) (m : Memory) : (s.setFlash m).seq = s.seq := rfl
@[simp] theorem State.setFlash_chn (s : State) (m : Memory) : (s.setFlash m).chn = s.chn := rfl
@[simp] theorem State.setFlash_att (s : State) (m : Memory) : (s.setFlash m).att = s.att := rfl
@[simp] theorem State.setFlash_warm (s : State) (m : Memory) : (s.setFlash m).warm = s.warm := rfl
@[simp] theorem State.setFlash_tiles (s : State) (m : Memory) : (s.setFlash m).tiles = s.tiles := rfl
@[simp] theorem State.setFlash_blw (s : State) (m : Memory) : (s.setFlash m).blw = s.blw := rfl
@[simp] theorem State.setFlash_hbc (s : State) (m : Memory) : (s.setFlash m).hbc = s.hbc := rfl
@[simp] theorem State.setFlash_nvh (s : State) (m : Memory) : (s.setFlash m).nvh = s.nvh := rfl
@[simp] theorem State.setFlash_cxh (s : State) (m : Memory) : (s.setFlash m).cxh = s.cxh := rfl
@[simp] theorem State.setFlash_fab (s : State) (m : Memory) : (s.setFlash m).fab = s.fab := rfl
@[simp] theorem State.setFlash_dma (s : State) (m : Memory) : (s.setFlash m).dma = s.dma := rfl
@[simp] theorem State.setFlash_cnt (s : State) (m : Memory) : (s.setFlash m).cnt = s.cnt := rfl
@[simp] theorem State.setFlash_snp (s : State) (m : Memory) : (s.setFlash m).snp = s.snp := rfl
@[simp] theorem State.setFlash_rec_ (s : State) (m : Memory) : (s.setFlash m).rec_ = s.rec_ := rfl
@[simp] theorem State.setFlash_jlk (s : State) (m : Memory) : (s.setFlash m).jlk = s.jlk := rfl
@[simp] theorem State.setFlash_tsc (s : State) (m : Memory) : (s.setFlash m).tsc = s.tsc := rfl

/-! ### setHost -/

@[simp] theorem State.setHost_pending (s : State) (m : Memory) : (s.setHost m).pending = s.pending := rfl
@[simp] theorem State.setHost_time (s : State) (m : Memory) : (s.setHost m).time = s.time := rfl
@[simp] theorem State.setHost_phase (s : State) (m : Memory) : (s.setHost m).phase = s.phase := rfl
@[simp] theorem State.setHost_fresh (s : State) (m : Memory) : (s.setHost m).fresh = s.fresh := rfl
@[simp] theorem State.setHost_regs (s : State) (m : Memory) : (s.setHost m).regs = s.regs := rfl
@[simp] theorem State.setHost_pages (s : State) (m : Memory) : (s.setHost m).pages = s.pages := rfl
@[simp] theorem State.setHost_ptrs (s : State) (m : Memory) : (s.setHost m).ptrs = s.ptrs := rfl
@[simp] theorem State.setHost_boot (s : State) (m : Memory) : (s.setHost m).boot = s.boot := rfl
@[simp] theorem State.setHost_clk (s : State) (m : Memory) : (s.setHost m).clk = s.clk := rfl
@[simp] theorem State.setHost_pwr (s : State) (m : Memory) : (s.setHost m).pwr = s.pwr := rfl
@[simp] theorem State.setHost_sec (s : State) (m : Memory) : (s.setHost m).sec = s.sec := rfl
@[simp] theorem State.setHost_dep (s : State) (m : Memory) : (s.setHost m).dep = s.dep := rfl
@[simp] theorem State.setHost_seq (s : State) (m : Memory) : (s.setHost m).seq = s.seq := rfl
@[simp] theorem State.setHost_chn (s : State) (m : Memory) : (s.setHost m).chn = s.chn := rfl
@[simp] theorem State.setHost_att (s : State) (m : Memory) : (s.setHost m).att = s.att := rfl
@[simp] theorem State.setHost_warm (s : State) (m : Memory) : (s.setHost m).warm = s.warm := rfl
@[simp] theorem State.setHost_tiles (s : State) (m : Memory) : (s.setHost m).tiles = s.tiles := rfl
@[simp] theorem State.setHost_blw (s : State) (m : Memory) : (s.setHost m).blw = s.blw := rfl
@[simp] theorem State.setHost_hbc (s : State) (m : Memory) : (s.setHost m).hbc = s.hbc := rfl
@[simp] theorem State.setHost_nvh (s : State) (m : Memory) : (s.setHost m).nvh = s.nvh := rfl
@[simp] theorem State.setHost_cxh (s : State) (m : Memory) : (s.setHost m).cxh = s.cxh := rfl
@[simp] theorem State.setHost_fab (s : State) (m : Memory) : (s.setHost m).fab = s.fab := rfl
@[simp] theorem State.setHost_dma (s : State) (m : Memory) : (s.setHost m).dma = s.dma := rfl
@[simp] theorem State.setHost_cnt (s : State) (m : Memory) : (s.setHost m).cnt = s.cnt := rfl
@[simp] theorem State.setHost_snp (s : State) (m : Memory) : (s.setHost m).snp = s.snp := rfl
@[simp] theorem State.setHost_rec_ (s : State) (m : Memory) : (s.setHost m).rec_ = s.rec_ := rfl
@[simp] theorem State.setHost_jlk (s : State) (m : Memory) : (s.setHost m).jlk = s.jlk := rfl
@[simp] theorem State.setHost_tsc (s : State) (m : Memory) : (s.setHost m).tsc = s.tsc := rfl

/-! ### setPtr -/

@[simp] theorem State.setPtr_pending (s : State) (k v : Nat) : (s.setPtr k v).pending = s.pending := rfl
@[simp] theorem State.setPtr_time (s : State) (k v : Nat) : (s.setPtr k v).time = s.time := rfl
@[simp] theorem State.setPtr_phase (s : State) (k v : Nat) : (s.setPtr k v).phase = s.phase := rfl
@[simp] theorem State.setPtr_fresh (s : State) (k v : Nat) : (s.setPtr k v).fresh = s.fresh := rfl
@[simp] theorem State.setPtr_regs (s : State) (k v : Nat) : (s.setPtr k v).regs = s.regs := rfl
@[simp] theorem State.setPtr_pages (s : State) (k v : Nat) : (s.setPtr k v).pages = s.pages := rfl
@[simp] theorem State.setPtr_mems (s : State) (k v : Nat) : (s.setPtr k v).mems = s.mems := rfl
@[simp] theorem State.setPtr_boot (s : State) (k v : Nat) : (s.setPtr k v).boot = s.boot := rfl
@[simp] theorem State.setPtr_clk (s : State) (k v : Nat) : (s.setPtr k v).clk = s.clk := rfl
@[simp] theorem State.setPtr_pwr (s : State) (k v : Nat) : (s.setPtr k v).pwr = s.pwr := rfl
@[simp] theorem State.setPtr_sec (s : State) (k v : Nat) : (s.setPtr k v).sec = s.sec := rfl
@[simp] theorem State.setPtr_dep (s : State) (k v : Nat) : (s.setPtr k v).dep = s.dep := rfl
@[simp] theorem State.setPtr_seq (s : State) (k v : Nat) : (s.setPtr k v).seq = s.seq := rfl
@[simp] theorem State.setPtr_chn (s : State) (k v : Nat) : (s.setPtr k v).chn = s.chn := rfl
@[simp] theorem State.setPtr_att (s : State) (k v : Nat) : (s.setPtr k v).att = s.att := rfl
@[simp] theorem State.setPtr_warm (s : State) (k v : Nat) : (s.setPtr k v).warm = s.warm := rfl
@[simp] theorem State.setPtr_tiles (s : State) (k v : Nat) : (s.setPtr k v).tiles = s.tiles := rfl
@[simp] theorem State.setPtr_blw (s : State) (k v : Nat) : (s.setPtr k v).blw = s.blw := rfl
@[simp] theorem State.setPtr_hbc (s : State) (k v : Nat) : (s.setPtr k v).hbc = s.hbc := rfl
@[simp] theorem State.setPtr_nvh (s : State) (k v : Nat) : (s.setPtr k v).nvh = s.nvh := rfl
@[simp] theorem State.setPtr_cxh (s : State) (k v : Nat) : (s.setPtr k v).cxh = s.cxh := rfl
@[simp] theorem State.setPtr_fab (s : State) (k v : Nat) : (s.setPtr k v).fab = s.fab := rfl
@[simp] theorem State.setPtr_dma (s : State) (k v : Nat) : (s.setPtr k v).dma = s.dma := rfl
@[simp] theorem State.setPtr_cnt (s : State) (k v : Nat) : (s.setPtr k v).cnt = s.cnt := rfl
@[simp] theorem State.setPtr_snp (s : State) (k v : Nat) : (s.setPtr k v).snp = s.snp := rfl
@[simp] theorem State.setPtr_rec_ (s : State) (k v : Nat) : (s.setPtr k v).rec_ = s.rec_ := rfl
@[simp] theorem State.setPtr_jlk (s : State) (k v : Nat) : (s.setPtr k v).jlk = s.jlk := rfl
@[simp] theorem State.setPtr_tsc (s : State) (k v : Nat) : (s.setPtr k v).tsc = s.tsc := rfl

/-! ### reach -/

@[simp] theorem State.reach_pending (s : State) (t : Nat) : (s.reach t).pending = s.pending := rfl
@[simp] theorem State.reach_fresh (s : State) (t : Nat) : (s.reach t).fresh = s.fresh := rfl
@[simp] theorem State.reach_regs (s : State) (t : Nat) : (s.reach t).regs = s.regs := rfl
@[simp] theorem State.reach_pages (s : State) (t : Nat) : (s.reach t).pages = s.pages := rfl
@[simp] theorem State.reach_ptrs (s : State) (t : Nat) : (s.reach t).ptrs = s.ptrs := rfl
@[simp] theorem State.reach_mems (s : State) (t : Nat) : (s.reach t).mems = s.mems := rfl
@[simp] theorem State.reach_boot (s : State) (t : Nat) : (s.reach t).boot = s.boot := rfl
@[simp] theorem State.reach_clk (s : State) (t : Nat) : (s.reach t).clk = s.clk := rfl
@[simp] theorem State.reach_pwr (s : State) (t : Nat) : (s.reach t).pwr = s.pwr := rfl
@[simp] theorem State.reach_sec (s : State) (t : Nat) : (s.reach t).sec = s.sec := rfl
@[simp] theorem State.reach_dep (s : State) (t : Nat) : (s.reach t).dep = s.dep := rfl
@[simp] theorem State.reach_seq (s : State) (t : Nat) : (s.reach t).seq = s.seq := rfl
@[simp] theorem State.reach_chn (s : State) (t : Nat) : (s.reach t).chn = s.chn := rfl
@[simp] theorem State.reach_att (s : State) (t : Nat) : (s.reach t).att = s.att := rfl
@[simp] theorem State.reach_warm (s : State) (t : Nat) : (s.reach t).warm = s.warm := rfl
@[simp] theorem State.reach_tiles (s : State) (t : Nat) : (s.reach t).tiles = s.tiles := rfl
@[simp] theorem State.reach_blw (s : State) (t : Nat) : (s.reach t).blw = s.blw := rfl
@[simp] theorem State.reach_hbc (s : State) (t : Nat) : (s.reach t).hbc = s.hbc := rfl
@[simp] theorem State.reach_nvh (s : State) (t : Nat) : (s.reach t).nvh = s.nvh := rfl
@[simp] theorem State.reach_cxh (s : State) (t : Nat) : (s.reach t).cxh = s.cxh := rfl
@[simp] theorem State.reach_fab (s : State) (t : Nat) : (s.reach t).fab = s.fab := rfl
@[simp] theorem State.reach_dma (s : State) (t : Nat) : (s.reach t).dma = s.dma := rfl
@[simp] theorem State.reach_cnt (s : State) (t : Nat) : (s.reach t).cnt = s.cnt := rfl
@[simp] theorem State.reach_snp (s : State) (t : Nat) : (s.reach t).snp = s.snp := rfl
@[simp] theorem State.reach_rec_ (s : State) (t : Nat) : (s.reach t).rec_ = s.rec_ := rfl
@[simp] theorem State.reach_jlk (s : State) (t : Nat) : (s.reach t).jlk = s.jlk := rfl
@[simp] theorem State.reach_tsc (s : State) (t : Nat) : (s.reach t).tsc = s.tsc := rfl

/-! ### setPage -/

@[simp] theorem State.setPage_pending (s : State) (n : Nat) (f : Page → Page) : (s.setPage n f).pending = s.pending := rfl
@[simp] theorem State.setPage_time (s : State) (n : Nat) (f : Page → Page) : (s.setPage n f).time = s.time := rfl
@[simp] theorem State.setPage_phase (s : State) (n : Nat) (f : Page → Page) : (s.setPage n f).phase = s.phase := rfl
@[simp] theorem State.setPage_fresh (s : State) (n : Nat) (f : Page → Page) : (s.setPage n f).fresh = s.fresh := rfl
@[simp] theorem State.setPage_regs (s : State) (n : Nat) (f : Page → Page) : (s.setPage n f).regs = s.regs := rfl
@[simp] theorem State.setPage_ptrs (s : State) (n : Nat) (f : Page → Page) : (s.setPage n f).ptrs = s.ptrs := rfl
@[simp] theorem State.setPage_mems (s : State) (n : Nat) (f : Page → Page) : (s.setPage n f).mems = s.mems := rfl
@[simp] theorem State.setPage_boot (s : State) (n : Nat) (f : Page → Page) : (s.setPage n f).boot = s.boot := rfl
@[simp] theorem State.setPage_clk (s : State) (n : Nat) (f : Page → Page) : (s.setPage n f).clk = s.clk := rfl
@[simp] theorem State.setPage_pwr (s : State) (n : Nat) (f : Page → Page) : (s.setPage n f).pwr = s.pwr := rfl
@[simp] theorem State.setPage_sec (s : State) (n : Nat) (f : Page → Page) : (s.setPage n f).sec = s.sec := rfl
@[simp] theorem State.setPage_dep (s : State) (n : Nat) (f : Page → Page) : (s.setPage n f).dep = s.dep := rfl
@[simp] theorem State.setPage_seq (s : State) (n : Nat) (f : Page → Page) : (s.setPage n f).seq = s.seq := rfl
@[simp] theorem State.setPage_chn (s : State) (n : Nat) (f : Page → Page) : (s.setPage n f).chn = s.chn := rfl
@[simp] theorem State.setPage_att (s : State) (n : Nat) (f : Page → Page) : (s.setPage n f).att = s.att := rfl
@[simp] theorem State.setPage_warm (s : State) (n : Nat) (f : Page → Page) : (s.setPage n f).warm = s.warm := rfl
@[simp] theorem State.setPage_tiles (s : State) (n : Nat) (f : Page → Page) : (s.setPage n f).tiles = s.tiles := rfl
@[simp] theorem State.setPage_blw (s : State) (n : Nat) (f : Page → Page) : (s.setPage n f).blw = s.blw := rfl
@[simp] theorem State.setPage_hbc (s : State) (n : Nat) (f : Page → Page) : (s.setPage n f).hbc = s.hbc := rfl
@[simp] theorem State.setPage_nvh (s : State) (n : Nat) (f : Page → Page) : (s.setPage n f).nvh = s.nvh := rfl
@[simp] theorem State.setPage_cxh (s : State) (n : Nat) (f : Page → Page) : (s.setPage n f).cxh = s.cxh := rfl
@[simp] theorem State.setPage_fab (s : State) (n : Nat) (f : Page → Page) : (s.setPage n f).fab = s.fab := rfl
@[simp] theorem State.setPage_dma (s : State) (n : Nat) (f : Page → Page) : (s.setPage n f).dma = s.dma := rfl
@[simp] theorem State.setPage_cnt (s : State) (n : Nat) (f : Page → Page) : (s.setPage n f).cnt = s.cnt := rfl
@[simp] theorem State.setPage_snp (s : State) (n : Nat) (f : Page → Page) : (s.setPage n f).snp = s.snp := rfl
@[simp] theorem State.setPage_rec_ (s : State) (n : Nat) (f : Page → Page) : (s.setPage n f).rec_ = s.rec_ := rfl
@[simp] theorem State.setPage_jlk (s : State) (n : Nat) (f : Page → Page) : (s.setPage n f).jlk = s.jlk := rfl
@[simp] theorem State.setPage_tsc (s : State) (n : Nat) (f : Page → Page) : (s.setPage n f).tsc = s.tsc := rfl

/-! ### setReg -/

@[simp] theorem State.setReg_pending (s : State) (p o b v : Nat) : (s.setReg p o b v).pending = s.pending := rfl
@[simp] theorem State.setReg_time (s : State) (p o b v : Nat) : (s.setReg p o b v).time = s.time := rfl
@[simp] theorem State.setReg_phase (s : State) (p o b v : Nat) : (s.setReg p o b v).phase = s.phase := rfl
@[simp] theorem State.setReg_fresh (s : State) (p o b v : Nat) : (s.setReg p o b v).fresh = s.fresh := rfl
@[simp] theorem State.setReg_pages (s : State) (p o b v : Nat) : (s.setReg p o b v).pages = s.pages := rfl
@[simp] theorem State.setReg_ptrs (s : State) (p o b v : Nat) : (s.setReg p o b v).ptrs = s.ptrs := rfl
@[simp] theorem State.setReg_mems (s : State) (p o b v : Nat) : (s.setReg p o b v).mems = s.mems := rfl
@[simp] theorem State.setReg_boot (s : State) (p o b v : Nat) : (s.setReg p o b v).boot = s.boot := rfl
@[simp] theorem State.setReg_clk (s : State) (p o b v : Nat) : (s.setReg p o b v).clk = s.clk := rfl
@[simp] theorem State.setReg_pwr (s : State) (p o b v : Nat) : (s.setReg p o b v).pwr = s.pwr := rfl
@[simp] theorem State.setReg_sec (s : State) (p o b v : Nat) : (s.setReg p o b v).sec = s.sec := rfl
@[simp] theorem State.setReg_dep (s : State) (p o b v : Nat) : (s.setReg p o b v).dep = s.dep := rfl
@[simp] theorem State.setReg_seq (s : State) (p o b v : Nat) : (s.setReg p o b v).seq = s.seq := rfl
@[simp] theorem State.setReg_chn (s : State) (p o b v : Nat) : (s.setReg p o b v).chn = s.chn := rfl
@[simp] theorem State.setReg_att (s : State) (p o b v : Nat) : (s.setReg p o b v).att = s.att := rfl
@[simp] theorem State.setReg_warm (s : State) (p o b v : Nat) : (s.setReg p o b v).warm = s.warm := rfl
@[simp] theorem State.setReg_tiles (s : State) (p o b v : Nat) : (s.setReg p o b v).tiles = s.tiles := rfl
@[simp] theorem State.setReg_blw (s : State) (p o b v : Nat) : (s.setReg p o b v).blw = s.blw := rfl
@[simp] theorem State.setReg_hbc (s : State) (p o b v : Nat) : (s.setReg p o b v).hbc = s.hbc := rfl
@[simp] theorem State.setReg_nvh (s : State) (p o b v : Nat) : (s.setReg p o b v).nvh = s.nvh := rfl
@[simp] theorem State.setReg_cxh (s : State) (p o b v : Nat) : (s.setReg p o b v).cxh = s.cxh := rfl
@[simp] theorem State.setReg_fab (s : State) (p o b v : Nat) : (s.setReg p o b v).fab = s.fab := rfl
@[simp] theorem State.setReg_dma (s : State) (p o b v : Nat) : (s.setReg p o b v).dma = s.dma := rfl
@[simp] theorem State.setReg_cnt (s : State) (p o b v : Nat) : (s.setReg p o b v).cnt = s.cnt := rfl
@[simp] theorem State.setReg_snp (s : State) (p o b v : Nat) : (s.setReg p o b v).snp = s.snp := rfl
@[simp] theorem State.setReg_rec_ (s : State) (p o b v : Nat) : (s.setReg p o b v).rec_ = s.rec_ := rfl
@[simp] theorem State.setReg_jlk (s : State) (p o b v : Nat) : (s.setReg p o b v).jlk = s.jlk := rfl
@[simp] theorem State.setReg_tsc (s : State) (p o b v : Nat) : (s.setReg p o b v).tsc = s.tsc := rfl

end Sys2Proof.Machine
end

