-- ==== Sys2Proof/Laws/Reporting.lean ====
section
/-!
SUPPORT. What the shared reporting operations may change (`Safety.Reports`): frames handed to a scheduler, interrupt causes, counters,
error logs and events, records, snapshots.
-/

namespace Sys2Proof.Safety

open Sys2Proof.Machine

theorem Reports.rfl' (s : State) : Reports s s := by constructor <;> rfl

theorem Reports.trans {s t u : State} (h : Reports s t) (k : Reports t u) : Reports s u := by
  exact ⟨k.pending.trans h.pending, k.time.trans h.time, k.phase.trans h.phase, k.regs.trans h.regs, k.ptrs.trans h.ptrs,
    k.host.trans h.host, k.pool.trans h.pool, k.flash.trans h.flash, k.spad.trans h.spad, k.badLines.trans h.badLines,
    k.ckpts.trans h.ckpts, k.boot.trans h.boot, k.clk.trans h.clk, k.pwr.trans h.pwr, k.sec.trans h.sec, k.dep.trans h.dep,
    k.seq.trans h.seq, k.chn.trans h.chn, k.att.trans h.att, k.warm.trans h.warm, k.tiles.trans h.tiles, k.blw.trans h.blw,
    k.hbc.trans h.hbc, k.nvh.trans h.nvh, k.cxh.trans h.cxh, k.fab.trans h.fab, k.jlk.trans h.jlk⟩

/-- An operation that reports at every step of a fold reports as a whole. -/
theorem Reports.foldl {α : Type} (f : State → α → State) (h : ∀ s a, Reports s (f s a)) (l : List α) (s : State) :
    Reports s (l.foldl f s) := by
  induction l generalizing s with
  | nil => exact Reports.rfl' s
  | cons a l ih => exact (h s a).trans (ih _)

end Sys2Proof.Safety

namespace Sys2Proof.Machine

open Sys2Proof.Safety

theorem setSnp_reports (s : State) (v : Snp) : Reports s { s with snp := v } := by constructor <;> rfl
theorem enqueue_reports (s : State) (p tc : Nat) (f : Frame) (o : Nat) : Reports s (enqueue s p tc f o) := by constructor <;> rfl
theorem sendTxn_reports (s : State) (p tc pt : Nat) (b : Bool) (t : Txn) (o : Nat) : Reports s (sendTxn s p tc pt b t o) :=
  enqueue_reports ..
theorem hostWrite_reports (s : State) (p tc pt : Nat) (b : Bool) (a : Nat) (bs : List Byte) (o : Nat) :
    Reports s (hostWrite s p tc pt b a bs o) := Reports.foldl _ (fun _ _ => sendTxn_reports ..) _ _
theorem hostIrq_reports (s : State) (p tc pt : Nat) (b : Bool) (v : Nat) : Reports s (hostIrq s p tc pt b v) := sendTxn_reports ..
theorem sendPkt_reports (s : State) (p tc vc pt : Nat) (b : Bool) (k : Packet) : Reports s (sendPkt s p tc vc pt b k) :=
  enqueue_reports ..
theorem setPage_reports (s : State) (n : Nat) (f : Page → Page) : Reports s (s.setPage n f) := by constructor <;> rfl

theorem irqMod_reports (s : State) (n : Nat) (f : Page → Page) : Reports s (irqMod s n f) := by
  unfold irqMod
  dsimp only
  split
  · exact (setPage_reports s n f).trans (hostIrq_reports ..)
  · exact setPage_reports s n f

theorem setIrq_reports (s : State) (n i : Nat) : Reports s (setIrq s n i) := irqMod_reports ..
theorem count_reports (s : State) (p i pt n : Nat) : Reports s (count s p i pt n) := by constructor <;> rfl
theorem logOnly_reports (s : State) (p c l o d : Nat) (rq : Requester) : Reports s (logOnly s p c l o d rq) :=
  (setPage_reports ..).trans (setIrq_reports ..)
theorem assertLine_reports (s : State) (l : Nat) : Reports s (assertLine s l) := by constructor <;> rfl
theorem draw_reports (s : State) : Reports s (draw s).2 := by constructor <;> rfl
theorem hbmWrite_reports (s : State) (a : Nat) (bs : List Byte) : Reports s (hbmWrite s a bs) := by constructor <;> rfl

theorem recWrite_reports (s : State) (a : Nat) (bs : List Byte) : Reports s (recWrite s a bs) := by
  unfold recWrite
  split
  · exact hostWrite_reports ..
  · exact hbmWrite_reports ..

theorem recPlace_reports (s : State) (r : Record) : Reports s (recPlace s r) := by
  unfold recPlace
  have h := (((recWrite_reports s (recSegAddr s s.rec_.segNo + if s.rec_.used = 0 then 64 else s.rec_.used) (recordBytes r)).trans
    (count_reports _ pgRec 0 15 1)).trans (count_reports _ pgRec 1 15 (recordLen r)))
  exact h.trans (by constructor <;> rfl)

theorem recPush_reports (s : State) (r : Record) : Reports s (recPush s r) := by
  unfold recPush
  split
  · exact Reports.rfl' s
  · split
    · exact recPlace_reports s r
    · split
      · constructor <;> rfl
      · exact (count_reports s pgRec 2 15 1).trans (by constructor <;> rfl)

theorem recNow_reports (s : State) (ty pt ref : Nat) (body : List Byte) (b : Bool) : Reports s (recNow s ty pt ref body b) := by
  unfold recNow
  split
  · exact recPush_reports ..
  · exact Reports.rfl' s

theorem recAll_reports (s : State) (ty ref : Nat) (body : List Byte) : Reports s (recAll s ty ref body) :=
  Reports.foldl _ (fun _ _ => recNow_reports ..) _ _

theorem latchPage_reports (id src time : Nat) (a : State × Bool) (p : Nat) : Reports a.1 (latchPage id src time a p).1 := by
  unfold latchPage
  dsimp only
  split
  · exact Reports.rfl' _
  · exact ((draw_reports a.1).trans (setPage_reports ..)).trans (setIrq_reports ..)

theorem latchPages_reports (id src time : Nat) (l : List Nat) (a : State × Bool) :
    Reports a.1 (l.foldl (latchPage id src time) a).1 := by
  induction l generalizing a with
  | nil => exact Reports.rfl' _
  | cons p l ih => exact (latchPage_reports id src time a p).trans (ih _)

/-- A snapshot trigger changes nothing that a command acts on. -/
theorem snapTrigger_reports (s : State) (src : Nat) : Reports s (snapTrigger s src) := by
  unfold snapTrigger
  extract_lets id time snp s1 r s2 snp2 s3 s4 taken s5
  have h1 : Reports s s1 := by constructor <;> rfl
  have h2 : Reports s s2 := h1.trans (latchPages_reports id src time snapPages (s1, false))
  clear_value s2 r
  have h3 : Reports s s3 := h2.trans (by unfold s3; split; exact setSnp_reports s2 _; exact Reports.rfl' s2)
  clear_value s3
  have h4 : Reports s s4 := h3.trans (assertLine_reports s3 2)
  clear_value s4
  have h5 : Reports s s5 := h4.trans (Reports.foldl _ (fun _ _ => Reports.foldl _ (fun _ _ => recNow_reports ..) _ _) _ _)
  clear_value s5
  split
  · exact h5.trans (Reports.foldl _ (fun _ _ => sendPkt_reports ..) _ _)
  · exact h5

theorem counterTrigger_reports (s : State) : Reports s (counterTrigger s) := by
  unfold counterTrigger
  split
  · exact snapTrigger_reports ..
  · exact Reports.rfl' s

theorem errPush_reports (s : State) (r : Nat) (e : ErrEntry) : Reports s (errPush s r e) := by
  unfold errPush
  dsimp only
  split <;> constructor <;> rfl

/-- An error event without its trigger changes nothing that a command acts on. -/
theorem errPost_reports (s : State) (code cls page kind layer d1 obj : Nat) (reach : List Nat) :
    Reports s (errPost s code cls page kind layer d1 obj reach) := by
  unfold errPost
  extract_lets e s1
  have h1 : Reports s s1 := by unfold s1; split; exact errPush_reports ..; exact Reports.rfl' _
  exact h1.trans (Reports.foldl _ (fun s pt => by
    dsimp only
    split
    · exact (errPush_reports ..).trans (recNow_reports ..)
    · exact recNow_reports ..) _ _)

theorem errTrigger_reports (s : State) (cls : Nat) : Reports s (errTrigger s cls) := by
  unfold errTrigger
  split
  · exact snapTrigger_reports ..
  · exact Reports.rfl' s

/-- An error event changes nothing that a command acts on. -/
theorem errEvent_reports (s : State) (code cls page kind layer d1 obj : Nat) (reach : List Nat) :
    Reports s (errEvent s code cls page kind layer d1 obj reach) :=
  (errPost_reports ..).trans (errTrigger_reports ..)

/-- A recorded register error changes nothing that a command acts on. -/
theorem logErr_reports (s : State) (page code lsb off d : Nat) (rq : Requester) : Reports s (logErr s page code lsb off d rq) := by
  unfold logErr logPost
  exact ((logOnly_reports ..).trans (errPost_reports ..)).trans (errTrigger_reports ..)

end Sys2Proof.Machine
end

