-- ==== Sys2Proof/WellFormed.lean ====
section
/-!
DEFINITION. Well-formed commands: every number that names a thing of the device lies in the range that the identifier
table of spec/00_scope.md (R18) and the field widths of the rules give it.
-/

namespace Sys2Proof

/-- A requester of R341: one of the eight partitions, a host port or the management channel. -/
def Requester.wf (r : Requester) : Bool := decide (r.pt < 8) && decide (r.src < 5)

/-- A host transaction of R403: the widths of its fields, and no more data than one 4 KiB page (R405). -/
def Txn.wf (t : Txn) : Bool :=
  decide (t.tag < 2 ^ 16) && decide (t.bytes ≤ 4096) && decide (t.addr < 2 ^ 64) && decide (t.data.length ≤ 4096)

/-- A packet of R438: the widths of its fields, and at most 4,096 bytes of data. -/
def Packet.wf (p : Packet) : Bool :=
  decide (p.hops < 32) && decide (p.dstDev < 2 ^ 12) && decide (p.dstPt < 8) && decide (p.srcDev < 2 ^ 12)
    && decide (p.dstQpn < 2 ^ 16) && decide (p.srcQpn < 2 ^ 16) && decide (p.psn < 2 ^ 24) && decide (p.cpn < 2 ^ 40)
    && decide (p.data.length ≤ 4096) && decide (p.framePt < 8)
    && (match p.ptype with | .reserved c => decide (c < 256) | _ => true)

/-- A frame of R390: its channel, partition and sequence fields, and a well-formed body. -/
def Frame.wf (f : Frame) : Bool :=
  decide (f.vc < 8) && decide (f.pt < 8) && decide (f.fseq < 2 ^ 32) && decide (f.kgen < 2 ^ 8)
    && match f.body with
       | .txn t => t.wf
       | .pkt p => p.wf
       | .credit c => decide (c.length = 5)
       | .mgmt _ _ _ d => decide (d.length ≤ 4096)
       | .reserved t => decide (t < 16)
       | .idle | .ack _ | .nak _ | .key _ _ => true

/-- A collective message of R215: group and operation numbers in range, members of a group of at most 64. -/
def CollMsg.wf (m : CollMsg) : Bool :=
  decide (m.member < 64) && decide (m.group < 2 ^ 16) && decide (m.opId < 2 ^ 32) && decide (m.srcDev < 2 ^ 12)
    && decide (m.srcPt < 8) && decide (m.dstPt < 8)

/-- The errors of a read of an HBM unit: at most 36 symbols each (R285). -/
def UnitErr.wf (e : UnitErr) : Bool :=
  decide (e.first.length ≤ 36) && decide (e.second.length ≤ 36) && decide (e.fives.length ≤ 36) && decide (e.tens.length ≤ 36)

/-- Is the command well formed? -/
def Instr.wf : Instr → Bool
  | .nop _ | .profileCreate _ | .seqOpen _ | .seqFork _ | .seqClose _ | .append _ _ | .flush _ | .attend _
  | .headGather _ | .spanMerge _ | .prefixLookup _ | .prefixPublish _ | .prefixRefPin _ | .prefixRefUnpin _
  | .prefixRefRelease _ | .warm _ | .hint _ | .putPage _ | .getPage _ | .send _ | .postRecv _ | .regionOpen _
  | .regionPublish _ | .regionClose _ | .regionRelease _ | .epochCommit _ | .fence _ => true
  | .graphBegin r | .graphAccept r => decide (r < 2048)
  | .depSqDb q pt r _ => q.wf && decide (pt < 8) && decide (r < 256)
  | .depCqDb q pt c _ => q.wf && decide (pt < 8) && decide (c < 64)
  | .ringTurnFetch c _ => decide (c < 4)
  | .nodeIssue _ | .nodeComplete _ => true
  | .completionPost pt c | .coalTimerExpire pt c => decide (pt < 8) && decide (c < 64)
  | .epochCommitMake | .epochCommitTimeout => true
  | .epochApply u => decide (u < 8)
  | .depRingCfg q _ | .depStageLen q _ => q.wf
  | .regWrite q a _ => q.wf && decide (a < 2 ^ 26)
  | .mmioRd q a _ t => q.wf && decide (a < 2 ^ 64) && decide (t < 2 ^ 16)
  | .mmioWr q a _ _ => q.wf && decide (a < 2 ^ 64)
  | .ctxFetchDone n => decide (n < 2 ^ 20)
  | .allocWaitGranted _ | .allocWaitTimeout _ => true
  | .selfFlushReserve t => decide (t < 48)
  | .idleFlush n l => decide (n < 2 ^ 20) && decide (l < 255)
  | .mapCommitFlush t p => decide (t < 48) && decide (p < 8)
  | .seqSrSeedHi q _ => q.wf
  | .chnSalt q i _ => q.wf && decide (i < 8)
  | .camInsertPass b | .chnBankCfgApply b => decide (b < 8)
  | .gatherReadDone _ _ e => e.wf
  | .attendDeadline _ | .attendComplete _ => true
  | .collRx p m | .collAnsRx p m => decide (p < 12) && m.wf
  | .collHoldExpire pt g o m => decide (pt < 8) && decide (g < 2 ^ 16) && decide (o < 2 ^ 32) && decide (m < 64)
  | .collectorDeadline _ | .collRetxTimeout _ | .windowLayerLoaded _ _ => true
  | .kernelStepEnd t | .tileStepChange t => decide (t < 48)
  | .sweepVisit pt m => decide (pt < 8) && decide (m < 12)
  | .sweepT2Visit pt => decide (pt < 8)
  | .sweepT0Visit t => decide (t < 48)
  | .sketchDecay => true
  | .leafIdle _ => true
  | .moveStart f => decide (f < 4)
  | .moveBlockDone c | .moveConfirm c _ _ => decide (c < 2 ^ 40 + 2 ^ 24)
  | .sourceRelease c => decide (c < 2 ^ 40)
  | .hbmReadDone m o e => decide (m < 12) && decide (o < 589824 * 65536) && e.wf
  | .patrolRead m e => decide (m < 12) && e.wf
  | .hbcRetAdd q m _ => q.wf && decide (m < 12)
  | .blwT1Cfg q _ => q.wf
  | .extentOffer p d tag _ => decide (p < 2) && decide (d < 8) && decide (tag.length = 16)
  | .extentReleaseReq p _ | .extentDrainEnd p _ | .extentDrainTimeout p _ => decide (p < 2)
  | .extRelease q | .extReleaseEvac q => q.wf
  | .cxlMemResponse p _ _ _ | .ctrlLineGrant p _ | .cxlPortFail p => decide (p < 2)
  | .bisnpRx p _ l => decide (p < 2) && decide (1 ≤ l.n ∧ l.n ≤ 4)
  | .rgnFormat q _ | .ckptGo q | .ckptRestore q => q.wf
  | .ckptTimer pt | .ckptQuiesced pt | .ckptWaitTimeout pt => decide (pt < 8)
  | .nvhEnable q f k => q.wf && decide (f < 4) && decide (k < 32)
  | .nvmeCompletion n _ _ | .nvmeCmdTimeout n _ | .nvmeAbortTimeout n _ | .nvmeDriveFail n => decide (n < 16)
  | .reinit q | .detach q => q.wf
  | .snapRel q p | .logRel q p | .blkWorld q p _ => q.wf && decide (p < 0x108)
  | .snpTrig q | .snpRelease q => q.wf
  | .clkTileReq q _ | .clkTileAll q _ | .clkSsc q _ => q.wf
  | .dmaStart q | .dmaStop q | .dmaClear q | .dmaChSwreq q _ => q.wf
  | .dmaRequest l => decide (l < 64)
  | .dmaDescFetch c | .dmaDescDone c | .dmaFenceDone c => decide (c < 64)
  | .dmaBeat | .dmaCreditRefill => true
  | .jlkEn q p _ | .retrain q p | .down q p | .rekey q p => q.wf && decide (p < 12)
  | .signalDetect p _ | .eqDone p _ | .eqTimeout p | .alignLock p | .alignFail p | .configBlockRx p _ | .linkDegrade p _
  | .rowLockLoss p | .recoverDone p _ _ | .recoverTimeout p | .codewordUncorrectable p _ | .jlkAckRx p _ _ _
  | .jlkNakRx p _ _ _ | .creditRx p _ _ _ | .keyRx p _ _ _ _ | .replayTimeout p | .ackTimer p | .creditTimer p =>
    decide (p < 12)
  | .dataFrameRx p f _ => decide (p < 12) && f.wf
  | .memCpl p (.read t) _ _ d => decide (p < 4) && decide (t < 1024) && decide (d.length ≤ 4096)
  | .memCpl p (.buffer a q) o _ d => decide (p < 4) && decide (a + o < 2 ^ 60) && decide (q < 8) && decide (d.length ≤ 4096)
  | .wrAck p t => decide (p < 4) && decide (t < 2 ^ 16)
  | .memRdTimeout p t => decide (p < 4) && decide (t < 1024)
  | .statusRd p _ | .getVersion p | .getCapabilities p | .negotiateAlgorithms p | .getDigests p | .getCertificate p _ _ _
  | .challenge p _ | .getMeasurements p _ _ | .keyExchange p _ | .finish p _ | .heartbeat p | .keyUpdate p | .endSession p
  | .spdmUnsupported p _ | .sessionTimeout p | .provision p _ => decide (p < 12)
  | .txFrameSelect p | .gateEntryAdvance p | .gateTakeover p => decide (p < 12)
  | .fabForward p k | .pktSendRx p k | .pktPutRx p k | .pktGetReqRx p k | .pktGetDataRx p k | .fabAckRx p k =>
    decide (p < 12) && k.wf
  | .putLanded c _ => decide (c < 2 ^ 40)
  | .odpHoldExpire q n => decide (q < 2 ^ 16) && decide (n < 2 ^ 24)
  | .qpcFetchDone q | .qpRetxTimeout q => decide (q < 2 ^ 16)
  | .probeRx p _ | .reportRx p _ | .assignRx p _ => decide (p < 12)
  | .discReportTimer | .discReportQuiet | .discTimeout => true
  | .snapPacketRx p _ d _ => decide (p < 12) && decide (d < 2 ^ 12)
  | .fabDiscGo q | .qpConnect q | .qpReset q | .keyCreate q | .keyRevoke q => q.wf
  | .keyRevokeDone k => decide (k < 2 ^ 16)
  | .scrub q _ => q.wf
  | .scrubStepEnd pt => decide (pt < 8)
  | .scrubSweepEnd pt t => decide (pt < 8) && decide (t < 6)
  | .errorEntryPost r => decide (r < 9)
  | .deviceFatal c => decide (c < 256)
  | .counterGather => true
  | .pmcClr q t n => q.wf && decide (t < 48) && decide (n < 8)
  | .recMark q _ | .recReplay q _ => q.wf
  | .recSegmentDone | .recLossRecord | .replayStep => true
  | .thermalDiffThrottle t n => decide (t < 48) && decide (n < 48)
  | .powerSample r => decide (r.mv.length = 10) && decide (r.amps.length = 10)
  | .powerEval => true
  | .thermalSample q => decide (q.length = 64)
  | .thermalLevelFall | .thermalLimitStep | .thermLevelSample | .refclkLoss | .prochotN _ => true
  | .pwrLimit q _ | .pwrPtCeil q _ => q.wf
  | .pwrOkRise | .pwrOkFall | .rstNLow | .rstNRise => true
  | .cold q | .warmReset q | .glbPortRst q _ => q.wf
  | .fuseLoad _ _ _ | .romSelfCheck _ _ | .memoryFillDone | .hostPortWaitTimeout | .attestationReady
  | .bootStageTimeout => true
  | .cxlPortUp p _ _ => decide (p < 2)
  | .nvmeLinkUp n _ => decide (n < 16)
  | .perstHoldEnd p => decide (p < 32)
  | .spdmResponseRx p _ _ | .heartbeatSend p => decide (p < 12)

end Sys2Proof
end

