-- ==== Sys2Proof/Tests/Slice0.lean ====
section
/-!
SUPPORT. Tests of the model: well-formedness refuses an ill-formed term for each check; the worked examples of the spec; and, for
every obligation with hypotheses, states and operands that meet all of them together. witness_<Obligation>_<n> serves the n-th of its clauses,
and up to three that follow it under the same binders; a clause whose hypotheses are among another's has that one's witness.
-/

namespace Sys2Proof.Tests
open Sys2Proof.Machine
open Sys2Proof.Safety

set_option maxRecDepth 4000
set_option Elab.async false

/-- A small state in which partition 0 runs: boot has finished, one class 0 and one class 1 range of stack 0, a page pool, a map that gives
partition 0 tiles 0 and 1, sequences 0 to 15 and every port, a profile, host ports ACTIVE. -/
def base : State :=
  { State.reset with
    time := 1000
    regs := [(regKey pgSec 0x224 0, 0x20), (regKey pgSec 0x224 1, 0x30), (regKey pgSec 0x228 1, 8192), (regKey pgSec 0x22C 0, 8191),
             (regKey pgSec 0x22C 1, 8447), (regKey pgBlw 0x204 0, 16384), (regKey pgBlw 0x208 0, 16639), (regKey pgBlw 0x20C 0, 1),
             (regKey pgFab 0x228 0, 0x00400000)]
    boot := { stage := 6, pwrOk := true, rstN := true, attReady := true }
    clk := { lock := true, refOk := true }
    sec := { pts := lset (List.replicate 8 {}) 0 { state := .active }, drkOk := true, attOk := true }
    dep := { cfg := { profiles := [(1, prof)], pmap := map1 }, cfgPrev := { profiles := [(1, prof)], pmap := map1 } }
    fab := { devId := 5, idValid := true }
    jlk := List.replicate 12 { state := .active, lanes := 255 } }
where
  prof : Profile := { owner := 0, tppLog2 := 4, kFmt := 1, vFmt := 1, kvh := 1, hdimCode := 0, rotEn := false, rotPair := false,
                      mute := false, sr := false, kvhBase := 0, rotDims := 0, rotBase := 0, rotPosScale := 0 }
  map1 : PtMap :=
    { wa := lset (List.replicate 12 none) 0 (some (12288, 12303))
      pts := lset (List.replicate 8 {}) 0
        { valid := true, hp := 15, xp := 255, np := 0xFFFF, cp := 3, tiles := 3, banks := 255, pc := List.replicate 12 0xFFFFFFFF,
          seqBase := 0, seqCount := 16 } }

/-- The opcode of a command (R50). -/
def opOf : Cmd → Nat
  | .nop => 0x00 | .profileCreate _ _ => 0x01 | .seqOpen _ _ _ _ _ => 0x02 | .seqFork _ _ _ _ => 0x03 | .seqClose _ _ => 0x04
  | .append _ => 0x05 | .flush _ _ => 0x06 | .attend _ => 0x07 | .headGather _ => 0x08 | .spanMerge _ => 0x09
  | .prefixLookup _ _ _ _ _ => 0x0A | .prefixPublish _ _ _ _ _ _ => 0x0B | .prefixRef _ _ => 0x0C | .warm _ _ _ _ _ => 0x0D
  | .hint _ _ _ _ _ => 0x0E | .putPage _ | .getPage _ => 0x0F | .send _ _ _ | .postRecv _ _ _ => 0x10 | .region _ _ _ _ => 0x11
  | .epochCommit _ _ => 0x12 | .fence _ => 0x13 | .graphBegin _ _ _ => 0x14

/-- An issued command of ring 0 under acceptance number 1. -/
def live (c : Cmd) : Node := { acc := 1, ring := 0, hdr := { opcode := opOf c }, cmd := c, issued := true }

/-- The state with it. -/
def issued (c : Cmd) (s : State := base) : State := { s with dep := { s.dep with nodes := [(1, live c)], accNext := 2 } }

/-- An open sequence 3 of one layer of profile 1 with n staged tokens. -/
def opened (s : State := base) : State :=
  { s with seq := { s.seq with ctxs := [(3, { state := .open_, layers := 2, profile := 1, stageTile := 0 })], cached := [3] } }

/-- The secure world, and partition 0's own driver, at host port 0. -/
def sec : Requester := { secure := true, pt := 0, src := 0 }
def own : Requester := { secure := false, pt := 0, src := 0 }

/-- `base` with the node of acceptance number 1 as given. -/
def withNode (n : Node) (s : State := base) : State := { s with dep := { s.dep with nodes := [(1, n)], accNext := 2 } }

/-- Host memory of port 0 holds the bytes from address 0 on. -/
def withHost (bs : List Byte) (s : State := base) : State := s.setHost (mwrites s.mems.host 0 bs)
/-- A register with a value. -/
def withReg (p o b v : Nat) (s : State := base) : State := s.setReg p o b v

/-! ### Well-formedness refuses an ill-formed term for each check -/

/-- A requester of partition 8, and one at source 5. -/
def badPt : Requester := { secure := true, pt := 8, src := 0 }
def badSrc : Requester := { secure := true, pt := 0, src := 5 }
/-- A packet and a frame with nothing wrong. -/
def okPkt : Packet := { ptype := .send }
def okMsg : CollMsg := { type := 0, member := 0, group := 0, opId := 0, srcDev := 0, srcPt := 0, epoch := 0, len := 0, nrec := 0, ndev := 1 }
def long (n : Nat) : List Byte := List.replicate n 0

theorem test_wf_requesters :
    ([fun q => .depSqDb q 0 0 0, fun q => .depCqDb q 0 0 0, fun q => .depRingCfg q 0, fun q => .depStageLen q 0, fun q => .regWrite q 0 0,
      fun q => .mmioRd q 0 4 0, fun q => .mmioWr q 0 4 0, fun q => .seqSrSeedHi q 0, fun q => .chnSalt q 0 0, fun q => .hbcRetAdd q 0 0,
      fun q => .blwT1Cfg q 0, fun q => .extRelease q, fun q => .extReleaseEvac q, fun q => .rgnFormat q 0, fun q => .ckptGo q,
      fun q => .ckptRestore q, fun q => .nvhEnable q 0 24, fun q => .reinit q, fun q => .detach q, fun q => .snapRel q 0,
      fun q => .logRel q 0] : List (Requester → Instr)).all
      (fun f => !(f badPt).wf && !(f badSrc).wf && (f sec).wf) = true := by decide +kernel

theorem test_wf_requesters_of_other_blocks :
    ([fun q => .blkWorld q 0 0, fun q => .snpTrig q, fun q => .snpRelease q, fun q => .clkTileReq q 0, fun q => .clkTileAll q 0,
      fun q => .clkSsc q 0, fun q => .dmaStart q, fun q => .dmaStop q, fun q => .dmaClear q, fun q => .dmaChSwreq q 0,
      fun q => .jlkEn q 0 0, fun q => .retrain q 0, fun q => .down q 0, fun q => .rekey q 0, fun q => .fabDiscGo q, fun q => .qpConnect q,
      fun q => .qpReset q, fun q => .keyCreate q, fun q => .keyRevoke q, fun q => .scrub q 0, fun q => .pmcClr q 0 0, fun q => .recMark q 0,
      fun q => .recReplay q 0, fun q => .pwrLimit q 0, fun q => .pwrPtCeil q 0, fun q => .cold q, fun q => .warmReset q,
      fun q => .glbPortRst q 0] : List (Requester → Instr)).all
      (fun f => !(f badPt).wf && !(f badSrc).wf && (f sec).wf) = true := by decide +kernel

theorem test_wf_rings_sequences_and_attention :
    ([.graphBegin 2048, .graphAccept 2048, .depSqDb sec 8 0 0, .depSqDb sec 0 256 0, .depCqDb sec 8 0 0, .depCqDb sec 0 64 0,
      .ringTurnFetch 4 true, .completionPost 8 0, .completionPost 0 64, .coalTimerExpire 8 0, .coalTimerExpire 0 64, .epochApply 8,
      .regWrite sec (2 ^ 26) 0, .mmioRd sec (2 ^ 64) 4 0, .mmioRd sec 0 4 65536, .mmioWr sec (2 ^ 64) 4 0, .ctxFetchDone (2 ^ 20),
      .selfFlushReserve 48, .idleFlush (2 ^ 20) 0, .idleFlush 0 255, .mapCommitFlush 48 0, .mapCommitFlush 0 8, .chnSalt sec 8 0,
      .camInsertPass 8, .chnBankCfgApply 8, .collRx 12 okMsg, .collAnsRx 12 okMsg, .collHoldExpire 8 0 0 0, .collHoldExpire 0 (2 ^ 16) 0 0,
      .collHoldExpire 0 0 (2 ^ 32) 0, .collHoldExpire 0 0 0 64, .kernelStepEnd 48, .tileStepChange 48] : List Instr).all
      (fun c => !c.wf) = true := by decide +kernel

theorem test_wf_memory_tiers :
    ([.sweepVisit 8 0, .sweepVisit 0 12, .sweepT2Visit 8, .sweepT0Visit 48, .moveStart 4, .moveBlockDone (2 ^ 40 + 2 ^ 24),
      .moveConfirm (2 ^ 40 + 2 ^ 24) true false, .sourceRelease (2 ^ 40), .hbmReadDone 12 0 {}, .hbmReadDone 0 (589824 * 65536) {}, .hbmReadDone 0 0 { first := long 37 },
      .patrolRead 12 {}, .patrolRead 0 { second := long 37 }, .gatherReadDone 0 0 { tens := long 37 }, .hbcRetAdd sec 12 0, .extentOffer 2 0 (long 16) ⟨0, 0⟩, .extentOffer 0 0 (long 15) ⟨0, 0⟩, .extentOffer 0 8 (long 16) ⟨0, 0⟩, .extentReleaseReq 2 0,
      .extentDrainEnd 2 0, .extentDrainTimeout 2 0, .cxlMemResponse 2 (.move 0) false false, .ctrlLineGrant 2 ⟨0, false⟩, .bisnpRx 2 .inv ⟨0, 0, 1⟩, .bisnpRx 0 .inv ⟨0, 0, 5⟩, .cxlPortFail 2, .nvhEnable sec 4 24, .nvhEnable sec 0 32,
      .ckptTimer 8, .ckptQuiesced 8, .ckptWaitTimeout 8, .nvmeCompletion 16 0 .success, .nvmeCmdTimeout 16 0, .nvmeAbortTimeout 16 0,
      .nvmeDriveFail 16, .blkWorld sec 0x108 0, .cxlPortUp 2 0 false, .dmaRequest 64, .dmaDescFetch 64, .dmaDescDone 64,
      .dmaFenceDone 64] : List Instr).all (fun c => !c.wf) = true := by decide +kernel

theorem test_wf_link_ports :
    ([.jlkEn sec 12 0, .retrain sec 12, .down sec 12, .rekey sec 12, .signalDetect 12 0, .eqDone 12 0, .eqTimeout 12, .alignLock 12,
      .alignFail 12, .configBlockRx 12 { kind := 0, lanes := 0, nonce := 0, cred := [], nextRx := 0 }, .linkDegrade 12 0, .rowLockLoss 12,
      .recoverDone 12 0 0, .recoverTimeout 12, .codewordUncorrectable 12 0, .jlkAckRx 12 0 0 true, .jlkNakRx 12 0 0 true,
      .creditRx 12 [] 0 true, .keyRx 12 0 0 0 true, .replayTimeout 12, .ackTimer 12, .creditTimer 12, .dataFrameRx 12 {} true,
      .memCpl 4 (.read 0) 0 0 [], .memCpl 0 (.read 1024) 0 0 [], .memCpl 0 (.read 0) 0 0 (long 4097), .memCpl 4 (.buffer 0 0) 0 0 [],
      .memCpl 0 (.buffer (2 ^ 60) 0) 0 0 [], .memCpl 0 (.buffer 0 8) 0 0 [], .memCpl 0 (.buffer 0 0) 0 0 (long 4097), .wrAck 4 0, .wrAck 0 65536,
      .memRdTimeout 4 0, .memRdTimeout 0 1024,
      .txFrameSelect 12, .gateEntryAdvance 12, .gateTakeover 12] : List Instr).all (fun c => !c.wf) = true := by decide +kernel

theorem test_wf_management_and_fabric_ports :
    ([.statusRd 12 0, .getVersion 12, .getCapabilities 12, .negotiateAlgorithms 12, .getDigests 12, .getCertificate 12 0 0 0, .challenge 12 [],
      .getMeasurements 12 0 false, .keyExchange 12 [], .finish 12 true, .heartbeat 12, .keyUpdate 12, .endSession 12, .spdmUnsupported 12 0,
      .sessionTimeout 12, .provision 12 [], .spdmResponseRx 12 0 true, .heartbeatSend 12, .fabForward 12 okPkt, .pktSendRx 12 okPkt,
      .pktPutRx 12 okPkt, .pktGetReqRx 12 okPkt, .pktGetDataRx 12 okPkt, .fabAckRx 12 okPkt, .putLanded (2 ^ 40) true,
      .odpHoldExpire (2 ^ 16) 0, .odpHoldExpire 0 (2 ^ 24), .qpcFetchDone (2 ^ 16), .qpRetxTimeout (2 ^ 16),
      .probeRx 12 { serial := 0, level := 0, port := 0, id := 0, idValid := false, dgen := 0 },
      .reportRx 12 { serial := 0, level := 0, parent := 0, dgen := 0, neighSerial := [], neighPort := [] },
      .assignRx 12 { serial := 0, id := 0, level := 0, nhops := 0, dgen := 0, path := 0 }, .snapPacketRx 12 0 0 0,
      .snapPacketRx 0 0 (2 ^ 12) 0, .keyRevokeDone (2 ^ 16)] : List Instr).all (fun c => !c.wf) = true := by decide +kernel

def drv (b : Bool) : DriveInfo :=
  { present := b, trains32 := b, gen5 := b, width := 4, nsid1Ok := b, mdtsOk := b, queuesOk := b, sectors := 0, fatal := false, cacheStays := false }

theorem test_wf_device :
    ([.scrubStepEnd 8, .scrubSweepEnd 8 0, .scrubSweepEnd 0 6, .errorEntryPost 9, .deviceFatal 256, .pmcClr sec 48 0, .pmcClr sec 0 8,
      .thermalDiffThrottle 48 0, .thermalDiffThrottle 0 48, .powerSample { mv := [], amps := List.replicate 10 0, watts := 0 },
      .powerSample { mv := List.replicate 10 0, amps := [], watts := 0 }, .thermalSample [], .nvmeLinkUp 16 (drv true), .perstHoldEnd 32] : List Instr).all (fun c => !c.wf) = true := by decide +kernel

theorem test_wf_bodies :
    ([{ ptype := .send, hops := 32 }, { ptype := .send, dstDev := 4096 }, { ptype := .send, dstPt := 8 }, { ptype := .send, srcDev := 4096 },
      { ptype := .send, dstQpn := 65536 }, { ptype := .send, srcQpn := 65536 }, { ptype := .send, psn := 2 ^ 24 }, { ptype := .send, cpn := 2 ^ 40 },
      { ptype := .send, data := long 4097 }, { ptype := .send, framePt := 8 },
      { ptype := .reserved 256 }] : List Packet).all (fun p => !p.wf) = true ∧
    ([{ vc := 8 }, { pt := 8 }, { fseq := 2 ^ 32 }, { kgen := 256 }, { body := .txn { op := .memRd, tag := 65536 } },
      { body := .pkt { ptype := .send, hops := 32 } }, { body := .credit [] }, { body := .reserved 16 }, { body := .mgmt 0 true true (long 4097) }] : List Frame).all
      (fun f => !f.wf) = true ∧
    ([{ op := .memRd, tag := 65536 }, { op := .memRd, bytes := 4097 }, { op := .memRd, addr := 2 ^ 64 }, { op := .memWr, data := long 4097 }] :
      List Txn).all (fun t => !t.wf) = true ∧
    ([{ okMsg with member := 64 }, { okMsg with group := 2 ^ 16 }, { okMsg with opId := 2 ^ 32 }, { okMsg with srcDev := 4096 },
      { okMsg with srcPt := 8 }, { okMsg with dstPt := 8 }] : List CollMsg).all (fun m => !m.wf) = true ∧
    (Packet.wf okPkt && Frame.wf {} && Txn.wf { op := .memRd } && CollMsg.wf okMsg) = true := by decide +kernel

/-! ### The worked examples of the spec -/

/-- "One value into four formats" (05_number_formats.md), the stochastic conversion among them. -/
theorem test_one_value_into_four_formats :
    bf16.encode none (v32 0x3FD9999A) = 0x3FDA ∧ e4m3.encode none (v32 0x3FD9999A) = 0x3E ∧ e5m2.encode none (v32 0x3FD9999A) = 0x3F ∧
    e2m1.encode none (v32 0x3FD9999A) = 0x3 ∧ e2m1.encode (some 0x3C1A) (v32 0x3FD9999A) = 0x4 := by decide +kernel

/-- The table "limits and special values": E4M3, E5M2, E2M1, INT8 and FP16. -/
theorem test_limits_and_special_values :
    [0x43FA0000, 0x3A83126F, 0x80000000, 0xFF800000, 0x7FC00000].map (fun x => [3, 4, 7, 8, 2].map fun c => encodeElem c none (v32 x)) =
    [[0x7E, 0x60, 0x7, 0x7F, 0x5FD0], [0x01, 0x14, 0x0, 0x00, 0x1419], [0x80, 0x80, 0x8, 0x00, 0x8000],
     [0xFE, 0xFC, 0xF, 0x80, 0xFC00], [0x7F, 0x7E, 0x0, 0x00, 0x7E00]] := by decide +kernel

/-- The inputs 2.3, −11.0, 0, 0, 0 and `x` of the example "an MXFP4 block", in a row of head dimension 64. -/
def mxRow (x : Nat) : List Val := ([0x40133333, 0xC1300000, 0, 0, 0, x] ++ List.replicate 58 0).map v32

/-- "An MXFP4 block": bytes 0 to 3, the scale bytes and the stride; and 63.0 saturates under the same scale. -/
theorem test_mxfp4_block :
    (encodeRow 0xC (fun _ => none) (mxRow 0x42140000)).take 4 = [0xB1, 0x00, 0x60, 0x00] ∧
    ((encodeRow 0xC (fun _ => none) (mxRow 0x42140000)).drop 32).take 2 = [0x82, 0x7F] ∧
    (encodeRow 0xC (fun _ => none) (mxRow 0x42140000)).length = 48 ∧
    (encodeRow 0xC (fun _ => none) (mxRow 0x427C0000)).take 3 = [0xB1, 0x00, 0x70] := by decide +kernel

/-- "KC4 over two flushes": the channel scales, the biases and the elements of three tokens. -/
theorem test_kc4_over_two_flushes :
    kc4Scale (bf16.decode 0x4140) = 0x40 ∧ kc4Scale (bf16.decode 0x3E9A) = 0x15 ∧
    kc4Bias [(bf16.decode 0x4140, 0x40), (bf16.decode 0xBE9A, 0x15)] = 0 ∧
    kc4Bias [(bf16.decode 0x4040, 0x40), (bf16.decode 0x3D8F, 0x15)] = -2 ∧
    kc4Bias [(bf16.decode 0x41F0, 0x40), (bf16.decode 0x3C24, 0x15)] = 2 ∧
    [kc4Elem none (bf16.decode 0x4140) 0x40 0, kc4Elem none (bf16.decode 0xBE9A) 0x15 0, kc4Elem none (bf16.decode 0x4040) 0x40 (-2),
     kc4Elem none (bf16.decode 0x3D8F) 0x15 (-2), kc4Elem none (bf16.decode 0x41F0) 0x40 2, kc4Elem none (bf16.decode 0x3C24) 0x15 2] =
    [0x7, 0xF, 0x7, 0x7, 0x6, 0x0] := by decide +kernel

/-- "The layout of one profile" (03_sequences_and_pages.md), from the bytes of its record. -/
def layoutProfile : Profile :=
  parseProfile 2 ([0x06, 0x33, 0x02, 0x02, 0x05, 0x00, 0x00, 0x00, 0x00, 0x40, 0x9C, 0x46] ++ zeros 52)

theorem test_layout_of_one_profile :
    layoutProfile.tpp = 64 ∧ layoutProfile.hdim = 128 ∧ layoutProfile.ks = 128 ∧ layoutProfile.vs = 128 ∧ layoutProfile.ka = 0x4000 ∧
    layoutProfile.va = 0x4000 ∧ layoutProfile.mutePart.ks = 64 ∧ layoutProfile.mutePart.vs = 80 ∧ layoutProfile.mutePart.ka = 0x2000 ∧
    layoutProfile.mutePart.va = 0x3000 ∧ layoutProfile.rotBase = 0x469C4000 ∧ layoutProfile.mute = true ∧ layoutProfile.rotEn = true ∧
    layoutProfile.sr = false := by decide +kernel

/-- The 64 bytes of node 2 of the example graph (02_commands_and_task_graphs.md). -/
def node2 : List Byte :=
  [0x07, 0x01, 0x12, 0x04, 0x2C, 0x00, 0x02, 0x00, 0x00, 0x80, 0x00, 0x00, 0x00, 0x00, 0x00, 0x00,
   0x31, 0x4A, 0x00, 0x11, 0x01, 0x04, 0x11, 0x01, 0x90, 0x01, 0x00, 0x00, 0x00, 0x00, 0x00, 0x00,
   0x00, 0x00, 0x00, 0x00, 0xB8, 0x0B, 0x00, 0x00, 0x00, 0x00, 0x00, 0x34, 0x12, 0x00, 0x00, 0x00] ++
  [0x00, 0x00, 0x00, 0x08, 0x00, 0x00, 0x00, 0x10, 0x00, 0x00, 0x00, 0x00, 0x00, 0x00, 0x00, 0x00]

theorem test_example_node_header :
    parseHeader node2 = { opcode := 7, gnode := true, irq := false, silent := false, anyway := false, tag := 0x412, epoch := 0x2C,
                          node := 2, deps := [0] } := by decide +kernel

theorem test_example_node_attend :
    parseCmd node2 = .attend { seq := 0x4A31, layer := 17, qrows := 1, gqa := 4, maskKind := 1, outFp32 := false, softcapEn := false, dlp := 1, qFmt := 1, deadlineUs := 400, kvhFirst := 0, kvhCount := 0, scale := 0, softcap := 0, qpos0 := 3000, qRef := 0x0000001234000000, outRef := 0x1000000008000000, mask := 0 } := by
  decide +kernel

/-- "A compressed FP8 page" (08_memory_tiers.md): the stream of equal bytes, cut to one FF byte (526 bytes for 4,096), and the entry of block 5. -/
theorem test_stream_of_one_value :
    expandStream 526 [0x00, 0x1F, 0x3C, 0x01, 0x00, 0xFF, 0xFC] = some (List.replicate 526 0x3C) := by decide +kernel

theorem test_block_entry :
    blkEntry (zeros 64 ++ zeros 20 ++ [0xC8, 0x37, 0xB4, 0x1E]) 5 = (14280, 3930) ∧
    blkKind (zeros 64 ++ zeros 20 ++ [0xC8, 0x37, 0xB4, 0x1E]) 5 = 0 ∧ blkKind (zeros 64 ++ zeros 36 ++ [0, 0, 0, 0x80]) 9 = 2 := by
  decide +kernel

/-! ### The worked ATTEND of 06_attention.md: the exponential of 0 is exact, so the units' partials have their values -/

def attProfile : Profile :=
  { owner := 0, tppLog2 := 4, kFmt := 1, vFmt := 1, kvh := 1, hdimCode := 0, rotEn := false, rotPair := false, mute := false, sr := false, kvhBase := 0, rotDims := 0, rotBase := 0, rotPosScale := 0 }
def attCmd : AttendCmd :=
  { seq := 3, layer := 0, qrows := 1, gqa := 1, maskKind := 1, outFp32 := false, softcapEn := false, dlp := 0, qFmt := 1, deadlineUs := 0, kvhFirst := 0, kvhCount := 0, scale := 0, softcap := 0, qpos0 := 2, qRef := 0, outRef := 0, mask := 0 }
/-- A row of head dimension 64 with two channels given in FP32. -/
def two (x y : Nat) : List Val := v32 x :: v32 y :: List.replicate 62 .zero

theorem test_attend_dots :
    dotQK 1 (two 0x40000000 0x40800000) (two 0x40800000 0) = 0x41000000 ∧ dotQK 1 (two 0x40000000 0x40800000) (two 0 0x40000000) = 0x41000000 ∧
    dotQK 1 (two 0x40000000 0x40800000) (two 0x40000000 0x40000000) = 0x41400000 ∧ logitOf attProfile attCmd 0x41000000 = 0x3F800000 ∧
    logitOf attProfile attCmd 0x41400000 = 0x3FC00000 := by decide +kernel

/-- SHA-256 of "abc" (FIPS 180-4), the hash of the prefix chain and of the keys. -/
theorem test_sha256_abc :
    sha256 [0x61, 0x62, 0x63] =
    [0xBA, 0x78, 0x16, 0xBF, 0x8F, 0x01, 0xCF, 0xEA, 0x41, 0x41, 0x40, 0xDE, 0x5D, 0xAE, 0x22, 0x23,
     0xB0, 0x03, 0x61, 0xA3, 0x96, 0x17, 0x7A, 0x9C, 0xB4, 0x10, 0xFF, 0x61, 0xF2, 0x00, 0x15, 0xAD] := by decide +kernel

/-! ### States and operands that meet the hypotheses of the obligations -/

namespace PartA

/-- Ring 0 and completion ring 0 of partition 0 enabled at host port 0. -/
def rings (s : State := base) : State :=
  (s.setSubRing 0 fun r => { r with en := true, baseLo := 0x1000 }).setCplRing 0 0 fun c => { c with en := true, baseLo := 0x2000 }
/-- A NOP stands fetched and checked in ring 0. -/
def fetched (f : Fetched) : State := rings.setSubRing 0 fun r => { r with buf := [(1, f)], tail := 1, next := 1 }
def twoNodes : Fetched :=
  .graph { opcode := 0x14 } 1 7 false false [] [{ hdr := { gnode := true }, cmd := some .nop, bad := {}, raw := zeros 64 }]
/-- A commit of DEP_STAGE_LEN 64 KiB of class 1 with an empty directory. -/
def staged (s : State := base) : State := (s.setReg pgDep 0x234 0 0x20000000).setReg pgDep 0x23C 0 0x10000
def held : HeldCommit := { acc := 1, epoch := 1, scope := 0x80, cfg := {}, secs := [] }

def commitNode : Node := { acc := 1, ring := 0, hdr := { opcode := 0x12, epoch := 1 }, cmd := .epochCommit 1 0, issued := true }

/-- The two slots of a graph of one NOP with GRAPH_ID 7. -/
def graphSlots : List Byte := [0x14] ++ zeros 15 ++ [1, 0, 7] ++ zeros 45 ++ [0, 1] ++ zeros 62

theorem witness_StepTakesFront_0 : ∃ (s : State) (c : Instr) (cs : List Instr),
    s.pending = c :: cs :=
  ⟨({ base with pending := [.coalTimerExpire 0 0, .powerEval] }), (.coalTimerExpire 0 0), [.powerEval], by decide +kernel⟩

theorem witness_StepTakesFront_1 : ∃ (s : State),
    s.pending = [] ∧ s.clk.refOk = true :=
  ⟨base, by decide +kernel⟩

theorem witness_RingRegisters_0 : ∃ (s : State) (rq : Requester) (pt : Nat) (ring : Nat) (val : Word),
    s.boot.fatal = false ∧ mayDoorbell s rq pt = true ∧ (s.subRing (pt * 256 + ring)).en = true ∧
    val.toNat % 65536 < 2 ^ (s.subRing (pt * 256 + ring)).sizeLog2 ∧ (s.part pt).state ≠ .scrubbing :=
  ⟨rings, own, 0, 0, 15, by decide +kernel⟩

theorem witness_RingRegisters_1 : ∃ (s : State) (rq : Requester) (pt : Nat) (cq : Nat) (val : Word),
    s.boot.fatal = false ∧ mayDoorbell s rq pt = true ∧ (s.cplRing pt cq).en = true ∧ val.toNat % 65536 < 2 ^ (s.cplRing pt cq).sizeLog2 ∧
    (s.part pt).state ≠ .scrubbing :=
  ⟨rings, own, 0, 0, 15, by decide +kernel⟩

theorem witness_RingRegisters_2 : ∃ (s : State) (rq : Requester) (pt : Nat) (n : Nat) (val : Word) (i : Instr),
    (s.boot.fatal = false ∧ mayDoorbell s rq pt = false) ∧ (i = .depSqDb rq pt n val ∨ i = .depCqDb rq pt n val) :=
  ⟨rings, { own with pt := 1 }, 0, 0, 15, (.depSqDb { own with pt := 1 } 0 0 15), by decide +kernel, (.inl rfl)⟩

theorem witness_RingRegisters_3 : ∃ (s : State) (rq : Requester) (pt : Nat) (ring : Nat) (val : Word),
    s.boot.fatal = false ∧ mayDoorbell s rq pt = true ∧
    (((s.subRing (pt * 256 + ring)).en = false ∨ 2 ^ (s.subRing (pt * 256 + ring)).sizeLog2 ≤ val.toNat % 65536 ∨ (s.part pt).state = .scrubbing)) :=
  ⟨rings, own, 0, 0, 16, by decide +kernel⟩

theorem witness_RingRegisters_4 : ∃ (s : State) (rq : Requester) (pt : Nat) (cq : Nat) (val : Word),
    s.boot.fatal = false ∧ mayDoorbell s rq pt = true ∧
    (((s.cplRing pt cq).en = false ∨ 2 ^ (s.cplRing pt cq).sizeLog2 ≤ val.toNat % 65536 ∨ (s.part pt).state = .scrubbing)) :=
  ⟨rings, own, 0, 1, 0, by decide +kernel⟩

theorem witness_RingRegisters_5 : ∃ (s : State) (rq : Requester) (val : Word) (g : Nat),
    s.boot.fatal = false ∧ mayReach s rq pgDep = true ∧ ringSel s = (g % 256, g / 256, false) ∧ maySelect rq (g / 256) = true ∧
    4 ≤ bits val.toNat 1 5 ∧ bits val.toNat 1 5 ≤ 16 ∧ ((bit val.toNat 7 = (s.subRing g).mgr ∨ rq.secure = true)) ∧
    ((5 ≤ s.boot.stage ∨ bit val.toNat 0 = false ∨ (s.subRing g).en = true)) ∧
    (((s.subRing g).en = true → bits val.toNat 1 5 = (s.subRing g).sizeLog2 ∧ bits val.toNat 8 2 = (s.subRing g).port ∧
    bits val.toNat 10 6 = (s.subRing g).cq)) ∧
    ((bit val.toNat 0 = true → (s.subRing g).en = false → (s.cplRing (g / 256) (bits val.toNat 10 6)).en = true ∧
    (s.cplRing (g / 256) (bits val.toNat 10 6)).port = bits val.toNat 8 2)) :=
  ⟨(withReg pgDep 0x200 0 1 (rings)), own, 0x21, 1, by decide +kernel⟩

theorem witness_RingRegisters_6 : ∃ (s : State) (rq : Requester) (val : Word) (pt : Nat) (cq : Nat),
    s.boot.fatal = false ∧ mayReach s rq pgDep = true ∧ ringSel s = (cq, pt, true) ∧ cq < 64 ∧ maySelect rq pt = true ∧ 4 ≤ bits val.toNat 1 5 ∧
    bits val.toNat 1 5 ≤ 16 ∧ ((bit val.toNat 7 = (s.cplRing pt cq).mgr ∨ rq.secure = true)) ∧
    ((5 ≤ s.boot.stage ∨ bit val.toNat 0 = false ∨ (s.cplRing pt cq).en = true)) ∧
    (((s.cplRing pt cq).en = true → bits val.toNat 1 5 = (s.cplRing pt cq).sizeLog2 ∧ bits val.toNat 8 2 = (s.cplRing pt cq).port)) ∧
    (((s.cplRing pt cq).en = true → bit val.toNat 0 = false → cqBound s pt cq = false)) :=
  ⟨(withReg pgDep 0x200 0 0x83F), own, 0x9, 0, 63, by decide +kernel⟩

theorem witness_RingRegisters_7 : ∃ (s : State) (rq : Requester) (val : Word) (g : Nat),
    s.boot.fatal = false ∧ mayReach s rq pgDep = true ∧ ringSel s = (g % 256, g / 256, false) ∧ maySelect rq (g / 256) = true ∧
    ((bits val.toNat 1 5 < 4 ∨ 16 < bits val.toNat 1 5 ∨ ((s.subRing g).en = true ∧
    (bits val.toNat 1 5 ≠ (s.subRing g).sizeLog2 ∨ bits val.toNat 8 2 ≠ (s.subRing g).port ∨ bits val.toNat 10 6 ≠ (s.subRing g).cq)) ∨ (bit val.toNat 0 = true ∧
    5 ≤ s.boot.stage ∧ (s.subRing g).en = false ∧
    ((s.cplRing (g / 256) (bits val.toNat 10 6)).en = false ∨ (s.cplRing (g / 256) (bits val.toNat 10 6)).port ≠ bits val.toNat 8 2)))) :=
  ⟨(withReg pgDep 0x200 0 1), own, 0x09, 1, by decide +kernel⟩

theorem witness_RingRegisters_8 : ∃ (s : State) (rq : Requester) (val : Word) (pt : Nat) (cq : Nat),
    s.boot.fatal = false ∧ mayReach s rq pgDep = true ∧ ringSel s = (cq, pt, true) ∧ cq < 64 ∧ maySelect rq pt = true ∧
    ((bits val.toNat 1 5 < 4 ∨ 16 < bits val.toNat 1 5 ∨ ((s.cplRing pt cq).en = true ∧
    (bits val.toNat 1 5 ≠ (s.cplRing pt cq).sizeLog2 ∨ bits val.toNat 8 2 ≠ (s.cplRing pt cq).port ∨ (bit val.toNat 0 = false ∧
    cqBound s pt cq = true))))) :=
  ⟨(withReg pgDep 0x200 0 0x800 rings), own, 0x22, 0, 0, by decide +kernel⟩

theorem witness_RingRegisters_9 : ∃ (s : State) (rq : Requester),
    s.boot.fatal = false ∧ mayReach s rq pgDep = true ∧ ((maySelect rq (ringSel s).2.1 = false ∨ ((ringSel s).2.2 = true ∧ 64 ≤ (ringSel s).1))) :=
  ⟨(withReg pgDep 0x200 0 0x840), own, by decide +kernel⟩

theorem witness_RingRegisters_10 :
    (∃ (s : State) (rq : Requester) (g : Nat),
    s.boot.fatal = false ∧ mayReach s rq pgDep = true ∧ ringSel s = (g % 256, g / 256, false) ∧ maySelect rq (g / 256) = true ∧
    s.boot.stage < 5 ∧ (s.subRing g).en = false) ∧
    (∃ (s : State) (rq : Requester) (g : Nat),
    s.boot.fatal = false ∧ mayReach s rq pgDep = true ∧ ringSel s = (g % 256, g / 256, false) ∧ maySelect rq (g / 256) = true ∧
    rq.secure = false) :=
  ⟨⟨({ withReg pgDep 0x200 0 1 with boot := { base.boot with stage := 4 } }), own, 1, by decide +kernel⟩,
    ⟨(withReg pgDep 0x200 0 1), own, 1, by decide +kernel⟩⟩

theorem witness_RingTurn_0 : ∃ (s : State) (core : Nat),
    turnRing s core = none :=
  ⟨rings, 0, by decide +kernel⟩

theorem witness_RingTurn_1 : ∃ (s : State) (core : Nat) (ring : Nat),
    fetching s = true ∧ (turnRing s core).map (·.winner) = some ring ∧ portActive s core = true ∧ (s.link core).reads.length < 1024 :=
  ⟨(rings.setSubRing 0 fun r => { r with tail := 15 }), 0, 0, by decide +kernel⟩

theorem witness_RingTurn_2 : ∃ (s : State) (core : Nat) (ring : Nat) (bs : List Byte),
    (fetching s = true ∧ (turnRing s core).map (·.winner) = some ring ∧ portActive s core = true ∧ (s.subRing ring).avail = 1 ∧
    (s.subRing ring).buf = [] ∧ bs = slotBytes s ring 0 ∧ checkCmd s ring bs false = none) ∧ ((∀ n g m, parseCmd bs ≠ .graphBegin n g m)) :=
  ⟨(rings.setSubRing 0 fun r => { r with tail := 1 }), 0, 0, (zeros 64), by decide +kernel, (fun _ _ _ h => by cases h)⟩

theorem witness_RingTurn_3 : ∃ (s : State) (core : Nat) (ring : Nat) (bs : List Byte) (e : Comp),
    fetching s = true ∧ (turnRing s core).map (·.winner) = some ring ∧ portActive s core = true ∧ (s.subRing ring).avail = 1 ∧
    (s.subRing ring).buf = [] ∧ bs = slotBytes s ring 0 ∧ checkCmd s ring bs false = some e ∧ e.status ≠ .ok ∧ ringPt ring < s.dep.cbuf.length ∧
    replaying s (ringPt ring) = false :=
  ⟨(withHost (zeros 6 ++ [1]) (rings.setSubRing 0 fun r => { r with tail := 1, baseLo := 0 })), 0, 0, (zeros 6 ++ [1] ++ zeros 57),
    (invalidAt 6), by decide +kernel⟩

theorem witness_RingTurn_4 : ∃ (s : State) (core : Nat) (ring : Nat) (n : Nat) (id : Nat) (m : Bool) (bs : List Byte),
    fetching s = true ∧ (turnRing s core).map (·.winner) = some ring ∧ portActive s core = true ∧ (s.subRing ring).avail = 1 + n ∧
    (s.subRing ring).buf = [] ∧ bs = slotBytes s ring 0 ∧ checkCmd s ring bs false = none ∧ parseCmd bs = .graphBegin n id m ∧
    gnodeRun s ring n 1 = n ∧ storeRoom s (ringPt ring) n = true :=
  ⟨(withHost graphSlots (rings.setSubRing 0 fun r => { r with tail := 2, baseLo := 0 })), 0, 0, 1, 7, false, (graphSlots.take 64), by decide +kernel⟩

theorem witness_RingTurn_5 : ∃ (s : State) (core : Nat) (ring : Nat) (n : Nat) (id : Nat) (k : Nat) (m : Bool) (bs : List Byte),
    fetching s = true ∧ (turnRing s core).map (·.winner) = some ring ∧ portActive s core = true ∧ (s.subRing ring).buf = [] ∧
    bs = slotBytes s ring 0 ∧ checkCmd s ring bs false = none ∧ parseCmd bs = .graphBegin n id m ∧
    k = gnodeRun s ring ((s.subRing ring).avail - 1) 1 ∧ (((k = (s.subRing ring).avail - 1 ∧
    k < n) ∨ storeRoom s (ringPt ring) (max n k) = false)) :=
  ⟨(withHost graphSlots (rings.setSubRing 0 fun r => { r with tail := 1, baseLo := 0 })), 0, 0, 1, 7, 0, false, (graphSlots.take 64), by decide +kernel⟩

theorem witness_RingTurn_6 : ∃ (s : State) (core : Nat) (ring : Nat),
    fetching s = true ∧ (turnRing s core).map (·.winner) = some ring ∧ portActive s core = false :=
  ⟨((rings.setSubRing 0 fun r => { r with tail := 1 }).setLink 0 fun l => { l with state := .down }), 0, 0, by decide +kernel⟩

end PartA

namespace PartB

/-- Ring 0 and completion ring 0 of partition 0 enabled at host port 0. -/
def rings (s : State := base) : State :=
  (s.setSubRing 0 fun r => { r with en := true, baseLo := 0x1000 }).setCplRing 0 0 fun c => { c with en := true, baseLo := 0x2000 }
/-- An item stands fetched in ring 0. -/
def fetched (f : Fetched) : State := rings.setSubRing 0 fun r => { r with buf := [(1, f)], tail := 1, next := 1 }
/-- A graph of one NOP in two slots, framed or not, with k nodes named in GRAPH_BEGIN. -/
def oneNode (k : Nat) (framed : Bool) : Fetched :=
  .graph { opcode := 0x14, tag := 9 } k 7 false framed ([0x14, 0, 9] ++ zeros 13 ++ [BitVec.ofNat 8 k, 0, 7] ++ zeros 45)
    [{ hdr := { gnode := true }, cmd := some .nop, bad := {}, raw := zeros 64 }]
/-- A full store, and one with room for nothing more of partition 0. -/
def full : State := let s := fetched (.single { tag := 9 } .nop (zeros 64)); { s with dep := { s.dep with quota := lset (List.replicate 8 8192) 0 0 } }
def graph : Sys2Proof.Machine.Graph := { acc := 2, ring := 0, hdr := { opcode := 0x14, tag := 3 }, nnodes := 2, graphId := 7, cmode := false }
/-- A node of that graph with its outcome. -/
def gnode (x : Sys2Proof.Machine.Graph) (c : Comp) : State :=
  let n : Node := { acc := 3, ring := 0, hdr := { gnode := true }, cmd := .nop, graph := some 2, issued := true, outcome := some c }
  { base with dep := { base.dep with nodes := [(3, n)], graphs := [(2, x)], accNext := 5 } }

theorem witness_NodesAreAcceptedAndIssued_0 : ∃ (s : State) (ring : Nat) (buf : List (Nat × Fetched)),
    s.boot.fatal = false ∧ frameItems (s.subRing ring).buf = some (buf, none) :=
  ⟨(fetched (oneNode 1 false)), 0, [(1, oneNode 1 true)], by decide +kernel⟩

theorem witness_NodesAreAcceptedAndIssued_1 : ∃ (s : State) (ring : Nat) (k : Nat) (nn : Nat) (id : Nat) (m : Bool) (raw : List Byte) (buf : List (Nat × Fetched)),
    s.boot.fatal = false ∧ frameItems (s.subRing ring).buf = some (buf, some (k, raw)) ∧ parseCmd raw = .graphBegin nn id m ∧
    ringPt ring < s.dep.cbuf.length ∧ replaying s (ringPt ring) = false :=
  ⟨(fetched (oneNode 2 false)), 0, 1, 2, 7, false, ([0x14, 0, 9] ++ zeros 13 ++ [2, 0, 7] ++ zeros 45), [(1, .done)], by decide +kernel⟩

theorem witness_NodesAreAcceptedAndIssued_2 : ∃ (s : State) (ring : Nat),
    frameItems (s.subRing ring).buf = none :=
  ⟨base, 0, by decide +kernel⟩

theorem witness_NodesAreAcceptedAndIssued_3 : ∃ (s : State) (ring : Nat) (k : Nat) (h : Header) (c : Cmd) (raw : List Byte) (rest : List (Nat × Fetched)),
    mayAccept s ring = true ∧ (s.subRing ring).buf = (k, .single h c raw) :: rest ∧ check23 s h = none ∧ storeRoom s (ringPt ring) 1 = true :=
  ⟨(fetched (.single { tag := 9 } .nop (zeros 64))), 0, 1, { tag := 9 }, .nop, (zeros 64), [], by decide +kernel⟩

theorem witness_NodesAreAcceptedAndIssued_4 : ∃ (s : State) (ring : Nat) (k : Nat) (nn : Nat) (id : Nat) (h : Header) (m : Bool) (raw : List Byte) (ns : List FetchedNode) (rest : List (Nat × Fetched)),
    mayAccept s ring = true ∧ (s.subRing ring).buf = (k, .graph h nn id m true raw ns) :: rest ∧ check23 s h = none ∧
    itemRoom s (ringPt ring) (.graph h nn id m true raw ns) = true ∧ nn = ns.length ∧ 0 < nn ∧ nn ≤ 4096 ∧
    (ns.all fun f => f.cmd.isSome) = true ∧ (s.dep.accNext < 2 ^ 32) :=
  ⟨(fetched (oneNode 1 true)), 0, 1, 1, 7, { opcode := 0x14, tag := 9 }, false, ([0x14, 0, 9] ++ zeros 13 ++ [1, 0, 7] ++ zeros 45),
    ([{ hdr := { gnode := true }, cmd := some .nop, bad := {}, raw := zeros 64 }]), [], by decide +kernel⟩

def it_NodesAreAcceptedAndIssued_5 : Fetched := .single { epoch := 2 } .nop (zeros 64)
theorem witness_NodesAreAcceptedAndIssued_5 : ∃ (s : State) (ring : Nat) (k : Nat) (it : Fetched) (rest : List (Nat × Fetched)) (h : Header) (raw : List Byte) (e : Comp),
    mayAccept s ring = true ∧ (s.subRing ring).buf = (k, it) :: rest ∧ itemHead it = some (h, raw) ∧ check23 s h = some e :=
  ⟨(fetched (it_NodesAreAcceptedAndIssued_5)), 0, 1, it_NodesAreAcceptedAndIssued_5, [], { epoch := 2 }, (zeros 64), (invalidAt 4), by decide +kernel⟩

theorem witness_NodesAreAcceptedAndIssued_6 : ∃ (s : State) (ring : Nat) (k : Nat) (it : Fetched) (rest : List (Nat × Fetched)) (h : Header) (raw : List Byte),
    (s.subRing ring).buf = (k, it) :: rest ∧ itemHead it = some (h, raw) ∧ check23 s h = none ∧ itemRoom s (ringPt ring) it = false :=
  ⟨full, 0, 1, (.single { tag := 9 } .nop (zeros 64)), [], { tag := 9 }, (zeros 64), by decide +kernel⟩

theorem witness_NodesAreAcceptedAndIssued_7 : ∃ (s : State) (ring : Nat),
    (s.subRing ring).buf = [] :=
  ⟨base, 0, by decide +kernel⟩

def n_NodesAreAcceptedAndIssued_8 : Node := { acc := 1, ring := 0, hdr := {}, cmd := .nop }
theorem witness_NodesAreAcceptedAndIssued_8 : ∃ (s : State) (acc : Nat) (n : Node),
    s.node acc = some n ∧ n.acc = acc ∧ n.issued = false ∧ n.outcome = none ∧ s.boot.fatal = false ∧ depsMet s n = true ∧
    (lget s.dep.cbuf (ringPt n.ring) []).length < 256 ∧ ckptRuns s (ringPt n.ring) = false ∧ replaying s (ringPt n.ring) = false ∧
    issueHeld s n = false ∧ noTile n.cmd = true :=
  ⟨(withNode (n_NodesAreAcceptedAndIssued_8)), 1, n_NodesAreAcceptedAndIssued_8, by decide +kernel⟩

def n_NodesAreAcceptedAndIssued_9 : Node := { acc := 1, ring := 0, hdr := { opcode := 6 }, cmd := .flush 3 0xFF }
theorem witness_NodesAreAcceptedAndIssued_9 : ∃ (s : State) (acc : Nat) (tile : Nat) (n : Node),
    (s.node acc = some n ∧ n.acc = acc ∧ n.issued = false ∧ n.outcome = none ∧ s.boot.fatal = false ∧ depsMet s n = true ∧
    (lget s.dep.cbuf (ringPt n.ring) []).length < 256 ∧ ckptRuns s (ringPt n.ring) = false ∧ replaying s (ringPt n.ring) = false ∧
    issueHeld s n = false ∧ noTile n.cmd = false ∧ (nodeQp n.cmd).all (qpRoom s) = true ∧ nodeTiles s n ≠ [] ∧
    issueTile s n (nodeTiles s n) = some tile) ∧ ((∀ q ts k i o, n.cmd ≠ .warm q ts k i o)) :=
  ⟨(opened (withNode (n_NodesAreAcceptedAndIssued_9))), 1, 0, n_NodesAreAcceptedAndIssued_9, by decide +kernel, (fun _ _ _ _ _ h => by cases h)⟩

def n_NodesAreAcceptedAndIssued_10 : Node := { acc := 1, ring := 0, hdr := { opcode := 6 }, cmd := .flush 3 0xFF }
def n_NodesAreAcceptedAndIssued_12 : Node := { acc := 1, ring := 0, hdr := { epoch := 1 }, cmd := .nop }
theorem witness_NodesAreAcceptedAndIssued_10 :
    (∃ (s : State) (acc : Nat) (n : Node),
    (s.node acc = some n ∧ n.acc = acc ∧ n.issued = false ∧ n.outcome = none ∧ s.boot.fatal = false ∧ depsMet s n = true ∧
    (lget s.dep.cbuf (ringPt n.ring) []).length < 256 ∧ ckptRuns s (ringPt n.ring) = false ∧ replaying s (ringPt n.ring) = false ∧
    issueHeld s n = false ∧ noTile n.cmd = false ∧ (nodeQp n.cmd).all (qpRoom s) = true ∧ nodeTiles s n = []) ∧
    ((∀ q ts k i o, n.cmd ≠ .warm q ts k i o))) ∧
    (∃ (s : State) (acc : Nat) (n : Node),
    s.node acc = some n ∧ n.acc = acc ∧ n.issued = false ∧ n.outcome = none ∧ s.boot.fatal = false ∧ depsMet s n = true ∧
    (lget s.dep.cbuf (ringPt n.ring) []).length < 256 ∧ ckptRuns s (ringPt n.ring) = false ∧ replaying s (ringPt n.ring) = false ∧
    issueHeld s n = true) ∧
    (∃ (s : State) (acc : Nat) (n : Node),
    s.node acc = some n ∧
    ((n.issued = true ∨ n.outcome.isSome = true ∨ depsMet s n = false ∨ 256 ≤ (lget s.dep.cbuf (ringPt n.ring) []).length ∨ ckptRuns s (ringPt n.ring) = true ∨ replaying s (ringPt n.ring) = true))) :=
  ⟨⟨(let u := opened (withNode (n_NodesAreAcceptedAndIssued_10)); { u with dep := { u.dep with cfg := { u.dep.cfg with pmap := {} } } }), 1,
    n_NodesAreAcceptedAndIssued_10, by decide +kernel, (fun _ _ _ _ _ h => by cases h)⟩,
    ⟨(let u := withNode (n_NodesAreAcceptedAndIssued_12); { u with dep := { u.dep with epoch := 1, prev := 0, lag := 2 } }), 1,
    n_NodesAreAcceptedAndIssued_12, by decide +kernel⟩,
    ⟨(issued .nop), 1, (live .nop), by decide +kernel⟩⟩

theorem witness_CommandsEndAndPost_0 : ∃ (s : State) (acc : Nat) (n : Node),
    liveNode s acc = some n ∧ n.cmd = .nop :=
  ⟨(issued .nop), 1, (live .nop), by decide +kernel⟩

theorem witness_CommandsEndAndPost_1 : ∃ (s : State) (acc : Nat) (n : Node) (arrive : Bool),
    liveNode s acc = some n ∧ n.cmd = .fence arrive ∧ ((arrive = true → writesOut s (ringPort s n.ring) (1 + n.ring) = false)) :=
  ⟨(issued (.fence true)), 1, (live (.fence true)), true, by decide +kernel⟩

theorem witness_CommandsEndAndPost_2 : ∃ (s : State) (acc : Nat) (n : Node),
    liveNode s acc = some n ∧ n.cmd = .fence true ∧ writesOut s (ringPort s n.ring) (1 + n.ring) = true :=
  ⟨((issued (.fence true)).setLink 0 fun l => { l with unacked := [(5, 1)] }), 1, (live (.fence true)), by decide +kernel⟩

theorem witness_CommandsEndAndPost_4 :
    (∃ (s : State) (acc : Nat) (g : Nat) (n : Node) (c : Comp) (x : Graph),
    s.node acc = some n ∧ n.acc = acc ∧ n.outcome = some c ∧ s.boot.fatal = false ∧ n.graph = some g ∧ tget s.dep.graphs g = some x ∧
    x.acc = g ∧ x.done.length + 1 < x.nnodes ∧ c.status.success = true ∧ ((graphNodesOf s g).all fun m => !predFailed x m) = true) ∧
    (∃ (s : State) (acc : Nat) (g : Nat) (n : Node) (c : Comp) (x : Graph),
    s.node acc = some n ∧ n.acc = acc ∧ n.outcome = some c ∧ s.boot.fatal = false ∧ n.graph = some g ∧ tget s.dep.graphs g = some x ∧
    x.acc = g ∧ x.nnodes ≤ x.done.length + 1) :=
  ⟨⟨(gnode graph {}), 3, 2,
    ({ acc := 3, ring := 0, hdr := { gnode := true }, cmd := .nop, graph := some 2, issued := true, outcome := some {} }), {}, graph, by decide +kernel⟩,
    ⟨(gnode { graph with nnodes := 1 } {}), 3, 2,
    ({ acc := 3, ring := 0, hdr := { gnode := true }, cmd := .nop, graph := some 2, issued := true, outcome := some {} }), {},
    { graph with nnodes := 1 }, by decide +kernel⟩⟩

def n_CommandsEndAndPost_6 : Node := { acc := 1, ring := 0, hdr := { tag := 9 }, cmd := .nop, issued := true, outcome := some (failWith .busy) }
def n_CommandsEndAndPost_7 : Node := { acc := 1, ring := 0, hdr := { silent := true }, cmd := .nop, issued := true, outcome := some {} }
theorem witness_CommandsEndAndPost_6 :
    (∃ (s : State) (acc : Nat) (n : Node) (c : Comp),
    s.node acc = some n ∧ n.acc = acc ∧ n.outcome = some c ∧ n.graph = none ∧ s.boot.fatal = false ∧ ((c.status ≠ .ok ∨ n.hdr.silent = false)) ∧
    replaying s (ringPt n.ring) = false ∧ ringPt n.ring < s.dep.cbuf.length) ∧
    (∃ (s : State) (acc : Nat) (n : Node) (c : Comp),
    s.node acc = some n ∧ n.acc = acc ∧ n.outcome = some c ∧ n.graph = none ∧ s.boot.fatal = false ∧ c.status = .ok ∧ n.hdr.silent = true) :=
  ⟨⟨(withNode (n_CommandsEndAndPost_6)), 1, n_CommandsEndAndPost_6, (failWith .busy), by decide +kernel⟩,
    ⟨(withNode (n_CommandsEndAndPost_7)), 1, n_CommandsEndAndPost_7, {}, by decide +kernel⟩⟩

def e_CommandsEndAndPost_8 : CplEntry := { cq := 0, tag := 9, status := .ok, opcode := 0, epoch := 0, node := 0xFFFF, graphId := 0, ring := 0, detail0 := 0, detail1 := 0, result := 0, time := 5, irq := false }
theorem witness_CommandsEndAndPost_8 : ∃ (s : State) (pt : Nat) (cq : Nat) (e : CplEntry) (rest : List CplEntry),
    s.boot.fatal = false ∧ cqRoom (s.cplRing pt cq) = true ∧ popCpl cq (lget s.dep.cbuf pt []) = some (e, rest) ∧ pt < s.dep.cbuf.length :=
  ⟨({ rings.setCplRing 0 0 (fun c => { c with next := 15, head := 1 }) with dep := { (rings.setCplRing 0 0 (fun c => { c with next := 15, head := 1 })).dep with cbuf := lset (List.replicate 8 []) 0 [(e_CommandsEndAndPost_8)] } }),
    0, 0, e_CommandsEndAndPost_8, [], by decide +kernel⟩

theorem witness_CommandsEndAndPost_9 :
    (∃ (s : State) (pt : Nat) (cq : Nat),
    (s.cplRing pt cq).halted = false ∧ ((cqRoom (s.cplRing pt cq) = false ∨ popCpl cq (lget s.dep.cbuf pt []) = none))) ∧
    (∃ (s : State) (pt : Nat) (cq : Nat),
    s.boot.fatal = false ∧ (s.cplRing pt cq).unsignalled ≠ 0 ∧ bits (s.cplRing pt cq).coal.toNat 8 16 ≠ 0 ∧
    bits (s.cplRing pt cq).coal.toNat 0 8 ≠ 0) ∧
    (∃ (s : State) (pt : Nat) (cq : Nat),
    (((s.cplRing pt cq).unsignalled = 0 ∨ bits (s.cplRing pt cq).coal.toNat 8 16 = 0 ∨ bits (s.cplRing pt cq).coal.toNat 0 8 = 0))) ∧
    (∃ (s : State) (pt : Nat) (cq : Nat),
    s.boot.fatal = false ∧ (s.cplRing pt cq).halted = true ∧ ((∀ e, e ∈ lget s.dep.cbuf pt [] → e.cq ≠ cq))) :=
  ⟨⟨base, 0, 0, by decide +kernel⟩,
    ⟨(rings.setCplRing 0 0 fun c => { c with unsignalled := 1, firstAt := 990, coal := 0x102 }), 0, 0, by decide +kernel⟩,
    ⟨rings, 0, 0, by decide +kernel⟩,
    ⟨(rings.setCplRing 0 0 fun c => { c with halted := true }), 0, 0, by decide +kernel⟩⟩

def e_CommandsEndAndPost_11 : CplEntry := { cq := 0, tag := 9, status := .ok, opcode := 0, epoch := 0, node := 0xFFFF, graphId := 0, ring := 0, detail0 := 0, detail1 := 0, result := 0, time := 5, irq := false }
theorem witness_CommandsEndAndPost_11 : ∃ (s : State) (pt : Nat) (cq : Nat) (e : CplEntry),
    s.boot.fatal = false ∧ (s.cplRing pt cq).halted = true ∧ e ∈ lget s.dep.cbuf pt [] ∧ e.cq = cq ∧ pt < s.dep.cbuf.length :=
  ⟨({ rings.setCplRing 0 0 (fun c => { c with halted := true }) with dep := { (rings.setCplRing 0 0 (fun c => { c with halted := true })).dep with cbuf := lset (List.replicate 8 []) 0 [(e_CommandsEndAndPost_11)] } }),
    0, 0, e_CommandsEndAndPost_11, by decide +kernel⟩

end PartB

namespace PartC

/-- A staging area of 64 KiB of class 1 whose bytes are all 0, and one with LEN 1 of scope 0. -/
def staged (s : State := base) : State := (s.setReg pgDep 0x234 0 0x20000000).setReg pgDep 0x23C 0 0x10000
def badStaged (s : State := base) : State := let u := staged s; u.setHbm (mwrites u.mems.hbm 0x20000000 (zeros 4 ++ [1]))
def held : HeldCommit := { acc := 1, epoch := 1, scope := 0x81, cfg := base.dep.cfg, secs := [] }
def commitNode : Node := { acc := 1, ring := 0, hdr := { opcode := 0x12, epoch := 1 }, cmd := .epochCommit 1 0, issued := true }
def withDep (f : Dep → Dep) (s : State := base) : State := { s with dep := f s.dep }
def errOf {α : Type} (r : Except Comp α) : Comp := match r with | .error c => c | .ok _ => {}

theorem witness_EpochCommits_0 : ∃ (s : State) (acc : Nat) (scope : Nat) (ref : Nat) (n : Node) (h : HeldCommit),
    liveNode s acc = some n ∧ n.cmd = .epochCommit scope ref ∧ commitRuns s acc = false ∧ replaying s (ringPt n.ring) = false ∧
    n.hdr.epoch = (s.dep.epoch + 1) % 65536 ∧ stageLen s ≠ 0 ∧ refAddr ref + 64 ≤ stageLen s ∧ s.dep.held = none ∧
    readBundle s n scope (refAddr ref) = .ok h :=
  ⟨(staged (withNode commitNode)), 1, 1, 0, commitNode, ({ acc := 1, epoch := 1, scope := 1, cfg := base.dep.cfg, secs := [[]] }), by decide +kernel⟩

theorem witness_EpochCommits_1 :
    (∃ (s : State) (acc : Nat) (scope : Nat) (ref : Nat) (n : Node) (c : Comp),
    liveNode s acc = some n ∧ n.acc = acc ∧ n.cmd = .epochCommit scope ref ∧ commitRuns s acc = false ∧ replaying s (ringPt n.ring) = false ∧
    (((n.hdr.epoch ≠ (s.dep.epoch + 1) % 65536 ∧ c = invalidAt 4) ∨ (n.hdr.epoch = (s.dep.epoch + 1) % 65536 ∧ stageLen s = 0 ∧
    c = invalidAt 24) ∨ (n.hdr.epoch = (s.dep.epoch + 1) % 65536 ∧ stageLen s ≠ 0 ∧ stageLen s < refAddr ref + 64 ∧
    c = failWith .perm) ∨ (n.hdr.epoch = (s.dep.epoch + 1) % 65536 ∧ stageLen s ≠ 0 ∧ refAddr ref + 64 ≤ stageLen s ∧ s.dep.held.isSome = true ∧
    c = failWith .busy)))) ∧
    (∃ (s : State) (acc : Nat) (scope : Nat) (ref : Nat) (n : Node) (c : Comp),
    liveNode s acc = some n ∧ n.acc = acc ∧ n.cmd = .epochCommit scope ref ∧ commitRuns s acc = false ∧ replaying s (ringPt n.ring) = false ∧
    n.hdr.epoch = (s.dep.epoch + 1) % 65536 ∧ stageLen s ≠ 0 ∧ refAddr ref + 64 ≤ stageLen s ∧ s.dep.held = none ∧
    readBundle s n scope (refAddr ref) = .error c) :=
  ⟨⟨(withDep (fun d => { d with held := some { held with acc := 5 } }) (staged (withNode commitNode))), 1, 1, 0, commitNode, (failWith .busy), by decide +kernel⟩,
    ⟨(badStaged (withNode commitNode)), 1, 1, 0, commitNode, (invalidAt 4 0xFF), by decide +kernel⟩⟩

theorem witness_EpochCommits_3 :
    (∃ (s : State) (h : HeldCommit),
    s.boot.fatal = false ∧ s.dep.held = some h ∧ (s.node h.acc).all (·.outcome.isSome) = false ∧ s.dep.lag = 0 ∧
    s.dep.nodes.all (fun n => n.2.hdr.epoch != s.dep.prev) = true ∧
    ((bit h.scope 3 = true → s.sec.pts.any (fun p => p.state == .scrubbing) = false))) ∧
    (∃ (s : State) (h : HeldCommit),
    s.dep.held = some h ∧ (s.node h.acc).all (·.outcome.isSome) = false ∧
    ((s.dep.lag ≠ 0 ∨ s.dep.nodes.any (fun n => n.2.hdr.epoch == s.dep.prev) = true ∨ (bit h.scope 3 = true ∧
    s.sec.pts.any (fun p => p.state == .scrubbing) = true)))) ∧
    (∃ (s : State) (h : HeldCommit),
    s.boot.fatal = false ∧ s.dep.held = some h ∧ (s.node h.acc).all (·.outcome.isSome) = true) :=
  ⟨⟨(withDep (fun d => { d with held := some { held with scope := 0x89 }, staged := [(2, base.prof)] }) (withNode commitNode)),
    { held with scope := 0x89 }, by decide +kernel⟩,
    ⟨(withDep (fun d => { d with held := some held, lag := 0x80 }) (withNode commitNode)), held, by decide +kernel⟩,
    ⟨(withDep (fun d => { d with held := some held }) (withNode { commitNode with outcome := some (failWith .timeout) })), held, by decide +kernel⟩⟩

theorem witness_EpochCommits_7 : ∃ (s : State) (unit : Nat),
    s.boot.fatal = false ∧ unit < 8 ∧ unit ≠ 3 ∧ s.rec_.replay ≠ 1 ∧ bit s.dep.lag unit = true :=
  ⟨(withDep (fun d => { d with lag := 0x80, made := some (1, 900) }) (withNode commitNode)), 7, by decide +kernel⟩

theorem witness_EpochCommits_8 :
    (∃ (s : State),
    s.boot.fatal = false ∧ s.rec_.replay ≠ 1 ∧ bit s.dep.lag 3 = true ∧ mapReady (warmRevokeTiles s) = true) ∧
    (∃ (s : State),
    s.boot.fatal = false ∧ s.rec_.replay ≠ 1 ∧ bit s.dep.lag 3 = true ∧ mapReady (warmRevokeTiles s) = false) :=
  ⟨⟨(withDep (fun d => { d with lag := 8 })), by decide +kernel⟩,
    ⟨(withDep (fun d => { d with lag := 8, cfg := { d.cfg with pmap := {} } }) { base with blw := { base.blw with t1 := [(5, .page 10)] } }), by decide +kernel⟩⟩

theorem witness_EpochCommits_10 : ∃ (s : State) (unit : Nat),
    bit s.dep.lag unit = false :=
  ⟨base, 0, by decide +kernel⟩

theorem witness_EpochCommits_11 : ∃ (s : State) (m : Nat × Nat) (n : Node),
    s.boot.fatal = false ∧ s.dep.made = some m ∧ s.node m.1 = some n ∧ n.outcome = none :=
  ⟨(withDep (fun d => { d with made := some (1, 900), lag := 4 }) (withNode commitNode)), ((1, 900)), commitNode, by decide +kernel⟩

theorem witness_EpochCommits_12 : ∃ (s : State),
    s.dep.made = none :=
  ⟨base, by decide +kernel⟩

theorem witness_EpochCommits_13 :
    (∃ (s : State) (rq : Requester) (val : Word),
    s.boot.fatal = false ∧ rq.secure = true ∧ rq.src < 4 ∧ s.dep.held = none ∧ val.toNat % 65536 = 0 ∧
    ((val.toNat = 0 ∨ inClass s 1 (stageBase s) val.toNat = true))) ∧
    (∃ (s : State) (rq : Requester) (val : Word),
    s.boot.fatal = false ∧ rq.secure = true ∧ rq.src < 4 ∧ ((s.dep.held.isSome = true ∨ (val.toNat % 65536 = 0 ∧ val.toNat ≠ 0 ∧
    inClass s 1 (stageBase s) val.toNat = false)))) ∧
    (∃ (s : State) (rq : Requester) (val : Word),
    s.boot.fatal = false ∧ rq.secure = true ∧ rq.src < 4 ∧ s.dep.held = none ∧ val.toNat % 65536 ≠ 0) :=
  ⟨⟨staged, sec, 0x10000, by decide +kernel⟩,
    ⟨staged, sec, 0x1010000, by decide +kernel⟩,
    ⟨staged, sec, 1, by decide +kernel⟩⟩

end PartC

namespace PartD

/-- Layer 0 of sequence 3 holds 2 tokens, both staged on tile 0. -/
def twoStaged (s : State := base) : State :=
  let s := opened s
  let s := s.setRow 3 0 fun r => { r with tokens := 2, staged := 2, chunks := [0] }
  let s := s.setCtx 3 fun c => { c with length := 2 }
  let toks : List StagedTok := [{ pos := 0, key := zeros 128, val := zeros 128 }, { pos := 1, key := zeros 128, val := zeros 128 }]
  { s with seq := { s.seq with stage := [(768, { tile := 0, pt := 0, lastAppend := 900, epoch := 0, toks := toks })] } }
/-- Layer 0 of sequence 3 holds 2 tokens, none of them staged. -/
def twoHeld (s : State := base) : State :=
  let s := opened s
  let s := s.setRow 3 0 fun r => { r with tokens := 2 }
  s.setCtx 3 fun c => { c with length := 2 }
def app (pos0 : Nat) : AppendCmd :=
  { seq := 3, layer := 0, ntok := 1, kFmt := 1, vFmt := 1, flushAfter := false, pos0 := pos0, kRef := 0, vRef := 0x1000 }
/-- A prefix entry of partition 0 at slot 5 of one page of two layers. -/
def withEntry (s : State := base) : State :=
  let l : Nat → Loc := fun a => { state := .sharedRo, published := true, refcnt := 1, addr := a }
  let s := s.setSlot 5 fun _ => { hash := 77, depth := 1, state := .live, profile := 1, cpns := [10, 11] }
  { s with seq := { s.seq with locs := [(10, l 5), (11, l 6)] } }
def tookSeq (s : State) (want : Nat) : Nat × State := match takeSeq s 0 0 want with | .ok r => r | .error _ => (0, s)
def doneState (d : State) : FlushRes → State
  | .done u => u
  | _ => d
def errOf {α β : Type} (d : α) (r : Except α β) : α := match r with | .error c => c | .ok _ => d
/-- The working area's first unit is bad. -/
def badWa (s : State := base) : State := { s with mems := { s.mems with badUnits := [3145728] } }
/-- No frame of T1 is free: the pool is off. -/
def noPool (s : State) : State := s.setReg pgBlw 0x20C 0 0
def lockedBy (a : Nat) (s : State) : State := s.setCtx 3 fun c => { c with lockOwner := some a }
def waits (s : State) : State := { s with seq := { s.seq with allocWaits := [{ acc := 1, until_ := 2000 }] } }
theorem some_getD {α : Type} {o : Option α} {d : α} (h : o.isSome = true) : o = some (o.getD d) := by
  cases o with
  | none => cases h
  | some x => rfl
def isDone : FlushRes → Bool
  | .done _ => true
  | _ => false
theorem done_state {r : FlushRes} {d : State} (h : isDone r = true) : r = .done (doneState d r) := by
  cases r <;> first | rfl | cases h
def stage0 (s : State) : Nat × StageEntry := s.seq.stage.getD 0 (0, { tile := 0, pt := 0, lastAppend := 0, epoch := 0, toks := [] })
/-- Two commands of the layers of sequence 3 are issued. -/
def both (a b : Cmd) (s : State := base) : State :=
  { s with dep := { s.dep with nodes := [(1, live a), (2, { live b with acc := 2 })], accNext := 3 } }
/-- Layer 0 of sequence 3 holds a full layer of 15,360 pages' tokens. -/
def fullLayer (s : State) : State := (opened s).setRow 3 0 fun r => { r with tokens := 245760 }
def poisoned (s : State) : State := (twoStaged s).setRow 3 0 fun r => { r with poisoned := true }
/-- No tile belongs to partition 0 in the map. -/
def noTiles (s : State) : State := { s with dep := { s.dep with cfg := { s.dep.cfg with pmap := { s.dep.cfg.pmap with pts := lmod s.dep.cfg.pmap.pts 0 (fun e => { e with tiles := 0 }) } } } }
def lag3 (m : Nat) (s : State) : State := { s with dep := { s.dep with lag := 8, cfg := { s.dep.cfg with pmap := { s.dep.cfg.pmap with pts := lmod s.dep.cfg.pmap.pts 0 (fun e => { e with tiles := m }) } } } }

theorem witness_ProfilesAndSequencesBegin_0 : ∃ (s : State) (acc : Nat) (id : Nat) (k : Nat) (r : Nat) (n : Node) (bs : List Byte),
    liveNode s acc = some n ∧ n.acc = acc ∧ n.cmd = .profileCreate id r ∧ beginCheck s n = none ∧ readRef s n r 64 = .ok bs ∧
    profileBad (parseProfile (ringPt n.ring) bs) bs = none ∧ k = (if id = 0xFFFF then freeProfile s else id) ∧ profileUsed s k = false ∧
    k < 0xFFFF :=
  ⟨(withHost (toLe 4 0x00011104) (issued (.profileCreate 0xFFFF 0))), 1, 0xFFFF, 0, 0, (live (.profileCreate 0xFFFF 0)),
    (toLe 4 0x00011104 ++ zeros 60), by decide +kernel⟩

theorem witness_ProfilesAndSequencesBegin_1 : ∃ (s : State) (j : Nat),
    j < freeProfile s :=
  ⟨({ base with dep := { base.dep with staged := [(0, base.prof)] } }), 1, by decide +kernel⟩

theorem witness_ProfilesAndSequencesBegin_2 : ∃ (s : State) (acc : Nat) (id : Nat) (r : Nat) (n : Node) (bs : List Byte) (c : Comp),
    liveNode s acc = some n ∧ n.acc = acc ∧ n.cmd = .profileCreate id r ∧ beginCheck s n = none ∧ readRef s n r 64 = .ok bs ∧
    ((profileBad (parseProfile (ringPt n.ring) bs) bs = some c ∨ (profileBad (parseProfile (ringPt n.ring) bs) bs = none ∧ id ≠ 0xFFFF ∧
    profileUsed s id = true ∧ c = invalidAt 16) ∨ (profileBad (parseProfile (ringPt n.ring) bs) bs = none ∧ id = 0xFFFF ∧
    0xFFFE < freeProfile s ∧ c = failWith .nospace))) :=
  ⟨(withHost (toLe 4 0x00011104) (issued (.profileCreate 1 0))), 1, 1, 0, (live (.profileCreate 1 0)), (toLe 4 0x00011104 ++ zeros 60),
    (invalidAt 16), by decide +kernel⟩

def s_ProfilesAndSequencesBegin_3 : State := badWa (issued (.profileCreate 2 0x1000000000000000))
theorem witness_ProfilesAndSequencesBegin_3 : ∃ (s : State) (u : State) (acc : Nat) (id : Nat) (r : Nat) (n : Node) (c : Comp),
    liveNode s acc = some n ∧ n.acc = acc ∧ n.cmd = .profileCreate id r ∧ beginCheck s n = none ∧ readRef s n r 64 = .error (u, c) :=
  ⟨s_ProfilesAndSequencesBegin_3,
    ((errOf ((s_ProfilesAndSequencesBegin_3), {}) (readRef (badWa (issued (.profileCreate 2 0x1000000000000000))) (live (.profileCreate 2 0x1000000000000000)) 0x1000000000000000 64)).1),
    1, 2, 0x1000000000000000, (live (.profileCreate 2 0x1000000000000000)), (failWith .poisoned), by decide +kernel⟩

theorem witness_ProfilesAndSequencesBegin_4 : ∃ (s : State) (acc : Nat) (n : Node) (c : Comp),
    liveNode s acc = some n ∧ beginCheck s n = some c :=
  ⟨(issued (.profileCreate 2 0x2000000000000000)), 1, (live (.profileCreate 2 0x2000000000000000)), (invalidAt 24), by decide +kernel⟩

theorem witness_ProfilesAndSequencesBegin_5 : ∃ (s : State) (s' : State) (acc : Nat) (want : Nat) (layers : Nat) (prof : Nat) (hint : Nat) (q : Nat) (warm : Bool) (n : Node),
    liveNode s acc = some n ∧ n.acc = acc ∧ n.cmd = .seqOpen want layers prof warm hint ∧ beginCheck s n = none ∧
    takeSeq s n.hdr.epoch (ringPt n.ring) want = .ok (q, s') ∧ inClass s 0 ((ctxTable s).1 + 256 * q) 256 = true :=
  ⟨(issued (.seqOpen 0xFFFFF 255 1 true 2)), ((tookSeq (issued (.seqOpen 0xFFFFF 255 1 true 2)) 0xFFFFF).2), 1, 0xFFFFF, 255, 1, 2, 0, true,
    (live (.seqOpen 0xFFFFF 255 1 true 2)), by decide +kernel⟩

theorem witness_ProfilesAndSequencesBegin_6 : ∃ (s : State) (acc : Nat) (want : Nat) (layers : Nat) (prof : Nat) (hint : Nat) (warm : Bool) (n : Node) (c : Comp),
    liveNode s acc = some n ∧ n.acc = acc ∧ n.cmd = .seqOpen want layers prof warm hint ∧ beginCheck s n = none ∧
    takeSeq s n.hdr.epoch (ringPt n.ring) want = .error c :=
  ⟨(opened (issued (.seqOpen 3 255 1 true 2))), 1, 3, 255, 1, 2, true, (live (.seqOpen 3 255 1 true 2)), (invalidAt 16), by decide +kernel⟩

theorem witness_ProfilesAndSequencesBegin_8 :
    (∃ (s : State) (rq : Requester),
    s.boot.fatal = false ∧ rq.secure = true ∧ rq.src < 4 ∧ bits (s.reg pgSeq 0x218) 0 3 < s.sec.pts.length) ∧
    (∃ (s : State) (rq : Requester),
    s.boot.fatal = false ∧ rq.secure = false) :=
  ⟨⟨(base.setReg pgSeq 0x218 0 7), sec, by decide +kernel⟩,
    ⟨base, own, by decide +kernel⟩⟩

def s_SequencesForkAndClose_0 : State := twoHeld (issued (.seqFork 0xFFFFF false 3 1))
def n_SequencesForkAndClose_0 : Node := live (.seqFork 0xFFFFF false 3 1)
theorem witness_SequencesForkAndClose_0 : ∃ (s : State) (u : State) (u' : State) (acc : Nat) (want : Nat) (q : Nat) (forkLen : Nat) (child : Nat) (rivals : List Nat) (n : Node) (p : Profile),
    liveNode s acc = some n ∧ n.acc = acc ∧ n.cmd = .seqFork want false q forkLen ∧ q < 2 ^ 20 ∧ arbitrate s q (acc :: rivals) = s ∧
    LockReady s n q ∧ seqProfile s n.hdr.epoch q = some p ∧ ((want = 0xFFFFF ∨ (s.ctx want).state = .free)) ∧ forkLen ≤ (s.ctx q).length ∧
    anyPoisoned s q (List.range (s.ctx q).layers) = false ∧ flushFrames s q p (stagedLayers s q) ≤ ptFree s (ringPt n.ring) ∧
    flushLayers (takeLock s q acc n.ring) q (flushPage (takeLock s q acc n.ring) n q p) n.seed false (stagedLayers s q) = (.done u, false) ∧
    u.node acc = some n ∧ takeSeq (allocDone u acc) n.hdr.epoch (ringPt n.ring) want = .ok (child, u') ∧ child ≠ q ∧ (u.ctx q).layers ≤ 255 ∧
    inClass u 0 ((ctxTable u).1 + 256 * child) 256 = true :=
  ⟨s_SequencesForkAndClose_0, (takeLock (s_SequencesForkAndClose_0) (3) (1) (n_SequencesForkAndClose_0).ring),
    ((tookSeq (allocDone (takeLock (s_SequencesForkAndClose_0) (3) (1) (n_SequencesForkAndClose_0).ring) 1) 0xFFFFF).2), 1, 0xFFFFF, 3, 1, 0,
    [], n_SequencesForkAndClose_0, base.prof, by decide +kernel⟩

def s_SequencesForkAndClose_1 : State := withEntry (issued (.seqFork 9 true 5 16))
theorem witness_SequencesForkAndClose_1 : ∃ (s : State) (u : State) (acc : Nat) (want : Nat) (h : Nat) (forkLen : Nat) (i : Nat) (child : Nat) (n : Node) (d : DirSlot) (p : Profile),
    liveNode s acc = some n ∧ n.acc = acc ∧ n.cmd = .seqFork want true h forkLen ∧ LeavesHome s ∧ beginCheck s n = none ∧
    handleSlot s h = some (i, d) ∧ profileAt s n.hdr.epoch d.profile = some p ∧ forkLen ≤ d.depth * p.tpp ∧ d.cpns.length ≤ 255 ∧
    takeSeq s n.hdr.epoch (ringPt n.ring) want = .ok (child, u) ∧ inClass s 0 ((ctxTable s).1 + 256 * child) 256 = true :=
  ⟨s_SequencesForkAndClose_1, ((s_SequencesForkAndClose_1)), 1, 9, 5, 16, 5, 9, (live (.seqFork 9 true 5 16)),
    ((s_SequencesForkAndClose_1).slot 5), base.prof, by decide +kernel⟩

theorem witness_SequencesForkAndClose_2 : ∃ (s : State) (acc : Nat) (want : Nat) (q : Nat) (forkLen : Nat) (rivals : List Nat) (n : Node) (p : Profile) (c : Comp),
    liveNode s acc = some n ∧ n.acc = acc ∧ n.cmd = .seqFork want false q forkLen ∧ q < 2 ^ 20 ∧ arbitrate s q (acc :: rivals) = s ∧
    LockReady s n q ∧ seqProfile s n.hdr.epoch q = some p ∧ (((want ≠ 0xFFFFF ∧ (s.ctx want).state ≠ .free ∧
    c = invalidAt 16) ∨ ((want = 0xFFFFF ∨ (s.ctx want).state = .free) ∧ (s.ctx q).length < forkLen ∧
    c = invalidAt 24) ∨ ((want = 0xFFFFF ∨ (s.ctx want).state = .free) ∧ forkLen ≤ (s.ctx q).length ∧
    anyPoisoned s q (List.range (s.ctx q).layers) = true ∧ c = failWith .poisoned))) :=
  ⟨(twoHeld (issued (.seqFork 0xFFFFF false 3 3))), 1, 0xFFFFF, 3, 3, [], (live (.seqFork 0xFFFFF false 3 3)), base.prof, (invalidAt 24), by decide +kernel⟩

theorem witness_SequencesForkAndClose_3 : ∃ (s : State) (acc : Nat) (want : Nat) (h : Nat) (forkLen : Nat) (n : Node),
    liveNode s acc = some n ∧ n.acc = acc ∧ n.cmd = .seqFork want true h forkLen ∧ beginCheck s n = none ∧ handleSlot s h = none :=
  ⟨(issued (.seqFork 9 true 5 16)), 1, 9, 5, 16, (live (.seqFork 9 true 5 16)), by decide +kernel⟩

def s_SequencesForkAndClose_4 : State := withEntry (issued (.seqFork 9 true 5 17))
theorem witness_SequencesForkAndClose_4 : ∃ (s : State) (acc : Nat) (want : Nat) (h : Nat) (forkLen : Nat) (i : Nat) (n : Node) (d : DirSlot) (p : Profile),
    liveNode s acc = some n ∧ n.acc = acc ∧ n.cmd = .seqFork want true h forkLen ∧ beginCheck s n = none ∧ handleSlot s h = some (i, d) ∧
    profileAt s n.hdr.epoch d.profile = some p ∧ d.depth * p.tpp < forkLen :=
  ⟨s_SequencesForkAndClose_4, 1, 9, 5, 17, 5, (live (.seqFork 9 true 5 17)), ((s_SequencesForkAndClose_4).slot 5), base.prof, by decide +kernel⟩

theorem witness_SequencesForkAndClose_5 : ∃ (s : State) (acc : Nat) (want : Nat) (q : Nat) (forkLen : Nat) (rivals : List Nat) (n : Node) (p : Profile),
    liveNode s acc = some n ∧ n.acc = acc ∧ n.cmd = .seqFork want false q forkLen ∧ q < 2 ^ 20 ∧ arbitrate s q (acc :: rivals) = s ∧
    LockReady s n q ∧ seqProfile s n.hdr.epoch q = some p ∧ ((want = 0xFFFFF ∨ (s.ctx want).state = .free)) ∧ forkLen ≤ (s.ctx q).length ∧
    anyPoisoned s q (List.range (s.ctx q).layers) = false ∧ ptFree s (ringPt n.ring) < flushFrames s q p (stagedLayers s q) :=
  ⟨(noPool (twoStaged (issued (.seqFork 0xFFFFF false 3 1)))), 1, 0xFFFFF, 3, 1, [], (live (.seqFork 0xFFFFF false 3 1)), base.prof, by decide +kernel⟩

theorem witness_SequencesForkAndClose_6 :
    (∃ (s : State) (acc : Nat) (q : Nat) (zero : Bool) (rivals : List Nat) (n : Node),
    liveNode s acc = some n ∧ n.acc = acc ∧ n.cmd = .seqClose q zero ∧ arbitrate s q (acc :: rivals) = s ∧ (((LockReady s n q ∧
    (s.ctx q).state = .open_) ∨ (LeavesHome s ∧ (s.ctx q).lockOwner = some acc ∧ (s.ctx q).state = .closing))) ∧ (s.ctx q).readers = 0 ∧
    (s.ctx q).layers ≤ 255) ∧
    (∃ (s : State) (acc : Nat) (q : Nat) (zero : Bool) (rivals : List Nat) (n : Node),
    liveNode s acc = some n ∧ n.acc = acc ∧ n.cmd = .seqClose q zero ∧ arbitrate s q (acc :: rivals) = s ∧ LockReady s n q ∧
    (s.ctx q).state = .open_ ∧ (s.ctx q).readers ≠ 0) ∧
    (∃ (s : State) (acc : Nat) (q : Nat) (zero : Bool) (n : Node),
    liveNode s acc = some n ∧ n.cmd = .seqClose q zero ∧ n.acc = acc ∧ (s.ctx q).lockOwner = some acc ∧ (s.ctx q).state = .closing ∧
    (s.ctx q).readers ≠ 0) :=
  ⟨⟨(twoHeld (issued (.seqClose 3 false))), 1, 3, false, [], (live (.seqClose 3 false)), by decide +kernel⟩,
    ⟨((twoHeld (issued (.seqClose 3 false))).setCtx 3 fun c => { c with readers := 1 }), 1, 3, false, [], (live (.seqClose 3 false)), by decide +kernel⟩,
    ⟨((twoHeld (issued (.seqClose 3 false))).setCtx 3 fun c => { c with readers := 1, state := .closing, lockOwner := some 1 }), 1, 3, false,
    (live (.seqClose 3 false)), by decide +kernel⟩⟩

def s_AppendAndFlush_0 : State := twoStaged (issued (.append (app 2)))
def s'_AppendAndFlush_0 : State := takeLock (assignTile (s_AppendAndFlush_0) (live (.append (app 2))) (app 2).seq) (app 2).seq (1) (live (.append (app 2))).ring
def kb_AppendAndFlush_0 : List Byte := zeros (srcBytes 1 1 1 (base.prof).hdim)
def vb_AppendAndFlush_0 : List Byte := zeros (srcBytes 1 1 1 (base.prof).hdim)
def pl_AppendAndFlush_0 : AppendPlan := appendPlan (base.prof).tpp (tailFill (s_AppendAndFlush_0) (app 2).seq (app 2).layer (base.prof).tpp) ((s_AppendAndFlush_0).row (app 2).seq (app 2).layer).staged (app 2).ntok
theorem witness_AppendAndFlush_0 : ∃ (s : State) (s' : State) (u : State) (acc : Nat) (rivals : List Nat) (n : Node) (a : AppendCmd) (p : Profile) (kb : List Byte) (vb : List Byte) (pl : AppendPlan),
    liveNode s acc = some n ∧ n.acc = acc ∧ n.cmd = .append a ∧ arbitrate s a.seq (acc :: rivals) = s ∧ LockReady s n a.seq ∧
    nodeTiles s n ≠ [] ∧ s' = takeLock (assignTile s n a.seq) a.seq acc n.ring ∧ seqProfile s n.hdr.epoch a.seq = some p ∧
    ((a.pos0 = 0xFFFFFFFF ∨ a.pos0 = (s.row a.seq a.layer).tokens)) ∧ (s.row a.seq a.layer).poisoned = false ∧
    (s.row a.seq a.layer).tokens + a.ntok ≤ 15360 * p.tpp ∧
    pl = appendPlan p.tpp (tailFill s' a.seq a.layer p.tpp) (s.row a.seq a.layer).staged a.ntok ∧
    appendPages s' a.seq a.layer p.tpp pl a.flushAfter * p.framesPerPage ≤ ptFree s' (ringPt n.ring) ∧
    (granules p (if pl.toTail ≠ 0 ∨ pl.pages ≠ 0 then pl.rest else (s.row a.seq a.layer).staged + pl.rest) ≤ granulesFor s' a.seq a.layer (decide (pl.toTail ≠ 0 ∨ pl.pages ≠ 0))) ∧
    readRef s' n a.kRef (srcBytes a.kFmt a.ntok p.kvh p.hdim) = .ok kb ∧ readRef s' n a.vRef (srcBytes a.vFmt a.ntok p.kvh p.hdim) = .ok vb ∧
    appendWrite s' n a p pl (appendToks p n.seed a.seq a.layer (s.row a.seq a.layer).tokens a.ntok a.kFmt a.vFmt kb vb).1 = .done u ∧
    u.node acc = some n :=
  ⟨s_AppendAndFlush_0, s'_AppendAndFlush_0,
    ((match appendWrite (s'_AppendAndFlush_0) (live (.append (app 2))) (app 2) (base.prof) (pl_AppendAndFlush_0) (appendToks (base.prof) (live (.append (app 2))).seed (app 2).seq (app 2).layer ((s_AppendAndFlush_0).row (app 2).seq (app 2).layer).tokens (app 2).ntok (app 2).kFmt (app 2).vFmt (kb_AppendAndFlush_0) (vb_AppendAndFlush_0)).1 with | .done u => u | _ => (s_AppendAndFlush_0))),
    1, [], (live (.append (app 2))), (app 2), base.prof, kb_AppendAndFlush_0, vb_AppendAndFlush_0, pl_AppendAndFlush_0, by decide +kernel⟩

def s_AppendAndFlush_1 : State := twoHeld (issued (.flush 3 0xFF))
theorem witness_AppendAndFlush_1 : ∃ (s : State) (u : State) (acc : Nat) (q : Nat) (layer : Nat) (b : Bool) (rivals : List Nat) (n : Node) (p : Profile) (ls : List Nat),
    liveNode s acc = some n ∧ n.acc = acc ∧ n.cmd = .flush q layer ∧ arbitrate s q (acc :: rivals) = s ∧ LockReady s n q ∧ nodeTiles s n ≠ [] ∧
    seqProfile s n.hdr.epoch q = some p ∧ ((layer = 0xFF ∨ (s.row q layer).poisoned = false)) ∧
    ls = (stagedLayers s q).filter (fun l => (if layer = 0xFF then List.range (s.ctx q).layers else [layer]).contains l && !(s.row q l).poisoned) ∧
    flushFrames s q p ls ≤ ptFree s (ringPt n.ring) ∧
    flushLayers (takeLock s q acc n.ring) q (flushPage (takeLock s q acc n.ring) n q p) n.seed true ls = (.done u, b) ∧ u.node acc = some n :=
  ⟨s_AppendAndFlush_1, (takeLock (s_AppendAndFlush_1) (3) (1) (live (.flush 3 0xFF)).ring), 1, 3, 0xFF, false, [], (live (.flush 3 0xFF)),
    base.prof, [], by decide +kernel⟩

theorem witness_AppendAndFlush_2 : ∃ (s : State) (acc : Nat) (q : Nat) (rivals : List Nat) (n : Node) (c : Instr),
    (liveNode s acc = some n ∧ n.acc = acc ∧ lockSeq n.cmd = some q ∧ arbitrate s q (acc :: rivals) = s ∧ LockReady s n q ∧
    nodeTiles s n = []) ∧ (((∃ a, n.cmd = .append a ∧ c = .append acc rivals) ∨ (∃ l, n.cmd = .flush q l ∧ c = .flush ⟨acc, rivals⟩))) :=
  ⟨(noTiles (twoStaged (issued (.append (app 2))))), 1, 3, [], (live (.append (app 2))), (.append 1 []), by decide +kernel, (.inl ⟨_, rfl, rfl⟩)⟩

theorem witness_AppendAndFlush_3 : ∃ (s : State) (acc : Nat) (rivals : List Nat) (n : Node) (a : AppendCmd) (p : Profile) (c : Comp),
    liveNode s acc = some n ∧ n.acc = acc ∧ n.cmd = .append a ∧ arbitrate s a.seq (acc :: rivals) = s ∧ LockReady s n a.seq ∧
    nodeTiles s n ≠ [] ∧ seqProfile s n.hdr.epoch a.seq = some p ∧ ((a.pos0 = 0xFFFFFFFF ∨ a.pos0 = (s.row a.seq a.layer).tokens)) ∧
    ((((s.row a.seq a.layer).poisoned = true ∧ c = failWith .poisoned) ∨ ((s.row a.seq a.layer).poisoned = false ∧
    15360 * p.tpp < (s.row a.seq a.layer).tokens + a.ntok ∧ c = failWith .nospace))) :=
  ⟨(fullLayer (issued (.append (app 245760)))), 1, [], (live (.append (app 245760))), (app 245760), base.prof, (failWith .nospace), by decide +kernel⟩

theorem witness_AppendAndFlush_4 : ∃ (s : State) (acc : Nat) (q : Nat) (layer : Nat) (rivals : List Nat) (n : Node) (p : Profile),
    liveNode s acc = some n ∧ n.acc = acc ∧ n.cmd = .flush q layer ∧ arbitrate s q (acc :: rivals) = s ∧ LockReady s n q ∧ nodeTiles s n ≠ [] ∧
    seqProfile s n.hdr.epoch q = some p ∧ layer ≠ 0xFF ∧ (s.row q layer).poisoned = true :=
  ⟨(poisoned (issued (.flush 3 0))), 1, 3, 0, [], (live (.flush 3 0)), base.prof, by decide +kernel⟩

def s_AppendAndFlush_5 : State := badWa (twoStaged (issued (.append { app 2 with kRef := 0x1000000000000000 })))
def s'_AppendAndFlush_5 : State := takeLock (assignTile (s_AppendAndFlush_5) (live (.append { app 2 with kRef := 0x1000000000000000 })) ({ app 2 with kRef := 0x1000000000000000 }).seq) ({ app 2 with kRef := 0x1000000000000000 }).seq (1) (live (.append { app 2 with kRef := 0x1000000000000000 })).ring
def n_AppendAndFlush_5 : Node := live (.append { app 2 with kRef := 0x1000000000000000 })
def a_AppendAndFlush_5 : AppendCmd := { app 2 with kRef := 0x1000000000000000 }
theorem witness_AppendAndFlush_5 : ∃ (s : State) (s' : State) (v : State) (acc : Nat) (rivals : List Nat) (n : Node) (a : AppendCmd) (p : Profile) (pl : AppendPlan) (c : Comp),
    liveNode s acc = some n ∧ n.acc = acc ∧ n.cmd = .append a ∧ arbitrate s a.seq (acc :: rivals) = s ∧ LockReady s n a.seq ∧
    nodeTiles s n ≠ [] ∧ s' = takeLock (assignTile s n a.seq) a.seq acc n.ring ∧ seqProfile s n.hdr.epoch a.seq = some p ∧
    ((a.pos0 = 0xFFFFFFFF ∨ a.pos0 = (s.row a.seq a.layer).tokens)) ∧ (s.row a.seq a.layer).poisoned = false ∧
    (s.row a.seq a.layer).tokens + a.ntok ≤ 15360 * p.tpp ∧
    pl = appendPlan p.tpp (tailFill s' a.seq a.layer p.tpp) (s.row a.seq a.layer).staged a.ntok ∧
    appendPages s' a.seq a.layer p.tpp pl a.flushAfter * p.framesPerPage ≤ ptFree s' (ringPt n.ring) ∧
    (granules p (if pl.toTail ≠ 0 ∨ pl.pages ≠ 0 then pl.rest else (s.row a.seq a.layer).staged + pl.rest) ≤ granulesFor s' a.seq a.layer (decide (pl.toTail ≠ 0 ∨ pl.pages ≠ 0))) ∧
    readRef s' n a.kRef (srcBytes a.kFmt a.ntok p.kvh p.hdim) = .error (v, c) :=
  ⟨s_AppendAndFlush_5, s'_AppendAndFlush_5,
    ((errOf ((s'_AppendAndFlush_5), {}) (readRef (s'_AppendAndFlush_5) (n_AppendAndFlush_5) (a_AppendAndFlush_5).kRef (srcBytes (a_AppendAndFlush_5).kFmt (a_AppendAndFlush_5).ntok (base.prof).kvh (base.prof).hdim))).1),
    1, [], n_AppendAndFlush_5, a_AppendAndFlush_5, base.prof,
    (appendPlan (base.prof).tpp (tailFill (s_AppendAndFlush_5) (a_AppendAndFlush_5).seq (a_AppendAndFlush_5).layer (base.prof).tpp) ((s_AppendAndFlush_5).row (a_AppendAndFlush_5).seq (a_AppendAndFlush_5).layer).staged (a_AppendAndFlush_5).ntok),
    (failWith .poisoned), by decide +kernel⟩

def s_AppendAndFlush_6 : State := noPool (twoStaged (issued (.append { app 2 with flushAfter := true })))
def n_AppendAndFlush_6 : Node := live (.append { app 2 with flushAfter := true })
def a_AppendAndFlush_6 : AppendCmd := { app 2 with flushAfter := true }
theorem witness_AppendAndFlush_6 : ∃ (s : State) (s' : State) (acc : Nat) (rivals : List Nat) (n : Node) (a : AppendCmd) (p : Profile) (pl : AppendPlan),
    liveNode s acc = some n ∧ n.acc = acc ∧ n.cmd = .append a ∧ arbitrate s a.seq (acc :: rivals) = s ∧ LockReady s n a.seq ∧
    nodeTiles s n ≠ [] ∧ s' = takeLock (assignTile s n a.seq) a.seq acc n.ring ∧ seqProfile s n.hdr.epoch a.seq = some p ∧
    ((a.pos0 = 0xFFFFFFFF ∨ a.pos0 = (s.row a.seq a.layer).tokens)) ∧ (s.row a.seq a.layer).poisoned = false ∧
    (s.row a.seq a.layer).tokens + a.ntok ≤ 15360 * p.tpp ∧
    pl = appendPlan p.tpp (tailFill s' a.seq a.layer p.tpp) (s.row a.seq a.layer).staged a.ntok ∧
    ((ptFree s' (ringPt n.ring) < appendPages s' a.seq a.layer p.tpp pl a.flushAfter * p.framesPerPage ∨ granulesFor s' a.seq a.layer (decide (pl.toTail ≠ 0 ∨ pl.pages ≠ 0)) < granules p (if pl.toTail ≠ 0 ∨ pl.pages ≠ 0 then pl.rest else (s.row a.seq a.layer).staged + pl.rest))) :=
  ⟨s_AppendAndFlush_6,
    (takeLock (assignTile (s_AppendAndFlush_6) (n_AppendAndFlush_6) (a_AppendAndFlush_6).seq) (a_AppendAndFlush_6).seq (1) (n_AppendAndFlush_6).ring),
    1, [], n_AppendAndFlush_6, a_AppendAndFlush_6, base.prof,
    (appendPlan (base.prof).tpp (tailFill (s_AppendAndFlush_6) (a_AppendAndFlush_6).seq (a_AppendAndFlush_6).layer (base.prof).tpp) ((s_AppendAndFlush_6).row (a_AppendAndFlush_6).seq (a_AppendAndFlush_6).layer).staged (a_AppendAndFlush_6).ntok), by decide +kernel⟩

theorem witness_AppendAndFlush_7 : ∃ (s : State) (acc : Nat) (q : Nat) (layer : Nat) (rivals : List Nat) (n : Node) (p : Profile) (ls : List Nat),
    liveNode s acc = some n ∧ n.acc = acc ∧ n.cmd = .flush q layer ∧ arbitrate s q (acc :: rivals) = s ∧ LockReady s n q ∧ nodeTiles s n ≠ [] ∧
    seqProfile s n.hdr.epoch q = some p ∧ ((layer = 0xFF ∨ (s.row q layer).poisoned = false)) ∧
    ls = (stagedLayers s q).filter (fun l => (if layer = 0xFF then List.range (s.ctx q).layers else [layer]).contains l && !(s.row q l).poisoned) ∧
    ptFree s (ringPt n.ring) < flushFrames s q p ls :=
  ⟨(noPool (twoStaged (issued (.flush 3 0xFF)))), 1, 3, 0xFF, [], (live (.flush 3 0xFF)), base.prof, [0], by decide +kernel⟩

theorem witness_AppendPositionIsChecked_0 : ∃ (s : State) (acc : Nat) (rivals : List Nat) (n : Node) (a : AppendCmd) (p : Profile),
    liveNode s acc = some n ∧ n.acc = acc ∧ n.cmd = .append a ∧ arbitrate s a.seq (acc :: rivals) = s ∧ LockReady s n a.seq ∧
    nodeTiles s n ≠ [] ∧ seqProfile s n.hdr.epoch a.seq = some p ∧ a.pos0 ≠ 0xFFFFFFFF ∧ a.pos0 ≠ (s.row a.seq a.layer).tokens :=
  ⟨(twoStaged (issued (.append (app 1)))), 1, [], (live (.append (app 1))), (app 1), base.prof, by decide +kernel⟩

theorem witness_HeldLockGivesBusy_0 : ∃ (s : State) (acc : Nat) (q : Nat) (b : Nat) (rivals : List Nat) (n : Node) (c : Instr),
    (liveNode s acc = some n ∧ n.acc = acc ∧ s.node acc = some n ∧ beginCheck s n = none ∧ s.seq.cached.contains q = true ∧
    (s.ctx q).lockOwner = some b ∧ b ≠ acc) ∧ (((∃ a, n.cmd = .append a ∧ a.seq = q ∧ c = .append acc rivals) ∨ (∃ l, n.cmd = .flush q l ∧
    c = .flush ⟨acc, rivals⟩) ∨ (∃ z, n.cmd = .seqClose q z ∧ c = .seqClose ⟨acc, rivals⟩) ∨ (∃ w f, n.cmd = .seqFork w false q f ∧ q < 2 ^ 20 ∧
    c = .seqFork ⟨acc, rivals⟩) ∨ (∃ b p pin r k, n.cmd = .prefixPublish q b p pin r k ∧ pinWaits s acc = false ∧
    sweeping s (ringPt n.ring) 5 = false ∧ c = .prefixPublish ⟨acc, rivals⟩) ∨ (∃ tl k i o, n.cmd = .warm q tl k i o ∧
    allocWaiting s acc = false ∧ (∀ x, warmOpOf s acc = some x → x.pages = [] ∧ x.seq = q) ∧ c = .warm ⟨acc, rivals⟩))) :=
  ⟨(lockedBy 7 (twoStaged (issued (.append (app 2))))), 1, 3, 7, [], (live (.append (app 2))), (.append 1 []), by decide +kernel, (.inl ⟨_, rfl, rfl, rfl⟩)⟩

theorem witness_WaitsAndOwnFlushes_0 : ∃ (s : State) (acc : Nat) (q : Nat) (r : Nat) (rivals : List Nat) (n : Node) (w : Node) (m : Node) (c : Instr),
    (liveNode s acc = some n ∧ lockSeq n.cmd = some q ∧ n.acc = acc ∧ (s.ctx q).lockOwner = none ∧ windowBinds s q = false ∧
    n ∈ contenders s q (acc :: rivals) ∧ m ∈ contenders s q (acc :: rivals) ∧ m.acc ≠ acc ∧
    ptrPick 2048 (s.ctx q).lockPtr ((contenders s q (acc :: rivals)).map (·.ring)) = some r ∧
    minBy (·.acc) ((contenders s q (acc :: rivals)).filter (·.ring == r)) = some w ∧ w.acc ≠ acc ∧
    ((∀ x ∈ contenders s q (acc :: rivals), s.node x.acc = some x))) ∧
    ((c = .append acc rivals ∨ c = .flush ⟨acc, rivals⟩ ∨ c = .seqFork ⟨acc, rivals⟩ ∨ c = .seqClose ⟨acc, rivals⟩ ∨ c = .prefixPublish ⟨acc, rivals⟩ ∨ c = .warm ⟨acc, rivals⟩)) :=
  ⟨(twoStaged (both (.append (app 2)) (.flush 3 0xFF))), 2, 3, 0, [1], { live (.flush 3 0xFF) with acc := 2 }, (live (.append (app 2))),
    (live (.append (app 2))), (.flush ⟨2, [1]⟩), by decide +kernel, (.inr (.inl rfl))⟩

theorem witness_WaitsAndOwnFlushes_1 : ∃ (s : State) (acc : Nat) (q : Nat) (rivals : List Nat) (n : Node),
    liveNode s acc = some n ∧ lockSeq n.cmd = some q ∧ n.acc = acc ∧ s.node acc = some n ∧
    ((arbitrate s q (acc :: rivals)).ctx q).lockOwner = some acc :=
  ⟨(twoStaged (both (.append (app 2)) (.flush 3 0xFF))), 1, 3, [2], (live (.append (app 2))), by decide +kernel⟩

theorem witness_WaitsAndOwnFlushes_7 :
    (∃ (s : State) (q : Nat),
    s.boot.fatal = false ∧ s.seq.fetching.contains q = true) ∧
    (∃ (s : State) (q : Nat),
    s.seq.fetching.contains q = false) :=
  ⟨⟨({ base with seq := { base.seq with fetching := [3] } }), 3, by decide +kernel⟩,
    ⟨base, 3, by decide +kernel⟩⟩

theorem witness_WaitsAndOwnFlushes_9 :
    (∃ (s : State) (acc : Nat) (n : Node),
    (liveNode s acc = some n ∧ n.acc = acc ∧ allocWaiting s acc = true ∧ LeavesHome s) ∧ ((∃ q l, n.cmd = .flush q l))) ∧
    (∃ (s : State) (acc : Nat) (n : Node),
    (liveNode s acc = some n ∧ n.acc = acc ∧ allocWaiting s acc = true ∧ LeavesHome s) ∧ ((∃ w h p l, n.cmd = .seqFork w h p l))) ∧
    (∃ (s : State) (acc : Nat) (n : Node),
    (liveNode s acc = some n ∧ n.acc = acc ∧ allocWaiting s acc = true ∧ LeavesHome s) ∧ ((∃ a, n.cmd = .append a))) ∧
    (∃ (s : State) (acc : Nat) (n : Node) (x : _),
    liveNode s acc = some n ∧ n.acc = acc ∧ allocWaiting s acc = true ∧ LeavesHome s ∧ n.cmd = .getPage x) :=
  ⟨⟨(waits (twoStaged (issued (.flush 3 0xFF)))), 1, (live (.flush 3 0xFF)), by decide +kernel, (⟨_, _, rfl⟩)⟩,
    ⟨(waits (twoStaged (issued (.seqFork 0xFFFFF false 3 1)))), 1, (live (.seqFork 0xFFFFF false 3 1)), by decide +kernel, (⟨_, _, _, _, rfl⟩)⟩,
    ⟨(waits (twoStaged (issued (.append (app 2))))), 1, (live (.append (app 2))), by decide +kernel, (⟨_, rfl⟩)⟩,
    ⟨(waits (issued (.getPage ({ qpn := 0, device := 6, key := 1, localCpn := 10, remoteCpn := 11 })))), 1,
    (live (.getPage ({ qpn := 0, device := 6, key := 1, localCpn := 10, remoteCpn := 11 }))),
    { qpn := 0, device := 6, key := 1, localCpn := 10, remoteCpn := 11 }, by decide +kernel⟩⟩

theorem witness_WaitsAndOwnFlushes_13 : ∃ (s : State) (acc : Nat) (w : AllocWait) (n : Node),
    (liveNode s acc = some n ∧ n.acc = acc ∧ s.seq.allocWaits.find? (fun w => w.acc == acc) = some w) ∧ ((∀ q t k i o, n.cmd ≠ .warm q t k i o)) :=
  ⟨(waits (lockedBy 1 (twoStaged (issued (.flush 3 0xFF))))), 1, { acc := 1, until_ := 2000 }, (live (.flush 3 0xFF)), by decide +kernel, (fun _ _ _ _ _ h => by cases h)⟩

theorem witness_WaitsAndOwnFlushes_14 : ∃ (s : State) (acc : Nat),
    (liveNode s acc).all (·.acc == acc) = true ∧ allocWaiting s acc = false :=
  ⟨(issued (.flush 3 0xFF)), 1, by decide +kernel⟩

def s_WaitsAndOwnFlushes_16 : State := twoStaged.setReg pgSeq 0x22C 0 (511 * 2 ^ 16)
theorem witness_WaitsAndOwnFlushes_16 : ∃ (s : State) (u : State) (tile : Nat) (e : Nat × StageEntry),
    (s.boot.fatal = false ∧ s.rec_.replay ≠ 1 ∧ LeavesHome s ∧ freeGranules s tile < bits (s.reg pgSeq 0x22C) 16 9 ∧
    minBy (fun e : Nat × StageEntry => e.2.lastAppend) (s.seq.stage.filter fun e => e.2.tile == tile && !tailHeld s e.1) = some e) ∧
    selfFlush s (e.1 / 256) (e.1 % 256) 0 = some u :=
  ⟨s_WaitsAndOwnFlushes_16, ((selfFlush (s_WaitsAndOwnFlushes_16) 3 0 0).getD (s_WaitsAndOwnFlushes_16)), 0, (stage0 twoStaged), by decide +kernel, (some_getD (by decide +kernel))⟩

theorem witness_WaitsAndOwnFlushes_17 : ∃ (s : State) (tile : Nat) (e : Nat × StageEntry),
    s.boot.fatal = false ∧ s.rec_.replay ≠ 1 ∧ LeavesHome s ∧ freeGranules s tile < bits (s.reg pgSeq 0x22C) 16 9 ∧
    minBy (fun e : Nat × StageEntry => e.2.lastAppend) (s.seq.stage.filter fun e => e.2.tile == tile && !tailHeld s e.1) = some e ∧
    selfFlush s (e.1 / 256) (e.1 % 256) 0 = none :=
  ⟨(noPool (twoStaged.setReg pgSeq 0x22C 0 (511 * 2 ^ 16))), 0, (stage0 twoStaged), by decide +kernel⟩

theorem witness_WaitsAndOwnFlushes_18 : ∃ (s : State) (tile : Nat),
    ((bits (s.reg pgSeq 0x22C) 16 9 ≤ freeGranules s tile ∨ (s.seq.stage.filter fun e => e.2.tile == tile && !tailHeld s e.1) = [])) :=
  ⟨base, 0, by decide +kernel⟩

theorem witness_WaitsAndOwnFlushes_19 : ∃ (s : State) (q : Nat) (l : Nat) (e : StageEntry),
    s.boot.fatal = false ∧ s.rec_.replay ≠ 1 ∧ LeavesHome s ∧ stageOf s q l = some e ∧ bits (s.reg pgSeq 0x22C) 0 16 ≠ 0 :=
  ⟨(twoStaged.setReg pgSeq 0x22C 0 1), 3, 0, ((stage0 twoStaged).2), by decide +kernel⟩

theorem witness_WaitsAndOwnFlushes_20 : ∃ (s : State) (q : Nat) (l : Nat),
    ((stageOf s q l = none ∨ bits (s.reg pgSeq 0x22C) 0 16 = 0)) :=
  ⟨base, 3, 0, by decide +kernel⟩

theorem witness_WaitsAndOwnFlushes_21 :
    (∃ (s : State) (tile : Nat) (pt : Nat),
    s.boot.fatal = false ∧ s.rec_.replay ≠ 1 ∧ LeavesHome s ∧ bit s.dep.lag 3 = true ∧ bit (lget s.dep.cfg.pmap.pts pt {}).tiles tile = false) ∧
    (∃ (s : State) (tile : Nat) (pt : Nat),
    ((bit s.dep.lag 3 = false ∨ bit (lget s.dep.cfg.pmap.pts pt {}).tiles tile = true))) :=
  ⟨⟨(lag3 2 twoStaged), 0, 0, by decide +kernel⟩,
    ⟨base, 0, 0, by decide +kernel⟩⟩

theorem witness_WaitsAndOwnFlushes_23 : ∃ (s : State) (u : State) (q : Nat) (l : Nat) (e : StageEntry) (p : Profile),
    (stageOf s q l = some e ∧ tget s.dep.cfg.profiles (s.ctx q).profile = some p ∧ (s.row q l).poisoned = false ∧
    ((needsPage s q l p.tpp = true → p.framesPerPage ≤ ptFree s (s.ctx q).pt))) ∧
    flushLayer s q l { prof := p, profId := (s.ctx q).profile, seq := q, layer := l, pos := 0, epoch := s.dep.epoch, home := e.tile } (ptSeed s (s.ctx q).pt) false = .done u :=
  ⟨twoStaged,
    (doneState (twoStaged) (flushLayer (twoStaged) (3) (0) { prof := (base.prof), profId := ((twoStaged).ctx (3)).profile, seq := (3), layer := (0), pos := 0, epoch := (twoStaged).dep.epoch, home := ((stage0 twoStaged).2).tile } (ptSeed (twoStaged) ((twoStaged).ctx (3)).pt) false)),
    3, 0, ((stage0 twoStaged).2), base.prof, by decide +kernel, (done_state (by decide +kernel))⟩

end PartD

namespace PartE

/-- The directory enabled at HBM address 0x1000_0000 with 2^16 slots; quotas for partition 0. -/
def chanter (s : State := base) : State :=
  ((((s.setReg pgChn 0x200 0 0x10000000).setReg pgChn 0x208 0 33).setReg pgChn 0x210 0 100).setReg pgChn 0x214 0 100)
/-- The hash of one block of sixteen tokens 0 of profile 1 under the salt of zeros. -/
def hash1 : List Nat := chainHashes (zeros 32) 1 64 1 0 (zeros 64)
def home1 : Nat := (dirPath (chanter) (lget hash1 0 0)).getD 0 0
/-- That block is in the directory. -/
def withBlock (d : DirSlot) (s : State := base) : State :=
  let s := chanter s
  s.setSlot home1 fun _ => { d with hash := lget hash1 0 0, depth := 1, state := .live, profile := 1 }
def full3 (s : State := base) : State :=
  let s := opened (chanter s)
  let r : LayerRow := { tokens := 16, ptes := [{ cpn := 10, fill := 16 }] }
  let q : LayerRow := { tokens := 16, ptes := [{ cpn := 11, fill := 16 }] }
  let l : Nat → Loc := fun a => { state := .resident, refcnt := 1, addr := a }
  { (s.setRow 3 0 fun _ => r).setRow 3 1 (fun _ => q) with seq := { ((s.setRow 3 0 fun _ => r).setRow 3 1 (fun _ => q)).seq with locs := [(10, l 5), (11, l 6)] } }
def block0 : DirSlot := { cpns := [10, 11], refs := 2 }
def lookup : Cmd := .prefixLookup 1 1 true 0 0
def publish (pin : Bool) : Cmd := .prefixPublish 3 1 false pin 0 0
def pubOf (u : State) : List Nat × State := (publishEntries u 0 3 (u.ctx 3).profile hash1 1 0x3FFFFFF []).getD ([], u)
def entry (s : State) : DirSlot := s.slot home1
def word : CamWord := { hash := lget hash1 0 0, anchor := 0, depth := 1, pt := 0, slot := home1 }
/-- Every bank takes words of partition 0. -/
def banksOn (s : State) : State := (List.range 8).foldl (fun s b => s.setBank b fun k => { k with cfg := 1 }) s
/-- Region 7 in slot 0 of the region table, two units of it accepted on pool port 0; partition 0 has version 1 of it open. -/
def opened7 (s : State := base) : State :=
  let s := (s.setCport 0 fun c => { c with up := true, exts := [{ tag := [], kind := 2, pt := 0, region := 7, rbase := 0, base := 0, size := 2 }] }).setReg pgCxh 0x224 0 0x500007
  { s with cxh := { s.cxh with opens := [{ pt := 0, region := 7, version := 1, slot := 0, imported := [] }] } }

theorem witness_LookupFindsThePrefix_0 : ∃ (s : State) (u : State) (acc : Nat) (prof : Nat) (blocks : Nat) (tokRef : Nat) (outRef : Nat) (pin : Bool) (n : Node) (p : Profile) (bs : List Byte) (hs : List Nat),
    liveNode s acc = some n ∧ n.acc = acc ∧ n.cmd = .prefixLookup prof blocks pin tokRef outRef ∧ beginCheck s n = none ∧
    profileAt s n.hdr.epoch prof = some p ∧ dirEn s = true ∧ readRef s n tokRef (blocks * p.tpp * 4) = .ok bs ∧
    hs = chainHashes (saltOf s (ringPt n.ring)) prof (4 * p.tpp) blocks 0 bs ∧
    inClass s 0 ((dirTable s).1 + 256 * (lget hs 0 0 / 2 ^ 32 % 2 ^ (dirLog2 s - 2))) 256 = true ∧ chainDepth s (ringPt n.ring) hs = (0, u) :=
  ⟨(chanter (issued lookup)), ((chainDepth (chanter (issued lookup)) 0 (hash1)).2), 1, 1, 1, 0, 0, true, (live lookup), base.prof, (zeros 64),
    hash1, by decide +kernel⟩

def s_LookupFindsThePrefix_1 : State := withBlock block0 (issued lookup)
theorem witness_LookupFindsThePrefix_1 : ∃ (s : State) (u : State) (acc : Nat) (prof : Nat) (blocks : Nat) (tokRef : Nat) (outRef : Nat) (d : Nat) (k : Nat) (i : Nat) (top : Nat) (pin : Bool) (n : Node) (p : Profile) (bs : List Byte) (hs : List Nat),
    liveNode s acc = some n ∧ n.acc = acc ∧ n.cmd = .prefixLookup prof blocks pin tokRef outRef ∧ beginCheck s n = none ∧
    profileAt s n.hdr.epoch prof = some p ∧ dirEn s = true ∧ readRef s n tokRef (blocks * p.tpp * 4) = .ok bs ∧
    hs = chainHashes (saltOf s (ringPt n.ring)) prof (4 * p.tpp) blocks 0 bs ∧
    inClass s 0 ((dirTable s).1 + 256 * (lget hs 0 0 / 2 ^ 32 % 2 ^ (dirLog2 s - 2))) 256 = true ∧ chainDepth s (ringPt n.ring) hs = (k, u) ∧
    k ≠ 0 ∧ dirFind u (ringPt n.ring) (lget hs (k - 1) 0) k = some i ∧ d = unspoiled u (chainSlots u k i) ∧
    ((chainSlots u k i).take d).getLast? = some top ∧
    refInArea s n.hdr (ringPt n.ring) outRef (cpnRecords u ((chainSlots u k i).take d)).length = true :=
  ⟨s_LookupFindsThePrefix_1, ((chainDepth (s_LookupFindsThePrefix_1) 0 (hash1)).2), 1, 1, 1, 0, 0, 1, 1, home1, home1, true, (live lookup),
    base.prof, (zeros 64), hash1, by decide +kernel⟩

def s_LookupFindsThePrefix_2 : State := withBlock { block0 with spoiled := true } (issued lookup)
theorem witness_LookupFindsThePrefix_2 : ∃ (s : State) (u : State) (acc : Nat) (prof : Nat) (blocks : Nat) (tokRef : Nat) (outRef : Nat) (k : Nat) (i : Nat) (pin : Bool) (n : Node) (p : Profile) (bs : List Byte) (hs : List Nat),
    liveNode s acc = some n ∧ n.acc = acc ∧ n.cmd = .prefixLookup prof blocks pin tokRef outRef ∧ beginCheck s n = none ∧
    profileAt s n.hdr.epoch prof = some p ∧ dirEn s = true ∧ readRef s n tokRef (blocks * p.tpp * 4) = .ok bs ∧
    hs = chainHashes (saltOf s (ringPt n.ring)) prof (4 * p.tpp) blocks 0 bs ∧
    inClass s 0 ((dirTable s).1 + 256 * (lget hs 0 0 / 2 ^ 32 % 2 ^ (dirLog2 s - 2))) 256 = true ∧ chainDepth s (ringPt n.ring) hs = (k, u) ∧
    k ≠ 0 ∧ dirFind u (ringPt n.ring) (lget hs (k - 1) 0) k = some i ∧
    ((unspoiled u (chainSlots u k i) = 0 ∨ refInArea s n.hdr (ringPt n.ring) outRef (cpnRecords u ((chainSlots u k i).take (unspoiled u (chainSlots u k i)))).length = false)) :=
  ⟨s_LookupFindsThePrefix_2, ((chainDepth (s_LookupFindsThePrefix_2) 0 (hash1)).2), 1, 1, 1, 0, 0, 1, home1, true, (live lookup), base.prof,
    (zeros 64), hash1, by decide +kernel⟩

theorem witness_LookupFindsThePrefix_3 : ∃ (s : State) (acc : Nat) (prof : Nat) (blocks : Nat) (tokRef : Nat) (outRef : Nat) (pin : Bool) (n : Node) (p : Profile),
    liveNode s acc = some n ∧ n.acc = acc ∧ n.cmd = .prefixLookup prof blocks pin tokRef outRef ∧ beginCheck s n = none ∧
    profileAt s n.hdr.epoch prof = some p ∧ dirEn s = false :=
  ⟨(issued lookup), 1, 1, 1, 0, 0, true, (live lookup), base.prof, by decide +kernel⟩

def s_PublishMakesEntries_0 : State := full3 (issued (publish true))
def u_PublishMakesEntries_0 : State := (chainDepth (takeLock (s_PublishMakesEntries_0) (3) (1) (live (publish true)).ring) 0 (hash1)).2
theorem witness_PublishMakesEntries_0 : ∃ (s : State) (u : State) (v : State) (acc : Nat) (q : Nat) (blocks : Nat) (region : Nat) (tokRef : Nat) (e : Nat) (parent : Nat) (top : Nat) (pin : Bool) (pinned : Bool) (rivals : List Nat) (n : Node) (p : Profile) (bs : List Byte) (hs : List Nat) (slots : List Nat),
    liveNode s acc = some n ∧ n.acc = acc ∧ n.cmd = .prefixPublish q blocks false pin region tokRef ∧ pinWaits s acc = false ∧
    sweeping s (ringPt n.ring) 5 = false ∧ arbitrate s q (acc :: rivals) = s ∧ LockReady s n q ∧ seqProfile s n.hdr.epoch q = some p ∧
    dirEn s = true ∧ publishBad s q blocks p.tpp = none ∧ readRef s n tokRef (blocks * p.tpp * 4) = .ok bs ∧
    hs = chainHashes (saltOf s (ringPt n.ring)) (s.ctx q).profile (4 * p.tpp) blocks 0 bs ∧
    inClass s 0 ((dirTable s).1 + 256 * (lget hs 0 0 / 2 ^ 32 % 2 ^ (dirLog2 s - 2))) 256 = true ∧
    chainDepth (takeLock s q acc n.ring) (ringPt n.ring) hs = (e, u) ∧
    parent = (if e = 0 then 0x3FFFFFF else (dirFind u (ringPt n.ring) (lget hs (e - 1) 0) e).getD 0x3FFFFFF) ∧
    ((List.range (blocks - e)).map (· + e)).any (fun i => (blockCpns u q i).any fun c => (u.loc c).published) = false ∧
    ((mayPlace u (ringPt n.ring) (chainBank (lget hs 0 0)) = true → (e < blocks ∨ pin = true) → camRoom u (chainBank (lget hs 0 0)) = true)) ∧
    publishEntries u (ringPt n.ring) q (u.ctx q).profile (hs.drop e) (e + 1) parent [] = some (slots, v) ∧ v.node acc = some n ∧
    top = (if e < blocks then slots.getLast?.getD parent else (dirFind v (ringPt n.ring) (lget hs (blocks - 1) 0) blocks).getD parent) ∧
    pinned = (pin && !(v.slot top).inCam && mayPlace v (ringPt n.ring) (chainBank (lget hs 0 0))) :=
  ⟨s_PublishMakesEntries_0, u_PublishMakesEntries_0, ((pubOf (u_PublishMakesEntries_0)).2), 1, 3, 1, 0, 0, 0, 0x3FFFFFF,
    ((pubOf (u_PublishMakesEntries_0)).1.getLast?.getD 0), true, true, [], (live (publish true)), base.prof, (zeros 64), hash1,
    ((pubOf (u_PublishMakesEntries_0)).1), by decide +kernel⟩

def s_PublishMakesEntries_1 : State := full3 (issued (publish false))
theorem witness_PublishMakesEntries_1 : ∃ (s : State) (v : State) (pt : Nat) (q : Nat) (prof : Nat) (depth : Nat) (parent : Nat) (hs : List Nat) (slots : List Nat) (j : Nat) (h : Nat),
    0 < depth ∧ publishEntries s pt q prof hs depth parent [] = some (slots, v) ∧ hs[j]? = some h :=
  ⟨s_PublishMakesEntries_1, ((pubOf (s_PublishMakesEntries_1)).2), 0, 3, 1, 1, 0x3FFFFFF, hash1, ((pubOf (s_PublishMakesEntries_1)).1), 0,
    (lget hash1 0 0), by decide +kernel⟩

def s_PublishMakesEntries_2 : State := opened7 (full3 (issued (.prefixPublish 3 1 true false 7 0)))
def n_PublishMakesEntries_2 : Node := live (.prefixPublish 3 1 true false 7 0)
theorem witness_PublishMakesEntries_2 : ∃ (s : State) (v : State) (acc : Nat) (q : Nat) (blocks : Nat) (region : Nat) (tokRef : Nat) (top : Nat) (pin : Bool) (rivals : List Nat) (n : Node) (p : Profile) (bs : List Byte) (hs : List Nat) (slots : List Nat),
    liveNode s acc = some n ∧ n.acc = acc ∧ n.cmd = .prefixPublish q blocks true pin region tokRef ∧ pinWaits s acc = false ∧
    sweeping s (ringPt n.ring) 5 = false ∧ arbitrate s q (acc :: rivals) = s ∧ LockReady s n q ∧ seqProfile s n.hdr.epoch q = some p ∧
    dirEn s = true ∧ (openVersion s (ringPt n.ring) region).isSome = true ∧ publishBad s q blocks p.tpp = none ∧
    readRef s n tokRef (blocks * p.tpp * 4) = .ok bs ∧ hs = chainHashes (saltOf s (ringPt n.ring)) (s.ctx q).profile (4 * p.tpp) blocks 0 bs ∧
    inClass s 0 ((dirTable s).1 + 256 * (lget hs 0 0 / 2 ^ 32 % 2 ^ (dirLog2 s - 2))) 256 = true ∧
    publishLocal (takeLock s q acc n.ring) n q blocks true pin hs = .pool v top slots :=
  ⟨s_PublishMakesEntries_2,
    (match publishLocal (takeLock (s_PublishMakesEntries_2) (3) (1) (n_PublishMakesEntries_2).ring) (n_PublishMakesEntries_2) (3) (1) true (false) (hash1) with | .pool v _ _ => v | _ => (s_PublishMakesEntries_2)),
    1, 3, 1, 7, 0,
    (match publishLocal (takeLock (s_PublishMakesEntries_2) (3) (1) (n_PublishMakesEntries_2).ring) (n_PublishMakesEntries_2) (3) (1) true (false) (hash1) with | .pool _ t _ => t | _ => 0),
    false, [], n_PublishMakesEntries_2, base.prof, (zeros 64), hash1,
    (match publishLocal (takeLock (s_PublishMakesEntries_2) (3) (1) (n_PublishMakesEntries_2).ring) (n_PublishMakesEntries_2) (3) (1) true (false) (hash1) with | .pool _ _ l => l | _ => []), by decide +kernel⟩

theorem witness_PublishMakesEntries_3 : ∃ (s : State) (acc : Nat) (q : Nat) (blocks : Nat) (region : Nat) (tokRef : Nat) (pin : Bool) (rivals : List Nat) (n : Node) (p : Profile) (c : Comp),
    liveNode s acc = some n ∧ n.acc = acc ∧ n.cmd = .prefixPublish q blocks false pin region tokRef ∧ pinWaits s acc = false ∧
    sweeping s (ringPt n.ring) 5 = false ∧ arbitrate s q (acc :: rivals) = s ∧ LockReady s n q ∧ seqProfile s n.hdr.epoch q = some p ∧
    (((dirEn s = false ∧ c = failWith .nospace) ∨ (dirEn s = true ∧ publishBad s q blocks p.tpp = some c))) :=
  ⟨(let u := full3 (issued (publish false)); u.setRow 3 0 fun r => { r with ptes := [{ cpn := 10, fill := 15 }] }), 1, 3, 1, 0, 0, false, [],
    (live (publish false)), base.prof, (invalidAt 20), by decide +kernel⟩

def s_PublishMakesEntries_4 : State := let u := full3 (issued (publish false)); u.setLoc 10 fun l => { l with published := true }
theorem witness_PublishMakesEntries_4 : ∃ (s : State) (u : State) (acc : Nat) (q : Nat) (blocks : Nat) (region : Nat) (tokRef : Nat) (e : Nat) (parent : Nat) (pin : Bool) (rivals : List Nat) (n : Node) (p : Profile) (bs : List Byte) (hs : List Nat) (c : Comp),
    liveNode s acc = some n ∧ n.acc = acc ∧ n.cmd = .prefixPublish q blocks false pin region tokRef ∧ pinWaits s acc = false ∧
    sweeping s (ringPt n.ring) 5 = false ∧ arbitrate s q (acc :: rivals) = s ∧ LockReady s n q ∧ seqProfile s n.hdr.epoch q = some p ∧
    dirEn s = true ∧ publishBad s q blocks p.tpp = none ∧ readRef s n tokRef (blocks * p.tpp * 4) = .ok bs ∧
    hs = chainHashes (saltOf s (ringPt n.ring)) (s.ctx q).profile (4 * p.tpp) blocks 0 bs ∧
    inClass s 0 ((dirTable s).1 + 256 * (lget hs 0 0 / 2 ^ 32 % 2 ^ (dirLog2 s - 2))) 256 = true ∧
    chainDepth (takeLock s q acc n.ring) (ringPt n.ring) hs = (e, u) ∧
    parent = (if e = 0 then 0x3FFFFFF else (dirFind u (ringPt n.ring) (lget hs (e - 1) 0) e).getD 0x3FFFFFF) ∧
    (((((List.range (blocks - e)).map (· + e)).any (fun i => (blockCpns u q i).any fun c => (u.loc c).published) = true ∧
    c = invalidAt 32) ∨ (((List.range (blocks - e)).map (· + e)).any (fun i => (blockCpns u q i).any fun c => (u.loc c).published) = false ∧
    mayPlace u (ringPt n.ring) (chainBank (lget hs 0 0)) = true ∧ (e < blocks ∨ pin = true) ∧ camRoom u (chainBank (lget hs 0 0)) = false ∧
    c = failWith .busy) ∨ (((List.range (blocks - e)).map (· + e)).any (fun i => (blockCpns u q i).any fun c => (u.loc c).published) = false ∧
    (mayPlace u (ringPt n.ring) (chainBank (lget hs 0 0)) = true → (e < blocks ∨ pin = true) → camRoom u (chainBank (lget hs 0 0)) = true) ∧
    publishEntries u (ringPt n.ring) q (u.ctx q).profile (hs.drop e) (e + 1) parent [] = none ∧ c = failWith .nospace))) :=
  ⟨s_PublishMakesEntries_4, ((chainDepth (takeLock (s_PublishMakesEntries_4) (3) (1) (live (publish false)).ring) 0 (hash1)).2), 1, 3, 1, 0, 0,
    0, 0x3FFFFFF, false, [], (live (publish false)), base.prof, (zeros 64), hash1, (invalidAt 32), by decide +kernel⟩

def s_ReferencesSaltsAndBanks_0 : State := withBlock block0 (issued (.prefixRef home1 2))
def s_ReferencesSaltsAndBanks_1 : State := withBlock { block0 with refs := 0 } (issued (.prefixRef home1 2))
def s_ReferencesSaltsAndBanks_2 : State := withBlock { block0 with pinned := true } (issued (.prefixRef home1 1))
def s_ReferencesSaltsAndBanks_3 : State := withBlock { block0 with inCam := true } (issued (.prefixRef home1 0))
theorem witness_ReferencesSaltsAndBanks_0 :
    (∃ (s : State) (acc : Nat) (h : Nat) (i : Nat) (n : Node) (d : DirSlot),
    liveNode s acc = some n ∧ n.acc = acc ∧ n.cmd = .prefixRef h 2 ∧ beginCheck s n = none ∧ handleSlot s h = some (i, d) ∧ 0 < d.refs) ∧
    (∃ (s : State) (acc : Nat) (h : Nat) (i : Nat) (n : Node) (d : DirSlot),
    liveNode s acc = some n ∧ n.acc = acc ∧ n.cmd = .prefixRef h 2 ∧ beginCheck s n = none ∧ handleSlot s h = some (i, d) ∧ d.refs = 0) ∧
    (∃ (s : State) (acc : Nat) (h : Nat) (i : Nat) (n : Node) (d : DirSlot),
    liveNode s acc = some n ∧ n.acc = acc ∧ n.cmd = .prefixRef h 1 ∧ beginCheck s n = none ∧ handleSlot s h = some (i, d)) ∧
    (∃ (s : State) (acc : Nat) (h : Nat) (i : Nat) (n : Node) (d : DirSlot),
    liveNode s acc = some n ∧ n.acc = acc ∧ n.cmd = .prefixRef h 0 ∧ beginCheck s n = none ∧ handleSlot s h = some (i, d) ∧
    pinWaits s acc = false ∧ ((d.inCam = true ∨ mayPlace s d.pt (chainBank (firstHash s i)) = false))) :=
  ⟨⟨s_ReferencesSaltsAndBanks_0, 1, home1, home1, (live (.prefixRef home1 2)), (entry (s_ReferencesSaltsAndBanks_0)), by decide +kernel⟩,
    ⟨s_ReferencesSaltsAndBanks_1, 1, home1, home1, (live (.prefixRef home1 2)), (entry (s_ReferencesSaltsAndBanks_1)), by decide +kernel⟩,
    ⟨s_ReferencesSaltsAndBanks_2, 1, home1, home1, (live (.prefixRef home1 1)), (entry (s_ReferencesSaltsAndBanks_2)), by decide +kernel⟩,
    ⟨s_ReferencesSaltsAndBanks_3, 1, home1, home1, (live (.prefixRef home1 0)), (entry (s_ReferencesSaltsAndBanks_3)), by decide +kernel⟩⟩

def s_ReferencesSaltsAndBanks_4 : State := withBlock block0 (issued (.prefixRef home1 0))
def s_ReferencesSaltsAndBanks_5 : State := (withBlock block0 (issued (.prefixRef home1 0))).setBank (chainBank (lget hash1 0 0)) fun b => { b with running := some { pt := 1, words := [] }, queue := List.replicate 16 { pt := 1, words := [] } }
theorem witness_ReferencesSaltsAndBanks_4 :
    (∃ (s : State) (acc : Nat) (h : Nat) (i : Nat) (n : Node) (d : DirSlot),
    liveNode s acc = some n ∧ n.acc = acc ∧ n.cmd = .prefixRef h 0 ∧ beginCheck s n = none ∧ handleSlot s h = some (i, d) ∧
    pinWaits s acc = false ∧ d.inCam = false ∧ mayPlace s d.pt (chainBank (firstHash s i)) = true ∧ camRoom s (chainBank (firstHash s i)) = true) ∧
    (∃ (s : State) (acc : Nat) (h : Nat) (i : Nat) (n : Node) (d : DirSlot),
    liveNode s acc = some n ∧ n.acc = acc ∧ n.cmd = .prefixRef h 0 ∧ beginCheck s n = none ∧ handleSlot s h = some (i, d) ∧
    pinWaits s acc = false ∧ d.inCam = false ∧ mayPlace s d.pt (chainBank (firstHash s i)) = true ∧
    camRoom s (chainBank (firstHash s i)) = false) :=
  ⟨⟨s_ReferencesSaltsAndBanks_4, 1, home1, home1, (live (.prefixRef home1 0)), (entry (s_ReferencesSaltsAndBanks_4)), by decide +kernel⟩,
    ⟨s_ReferencesSaltsAndBanks_5, 1, home1, home1, (live (.prefixRef home1 0)), (entry (s_ReferencesSaltsAndBanks_5)), by decide +kernel⟩⟩

theorem witness_ReferencesSaltsAndBanks_6 : ∃ (s : State) (acc : Nat) (h : Nat) (op : Nat) (n : Node) (c : Comp) (i : Instr),
    liveNode s acc = some n ∧ n.acc = acc ∧ n.cmd = .prefixRef h op ∧ (((op = 0 ∧ i = .prefixRefPin acc) ∨ (op = 1 ∧
    i = .prefixRefUnpin acc) ∨ (op = 2 ∧ i = .prefixRefRelease acc))) ∧ ((beginCheck s n = some c ∨ (beginCheck s n = none ∧
    handleSlot s h = none ∧ c = invalidAt 16))) :=
  ⟨(chanter (issued (.prefixRef home1 0))), 1, home1, 0, (live (.prefixRef home1 0)), (invalidAt 16), (.prefixRefPin 1), by decide +kernel⟩

theorem witness_ReferencesSaltsAndBanks_7 :
    (∃ (s : State) (rq : Requester),
    s.boot.fatal = false ∧ rq.secure = true ∧ rq.src < 4 ∧ dirUse s (s.reg pgChn 0x20C) = 0) ∧
    (∃ (s : State) (rq : Requester),
    s.boot.fatal = false ∧ rq.secure = true ∧ rq.src < 4 ∧ dirUse s (s.reg pgChn 0x20C) ≠ 0) :=
  ⟨⟨(base.setReg pgChn 0x20C 0 7), sec, by decide +kernel⟩,
    ⟨(withBlock block0), sec, by decide +kernel⟩⟩

theorem witness_ReferencesSaltsAndBanks_10 : ∃ (s : State) (b : Nat) (w : CamWord) (pt : Nat),
    s.boot.fatal = false ∧ b < s.chn.banks.length ∧ (s.bank b).running = some { pt := pt, words := [w] } ∧ camWanted s w = true ∧
    (s.bank b).words.length < 32768 ∧ camUse s w.pt < camQuota s w.pt ∧ mayPlace s w.pt b = true :=
  ⟨((withBlock { cpns := [10, 11] }).setBank 2 fun b => { b with running := some { pt := 0, words := [word] }, queue := [{ pt := 0, words := [] }] }),
    2, word, 0, by decide +kernel⟩

theorem witness_ReferencesSaltsAndBanks_9 : ∃ (s : State) (b : Nat) (p : CamPass),
    s.boot.fatal = false ∧ b < s.chn.banks.length ∧ (s.bank b).running = some p :=
  ⟨((withBlock { cpns := [10, 11] }).setBank 2 fun b => { b with running := some { pt := 0, words := [word] }, queue := [{ pt := 0, words := [] }] }),
    2, ({ pt := 0, words := [word] }), by decide +kernel⟩

theorem witness_ReferencesSaltsAndBanks_11 : ∃ (s : State) (b : Nat) (acc : Nat) (h : Nat) (gen : Nat) (w : CamWord) (pt : Nat) (n : Node),
    s.boot.fatal = false ∧ b < s.chn.banks.length ∧
    (s.bank b).running = some { pt := pt, words := [w], pinSlot := some w.slot, pinGen := gen, pinAcc := some acc } ∧ camWanted s w = true ∧
    (s.bank b).words.length < 32768 ∧ camUse s w.pt < camQuota s w.pt ∧ mayPlace s w.pt b = true ∧ (s.slot w.slot).gen = gen ∧
    s.node acc = some n ∧ n.cmd = .prefixRef h 0 ∧ n.outcome = none :=
  ⟨((withBlock { cpns := [10, 11] } (issued (.prefixRef home1 0))).setBank 7 fun b => { b with running := some { pt := 0, words := [word], pinSlot := some home1, pinAcc := some 1 } }),
    7, 1, home1, 0, word, 0, (live (.prefixRef home1 0)), by decide +kernel⟩

theorem witness_ReferencesSaltsAndBanks_13 : ∃ (s : State) (b : Nat) (c : Word),
    s.boot.fatal = false ∧ b < s.chn.banks.length ∧ (s.bank b).cfgNext = some c ∧ (s.bank b).running = none :=
  ⟨(base.setBank 7 fun b => { b with cfgNext := some 0x104 }), 7, 0x104, by decide +kernel⟩

theorem witness_ReferencesSaltsAndBanks_14 : ∃ (s : State) (b : Nat),
    (((s.bank b).cfgNext = none ∨ (s.bank b).running.isSome = true)) :=
  ⟨(base.setBank 7 fun b => { b with cfgNext := some 0x104, running := some { pt := 0, words := [] } }), 7, by decide +kernel⟩

end PartE

namespace PartF

def att (dlp : Nat) : AttendCmd :=
  { seq := 3, layer := 0, qrows := 1, gqa := 1, maskKind := 0, outFp32 := true, softcapEn := false, dlp := dlp, qFmt := 1,
    deadlineUs := 10, kvhFirst := 0, kvhCount := 1, scale := 0x3F800000, softcap := 0, qpos0 := 32, qRef := 0, outRef := 0x1000, mask := 0 }
def aop : AttendOp := { acc := 1, seq := 3, layer := 0, home := 0, flushed := 16, staged := [], bitmap := [], todo := [0] }
/-- Layer 0 of sequence 3 holds one page, CPN 10, as given; an ATTEND of it has been issued. -/
def attending (o : AttendOp) (l : Loc) (dlp : Nat := 0) : State :=
  let s := opened (issued (.attend (att dlp)))
  let s := s.setRow 3 0 fun _ => { tokens := 16, ptes := [{ cpn := 10, fill := 16 }] }
  let s := s.setCtx 3 fun c => { c with readers := 1 }
  { s with seq := { s.seq with locs := [(10, l)] }, att := { s.att with ops := [(1, o)] } }
def res : Loc := { state := .resident, tier := .t0, refcnt := 1, addr := 5 }
/-- The group 7 of two devices, 5 and 6, in partition 0. -/
def grp : Sys2Proof.Machine.Group := { id := 7, span := false, ndev := 2, outFp32 := true, hdimCode := 0, members := [40, 48] }
def grouped (s : State) : State :=
  { s with dep := { s.dep with cfg := { s.dep.cfg with attn := lset s.dep.cfg.attn 0 { landSize := 0x10000, groups := [grp] } } } }
def coll (isC : Bool) (len : Nat) : CollCmd :=
  { group := 7, collector := if isC then 5 else 6, isCollector := isC, ndev := 2, deadlineUs := 0, opId := 9, len := len, srcRef := 0, dstRef := 0x1000 }
def colOp : CollectorOp := { acc := 1, pt := 0, group := 7, opId := 9, got := [], deadlineAt := some 2000 }
def withCol (s : State) (o : CollectorOp) : State := { s with att := { s.att with collectors := [o] } }
def contrib (r : Nat) : ContribOp := { acc := 1, pt := 0, group := 7, opId := 9, collector := 6, member := 0, sentAt := 990, retries := r, msg := zeros 40 }
def withContrib (s : State) (o : ContribOp) : State := { s with att := { s.att with contribs := [o] } }
def msg (member srcDev ans : Nat) : CollMsg :=
  { type := 1, member := member, group := 7, opId := 9, srcDev := srcDev, srcPt := 0, epoch := 0, len := 4 * hdimOf 0, nrec := 1, ndev := 2, answer := ans, data := zeros (4 * hdimOf 0 + 16) }
def muteProf : Profile := { base.prof with mute := true }
/-- The profile keeps mute copies. -/
def withMute (s : State) : State := { s with dep := { s.dep with cfg := { s.dep.cfg with profiles := [(1, muteProf)] } } }
def begun : AttendOp := { aop with begun := true, query := zeros 128 }
def errOf {α β : Type} (d : α) (r : Except α β) : α := match r with | .error c => c | .ok _ => d
def badWa (s : State) : State := { s with mems := { s.mems with badUnits := [3145728] } }
def noTiles (s : State) : State := { s with dep := { s.dep with cfg := { s.dep.cfg with pmap := { s.dep.cfg.pmap with pts := lmod s.dep.cfg.pmap.pts 0 (fun e => { e with tiles := 0 }) } } } }
def spanGrp : Sys2Proof.Machine.Group := { grp with span := true }
def spans (s : State) : State :=
  { s with dep := { s.dep with cfg := { s.dep.cfg with attn := lset s.dep.cfg.attn 0 { landSize := 0x10000, groups := [spanGrp] } } } }
def errOf2 (o : Option Comp) : Comp := o.getD {}
/-- The statistics lie 4 KiB behind the outputs. -/
def nearStat (s : State) : State :=
  { s with dep := { s.dep with cfg := { s.dep.cfg with attn := lset s.dep.cfg.attn 0 { landSize := 0x10000, groups := [grp], statOff := 0x1000 } } } }

theorem witness_AttendReadsItsUnits_0 : ∃ (s : State) (acc : Nat) (n : Node) (a : AttendCmd) (o : AttendOp) (p : Profile) (bs : List Byte),
    liveNode s acc = some n ∧ n.acc = acc ∧ n.cmd = .attend a ∧ s.attend acc = some o ∧ o.begun = false ∧ beginCheck s n = none ∧
    s.seq.cached.contains a.seq = true ∧ nodeTiles s n ≠ [] ∧ seqProfile s n.hdr.epoch a.seq = some p ∧
    readRef s n a.qRef (attQBytes p a) = .ok bs ∧ inClass s 0 ((ctxTable s).1 + 256 * a.seq) 256 = true :=
  ⟨(attending aop res), 1, (live (.attend (att 0))), (att 0), aop, base.prof, (zeros (attQBytes (base.prof) (att 0))), by decide +kernel⟩

theorem witness_AttendReadsItsUnits_1 : ∃ (s : State) (acc : Nat) (n : Node) (a : AttendCmd),
    liveNode s acc = some n ∧ n.acc = acc ∧ n.cmd = .attend a ∧ s.attend acc = none ∧ seqOpen s a.seq = false :=
  ⟨(issued (.attend (att 0))), 1, (live (.attend (att 0))), (att 0), by decide +kernel⟩

theorem witness_AttendReadsItsUnits_2 : ∃ (s : State) (acc : Nat) (n : Node) (a : AttendCmd) (o : AttendOp) (c : Comp),
    liveNode s acc = some n ∧ n.acc = acc ∧ s.node acc = some n ∧ n.cmd = .attend a ∧ s.attend acc = some o ∧ o.acc = acc ∧ o.begun = false ∧
    ((beginCheck s n = some c ∨ (beginCheck s n = none ∧ s.seq.cached.contains a.seq = true ∧ nodeTiles s n = [] ∧ c = failWith .nospace))) :=
  ⟨(noTiles (attending aop res)), 1, (live (.attend (att 0))), (att 0), aop, (failWith .nospace), by decide +kernel⟩

def s_AttendReadsItsUnits_3 : State := badWa (let u := attending aop res; { u with dep := { u.dep with nodes := [(1, live (.attend ({ att 0 with qRef := 0x1000000000000000 })))] } })
def n_AttendReadsItsUnits_3 : Node := live (.attend { att 0 with qRef := 0x1000000000000000 })
def a_AttendReadsItsUnits_3 : AttendCmd := { att 0 with qRef := 0x1000000000000000 }
theorem witness_AttendReadsItsUnits_3 : ∃ (s : State) (u : State) (acc : Nat) (n : Node) (a : AttendCmd) (o : AttendOp) (p : Profile) (c : Comp),
    liveNode s acc = some n ∧ n.acc = acc ∧ s.node acc = some n ∧ n.cmd = .attend a ∧ s.attend acc = some o ∧ o.acc = acc ∧ o.begun = false ∧
    beginCheck s n = none ∧ s.seq.cached.contains a.seq = true ∧ nodeTiles s n ≠ [] ∧ seqProfile s n.hdr.epoch a.seq = some p ∧
    readRef s n a.qRef (attQBytes p a) = .error (u, c) :=
  ⟨s_AttendReadsItsUnits_3,
    ((errOf ((s_AttendReadsItsUnits_3), {}) (readRef (s_AttendReadsItsUnits_3) (n_AttendReadsItsUnits_3) (a_AttendReadsItsUnits_3).qRef (attQBytes (base.prof) (a_AttendReadsItsUnits_3)))).1),
    1, n_AttendReadsItsUnits_3, a_AttendReadsItsUnits_3, aop, base.prof, (failWith .poisoned), by decide +kernel⟩

theorem witness_AttendReadsItsUnits_4 : ∃ (s : State) (acc : Nat) (n : Node) (a : AttendCmd) (o : AttendOp),
    liveNode s acc = some n ∧ n.acc = acc ∧ n.cmd = .attend a ∧ s.attend acc = some o ∧ o.begun = true :=
  ⟨(attending begun res), 1, (live (.attend (att 0))), (att 0), begun, by decide +kernel⟩

def o_AttendReadsItsUnits_5 : AttendOp := { begun with todo := [0, 1], staged := [{ pos := 16, key := zeros 128, val := zeros 128 }] }
theorem witness_AttendReadsItsUnits_5 : ∃ (s : State) (acc : Nat) (unit : Nat) (n : Node) (a : AttendCmd) (o : AttendOp) (p : Profile),
    s.boot.fatal = false ∧ o.acc = acc ∧ attendParts s acc = some (n, a, o, p) ∧ deadlineDue s o = false ∧ o.begun = true ∧ o.poisoned = false ∧
    o.timedOut = false ∧ unit ∈ o.todo ∧ unit = scopePages o p.tpp :=
  ⟨(attending (o_AttendReadsItsUnits_5) res), 1, 1, (live (.attend (att 0))), (att 0), o_AttendReadsItsUnits_5, base.prof, by decide +kernel⟩

theorem witness_AttendReadsItsUnits_6 : ∃ (s : State) (acc : Nat) (unit : Nat) (cpn : Nat) (err : UnitErr) (n : Node) (a : AttendCmd) (o : AttendOp) (p : Profile),
    s.boot.fatal = false ∧ o.acc = acc ∧ attendParts s acc = some (n, a, o, p) ∧ deadlineDue s o = false ∧ o.begun = true ∧ o.poisoned = false ∧
    o.timedOut = false ∧ unit ∈ o.todo ∧ unit ≠ scopePages o p.tpp ∧ unitCpn s o unit = some cpn ∧ unit ∉ o.muted ∧
    pageLive (s.loc cpn) = true ∧ (((s.loc cpn).tier = .t0 ∨ ((s.loc cpn).tier = .t1 ∧
    readOutcome s (hbmAddr ((s.loc cpn).addr / 2 ^ 20) ((s.loc cpn).addr % 2 ^ 20 * frameBytes / 32 * 32)) err = .clean))) ∧
    storeBad s (pageStore s cpn) 0 frameBytes = false :=
  ⟨(attending begun res), 1, 0, 10, {}, (live (.attend (att 0))), (att 0), begun, base.prof, by decide +kernel⟩

def o_AttendReadsItsUnits_7 : AttendOp := { begun with muted := [0] }
theorem witness_AttendReadsItsUnits_7 : ∃ (s : State) (acc : Nat) (unit : Nat) (cpn : Nat) (f : Nat) (err : UnitErr) (n : Node) (a : AttendCmd) (o : AttendOp) (p : Profile),
    s.boot.fatal = false ∧ o.acc = acc ∧ attendParts s acc = some (n, a, o, p) ∧ deadlineDue s o = false ∧ o.begun = true ∧ o.poisoned = false ∧
    o.timedOut = false ∧ unit ∈ o.todo ∧ unit ≠ scopePages o p.tpp ∧ unitCpn s o unit = some cpn ∧ unit ∈ o.muted ∧
    pageLive (s.loc cpn) = true ∧ (s.loc cpn).mute = some f ∧
    readOutcome s (hbmAddr (f / 2 ^ 20) (f % 2 ^ 20 * frameBytes / 32 * 32)) err = .clean ∧ storeBad s (muteStore s cpn) 0 frameBytes = false :=
  ⟨(withMute (attending (o_AttendReadsItsUnits_7) { res with mute := some 16384 })), 1, 0, 10, 16384, {}, (live (.attend (att 0))), (att 0),
    o_AttendReadsItsUnits_7, muteProf, by decide +kernel⟩

def o_AttendReadsItsUnits_9 : AttendOp := { begun with muted := [0] }
theorem witness_AttendReadsItsUnits_8 :
    (∃ (s : State) (acc : Nat) (unit : Nat) (cpn : Nat) (n : Node) (a : AttendCmd) (o : AttendOp) (p : Profile),
    s.boot.fatal = false ∧ o.acc = acc ∧ attendParts s acc = some (n, a, o, p) ∧ deadlineDue s o = false ∧ o.begun = true ∧ o.poisoned = false ∧
    o.timedOut = false ∧ unit ∈ o.todo ∧ unit ≠ scopePages o p.tpp ∧ unitCpn s o unit = some cpn ∧ (s.loc cpn).state = .poisoned) ∧
    (∃ (s : State) (acc : Nat) (unit : Nat) (cpn : Nat) (n : Node) (a : AttendCmd) (o : AttendOp) (p : Profile),
    s.boot.fatal = false ∧ o.acc = acc ∧ attendParts s acc = some (n, a, o, p) ∧ deadlineDue s o = false ∧ o.begun = true ∧ o.poisoned = false ∧
    o.timedOut = false ∧ unit ∈ o.todo ∧ unit ≠ scopePages o p.tpp ∧ unitCpn s o unit = some cpn ∧ pageLive (s.loc cpn) = true ∧
    (((unit ∉ o.muted ∧ upper (s.loc cpn) = false) ∨ (unit ∈ o.muted ∧ (s.loc cpn).mute = none)))) :=
  ⟨⟨(attending begun { res with state := .poisoned }), 1, 0, 10, (live (.attend (att 0))), (att 0), begun, base.prof, by decide +kernel⟩,
    ⟨(attending (o_AttendReadsItsUnits_9) { res with state := .resident, tier := .t1 }), 1, 0, 10, (live (.attend (att 0))), (att 0),
    o_AttendReadsItsUnits_9, base.prof, by decide +kernel⟩⟩

theorem witness_AttendReadsItsUnits_10 : ∃ (s : State) (acc : Nat) (unit : Nat) (n : Node) (a : AttendCmd) (o : AttendOp) (p : Profile),
    attendParts s acc = some (n, a, o, p) ∧ deadlineDue s o = false ∧
    ((o.begun = false ∨ o.poisoned = true ∨ o.timedOut = true ∨ unit ∉ o.todo)) :=
  ⟨(attending aop res), 1, 0, (live (.attend (att 0))), (att 0), aop, base.prof, by decide +kernel⟩

def o_AttendEnds_0 : AttendOp := { begun with deadlineAt := some 2000 }
def o_AttendEnds_1 : AttendOp := { begun with deadlineAt := some 2000 }
theorem witness_AttendEnds_0 :
    (∃ (s : State) (acc : Nat) (due : Nat) (n : Node) (a : AttendCmd) (o : AttendOp) (p : Profile) (late : List (Nat × Bool)),
    s.boot.fatal = false ∧ n.acc = acc ∧ o.acc = acc ∧ attendParts s acc = some (n, a, o, p) ∧ o.deadlineAt = some due ∧
    o.deadlineTaken = false ∧
    late = (tget s.rec_.late acc).getD ((lateSet o p.tpp).map fun k => (k, decide (attPolicy s n a = 1) && ((unitCpn s o k).map (hasMute s)).getD false)) ∧
    ((late.map (·.1)).filterMap (unitCpn s o)).any (pagePoisoned s) = false) ∧
    (∃ (s : State) (acc : Nat) (due : Nat) (n : Node) (a : AttendCmd) (o : AttendOp) (p : Profile) (late : List (Nat × Bool)),
    s.boot.fatal = false ∧ n.acc = acc ∧ o.acc = acc ∧ attendParts s acc = some (n, a, o, p) ∧ o.deadlineAt = some due ∧
    o.deadlineTaken = false ∧
    late = (tget s.rec_.late acc).getD ((lateSet o p.tpp).map fun k => (k, decide (attPolicy s n a = 1) && ((unitCpn s o k).map (hasMute s)).getD false)) ∧
    ((late.map (·.1)).filterMap (unitCpn s o)).any (pagePoisoned s) = true) :=
  ⟨⟨(attending (o_AttendEnds_0) res 0), 1, 2000, (live (.attend (att 0))), (att 0), o_AttendEnds_0, base.prof, [(0, false)], by decide +kernel⟩,
    ⟨(attending (o_AttendEnds_1) { res with state := .poisoned } 0), 1, 2000, (live (.attend (att 0))), (att 0), o_AttendEnds_1, base.prof,
    [(0, false)], by decide +kernel⟩⟩

def o_AttendEnds_3 : AttendOp := { begun with timedOut := true, deadlineTaken := true }
theorem witness_AttendEnds_2 :
    (∃ (s : State) (acc : Nat) (n : Node) (a : AttendCmd) (o : AttendOp) (p : Profile),
    attendParts s acc = some (n, a, o, p) ∧ ((o.deadlineAt = none ∨ o.deadlineTaken = true))) ∧
    (∃ (s : State) (acc : Nat) (n : Node) (a : AttendCmd) (o : AttendOp) (p : Profile),
    s.boot.fatal = false ∧ o.acc = acc ∧ n.outcome = none ∧ attendParts s acc = some (n, a, o, p) ∧ deadlineDue s o = false ∧ o.begun = true ∧
    ((o.poisoned = true ∨ o.timedOut = true))) :=
  ⟨⟨(attending begun res), 1, (live (.attend (att 0))), (att 0), begun, base.prof, by decide +kernel⟩,
    ⟨(attending (o_AttendEnds_3) res), 1, (live (.attend (att 0))), (att 0), o_AttendEnds_3, base.prof, by decide +kernel⟩⟩

def o_AttendEnds_4 : AttendOp := { begun with deadlineTaken := true, todo := [], left := [0] }
theorem witness_AttendEnds_4 : ∃ (s : State) (acc : Nat) (n : Node) (a : AttendCmd) (o : AttendOp) (p : Profile) (c : Comp),
    s.boot.fatal = false ∧ o.acc = acc ∧ n.outcome = none ∧ attendParts s acc = some (n, a, o, p) ∧ deadlineDue s o = false ∧ o.begun = true ∧
    o.poisoned = false ∧ o.timedOut = false ∧ o.todo = [] ∧
    c = (if o.left ≠ [] then { status := .partialOk, detail0 := o.flushed + o.staged.length - leftTokens o p.tpp, detail1 := o.flushed + o.staged.length, result := attRecords p a } else if (o.res.filter (·.muted)).length ≠ 0 then { status := .muted, detail0 := (o.res.filter (·.muted)).length, detail1 := o.flushed + o.staged.length, result := attRecords p a } else if (attendRecs s p a o).all (fun r => bit r.flags 0) then { status := .empty, detail1 := o.flushed + o.staged.length, result := attRecords p a } else { status := .ok, detail1 := o.flushed + o.staged.length, result := attRecords p a }) :=
  ⟨(attending (o_AttendEnds_4) res 2), 1, (live (.attend (att 2))), (att 2), o_AttendEnds_4, base.prof,
    { status := .partialOk, detail0 := 0, detail1 := 16, result := attRecords (base.prof) (att 2) }, by decide +kernel⟩

theorem witness_AttendEnds_5 : ∃ (s : State) (acc : Nat) (n : Node) (a : AttendCmd) (o : AttendOp) (p : Profile),
    attendParts s acc = some (n, a, o, p) ∧ deadlineDue s o = false ∧ ((o.begun = false ∨ (o.poisoned = false ∧ o.timedOut = false ∧
    o.todo ≠ []))) :=
  ⟨(attending begun res), 1, (live (.attend (att 0))), (att 0), begun, base.prof, by decide +kernel⟩

def s_CollectivesRun_0 : State := grouped (issued (.headGather (coll false (4 * hdimOf 0))))
def n_CollectivesRun_0 : Node := live (.headGather (coll false (4 * hdimOf 0)))
def c_CollectivesRun_0 : CollCmd := coll false (4 * hdimOf 0)
theorem witness_CollectivesRun_0 : ∃ (s : State) (acc : Nat) (n : Node) (c : CollCmd) (span : Bool) (g : Group) (d : List Byte),
    liveNode s acc = some n ∧ n.acc = acc ∧ n.cmd = (if span then .spanMerge c else .headGather c) ∧ beginCheck s n = none ∧
    groupAt s n.hdr.epoch (ringPt n.ring) c.group span = some g ∧ c.isCollector = false ∧ (s.att.contribs.any fun x => x.acc == acc) = false ∧
    readContribution s n c g = .ok d :=
  ⟨s_CollectivesRun_0, 1, n_CollectivesRun_0, c_CollectivesRun_0, false, grp,
    ((match readContribution (s_CollectivesRun_0) (n_CollectivesRun_0) (c_CollectivesRun_0) (grp) with | .ok d => d | _ => [])), by decide +kernel⟩

def s_CollectivesRun_1 : State := withCol (grouped (issued (.headGather (coll true (4 * hdimOf 0))))) ({ colOp with got := [{ member := 1, srcDev := 6, srcPt := 0, data := zeros (4 * hdimOf 0 + 16) }] })
def n_CollectivesRun_1 : Node := live (.headGather (coll true (4 * hdimOf 0)))
def s_CollectivesRun_2 : State := withCol (grouped (issued (.headGather (coll true (4 * hdimOf 0))))) colOp
def n_CollectivesRun_2 : Node := live (.headGather (coll true (4 * hdimOf 0)))
theorem witness_CollectivesRun_1 :
    (∃ (s : State) (acc : Nat) (n : Node) (c : CollCmd) (span : Bool) (g : Group) (o : CollectorOp) (d : List Byte),
    liveNode s acc = some n ∧ n.acc = acc ∧ n.cmd = (if span then .spanMerge c else .headGather c) ∧ beginCheck s n = none ∧
    groupAt s n.hdr.epoch (ringPt n.ring) c.group span = some g ∧ c.isCollector = true ∧
    (s.att.collectors.find? fun x => x.acc == acc) = some o ∧ collectorLate s o = false ∧ o.pt = ringPt n.ring ∧
    (o.got.any fun x => x.member == (memberIndex s g (ringPt n.ring)).getD 0) = false ∧ g.ndev ≤ o.got.length + 1 ∧
    readContribution s n c g = .ok d) ∧
    (∃ (s : State) (acc : Nat) (n : Node) (c : CollCmd) (span : Bool) (g : Group) (o : CollectorOp) (d : List Byte),
    liveNode s acc = some n ∧ n.acc = acc ∧ n.cmd = (if span then .spanMerge c else .headGather c) ∧ beginCheck s n = none ∧
    groupAt s n.hdr.epoch (ringPt n.ring) c.group span = some g ∧ c.isCollector = true ∧
    (s.att.collectors.find? fun x => x.acc == acc) = some o ∧ collectorLate s o = false ∧ o.pt = ringPt n.ring ∧
    (o.got.any fun x => x.member == (memberIndex s g (ringPt n.ring)).getD 0) = false ∧ o.got.length + 1 < g.ndev ∧
    readContribution s n c g = .ok d) :=
  ⟨⟨s_CollectivesRun_1, 1, n_CollectivesRun_1, (coll true (4 * hdimOf 0)), false, grp,
    ({ colOp with got := [{ member := 1, srcDev := 6, srcPt := 0, data := zeros (4 * hdimOf 0 + 16) }] }),
    ((match readContribution (s_CollectivesRun_1) (n_CollectivesRun_1) (coll true (4 * hdimOf 0)) (grp) with | .ok d => d | _ => [])), by decide +kernel⟩,
    ⟨s_CollectivesRun_2, 1, n_CollectivesRun_2, (coll true (4 * hdimOf 0)), false, grp, colOp,
    ((match readContribution (s_CollectivesRun_2) (n_CollectivesRun_2) (coll true (4 * hdimOf 0)) (grp) with | .ok d => d | _ => [])), by decide +kernel⟩⟩

def o_CollectivesRun_3 : CollectorOp := { colOp with got := [{ member := 0, srcDev := 5, srcPt := 0, data := [] }] }
def o_CollectivesRun_4 : CollectorOp := { colOp with deadlineAt := some 999 }
theorem witness_CollectivesRun_3 :
    (∃ (s : State) (acc : Nat) (n : Node) (c : CollCmd) (span : Bool) (g : Group) (o : CollectorOp),
    liveNode s acc = some n ∧ n.acc = acc ∧ n.cmd = (if span then .spanMerge c else .headGather c) ∧ beginCheck s n = none ∧
    groupAt s n.hdr.epoch (ringPt n.ring) c.group span = some g ∧ c.isCollector = true ∧ o.pt = ringPt n.ring ∧
    (s.att.collectors.find? fun x => x.acc == acc) = some o ∧ collectorLate s o = false ∧ o.got.length < g.ndev ∧
    (o.got.any fun x => x.member == (memberIndex s g (ringPt n.ring)).getD 0) = true) ∧
    (∃ (s : State) (acc : Nat) (n : Node) (c : CollCmd) (span : Bool) (g : Group) (o : CollectorOp),
    liveNode s acc = some n ∧ n.acc = acc ∧ n.cmd = (if span then .spanMerge c else .headGather c) ∧ beginCheck s n = none ∧
    groupAt s n.hdr.epoch (ringPt n.ring) c.group span = some g ∧ c.isCollector = true ∧
    (s.att.collectors.find? fun x => x.acc == acc) = some o ∧ collectorLate s o = true) :=
  ⟨⟨(withCol (grouped (issued (.headGather (coll true (4 * hdimOf 0))))) (o_CollectivesRun_3)), 1,
    (live (.headGather (coll true (4 * hdimOf 0)))), (coll true (4 * hdimOf 0)), false, grp, o_CollectivesRun_3, by decide +kernel⟩,
    ⟨(withCol (grouped (issued (.headGather (coll true (4 * hdimOf 0))))) (o_CollectivesRun_4)), 1,
    (live (.headGather (coll true (4 * hdimOf 0)))), (coll true (4 * hdimOf 0)), false, grp, o_CollectivesRun_4, by decide +kernel⟩⟩

def s_CollectivesRun_5 : State := grouped (issued (.headGather { coll true (4 * hdimOf 0) with group := 8 }))
def n_CollectivesRun_5 : Node := live (.headGather { coll true (4 * hdimOf 0) with group := 8 })
theorem witness_CollectivesRun_5 : ∃ (s : State) (u : State) (acc : Nat) (n : Node) (c : CollCmd) (span : Bool) (g : Group) (e : Comp),
    liveNode s acc = some n ∧ n.acc = acc ∧ n.cmd = (if span then .spanMerge c else .headGather c) ∧
    (((beginCheck s n = some e) ∨ (beginCheck s n = none ∧ groupAt s n.hdr.epoch (ringPt n.ring) c.group span = some g ∧ c.isCollector = false ∧
    (s.att.contribs.any fun x => x.acc == acc) = false ∧ readContribution s n c g = .error (u, e)))) :=
  ⟨s_CollectivesRun_5, ((s_CollectivesRun_5)), 1, n_CollectivesRun_5, { coll true (4 * hdimOf 0) with group := 8 }, false, grp,
    (errOf2 (beginCheck (s_CollectivesRun_5) (n_CollectivesRun_5))), by decide +kernel⟩

theorem witness_CollectivesRun_6 : ∃ (s : State) (m : CollMsg) (x : ContribOp) (n : Node),
    s.boot.fatal = false ∧
    (s.att.contribs.find? fun x => x.pt == m.srcPt && x.group == m.group && x.opId == m.opId && x.member == m.member) = some x ∧
    s.node x.acc = some n ∧ n.outcome = none :=
  ⟨(withContrib (grouped (issued (.headGather (coll false (4 * hdimOf 0))))) (contrib 0)), (msg 0 6 5), (contrib 0),
    (live (.headGather (coll false (4 * hdimOf 0)))), by decide +kernel⟩

theorem witness_CollectivesRun_7 : ∃ (s : State) (m : CollMsg),
    s.boot.fatal = false ∧
    (s.att.contribs.find? fun x => x.pt == m.srcPt && x.group == m.group && x.opId == m.opId && x.member == m.member) = none :=
  ⟨base, (msg 0 6 5), by decide +kernel⟩

theorem witness_CollectivesRun_8 : ∃ (s : State) (acc : Nat) (due : Nat) (o : CollectorOp) (n : Node),
    s.boot.fatal = false ∧ o.acc = acc ∧ (s.att.collectors.find? fun o => o.acc == acc) = some o ∧ o.deadlineAt = some due ∧
    s.node acc = some n ∧ n.outcome = none :=
  ⟨(withCol (grouped (issued (.headGather (coll true (4 * hdimOf 0))))) (colOp)), 1, 2000, colOp,
    (live (.headGather (coll true (4 * hdimOf 0)))), by decide +kernel⟩

def c_CollectivesRun_9 : CollCmd := coll false (4 * hdimOf 0)
def c_CollectivesRun_10 : CollCmd := coll false (4 * hdimOf 0)
theorem witness_CollectivesRun_9 :
    (∃ (s : State) (acc : Nat) (x : ContribOp) (n : Node) (c : CollCmd) (span : Bool),
    s.boot.fatal = false ∧ (s.att.contribs.find? fun x => x.acc == acc) = some x ∧ s.node acc = some n ∧ collOf n.cmd = some (c, span) ∧
    x.retries < retryMax s x.pt) ∧
    (∃ (s : State) (acc : Nat) (x : ContribOp) (n : Node) (c : CollCmd) (span : Bool),
    s.boot.fatal = false ∧ x.acc = acc ∧ (s.att.contribs.find? fun x => x.acc == acc) = some x ∧ s.node acc = some n ∧ n.outcome = none ∧
    collOf n.cmd = some (c, span) ∧ retryMax s x.pt ≤ x.retries) :=
  ⟨⟨(withContrib (grouped (issued (.headGather (coll false (4 * hdimOf 0))))) (contrib 0)), 1, (contrib 0),
    (live (.headGather (c_CollectivesRun_9))), c_CollectivesRun_9, false, by decide +kernel⟩,
    ⟨(withContrib (grouped (issued (.headGather (coll false (4 * hdimOf 0))))) (contrib 7)), 1, (contrib 7),
    (live (.headGather (c_CollectivesRun_10))), c_CollectivesRun_10, false, by decide +kernel⟩⟩

theorem witness_CollectivesRun_11 :
    (∃ (s : State) (acc : Nat),
    ((s.att.collectors.find? fun o => o.acc == acc).all fun o => o.deadlineAt.isNone) = true) ∧
    (∃ (s : State) (acc : Nat),
    (s.att.contribs.find? fun x => x.acc == acc) = none) :=
  ⟨⟨base, 1, by decide +kernel⟩,
    ⟨base, 1, by decide +kernel⟩⟩

theorem witness_ContributionsArrive_0 : ∃ (s : State) (m : CollMsg) (o : CollectorOp) (n : Node) (c : CollCmd) (span : Bool) (g : Group),
    s.boot.fatal = false ∧ s.fab.idValid = true ∧ collRefusal s m = none ∧ findCollector s m.dstPt m.group m.opId = some o ∧
    collectorLate s o = false ∧ (s.att.collectors.find? fun x => x.acc == o.acc) = some o ∧ (o.got.any fun x => x.member == m.member) = false ∧
    s.node o.acc = some n ∧ collOf n.cmd = some (c, span) ∧ c.len = m.len ∧ groupAt s n.hdr.epoch o.pt c.group span = some g ∧
    o.got.length + 1 < g.ndev :=
  ⟨(withCol (grouped (issued (.headGather (coll true (4 * hdimOf 0))))) (colOp)), (msg 1 6 0), colOp,
    (live (.headGather (coll true (4 * hdimOf 0)))), (coll true (4 * hdimOf 0)), false, grp, by decide +kernel⟩

theorem witness_ContributionsArrive_1 : ∃ (s : State) (off : Nat) (m : CollMsg),
    s.boot.fatal = false ∧ s.fab.idValid = true ∧ collRefusal s m = none ∧ findCollector s m.dstPt m.group m.opId = none ∧
    s.att.landed.all (fun l => decide (s.time ≤ l.until_)) = true ∧ s.att.ended.contains (m.dstPt, m.group, m.opId) = false ∧
    (s.att.landed.any fun l => l.pt == m.dstPt && l.group == m.group && l.opId == m.opId && l.member == m.member) = false ∧
    landFit s m.dstPt (appliedAttn s m.dstPt).landSize (landBytes m) = some off :=
  ⟨(grouped base), 0, (msg 1 6 0), by decide +kernel⟩

theorem witness_ContributionsArrive_2 : ∃ (s : State) (m : CollMsg),
    (s.boot.fatal = false ∧ s.att.landed.all (fun l => decide (s.time ≤ l.until_)) = true) ∧
    ((s.fab.idValid = false ∨ (collRefusal s m).isSome = true ∨ (∃ o, findCollector s m.dstPt m.group m.opId = some o ∧
    collectorLate s o = false ∧
    ((o.got.any fun x => x.member == m.member) = true ∨ collLenOk s o.acc m.len = false)) ∨ (findCollector s m.dstPt m.group m.opId = none ∧
    (s.att.ended.contains (m.dstPt, m.group, m.opId) = true ∨ (s.att.landed.any fun l => l.pt == m.dstPt && l.group == m.group && l.opId == m.opId && l.member == m.member) = true ∨ landFit s m.dstPt (appliedAttn s m.dstPt).landSize (landBytes m) = none)))) :=
  ⟨(grouped base), { msg 1 9 0 with member := 1 }, by decide +kernel, (.inr (.inl (by decide +kernel)))⟩

def l_ContributionsArrive_3 : Landed := { pt := 0, group := 7, opId := 9, member := 1, srcDev := 6, srcPt := 0, off := 0, size := 64, until_ := 5000, data := [] }
theorem witness_ContributionsArrive_3 : ∃ (s : State) (pt : Nat) (group : Nat) (opId : Nat) (member : Nat) (l : Landed),
    s.boot.fatal = false ∧ (s.att.landed.find? fun l => l.pt == pt && l.group == group && l.opId == opId && l.member == member) = some l :=
  ⟨({ base with att := { base.att with landed := [(l_ContributionsArrive_3)] } }), 0, 7, 9, 1, l_ContributionsArrive_3, by decide +kernel⟩

def o_ContributionsArrive_4 : CollectorOp := { colOp with got := [{ member := 0, srcDev := 5, srcPt := 0, data := zeros (4 * hdimOf 0 + 16) }] }
theorem witness_ContributionsArrive_4 : ∃ (s : State) (m : CollMsg) (o : CollectorOp) (n : Node) (c : CollCmd) (span : Bool) (g : Group),
    s.boot.fatal = false ∧ s.fab.idValid = true ∧ collRefusal s m = none ∧ findCollector s m.dstPt m.group m.opId = some o ∧
    collectorLate s o = false ∧ (s.att.collectors.find? fun x => x.acc == o.acc) = some o ∧ (o.got.any fun x => x.member == m.member) = false ∧
    s.node o.acc = some n ∧ n.outcome = none ∧ collOf n.cmd = some (c, span) ∧ c.len = m.len ∧
    groupAt s n.hdr.epoch o.pt c.group span = some g ∧ g.ndev ≤ o.got.length + 1 :=
  ⟨(withCol (grouped (issued (.headGather (coll true (4 * hdimOf 0))))) (o_ContributionsArrive_4)), (msg 1 6 0), o_ContributionsArrive_4,
    (live (.headGather (coll true (4 * hdimOf 0)))), (coll true (4 * hdimOf 0)), false, grp, by decide +kernel⟩

theorem witness_ContributionsArrive_5 : ∃ (s : State) (pt : Nat) (group : Nat) (opId : Nat) (member : Nat),
    (s.att.landed.find? fun l => l.pt == pt && l.group == group && l.opId == opId && l.member == member) = none :=
  ⟨base, 0, 7, 9, 1, by decide +kernel⟩

end PartF

namespace PartG

/-- An image of two layers for profile 1 at the start of the working area: one tensor of a row for each token, one kernel KV_WRITE, and matrices
of one row. -/
def image : List Byte :=
  let d := base.prof.hdim
  let mat : List Byte := toLe 4 1 ++ toLe 4 1 ++ toLe 4 d ++ toLe 4 1 ++ toLe 8 512 ++ toLe 8 4096
  toLe 4 0x57524D49 ++ toLe 2 1 ++ toLe 1 1 ++ toLe 1 1 ++ profHead base.prof ++ toLe 1 2 ++ toLe 1 0 ++ toLe 2 1 ++ toLe 2 1 ++ toLe 2 1
    ++ toLe 4 16 ++ toLe 4 65536 ++ toLe 4 4096 ++ toLe 4 0 ++ toLe 8 256 ++ toLe 8 320 ++ toLe 8 384 ++ toLe 8 1024 ++ zeros 176
    ++ (toLe 4 0x101 ++ toLe 4 d ++ toLe 8 0x10000 ++ zeros 16) ++ zeros 32
    ++ (toLe 2 0x0B ++ zeros 15 ++ toLe 1 1 ++ zeros 46)
    ++ mat ++ mat ++ mat
/-- The WARM of sequence 3, a warm target, on tile 0, issued. -/
def wcmd : Cmd := .warm 3 1 1 (2 ^ 60) 0
def wop : WarmOp := { acc := 1, pt := 0, seq := 3, ntok := 1, imageRef := 2 ^ 60, tokensRef := 0, tiles := [0], spadUnits := 1 }
def warming (o : WarmOp) (tile : Nat := 0) : State :=
  let s := (opened (issued wcmd)).setCtx 3 fun c => { c with warmTarget := true }
  let s := s.setTile tile fun t => { t with slots := some 1 :: List.replicate 15 none, reserved := 1 }
  let s := s.setHbm (mwrites s.mems.hbm (12288 * 65536) image)
  { s with warm := { ops := [o] } }
def hdr2 : WImg := parseImg image
def ten (off : Nat) : WTen := { fmt := 1, rmul := 1, radd := 0, cols := base.prof.hdim, off := off, stride := 2 * base.prof.hdim }
def conv : WKern := { kop := 0x0C, sr := false, in0 := 0, in1 := 0, in2 := 0, out := 1, out2 := 0, wmat := 0, bmat := 0, raw := zeros 64 }
def kvw : WKern := { conv with kop := 0x0B, raw := zeros 17 ++ toLe 1 1 ++ zeros 46 }
def gemm : WKern := { conv with kop := 0x01, bmat := 0xFFFF }
def wim (ks : List WKern) : WImage :=
  let m : WMat := { fmt := 1, atUse := false, inArea := false, rows := base.prof.hdim, cols := base.prof.hdim, nblk := 2, idxOff := 512, dataOff := 4096 }
  { hdr := { hdr2 with lastNk := ks.length, nkern := ks.length, nten := 2 }, tens := [ten 0x10000, ten 0x20000], mats := [m, m, m], kerns := ks }
def wctx : WarmCtx := { node := live wcmd, prof := base.prof, seq := 3, ntok := 1, imageRef := 2 ^ 60 }
def stepped (s : State) (o : WarmOp) (tile : Nat) : State :=
  setWarmOp (tileCount (s.setTile tile fun v => { v with slotPtr := 1 }) tile 25) 1 (fun _ => { o with finished := o.finished ++ [tile] })
/-- The WARM stands accepted, to be issued. -/
def toIssue : State :=
  let s := (opened (withNode { live wcmd with issued := false })).setCtx 3 fun c => { c with warmTarget := true }
  s.setHbm (mwrites s.mems.hbm (12288 * 65536) image)
def emb (ks : List WKern) : WarmOp := { wop with image := some (wim ks), embedded := true, loaded := 1, finished := [0] }
def outOf (r : Except Comp KernOut) : KernOut := match r with | .ok r => r | _ => {}
def ws (s : State) (tile : Nat) : State := tileCount s tile 25

theorem witness_NodesAreAcceptedAndIssued_11 : ∃ (s : State) (acc : Nat) (q : Nat) (tiles : Nat) (ntok : Nat) (img : Nat) (toks : Nat) (u : Nat) (ts : List Nat) (n : Node),
    s.node acc = some n ∧ n.acc = acc ∧ n.issued = false ∧ n.outcome = none ∧ s.boot.fatal = false ∧ depsMet s n = true ∧
    (lget s.dep.cbuf (ringPt n.ring) []).length < 256 ∧ ckptRuns s (ringPt n.ring) = false ∧ replaying s (ringPt n.ring) = false ∧
    issueHeld s n = false ∧ n.cmd = .warm q tiles ntok img toks ∧ warmNeeds s n tiles img = some (ts, u) ∧ nodeTiles s n ≠ [] ∧
    warmBefore s n = false ∧ warmRoom s (some (ts, u)) = true :=
  ⟨toIssue, 1, 3, 1, 1, (2 ^ 60), 0, 1, [0], { live wcmd with issued := false }, by decide +kernel⟩

theorem witness_WarmRuns_0 : ∃ (s : State) (acc : Nat) (q : Nat) (tiles : Nat) (ntok : Nat) (img : Nat) (toks : Nat) (rivals : List Nat) (n : Node) (x : WarmCtx) (g : WImage) (o : WarmOp),
    liveNode s acc = some n ∧ n.acc = acc ∧ n.cmd = .warm q tiles ntok img toks ∧ arbitrate s q (acc :: rivals) = s ∧ LockReady s n q ∧
    (s.ctx q).warmTarget = true ∧ targetEmpty s q = true ∧ warmCtx s n q ntok img = some x ∧ warmValidate s x tiles toks = .ok g ∧
    warmOpOf s acc = some o ∧ o.tiles.length = g.hdr.ntiles ∧ o.spadUnits * 65536 = g.hdr.spadBytes :=
  ⟨(warming (wop)), 1, 3, 1, 1, (2 ^ 60), 0, [], (live wcmd), wctx,
    ((match warmValidate (warming (wop)) (wctx) 1 0 with | .ok g => g | .error _ => wim [])), wop, by decide +kernel⟩

theorem witness_WarmRuns_1 : ∃ (s : State) (acc : Nat) (q : Nat) (tiles : Nat) (ntok : Nat) (img : Nat) (toks : Nat) (rivals : List Nat) (n : Node) (c : Comp),
    (liveNode s acc = some n ∧ n.acc = acc ∧ n.cmd = .warm q tiles ntok img toks ∧ arbitrate s q (acc :: rivals) = s ∧ LockReady s n q ∧
    (warmOpOf s acc).all (·.pages.isEmpty) = true) ∧ (((((s.ctx q).warmTarget = false ∨ targetEmpty s q = false) ∧
    c = invalidAt 16) ∨ ((s.ctx q).warmTarget = true ∧ targetEmpty s q = true ∧ ∃ x, warmCtx s n q ntok img = some x ∧
    (warmValidate s x tiles toks = .error c ∨ ∃ g, warmValidate s x tiles toks = .ok g ∧ c = invalidAt 19 ∧
    (warmOpOf s acc).all (fun o => o.tiles.length != g.hdr.ntiles || o.spadUnits * 65536 != g.hdr.spadBytes) = true)))) :=
  ⟨((warming wop).setRow 3 1 fun r => { r with tokens := 1 }), 1, 3, 1, 1, (2 ^ 60), 0, [], (live wcmd), (invalidAt 16), by decide +kernel, (.inl ⟨.inr (by decide +kernel), rfl⟩)⟩

theorem witness_WarmRuns_2 : ∃ (s : State) (acc : Nat) (q : Nat) (tiles : Nat) (ntok : Nat) (img : Nat) (toks : Nat) (n : Node),
    liveNode s acc = some n ∧ n.acc = acc ∧ n.cmd = .warm q tiles ntok img toks ∧ (s.ctx q).lockOwner = some acc :=
  ⟨((warming wop).setCtx 3 fun c => { c with lockOwner := some 1 }), 1, 3, 1, 1, (2 ^ 60), 0, (live wcmd), by decide +kernel⟩

def o_WarmRuns_3 : WarmOp := { wop with image := some (wim [conv, kvw]) }
theorem witness_WarmRuns_3 : ∃ (s : State) (acc : Nat) (l : Nat) (n : Node) (o : WarmOp) (g : WImage) (x : WarmCtx) (w : Tbl (List Byte)),
    liveNode s acc = some n ∧ n.acc = acc ∧ warmOpOf s acc = some o ∧ o.image = some g ∧ warmCtx s n o.seq o.ntok o.imageRef = some x ∧
    l = o.loaded ∧ l < g.hdr.layers ∧ l < o.layer + g.hdr.window ∧ loadLayer s x g l o.win = .ok w :=
  ⟨(warming (o_WarmRuns_3)), 1, 0, (live wcmd), o_WarmRuns_3, (wim [conv, kvw]), wctx, [], by decide +kernel⟩

def o_WarmRuns_4 : WarmOp := { wop with image := some (wim [gemm, kvw]) }
theorem witness_WarmRuns_4 : ∃ (s : State) (acc : Nat) (l : Nat) (n : Node) (o : WarmOp) (g : WImage) (x : WarmCtx) (c : Comp),
    liveNode s acc = some n ∧ n.acc = acc ∧ warmOpOf s acc = some o ∧ o.image = some g ∧ warmCtx s n o.seq o.ntok o.imageRef = some x ∧
    l = o.loaded ∧ l < g.hdr.layers ∧ l < o.layer + g.hdr.window ∧ loadLayer s x g l o.win = .error c :=
  ⟨(warming (o_WarmRuns_4)), 1, 0, (live wcmd), o_WarmRuns_4, (wim [gemm, kvw]), wctx,
    ((match loadLayer (warming (o_WarmRuns_4)) (wctx) (wim [gemm, kvw]) (0) (o_WarmRuns_4).win with | .error c => c | _ => {})), by decide +kernel⟩

theorem witness_WarmRuns_5 : ∃ (s : State) (acc : Nat) (l : Nat) (o : WarmOp),
    warmOpOf s acc = some o ∧ ((l ≠ o.loaded ∨ o.image.all (fun g => decide (g.hdr.layers ≤ l ∨ o.layer + g.hdr.window ≤ l)) = true)) :=
  ⟨(warming (wop)), 1, 1, wop, by decide +kernel⟩

def s_WarmRuns_6 : State := { warming wop with warm := {}, att := { base.att with ops := [(1, { acc := 1, seq := 3, layer := 0, home := 0, flushed := 16, staged := [], bitmap := [], todo := [0], begun := true })] } }
theorem witness_WarmRuns_6 : ∃ (s : State) (w : State) (tile : Nat) (i : Nat) (acc : Nat) (ready : List Nat),
    s.boot.fatal = false ∧
    ready = (List.range 16).filter (fun i => match lget (s.tile tile).slots i none with | some a => slotWorks s tile a | none => false) ∧
    ptrPick 16 (s.tile tile).slotPtr ready = some i ∧ lget (s.tile tile).slots i none = some acc ∧
    w = tileCount (if 2 ≤ ready.length then s.setTile tile fun u => { u with slotPtr := ptrNext 16 i } else s) tile 25 ∧ warmOpOf s acc = none :=
  ⟨s_WarmRuns_6, (ws (s_WarmRuns_6) 0), 0, 0, 1, [0], by decide +kernel⟩

def s_WarmRuns_7 : State := let u := warming ({ emb [conv, kvw] with finished := [] }); { u with dep := { u.dep with cfg := { u.dep.cfg with pmap := { u.dep.cfg.pmap with pts := lmod u.dep.cfg.pmap.pts 0 (fun e => { e with tiles := 2 }) } } } }
theorem witness_WarmRuns_7 : ∃ (s : State) (w : State) (tile : Nat) (i : Nat) (acc : Nat) (ready : List Nat) (n : Node) (o : WarmOp),
    s.boot.fatal = false ∧
    ready = (List.range 16).filter (fun i => match lget (s.tile tile).slots i none with | some a => slotWorks s tile a | none => false) ∧
    ptrPick 16 (s.tile tile).slotPtr ready = some i ∧ lget (s.tile tile).slots i none = some acc ∧
    w = tileCount (if 2 ≤ ready.length then s.setTile tile fun u => { u with slotPtr := ptrNext 16 i } else s) tile 25 ∧
    warmOpOf s acc = some o ∧ liveNode s acc = some n ∧ n.acc = acc ∧ tileLost s o.pt tile = true :=
  ⟨s_WarmRuns_7, (ws (s_WarmRuns_7) 0), 0, 0, 1, [0], (live wcmd), ({ emb [conv, kvw] with finished := [] }), by decide +kernel⟩

def o_WarmRuns_8 : WarmOp := { emb [conv, kvw] with finished := [], imageRef := 3 * 2 ^ 60 + 7 * 2 ^ 44 }
theorem witness_WarmRuns_8 : ∃ (s : State) (w : State) (tile : Nat) (i : Nat) (acc : Nat) (ready : List Nat) (n : Node) (o : WarmOp),
    s.boot.fatal = false ∧
    ready = (List.range 16).filter (fun i => match lget (s.tile tile).slots i none with | some a => slotWorks s tile a | none => false) ∧
    ptrPick 16 (s.tile tile).slotPtr ready = some i ∧ lget (s.tile tile).slots i none = some acc ∧
    w = tileCount (if 2 ≤ ready.length then s.setTile tile fun u => { u with slotPtr := ptrNext 16 i } else s) tile 25 ∧
    warmOpOf s acc = some o ∧ liveNode s acc = some n ∧ n.acc = acc ∧ tileLost s o.pt tile = false ∧ regionLost s o = true :=
  ⟨(warming (o_WarmRuns_8)), (ws (warming (o_WarmRuns_8)) 0), 0, 0, 1, [0], (live wcmd), o_WarmRuns_8, by decide +kernel⟩

def o_WarmRuns_9 : WarmOp := { emb [conv, kvw] with finished := [] }
theorem witness_WarmRuns_9 : ∃ (s : State) (w : State) (tile : Nat) (i : Nat) (acc : Nat) (ready : List Nat) (n : Node) (o : WarmOp),
    s.boot.fatal = false ∧
    ready = (List.range 16).filter (fun i => match lget (s.tile tile).slots i none with | some a => slotWorks s tile a | none => false) ∧
    ptrPick 16 (s.tile tile).slotPtr ready = some i ∧ lget (s.tile tile).slots i none = some acc ∧
    w = tileCount (if 2 ≤ ready.length then s.setTile tile fun u => { u with slotPtr := ptrNext 16 i } else s) tile 25 ∧
    warmOpOf s acc = some o ∧ liveNode s acc = some n ∧ n.acc = acc ∧ tileLost s o.pt tile = false ∧ regionLost s o = false :=
  ⟨(warming (o_WarmRuns_9)), (ws (warming (o_WarmRuns_9)) 0), 0, 0, 1, [0], (live wcmd), o_WarmRuns_9, by decide +kernel⟩

theorem witness_WarmRuns_10 : ∃ (s : State) (tile : Nat),
    ((∀ i, i < 16 → ∀ a, lget (s.tile tile).slots i none = some a → slotWorks s tile a = false)) :=
  ⟨base, 0, (by decide +kernel)⟩

def o_WarmRuns_11 : WarmOp := { emb [conv, kvw] with tiles := [0, 1] }
theorem witness_WarmRuns_11 : ∃ (u : State) (n : Node) (o : WarmOp),
    warmOpOf u n.acc = some o ∧ o.finished.length < o.tiles.length :=
  ⟨(warming (o_WarmRuns_11)), (live wcmd), o_WarmRuns_11, by decide +kernel⟩

def u_WarmRuns_12 : State := let s := warming ({ wop with image := some (wim [conv, kvw]), finished := [0] }); s.setHbm (mwrites s.mems.hbm (12288 * 65536 + 512) (toLe 16 (2 ^ 54 + 2 ^ 118)))
theorem witness_WarmRuns_12 : ∃ (u : State) (n : Node) (o : WarmOp) (g : WImage) (x : WarmCtx) (toks : List Nat) (r : KernOut),
    warmOpOf u n.acc = some o ∧ o.tiles.length ≤ o.finished.length ∧ o.image = some g ∧ warmCtx u n o.seq o.ntok o.imageRef = some x ∧
    o.embedded = false ∧ warmTokens u x o.tokensRef = .ok toks ∧ embedRows u x g toks = .ok r :=
  ⟨u_WarmRuns_12, (live wcmd), ({ wop with image := some (wim [conv, kvw]), finished := [0] }), (wim [conv, kvw]), wctx, [0],
    (outOf (embedRows (u_WarmRuns_12) (wctx) (wim [conv, kvw]) ([0]))), by decide +kernel⟩

theorem witness_WarmRuns_14 : ∃ (u : State) (n : Node) (o : WarmOp) (g : WImage) (x : WarmCtx) (k : WKern) (r : KernOut),
    warmOpOf u n.acc = some o ∧ o.tiles.length ≤ o.finished.length ∧ o.image = some g ∧ warmCtx u n o.seq o.ntok o.imageRef = some x ∧
    o.embedded = true ∧ (g.kernsOf o.layer)[o.kernel]? = some k ∧ k.kop ≠ 0x0B ∧ runKern u x g o.win o.layer o.kernel k = .ok r ∧
    ((o.kernel + 1 < (g.kernsOf o.layer).length ∨ o.layer + 1 < g.hdr.layers)) :=
  ⟨(warming (emb [conv, kvw])), (live wcmd), (emb [conv, kvw]), (wim [conv, kvw]), wctx, conv,
    (outOf (runKern (warming (emb [conv, kvw])) (wctx) (wim [conv, kvw]) (emb [conv, kvw]).win (emb [conv, kvw]).layer (emb [conv, kvw]).kernel (conv))), by decide +kernel⟩

theorem witness_WarmRuns_15 : ∃ (u : State) (t : State) (n : Node) (o : WarmOp) (g : WImage) (x : WarmCtx) (k : WKern) (ps : List Pte),
    warmOpOf u n.acc = some o ∧ o.tiles.length ≤ o.finished.length ∧ o.image = some g ∧ warmCtx u n o.seq o.ntok o.imageRef = some x ∧
    o.embedded = true ∧ (g.kernsOf o.layer)[o.kernel]? = some k ∧ k.kop = 0x0B ∧ kvWrite u x g o.tiles o.layer k = .done t ps ∧
    t.warm.ops = u.warm.ops ∧ o.kernel + 1 < (g.kernsOf o.layer).length :=
  ⟨(warming (emb [kvw, conv])),
    ((match kvWrite (warming (emb [kvw, conv])) (wctx) (wim [kvw, conv]) (emb [kvw, conv]).tiles (emb [kvw, conv]).layer (kvw) with | .done v _ => v | _ => (warming (emb [kvw, conv])))),
    (live wcmd), (emb [kvw, conv]), (wim [kvw, conv]), wctx, kvw,
    ((match kvWrite (warming (emb [kvw, conv])) (wctx) (wim [kvw, conv]) (emb [kvw, conv]).tiles (emb [kvw, conv]).layer (kvw) with | .done _ ps => ps | _ => [])), by decide +kernel⟩

def o_WarmRuns_21 : WarmOp := { emb [kvw, conv] with loaded := 2, layer := 1, kernel := 1, pages := [(0, { cpn := 20, fill := 1 }), (1, { cpn := 21, fill := 1 })] }
theorem witness_WarmRuns_21 : ∃ (u : State) (n : Node) (o : WarmOp) (g : WImage) (x : WarmCtx) (k : WKern) (r : KernOut) (l : _),
    u.node n.acc = some n ∧ n.outcome = none ∧ warmOpOf u n.acc = some o ∧ o.tiles.length ≤ o.finished.length ∧ o.image = some g ∧
    warmCtx u n o.seq o.ntok o.imageRef = some x ∧ o.embedded = true ∧ (g.kernsOf o.layer)[o.kernel]? = some k ∧ k.kop ≠ 0x0B ∧
    runKern u x g o.win o.layer o.kernel k = .ok r ∧ (g.kernsOf o.layer).length ≤ o.kernel + 1 ∧ g.hdr.layers ≤ o.layer + 1 ∧
    (u.ctx o.seq).layers ≤ 255 ∧ l < (u.ctx o.seq).layers :=
  ⟨(warming (o_WarmRuns_21)), (live wcmd), o_WarmRuns_21, (wim [kvw, conv]), wctx, conv,
    (outOf (runKern (warming (o_WarmRuns_21)) (wctx) (wim [kvw, conv]) (o_WarmRuns_21).win (o_WarmRuns_21).layer (o_WarmRuns_21).kernel (conv))),
    0, by decide +kernel⟩

def o_WarmRuns_23 : WarmOp := emb [{ kvw with in0 := 9 }, conv]
def g_WarmRuns_23 : WImage := wim [{ kvw with in0 := 9 }, conv]
theorem witness_WarmRuns_23 : ∃ (u : State) (n : Node) (o : WarmOp) (g : WImage) (x : WarmCtx) (k : WKern) (c : Comp),
    u.node n.acc = some n ∧ n.outcome = none ∧ warmOpOf u n.acc = some o ∧ o.tiles.length ≤ o.finished.length ∧ o.image = some g ∧
    warmCtx u n o.seq o.ntok o.imageRef = some x ∧ o.embedded = true ∧ (g.kernsOf o.layer)[o.kernel]? = some k ∧ (((k.kop ≠ 0x0B ∧
    runKern u x g o.win o.layer o.kernel k = .error c) ∨ (k.kop = 0x0B ∧ kvWrite u x g o.tiles o.layer k = .fail c))) :=
  ⟨(warming (o_WarmRuns_23)), (live wcmd), o_WarmRuns_23, g_WarmRuns_23, wctx, { kvw with in0 := 9 },
    ((match kvWrite (warming (o_WarmRuns_23)) (wctx) (g_WarmRuns_23) (o_WarmRuns_23).tiles (o_WarmRuns_23).layer ({ kvw with in0 := 9 }) with | .fail c => c | _ => {})), by decide +kernel⟩

end PartG

namespace PartH

/-- A policy of partition 0. -/
def pol (p : PolicyPt) (s : State := base) : State :=
  { s with dep := { s.dep with cfg := { s.dep.cfg with policy := { s.dep.cfg.policy with pts := lset s.dep.cfg.policy.pts 0 p } } } }
/-- Pages 10 and 11 as given. -/
def pages (a b : Loc) (s : State := base) : State := { s with seq := { s.seq with locs := [(10, a), (11, b)] } }
def t1At (age : Nat := 0) : Loc := { state := .resident, refcnt := 1, addr := 16384, age := age }
/-- Sequence 3 with page 10 in layer 0 and page 11 in layer 1; page 10 in frame 16384 of stack 0. -/
def paged (a b : Loc) (s : State := base) : State :=
  let s := (opened s).setRow 3 0 fun _ => { tokens := 16, ptes := [{ cpn := 10, fill := 16 }] }
  let s := s.setRow 3 1 fun _ => { tokens := 16, ptes := [{ cpn := 11, fill := 16 }] }
  let s := pages a b s
  { s with blw := { s.blw with t1 := [(16384, .page 10)] } }
/-- One spill extent of partition 0, of 64 MiB, on pool port 0, which is up. -/
def spill (s : State := base) : State :=
  let e : Extent := { tag := [], kind := 1, pt := 0, region := 0, rbase := 0, base := 0, size := 1 }
  s.setCport 0 fun c => { c with up := true, exts := [e] }
def hands (s : State) : State :=
  { s with blw := { s.blw with hands := [(0, { frame := 16384, running := true })], t2Hands := [(0, { running := true })] } }
def move (d : Tier) : Move :=
  { cpn := 10, kind := .page d, cls := 3, slice := 0, srcTier := .t1, srcAddr := 16384, dst := 255, page := zeros 64 }
def moving (m : Move) (s : State := base) : State :=
  let s := paged { t1At with state := .moving, ret := .resident } {} s
  { s with blw := { s.blw with moves := [(10, m)], t0 := [(255, .page 10)] } }
def t2At (age : Nat := 0) : Loc := { state := .resident, tier := .t2, refcnt := 1, age := age }
def t3At : Loc := { state := .resident, tier := .t3, refcnt := 1, addr := 5 }
def queued (rs : List MoveReq) (s : State) : State := { s with blw := { s.blw with queue := rs } }
def leafPol (f : Leaf) : State :=
  { base with blw := { base.blw with leaves := [(3, f)] }, dep := { base.dep with cfg := { base.dep.cfg with policy := { base.dep.cfg.policy with leafIdleMs := 1 } } } }
/-- Drive 0 is ready and holds slot 5 in use. -/
def drive0 (s : State := base) : State := s.setDrive 0 fun d => { d with state := .ready, slot := [(5, 1)] }
def up10 : MoveReq := { cpn := 10, kind := .page .t1, cls := 3 }
def down10 : MoveReq := { cpn := 10, kind := .page .t2, cls := 5 }
def t0Req : MoveReq := { cpn := 10, kind := .page .t0, cls := 3 }
def inT2 (s : State) : State := { s with blw := { s.blw with t2 := [(ptKey 0 0, .page 10)] } }
def allocOf (s : State) (d : Tier) : Nat × State := (tierAlloc s 0 d 0 (.page 10)).getD (0, s)
theorem some_getD {α : Type} {o : Option α} {d : α} (h : o.isSome = true) : o = some (o.getD d) := by
  cases o with
  | none => cases h
  | some x => rfl
/-- The page's header names page 10 and profile 1. -/
def headed (s : State) : State := s.setHbm (mwrites s.mems.hbm (16384 * 65536 + 4) (toLe 5 10 ++ zeros 1 ++ toLe 2 1))
def leafMove (down : Bool) : Move := { cpn := leafKey 3, kind := .leaf down, cls := 8, slice := 0, srcTier := .t1, srcAddr := 16384, dst := 7, block := 16 }
def leafMoving (down : Bool) : State :=
  { base with blw := { base.blw with leaves := [(3, { moving := true, inT2 := !down })], moves := [(leafKey 3, leafMove down)] } }
def toT2 : Move := { move .t2 with dst := 0, block := 15 }
def badFrame (s : State) : State := { s with mems := { s.mems with badUnits := [16384 * 256] } }
/-- The location directory lies at HBM address 0x10000000. -/
def withLoc : State := base.setReg pgSeq 0x208 0 0x10000000
def scrubbing : State := { base with sec := { base.sec with pts := lset base.sec.pts 0 { state := .scrubbing } } }

theorem witness_HintsAndDecay_0 : ∃ (s : State) (acc : Nat) (q : Nat) (first : Nat) (cnt : Nat) (kind : Nat) (tier : Nat) (n : Node) (ps : List Nat) (below : List Nat),
    liveNode s acc = some n ∧ n.acc = acc ∧ n.cmd = .hint q first cnt kind tier ∧ beginCheck s n = none ∧ LeavesHome s ∧ s.blw.queue = [] ∧
    kind < 3 ∧ ps = hintPages s q first (if cnt = 0 then (s.ctx q).layers - first else cnt) ∧ ps.length ≤ 65536 ∧
    below = ps.filter (fun c => pageLive (s.loc c) && !upper (s.loc c) && (s.loc c).state != .moving) ∧
    ((kind = 0 → keptPages s (ringPt n.ring) + (ps.filter fun c => (s.loc c).age != 0xFE).length ≤ (ptPolicy s (ringPt n.ring)).keepQ)) :=
  ⟨(pol { keepQ := 2 } (paged t1At { t2At with age := 7 } (issued (.hint 3 0 0 0 0)))), 1, 3, 0, 0, 0, 0, (live (.hint 3 0 0 0 0)), [10, 11],
    [11], by decide +kernel⟩

theorem witness_HintsAndDecay_1 : ∃ (s : State) (acc : Nat) (q : Nat) (first : Nat) (cnt : Nat) (tier : Nat) (n : Node) (ps : List Nat) (down : List Nat),
    liveNode s acc = some n ∧ n.acc = acc ∧ n.cmd = .hint q first cnt 3 tier ∧ beginCheck s n = none ∧ LeavesHome s ∧ s.blw.queue = [] ∧
    ps = hintPages s q first (if cnt = 0 then (s.ctx q).layers - first else cnt) ∧ ps.length ≤ 65536 ∧
    down = ps.filter (fun c => mayDemote (s.loc c) (hintTier tier)) ∧ tierHas s (ringPt n.ring) (hintTier tier) = true :=
  ⟨(spill (paged t1At { t1At with refcnt := 2, addr := 16400 } (issued (.hint 3 0 0 3 1)))), 1, 3, 0, 0, 1, (live (.hint 3 0 0 3 1)), [10, 11],
    [10], by decide +kernel⟩

theorem witness_HintsAndDecay_2 : ∃ (s : State) (acc : Nat) (q : Nat) (first : Nat) (cnt : Nat) (kind : Nat) (tier : Nat) (c : Nat) (n : Node) (r : MoveReq),
    liveNode s acc = some n ∧ n.acc = acc ∧ n.cmd = .hint q first cnt kind tier ∧ beginCheck s n = none ∧ LeavesHome s ∧ (kind = 0 ∨ kind = 2) ∧
    hintPages s q first (if cnt = 0 then (s.ctx q).layers - first else cnt) = [c] ∧ pageLive (s.loc c) = true ∧ upper (s.loc c) = false ∧
    (s.loc c).state ≠ .moving ∧ s.blw.queue = [r] ∧ r.forPage c = true ∧
    ((kind = 0 → keptPages s (ringPt n.ring) + b2n ((s.loc c).age != 0xFE) ≤ (ptPolicy s (ringPt n.ring)).keepQ)) :=
  ⟨(queued [down10] (paged (t2At 7) {} (issued (.hint 3 0 1 2 0)))), 1, 3, 0, 1, 2, 0, 10, (live (.hint 3 0 1 2 0)), down10, by decide +kernel⟩

theorem witness_HintsAndDecay_3 : ∃ (s : State) (acc : Nat) (q : Nat) (first : Nat) (cnt : Nat) (kind : Nat) (tier : Nat) (n : Node) (ps : List Nat) (c : Comp),
    liveNode s acc = some n ∧ n.acc = acc ∧ n.cmd = .hint q first cnt kind tier ∧
    ps = hintPages s q first (if cnt = 0 then (s.ctx q).layers - first else cnt) ∧ ((beginCheck s n = some c ∨ (beginCheck s n = none ∧
    kind = 3 ∧ tierHas s (ringPt n.ring) (hintTier tier) = false ∧ c = invalidAt 21) ∨ (beginCheck s n = none ∧ kind = 0 ∧
    c = failWith .nospace ∧
    (ptPolicy s (ringPt n.ring)).keepQ < keptPages s (ringPt n.ring) + (ps.filter fun c => (s.loc c).age != 0xFE).length))) :=
  ⟨(pol { keepQ := 1 } (paged t1At { t1At with addr := 16400 } (issued (.hint 3 0 0 0 0)))), 1, 3, 0, 0, 0, 0, (live (.hint 3 0 0 0 0)),
    [10, 11], (failWith .nospace), by decide +kernel⟩

theorem witness_HintsAndDecay_4 : ∃ (s : State) (acc : Nat) (q : Nat) (first : Nat) (cnt : Nat) (tier : Nat) (c : Nat) (n : Node) (f : Leaf),
    liveNode s acc = some n ∧ n.acc = acc ∧ n.cmd = .hint q first cnt 1 tier ∧ beginCheck s n = none ∧ s.blw.leaves = [(c / 65536, f)] ∧
    f.inT2 = true ∧ f.moving = false ∧ s.blw.queue = [] ∧ hintPages s q first (if cnt = 0 then (s.ctx q).layers - first else cnt) = [c] :=
  ⟨(let u := paged (t1At 9) t1At (issued (.hint 3 0 1 1 0)); { u with blw := { u.blw with leaves := [(0, ({ inT2 := true }))] } }), 1, 3, 0, 1,
    0, 10, (live (.hint 3 0 1 1 0)), { inT2 := true }, by decide +kernel⟩

theorem witness_HintsAndDecay_5 : ∃ (s : State),
    s.boot.fatal = false ∧ (s.blw.sketch.map (·.1)).Nodup :=
  ⟨({ base with blw := { base.blw with sketch := [(5, 7), (9, 1)] } }), by decide +kernel⟩

theorem witness_HintsAndDecay_6 :
    (∃ (s : State) (leaf : Nat) (f : Leaf),
    s.boot.fatal = false ∧ (blwPolicy s).leafIdleMs ≠ 0 ∧ tget s.blw.leaves leaf = some f ∧ f.inT2 = false ∧ f.moving = false ∧
    leafCold s leaf = true ∧ (s.blw.queue.any fun r => r.cpn == leaf && isLeaf r.kind) = false) ∧
    (∃ (s : State) (leaf : Nat) (f : Leaf),
    s.boot.fatal = false ∧ tget s.blw.leaves leaf = some f ∧
    (((blwPolicy s).leafIdleMs = 0 ∨ f.inT2 = true ∨ f.moving = true ∨ leafCold s leaf = false ∨ (s.blw.queue.any fun r => r.cpn == leaf && isLeaf r.kind) = true))) :=
  ⟨⟨(leafPol ({ changed := 500 })), 3, { changed := 500 }, by decide +kernel⟩,
    ⟨(leafPol ({ inT2 := true })), 3, { inT2 := true }, by decide +kernel⟩⟩

theorem witness_SweepsVisitPages_0 : ∃ (s : State) (pt : Nat) (m : Nat) (f : Nat) (next : Nat) (cpn : Nat) (h : Hand),
    s.boot.fatal = false ∧
    h = handRun (tgetD s.blw.hands (handKey pt m) {}) (ptFreeIn s pt m) (ptFramesIn s pt m) (ptPolicy s pt).lowPm (ptPolicy s pt).highPm ∧
    h.stopped = false ∧ h.running = true ∧ nextFrame s pt m h.frame = some f ∧ frameHolder s (m * 2 ^ 20 + f) = some (cpn, false) ∧
    (s.loc cpn).tier = .t1 ∧ (s.loc cpn).addr = m * 2 ^ 20 + f ∧ s.blw.queue.length < 65536 ∧ reqOf s cpn = none ∧
    (((s.loc cpn).state = .staging ∨ (s.loc cpn).state = .resident ∨ (s.loc cpn).state = .sharedRo)) ∧ next = (nextFrame s pt m (f + 1)).getD f :=
  ⟨(hands (pol { highPm := 1000 } (spill (paged (t1At 2) {})))), 0, 0, 16384, 16385, 10, { frame := 16384, running := true }, by decide +kernel⟩

theorem witness_SweepsVisitPages_1 : ∃ (s : State) (pt : Nat) (m : Nat) (f : Nat) (cpn : Nat) (h : Hand),
    s.boot.fatal = false ∧
    h = handRun (tgetD s.blw.hands (handKey pt m) {}) (ptFreeIn s pt m) (ptFramesIn s pt m) (ptPolicy s pt).lowPm (ptPolicy s pt).highPm ∧
    h.stopped = false ∧ h.running = true ∧ nextFrame s pt m h.frame = some f ∧
    ((frameHolder s (m * 2 ^ 20 + f) = none ∨ frameHolder s (m * 2 ^ 20 + f) = some (cpn, true) ∨ (frameHolder s (m * 2 ^ 20 + f) = some (cpn, false) ∧
    ((s.loc cpn).tier ≠ .t1 ∨ (s.loc cpn).addr ≠ m * 2 ^ 20 + f ∨ (s.loc cpn).state = .moving ∨ (s.loc cpn).state = .poisoned)))) :=
  ⟨(hands (pol { highPm := 1000 } { base with blw := { base.blw with t1 := [(16384, .mute 10)] } })), 0, 0, 16384, 10,
    { frame := 16384, running := true }, by decide +kernel⟩

theorem witness_SweepsVisitPages_2 : ∃ (s : State) (pt : Nat) (a : Nat) (cpn : Nat) (h : Hand),
    s.boot.fatal = false ∧ LeavesHome s ∧
    h = handRun (tgetD s.blw.t2Hands pt {}) (t2Free s pt) (t2Frames s pt) (ptPolicy s pt).lowPm (ptPolicy s pt).highPm ∧ h.stopped = false ∧
    h.running = true ∧ nextSpill s pt h.frame = some a ∧ tget s.blw.t2 (ptKey pt a) = some (.page cpn) ∧ (s.loc cpn).tier = .t2 ∧
    (s.loc cpn).addr = a ∧ s.blw.queue.length < 65536 ∧ reqOf s cpn = none ∧
    (((s.loc cpn).state = .staging ∨ (s.loc cpn).state = .resident ∨ (s.loc cpn).state = .sharedRo)) :=
  ⟨(inT2 (hands (pol { highPm := 1000 } (spill (pages (t2At 3) {}))))), 0, 0, 10, { running := true }, by decide +kernel⟩

theorem witness_SweepsVisitPages_3 : ∃ (s : State) (tile : Nat) (cpn : Nat) (n : Nat) (k : Nat) (h : Hand),
    s.boot.fatal = false ∧ n = (ptPolicy s (tileOwner s.appliedMap tile)).t0Slots ∧ n ≠ 0 ∧ h = tgetD s.blw.t0Hands tile {} ∧
    h.stopped = false ∧ wantsSlot s tile = true ∧ k = h.frame % n ∧
    ((List.range n).any fun i => decide ((s.tile tile).reserved ≤ 255 - i) && !tmem s.blw.t0 (tile * 256 + (255 - i))) = false ∧
    tget s.blw.t0 (tile * 256 + (255 - k)) = some (.page cpn) ∧ (s.loc cpn).tier = .t0 ∧ (s.loc cpn).addr = tile * 256 + (255 - k) ∧
    s.blw.queue.length < 65536 ∧ reqOf s cpn = none ∧
    (((s.loc cpn).state = .staging ∨ (s.loc cpn).state = .resident ∨ (s.loc cpn).state = .sharedRo)) :=
  ⟨(queued [{ cpn := 10, kind := .page .t0, cls := 3 }] (pol { t0Slots := 1 } (let s := pages t1At { state := .resident, tier := .t0, refcnt := 1, addr := 255, age := 0xFF }; { s with blw := { s.blw with t0 := [(255, .page 11)] } }))),
    0, 11, 1, 0, {}, by decide +kernel⟩

theorem witness_SweepsVisitPages_4 : ∃ (s : State) (pt : Nat) (m : Nat) (h : Hand),
    s.boot.fatal = false ∧
    h = handRun (tgetD s.blw.hands (handKey pt m) {}) (ptFreeIn s pt m) (ptFramesIn s pt m) (ptPolicy s pt).lowPm (ptPolicy s pt).highPm ∧
    (h.stopped = true ∨ h.running = false) :=
  ⟨base, 0, 0,
    (handRun (tgetD (base).blw.hands (handKey (0) (0)) {}) (ptFreeIn (base) (0) (0)) (ptFramesIn (base) (0) (0)) (ptPolicy (base) (0)).lowPm (ptPolicy (base) (0)).highPm), by decide +kernel⟩

theorem witness_SweepsVisitPages_5 : ∃ (s : State) (pt : Nat) (h : Hand),
    s.boot.fatal = false ∧ h = handRun (tgetD s.blw.t2Hands pt {}) (t2Free s pt) (t2Frames s pt) (ptPolicy s pt).lowPm (ptPolicy s pt).highPm ∧
    (h.stopped = true ∨ h.running = false) :=
  ⟨base, 0,
    (handRun (tgetD (base).blw.t2Hands (0) {}) (t2Free (base) (0)) (t2Frames (base) (0)) (ptPolicy (base) (0)).lowPm (ptPolicy (base) (0)).highPm), by decide +kernel⟩

theorem witness_SweepsVisitPages_6 : ∃ (s : State) (tile : Nat),
    s.boot.fatal = false ∧
    (((ptPolicy s (tileOwner s.appliedMap tile)).t0Slots = 0 ∨ (tgetD s.blw.t0Hands tile {}).stopped = true ∨ wantsSlot s tile = false ∨ ((List.range (ptPolicy s (tileOwner s.appliedMap tile)).t0Slots).any fun i => decide ((s.tile tile).reserved ≤ 255 - i) && !tmem s.blw.t0 (tile * 256 + (255 - i))) = true)) :=
  ⟨base, 0, by decide +kernel⟩

theorem witness_SweepsVisitPages_7 : ∃ (m : Nat),
    m < 16 :=
  ⟨15, by decide +kernel⟩

theorem witness_SweepsVisitPages_12 : ∃ (s : State) (cpn : Nat) (src : Tier) (d : Tier) (allowed : List Tier),
    spillDest s cpn src allowed = some d ∧ (s.loc cpn).state = .staging :=
  ⟨(spill (pages { t1At with state := .staging } {})), 10, .t1, .t2, [.t2, .t3, .th], by decide +kernel⟩

theorem witness_SweepsVisitPages_13 : ∃ (s : State) (cpn : Nat) (src : Tier) (allowed : List Tier),
    (ptPolicy s (cpnPt cpn)).coldT3En = true ∧ estimate s cpn ≤ (ptPolicy s (cpnPt cpn)).coldT3 ∧ (s.loc cpn).state ≠ .staging ∧
    2 ∈ (ptPolicy s (cpnPt cpn)).order ∧ Tier.t3 ∈ allowed ∧ src ≠ .t3 ∧ tierFree s (cpnPt cpn) .t3 = true :=
  ⟨((drive0 (pol { coldT3En := true } (pages t1At {}))).setReg pgNvh 0x234 0 10 |>.setReg pgNvh 0x200 0 0x61 |>.setDrive 0 fun d => { d with slots := 100 }),
    10, .t1, [.t2, .t3, .th], by decide +kernel⟩

def s_MovesRun_0 : State := queued [t0Req] (pol { t0Slots := 1 } (paged t1At {}))
def s_MovesRun_1 : State := queued [up10] (spill (inT2 (pages (t2At) {})))
def s_MovesRun_2 : State := queued [up10] (drive0 (pages t3At {}))
def s_MovesRun_3 : State := (queued [up10] (pages t3At {})).setDrive 0 fun d => { d with state := .ready, slot := [(5, 2)] }
theorem witness_MovesRun_0 :
    (∃ (s : State) (u : State) (slice : Nat) (dst : Nat) (r : MoveReq) (d : Tier),
    s.boot.fatal = false ∧ strictPts s = [] ∧ LeavesHome s ∧ s.blw.queue = [r] ∧ sliceOf s r = slice ∧ r.kind = .page d ∧ reqValid s r = true ∧
    moveOf s r.cpn = none ∧ ckptRuns s (cpnPt r.cpn) = false ∧ tmem s.blw.leaving r.cpn = false ∧
    sweeping s (cpnPt r.cpn) (sweepCode d) = false ∧ sliceRoom s (cpnPt r.cpn) slice = true ∧
    placeRoom s (cpnPt r.cpn) (s.loc r.cpn).tier (s.loc r.cpn).addr = true ∧ placeRoom s (cpnPt r.cpn) d dst = true ∧
    tierAlloc s (cpnPt r.cpn) d r.home (.page r.cpn) = some (dst, u) ∧ upper (s.loc r.cpn) = true) ∧
    (∃ (s : State) (u : State) (slice : Nat) (dst : Nat) (r : MoveReq) (d : Tier) (port : _) (ext : _),
    s.boot.fatal = false ∧ strictPts s = [] ∧ LeavesHome s ∧ s.blw.queue = [r] ∧ sliceOf s r = slice ∧ r.kind = .page d ∧ reqValid s r = true ∧
    moveOf s r.cpn = none ∧ ckptRuns s (cpnPt r.cpn) = false ∧ tmem s.blw.leaving r.cpn = false ∧
    sweeping s (cpnPt r.cpn) (sweepCode d) = false ∧ sliceRoom s (cpnPt r.cpn) slice = true ∧
    placeRoom s (cpnPt r.cpn) (s.loc r.cpn).tier (s.loc r.cpn).addr = true ∧ placeRoom s (cpnPt r.cpn) d dst = true ∧
    tierAlloc s (cpnPt r.cpn) d r.home (.page r.cpn) = some (dst, u) ∧ (s.loc r.cpn).tier = .t2 ∧
    movePort s (cpnPt r.cpn) .t2 (s.loc r.cpn).addr = some (port, ext) ∧ (((s.cport port).exts[ext]?).any fun e => e.draining) = false ∧
    (s.cport port).failed = false) ∧
    (∃ (s : State) (u : State) (slice : Nat) (dst : Nat) (r : MoveReq) (d : Tier) (np : _) (l : _) (b : _),
    s.boot.fatal = false ∧ strictPts s = [] ∧ LeavesHome s ∧ s.blw.queue = [r] ∧ sliceOf s r = slice ∧ r.kind = .page d ∧ reqValid s r = true ∧
    moveOf s r.cpn = none ∧ ckptRuns s (cpnPt r.cpn) = false ∧ tmem s.blw.leaving r.cpn = false ∧
    sweeping s (cpnPt r.cpn) (sweepCode d) = false ∧ sliceRoom s (cpnPt r.cpn) slice = true ∧
    placeRoom s (cpnPt r.cpn) (s.loc r.cpn).tier (s.loc r.cpn).addr = true ∧ placeRoom s (cpnPt r.cpn) d dst = true ∧
    tierAlloc s (cpnPt r.cpn) d r.home (.page r.cpn) = some (dst, u) ∧ (s.loc r.cpn).tier = .t3 ∧ d = .t1 ∧ np = bits (s.loc r.cpn).addr 31 4 ∧
    l = bits (s.loc r.cpn).addr 0 31 ∧ np < s.nvh.drives.length ∧ tget (s.drive np).slot l ≠ some 2 ∧ (s.drive np).state = .ready ∧
    freeBuf (s.drive np) = some b) ∧
    (∃ (s : State) (u : State) (slice : Nat) (dst : Nat) (r : MoveReq) (d : Tier),
    s.boot.fatal = false ∧ strictPts s = [] ∧ LeavesHome s ∧ s.blw.queue = [r] ∧ sliceOf s r = slice ∧ r.kind = .page d ∧ reqValid s r = true ∧
    moveOf s r.cpn = none ∧ ckptRuns s (cpnPt r.cpn) = false ∧ tmem s.blw.leaving r.cpn = false ∧
    sweeping s (cpnPt r.cpn) (sweepCode d) = false ∧ sliceRoom s (cpnPt r.cpn) slice = true ∧
    placeRoom s (cpnPt r.cpn) (s.loc r.cpn).tier (s.loc r.cpn).addr = true ∧ placeRoom s (cpnPt r.cpn) d dst = true ∧
    tierAlloc s (cpnPt r.cpn) d r.home (.page r.cpn) = some (dst, u) ∧ (s.loc r.cpn).tier = .t3 ∧ d = .t1 ∧
    tget (s.drive (bits (s.loc r.cpn).addr 31 4)).slot (bits (s.loc r.cpn).addr 0 31) = some 2 ∧
    (((s.loc r.cpn).refcnt ≠ 0 ∨ (s.loc r.cpn).published = true))) :=
  ⟨⟨s_MovesRun_0, ((allocOf (s_MovesRun_0) .t0).2), 0, ((allocOf (s_MovesRun_0) .t0).1), t0Req, .t0, by decide +kernel⟩,
    ⟨s_MovesRun_1, ((allocOf (s_MovesRun_1) .t1).2), 0, ((allocOf (s_MovesRun_1) .t1).1), up10, .t1, 0, 0, by decide +kernel⟩,
    ⟨s_MovesRun_2, ((allocOf (s_MovesRun_2) .t1).2), 0, ((allocOf (s_MovesRun_2) .t1).1), up10, .t1, 0, 5, 0, by decide +kernel⟩,
    ⟨s_MovesRun_3, ((allocOf (s_MovesRun_3) .t1).2), 0, ((allocOf (s_MovesRun_3) .t1).1), up10, .t1, by decide +kernel⟩⟩

theorem witness_MovesRun_4 : ∃ (s : State) (slice : Nat) (r : MoveReq),
    s.boot.fatal = false ∧ strictPts s = [] ∧ s.blw.queue = [r] ∧ sliceOf s r = slice ∧ isLeaf r.kind = false ∧
    reqValid s (firstMove s r) = false ∧ tmem s.blw.leaving r.cpn = false ∧ moveOf s r.cpn = none :=
  ⟨(queued [up10] (paged t1At {})), 0, up10, by decide +kernel⟩

theorem witness_MovesRun_5 :
    (∃ (s : State) (slice : Nat) (r : MoveReq) (d : Tier),
    s.boot.fatal = false ∧ strictPts s = [] ∧ s.blw.queue = [r] ∧ sliceOf s r = slice ∧ r.kind = .page d ∧ reqValid s r = true ∧
    tierAlloc s (cpnPt r.cpn) d r.home (.page r.cpn) = none ∧ moveOf s r.cpn = none ∧ ckptRuns s (cpnPt r.cpn) = false ∧
    tmem s.blw.leaving r.cpn = false ∧ sweeping s (cpnPt r.cpn) (sweepCode d) = false ∧ sliceRoom s (cpnPt r.cpn) slice = true ∧
    placeRoom s (cpnPt r.cpn) (s.loc r.cpn).tier (s.loc r.cpn).addr = true) ∧
    (∃ (s : State) (slice : Nat) (r : MoveReq) (d : Tier),
    s.boot.fatal = false ∧ strictPts s = [] ∧ s.blw.queue = [r] ∧ r.kind = .page d ∧
    ((sliceOf s r ≠ slice ∨ (moveOf s r.cpn).isSome = true ∨ tmem s.blw.leaving r.cpn = true ∨ (reqValid s r = true ∧
    (ckptRuns s (cpnPt r.cpn) = true ∨ sweeping s (cpnPt r.cpn) (sweepCode d) = true ∨ sliceRoom s (cpnPt r.cpn) slice = false ∨ placeRoom s (cpnPt r.cpn) (s.loc r.cpn).tier (s.loc r.cpn).addr = false))))) :=
  ⟨⟨(queued [down10] (paged t1At {})), 0, down10, .t2, by decide +kernel⟩,
    ⟨(let u := queued [down10] (paged t1At {}); { u with blw := { u.blw with leaving := [(10, (.t1, 16384, false, 0))] } }), 0, down10, .t2, by decide +kernel⟩⟩

def s_MovesRun_7 : State := queued [{ up10 with cls := 6 }, { t0Req with cpn := 11, cls := 7, ord := 1 }, ].reverse (spill (inT2 (pol { t0Slots := 1 } (pages t2At { t1At with addr := 16385 }))))
def x_MovesRun_7 : MoveReq := { t0Req with cpn := 11, cls := 7, ord := 1 }
theorem witness_MovesRun_7 : ∃ (s : State) (u : State) (v : State) (slice : Nat) (x : MoveReq) (y : MoveReq),
    (s.boot.fatal = false ∧ strictPts s = [] ∧ s.blw.queue = [x, y] ∧ sliceOf s x = slice ∧ sliceOf s y = slice ∧ tryMove s slice x = some u ∧
    tryMove s slice y = some v) ∧ ((y.cls < x.cls ∨ (x.cls = 3 ∧ y.cls = 3 ∧ ∃ a b, x.deadline = some a ∧ y.deadline = some b ∧ b < a))) :=
  ⟨s_MovesRun_7, ((tryMove (s_MovesRun_7) (0) (x_MovesRun_7)).getD (s_MovesRun_7)),
    ((tryMove (s_MovesRun_7) (0) ({ up10 with cls := 6 })).getD (s_MovesRun_7)), 0, x_MovesRun_7, { up10 with cls := 6 }, by decide +kernel, (.inl (by decide +kernel))⟩

theorem witness_MovesRun_8 : ∃ (s : State) (cpn : Nat) (m : Move),
    s.boot.fatal = false ∧ moveOf s cpn = some m ∧ m.cancel = false ∧ (¬ (m.srcTier = .t3 ∧
    bufReady (s.drive (bits m.srcAddr 31 4)) cpn = true)) ∧ ((16 ≤ m.block ∨ sourceWaits s cpn = true ∨ (m.kind = .page .t3 ∧
    takeBuf s cpn m = none))) :=
  ⟨(moving { move .t0 with block := 16 }), 10, { move .t0 with block := 16 }, by decide +kernel⟩

theorem witness_MovesRun_9 : ∃ (s : State) (u : State) (cpn : Nat) (m : Move),
    s.boot.fatal = false ∧ moveOf s cpn = some m ∧ m.cancel = false ∧ m.block < 16 ∧ sourceWaits s cpn = false ∧ m.kind ≠ .mute ∧
    isLeaf m.kind = false ∧ m.page ≠ [] ∧ m.compress = false ∧ ((m.block < 15 ∨ m.kind = .page .t0 ∨ m.kind = .page .t1 ∨ m.kind = .evacMute)) ∧
    takeBuf s cpn m = some u :=
  ⟨(moving { move .t0 with block := 14 }), (moving { move .t0 with block := 14 }), 10, { move .t0 with block := 14 }, by decide +kernel⟩

def s_MovesRun_10 : State := headed (moving { move .t0 with page := [] })
def m_MovesRun_10 : Move := { move .t0 with page := [] }
theorem witness_MovesRun_10 : ∃ (s : State) (cpn : Nat) (m : Move) (d : Tier) (b : List Byte) (st : Store),
    (s.boot.fatal = false ∧ moveOf s cpn = some m ∧ m.cancel = false ∧ m.block = 0 ∧ sourceWaits s cpn = false ∧ m.kind = .page d ∧ d ≠ .t3 ∧
    m.page = [] ∧ m.compress = false ∧ b ≠ [] ∧ st = storeOf s (cpnPt cpn) m.srcTier m.srcAddr ∧ storeBad s st 0 frameBytes = false) ∧
    sourcePage s cpn m = some b :=
  ⟨s_MovesRun_10, 10, m_MovesRun_10, .t0, ((sourcePage (s_MovesRun_10) (10) (m_MovesRun_10)).getD []),
    (storeOf (s_MovesRun_10) (cpnPt (10)) (m_MovesRun_10).srcTier (m_MovesRun_10).srcAddr), by decide +kernel, (some_getD (by decide +kernel))⟩

def s_MovesRun_11 : State := badFrame (moving { move .t0 with page := [], block := 15 })
def m_MovesRun_11 : Move := { move .t0 with page := [], block := 15 }
theorem witness_MovesRun_11 : ∃ (s : State) (cpn : Nat) (m : Move) (d : Tier) (st : Store),
    s.boot.fatal = false ∧ moveOf s cpn = some m ∧ m.cancel = false ∧ m.block < 16 ∧ sourceWaits s cpn = false ∧ m.kind = .page d ∧ d ≠ .t3 ∧
    m.page = [] ∧ st = storeOf s (cpnPt cpn) m.srcTier m.srcAddr ∧ ((storeBad s st 0 frameBytes = true ∨ sourcePage s cpn m = none)) ∧
    pageLive (s.loc cpn) = true ∧ (((s.loc cpn).refcnt ≠ 0 ∨ (s.loc cpn).published = true)) :=
  ⟨s_MovesRun_11, 10, m_MovesRun_11, .t0, (storeOf (s_MovesRun_11) (cpnPt (10)) (m_MovesRun_11).srcTier (m_MovesRun_11).srcAddr), by decide +kernel⟩

def s_MovesRun_12 : State := moving { move .t2 with compress := true, block := 14 }
theorem witness_MovesRun_12 : ∃ (s : State) (u : State) (cpn : Nat) (m : Move),
    s.boot.fatal = false ∧ moveOf s cpn = some m ∧ m.cancel = false ∧ m.block < 15 ∧ sourceWaits s cpn = false ∧ m.kind ≠ .mute ∧
    isLeaf m.kind = false ∧ m.page ≠ [] ∧ m.compress = true ∧ takeBuf s cpn m = some u :=
  ⟨s_MovesRun_12, ((s_MovesRun_12)), 10, { move .t2 with compress := true, block := 14 }, by decide +kernel⟩

theorem witness_MovesRun_13 : ∃ (s : State) (cpn : Nat) (port : Nat) (ext : Nat) (m : Move) (p : Profile) (bs : List Byte),
    (s.boot.fatal = false ∧ moveOf s cpn = some m ∧ m.cancel = false ∧ m.block = 15 ∧ sourceWaits s cpn = false ∧ m.kind = .page .t2 ∧
    m.page ≠ [] ∧ movePort s (cpnPt cpn) .t2 m.dst = some (port, ext) ∧ (((s.cport port).exts[ext]?).any fun e => e.draining) = false ∧
    (s.cport port).failed = false ∧ pageProfile s cpn = some p) ∧ ((m.compress = true → packPage p cpn m.page = some bs)) :=
  ⟨(headed (spill (moving toT2))), 10, 0, 0, toT2, base.prof, [], by decide +kernel, (fun h => by cases h)⟩

def m_MovesRun_15 : Move := { leafMove true with block := 15 }
theorem witness_MovesRun_14 :
    (∃ (s : State) (cpn : Nat) (m : Move),
    s.boot.fatal = false ∧ moveOf s cpn = some m ∧ m.cancel = false ∧ m.block < 16 ∧ sourceWaits s cpn = false ∧ m.kind = .mute) ∧
    (∃ (s : State) (cpn : Nat) (m : Move) (b : _),
    s.boot.fatal = false ∧ moveOf s cpn = some m ∧ m.cancel = false ∧ m.block < 16 ∧ sourceWaits s cpn = false ∧ m.kind = .leaf b) :=
  ⟨⟨(moving { move .t1 with kind := .mute, block := 0 }), 10, { move .t1 with kind := .mute, block := 0 }, by decide +kernel⟩,
    ⟨(leafMoving true |> fun s => setMove s (leafKey 3) fun m => { m with block := 15 }), (leafKey 3), m_MovesRun_15, true, by decide +kernel⟩⟩

theorem witness_MovesRun_16 : ∃ (s : State) (cpn : Nat) (m : Move) (d : Tier),
    s.boot.fatal = false ∧ moveOf s cpn = some m ∧ m.cancel = true ∧ m.kind = .page d ∧ m.heldFill = none ∧ m.clearHeld = false ∧
    m.zero = false ∧ (s.loc cpn).state = .moving ∧ s.seq.heldFlush = [] ∧ s.fab.holds = [] ∧
    (((s.loc cpn).ret = .staging ∨ (s.loc cpn).ret = .resident ∨ (s.loc cpn).ret = .sharedRo)) ∧ (¬ ((s.loc cpn).ret = .sharedRo ∧
    (s.loc cpn).refcnt = 1 ∧ (s.loc cpn).published = false)) :=
  ⟨(moving { move .t0 with block := 14, cancel := true }), 10, { move .t0 with block := 14, cancel := true }, .t0, by decide +kernel⟩

theorem witness_MovesRun_17 : ∃ (s : State) (cpn : Nat) (m : Move),
    s.boot.fatal = false ∧ moveOf s cpn = some m ∧ ((m.block < 16 ∨ destWaits s cpn = true)) :=
  ⟨(moving { move .t0 with block := 15 }), 10, { move .t0 with block := 15 }, by decide +kernel⟩

theorem witness_MovesRun_18 : ∃ (s : State) (cpn : Nat) (m : Move) (d : Tier),
    s.boot.fatal = false ∧ moveOf s cpn = some m ∧ 16 ≤ m.block ∧ destWaits s cpn = false ∧ m.cancel = false ∧ unneeded (s.loc cpn) = false ∧
    m.kind = .page d ∧ m.heldFill = none ∧ m.clearHeld = false ∧ s.seq.heldFlush = [] ∧ s.fab.holds = [] ∧ (¬ ((s.loc cpn).ret = .sharedRo ∧
    (s.loc cpn).refcnt = 1 ∧ (s.loc cpn).published = false)) :=
  ⟨(moving { move .t0 with block := 16 }), 10, { move .t0 with block := 16 }, .t0, by decide +kernel⟩

theorem witness_MovesRun_19 :
    (∃ (s : State) (cpn : Nat) (m : Move),
    s.boot.fatal = false ∧ moveOf s cpn = some m ∧ 16 ≤ m.block ∧ destWaits s cpn = false ∧ m.cancel = false ∧ unneeded (s.loc cpn) = false ∧
    m.heldFill = none ∧ m.clearHeld = false ∧ s.seq.heldFlush = [] ∧ s.fab.holds = [] ∧ m.kind = .mute ∧ (¬ ((s.loc cpn).ret = .sharedRo ∧
    (s.loc cpn).refcnt = 1 ∧ (s.loc cpn).published = false))) ∧
    (∃ (s : State) (cpn : Nat) (m : Move),
    s.boot.fatal = false ∧ moveOf s cpn = some m ∧ 16 ≤ m.block ∧ destWaits s cpn = false ∧ m.cancel = false ∧ unneeded (s.loc cpn) = false ∧
    m.heldFill = none ∧ m.clearHeld = false ∧ s.seq.heldFlush = [] ∧ s.fab.holds = [] ∧ m.kind = .evacMute) :=
  ⟨⟨(moving { move .t1 with kind := .mute, block := 16, dst := 16400 }), 10, { move .t1 with kind := .mute, block := 16, dst := 16400 }, by decide +kernel⟩,
    ⟨((moving { move .t1 with kind := .evacMute, block := 16, dst := 16400 }).setLoc 10 fun e => { e with state := .resident, mute := some 16384 }),
    10, { move .t1 with kind := .evacMute, block := 16, dst := 16400 }, by decide +kernel⟩⟩

theorem witness_MovesRun_21 : ∃ (s : State) (n : Nat) (down : Bool) (m : Move),
    s.boot.fatal = false ∧ moveOf s (leafKey n) = some m ∧ 16 ≤ m.block ∧ destWaits s (leafKey n) = false ∧ m.kind = .leaf down :=
  ⟨(leafMoving true), 3, true, (leafMove true), by decide +kernel⟩

theorem witness_MovesRun_22 :
    (∃ (s : State) (cpn : Nat) (m : Move) (d : Tier),
    s.boot.fatal = false ∧ moveOf s cpn = some m ∧ 16 ≤ m.block ∧ destWaits s cpn = false ∧ m.kind = .page d ∧ unneeded (s.loc cpn) = true ∧
    (s.loc cpn).state = .moving ∧ s.seq.heldFlush = [] ∧ s.fab.holds = [] ∧
    (((s.loc cpn).ret = .staging ∨ (s.loc cpn).ret = .resident ∨ (s.loc cpn).ret = .sharedRo))) ∧
    (∃ (s : State) (cpn : Nat) (m : Move) (d : Tier),
    s.boot.fatal = false ∧ cpn < 2 ^ 40 ∧ moveOf s cpn = some m ∧ 16 ≤ m.block ∧ destWaits s cpn = false ∧ m.kind = .page d ∧
    m.heldFill = none ∧ m.clearHeld = false ∧ unneeded (s.loc cpn) = false ∧ (s.loc cpn).state = .moving ∧ s.seq.heldFlush = [] ∧
    s.fab.holds = [] ∧ (¬ ((s.loc cpn).ret = .sharedRo ∧ (s.loc cpn).refcnt = 1 ∧ (s.loc cpn).published = false))) :=
  ⟨⟨((moving { move .t0 with block := 16 }).setLoc 10 fun e => { e with refcnt := 0 }), 10, { move .t0 with block := 16 }, .t0, by decide +kernel⟩,
    ⟨(moving { move .t0 with block := 16 }), 10, { move .t0 with block := 16 }, .t0, by decide +kernel⟩⟩

theorem witness_MovesRun_24 : ∃ (s : State) (cpn : Nat) (a : Nat) (slice : Nat) (d : Tier) (retire : Bool),
    s.boot.fatal = false ∧ tget s.blw.leaving cpn = some (d, a, retire, slice) :=
  ⟨(let s := paged t1At {}; { s with blw := { s.blw with leaving := [(10, (.t1, 16384, true, 0))] } }), 10, 16384, 0, .t1, true, by decide +kernel⟩

theorem witness_HbmCodeCorrects_0 : ∃ (s : State) (a : Nat) (e : UnitErr),
    hbmBad s a 32 = false ∧ e.first = [] :=
  ⟨(headed (paged t1At {})), 0x40000000, { inner := true }, by decide +kernel⟩

theorem witness_HbmCodeCorrects_1 : ∃ (s : State) (a : Nat) (i : Nat) (x : Byte) (e : UnitErr),
    hbmBad s a 32 = false ∧ i < 36 ∧ x ≠ 0 ∧ e.first = List.replicate i 0 ++ [x] :=
  ⟨(headed (paged t1At {})), 0x40000000, 35, 255, ({ first := zeros 35 ++ [255] }), by decide +kernel⟩

theorem witness_HbmReadsAndFrames_0 :
    (∃ (s : State) (m : Nat) (off : Nat) (f : Nat) (err : UnitErr) (d : Decode),
    s.boot.fatal = false ∧ (s.hb m).excluded = false ∧ off < stackFrames * frameBytes ∧ m < s.hbc.length ∧ f = off / frameBytes ∧
    d = readOutcome s (hbmAddr m (off / 32 * 32)) err ∧ d = .clean) ∧
    (∃ (s : State) (m : Nat) (off : Nat) (f : Nat) (err : UnitErr) (d : Decode),
    s.boot.fatal = false ∧ (s.hb m).excluded = false ∧ off < stackFrames * frameBytes ∧ m < s.hbc.length ∧ f = off / frameBytes ∧
    d = readOutcome s (hbmAddr m (off / 32 * 32)) err ∧ d = .inner) ∧
    (∃ (s : State) (m : Nat) (off : Nat) (f : Nat) (err : UnitErr) (d : Decode),
    s.boot.fatal = false ∧ (s.hb m).excluded = false ∧ off < stackFrames * frameBytes ∧ m < s.hbc.length ∧ f = off / frameBytes ∧
    d = readOutcome s (hbmAddr m (off / 32 * 32)) err ∧ (d = .corrected ∨ d = .retryOk)) ∧
    (∃ (s : State) (m : Nat) (off : Nat) (f : Nat) (err : UnitErr) (d : Decode) (c : _),
    s.boot.fatal = false ∧ (s.hb m).excluded = false ∧ off < stackFrames * frameBytes ∧ m < s.hbc.length ∧ f = off / frameBytes ∧
    d = readOutcome s (hbmAddr m (off / 32 * 32)) err ∧ (d = .soft ∨ d = .hard) ∧ scrubFrame s m f = false ∧ frameInClass s 0 m f = false ∧
    frameHolder s (m * 2 ^ 20 + f) = some (c, false) ∧ pageLive (s.loc c) = true ∧ (((s.loc c).refcnt ≠ 0 ∨ (s.loc c).published = true))) :=
  ⟨⟨base, 11, (stackFrames * frameBytes - 1), (stackFrames - 1), {}, .clean, by decide +kernel⟩,
    ⟨base, 11, (stackFrames * frameBytes - 1), (stackFrames - 1), { inner := true }, .inner, by decide +kernel⟩,
    ⟨base, 11, (stackFrames * frameBytes - 1), (stackFrames - 1), ({ first := [1] }), .corrected, by decide +kernel⟩,
    ⟨(paged t1At {}), 0, (16384 * 65536), 16384, ({ first := [1, 2, 3], second := [1, 2, 3], fives := [1] }), .hard, 10, by decide +kernel⟩⟩

theorem witness_HbmReadsAndFrames_4 :
    (∃ (s : State) (m : Nat) (off : Nat) (f : Nat) (err : UnitErr) (d : Decode),
    s.boot.fatal = false ∧ (s.hb m).excluded = false ∧ off < stackFrames * frameBytes ∧ m < s.hbc.length ∧ f = off / frameBytes ∧
    d = readOutcome s (hbmAddr m (off / 32 * 32)) err ∧ (d = .soft ∨ d = .hard) ∧ scrubFrame s m f = false ∧ frameInClass s 0 m f = false ∧
    tmem s.blw.t1 (m * 2 ^ 20 + f) = false) ∧
    (∃ (s : State) (m : Nat) (off : Nat) (f : Nat) (err : UnitErr) (d : Decode) (pt : _),
    s.boot.fatal = false ∧ (s.hb m).excluded = false ∧ off < stackFrames * frameBytes ∧ m < s.hbc.length ∧ f = off / frameBytes ∧
    d = readOutcome s (hbmAddr m (off / 32 * 32)) err ∧ (d = .soft ∨ d = .hard) ∧ scrubFrame s m f = false ∧ frameInClass s 0 m f = true ∧
    inTable (ctxTable s) (hbmAddr m off) = false ∧ inTable (locTable s) (hbmAddr m off) = true ∧
    pt = (hbmAddr m off - (locTable s).1) / 8 / 2 ^ 21 ∧ (s.part pt).state = .active ∧ pt < s.sec.pts.length) ∧
    (∃ (s : State) (m : Nat) (off : Nat) (f : Nat) (err : UnitErr) (d : Decode),
    s.boot.fatal = false ∧ (s.hb m).excluded = false ∧ off < stackFrames * frameBytes ∧ m < s.hbc.length ∧ f = off / frameBytes ∧
    d = readOutcome s (hbmAddr m (off / 32 * 32)) err ∧ (d = .soft ∨ d = .hard) ∧ scrubFrame s m f = true) :=
  ⟨⟨base, 0, (16384 * 65536), 16384, ({ first := [1, 2, 3], second := [1, 2, 3] }), .soft, by decide +kernel⟩,
    ⟨withLoc, 0, (4096 * 65536), 4096, ({ first := [1, 2, 3], second := [1, 2, 3] }), .soft, 0, by decide +kernel⟩,
    ⟨scrubbing, 0, (12288 * 65536), 12288, ({ first := [1, 2, 3], second := [1, 2, 3] }), .soft, by decide +kernel⟩⟩

theorem witness_HbmReadsAndFrames_7 : ∃ (s : State) (m : Nat) (off : Nat),
    (((s.hb m).excluded = true ∨ stackFrames * frameBytes ≤ off)) :=
  ⟨base, 11, (2 ^ 36), by decide +kernel⟩

theorem witness_HbmReadsAndFrames_8 : ∃ (s : State) (m : Nat) (f : Nat) (err : UnitErr) (d : Decode),
    s.boot.fatal = false ∧ (s.hb m).excluded = false ∧ s.reg (pgHbc m) 0x200 ≠ 0 ∧ m < s.hbc.length ∧
    (s.hb m).patrol < stackFrames * frameBytes ∧ (s.hb m).patrol % 32 = 0 ∧ f = (s.hb m).patrol / frameBytes ∧
    d = readOutcome s (hbmAddr m (s.hb m).patrol) err :=
  ⟨((base.setReg (pgHbc 11) 0x200 0 5).setHb 11 fun h => { h with patrol := stackFrames * frameBytes - 32 }), 11, (stackFrames - 1), {},
    .clean, by decide +kernel⟩

theorem witness_HbmReadsAndFrames_9 : ∃ (s : State) (m : Nat),
    (((s.hb m).excluded = true ∨ s.reg (pgHbc m) 0x200 = 0)) :=
  ⟨(base.setReg (pgHbc 11) 0x200 0 0), 11, by decide +kernel⟩

theorem witness_HbmReadsAndFrames_10 :
    (∃ (s : State) (rq : Requester) (m : Nat) (f : Nat) (val : Word),
    s.boot.fatal = false ∧ m < s.hbc.length ∧ f = val.toNat % 2 ^ 20 ∧ rq.secure = true ∧ rq.src < 4 ∧ bit (s.reg pgBlw 0x20C m) 0 = true) ∧
    (∃ (s : State) (rq : Requester) (m : Nat) (f : Nat) (val : Word),
    s.boot.fatal = false ∧ m < s.hbc.length ∧ f = val.toNat % 2 ^ 20 ∧ rq.secure = true ∧ rq.src < 4 ∧ bit (s.reg pgBlw 0x20C m) 0 = false ∧
    f ∉ (s.hb m).retired) ∧
    (∃ (s : State) (rq : Requester) (m : Nat) (f : Nat) (val : Word),
    s.boot.fatal = false ∧ m < s.hbc.length ∧ f = val.toNat % 2 ^ 20 ∧ rq.secure = true ∧ rq.src < 4 ∧ bit (s.reg pgBlw 0x20C m) 0 = false ∧
    f ∈ (s.hb m).retired) ∧
    (∃ (s : State) (rq : Requester) (m : Nat) (f : Nat) (val : Word),
    s.boot.fatal = false ∧ m < s.hbc.length ∧ f = val.toNat % 2 ^ 20 ∧ rq.secure = false) :=
  ⟨⟨base, sec, 0, 7, 7, by decide +kernel⟩,
    ⟨base, sec, 11, 7, 7, by decide +kernel⟩,
    ⟨(base.setHb 11 fun h => { h with retired := [7] }), sec, 11, 7, 7, by decide +kernel⟩,
    ⟨base, own, 11, 7, 7, by decide +kernel⟩⟩

theorem witness_HbmReadsAndFrames_14 :
    (∃ (s : State) (rq : Requester) (val : Word),
    s.boot.fatal = false ∧ rq.secure = true ∧ rq.src < 4 ∧ ((bit val.toNat 0 = false ∨ poolOverlaps s (s.reg pgBlw 0x200) = false))) ∧
    (∃ (s : State) (rq : Requester) (val : Word),
    s.boot.fatal = false ∧ rq.secure = true ∧ rq.src < 4 ∧ bit val.toNat 0 = true ∧ poolOverlaps s (s.reg pgBlw 0x200) = true) :=
  ⟨⟨(base.setReg pgBlw 0x200 0 11), sec, 1, by decide +kernel⟩,
    ⟨((base.setReg pgBlw 0x204 0 12303).setReg pgBlw 0x208 0 16639), sec, 1, by decide +kernel⟩⟩

end PartH

namespace PartJ

/-- Region 7 in slot 0 of the region table, two units of it accepted on pool port 0, formatted with 1024 frames. -/
def poolExt (kind rbase : Nat) : Extent := { tag := [], kind := kind, pt := 0, region := 7, rbase := rbase, base := 0, size := 2 }
def region7 (s : State := base) : State :=
  let s := (s.setCport 0 fun c => { c with up := true, exts := [poolExt 2 0] }).setReg pgCxh 0x224 0 0x500007
  writeFormat s 7 1024
/-- Partition 0 has version 1 of it open. -/
def open7 : OpenVersion := { pt := 0, region := 7, version := 1, slot := 0, imported := [] }
def opened7 (s : State := base) : State := let s := region7 s; { s with cxh := { s.cxh with opens := [open7] } }
/-- A second live version of region 7, in slot 1. -/
def twoVersions (s : State) : State := regionWrite s 7 (recOff 1) (toLe 8 5 ++ toLe 8 1 ++ [2])
/-- Directory slot 100 holds an entry of partition 0 at depth 1 whose two pages are 10 and 11. -/
def slot100 : DirSlot := { hash := 77, depth := 1, pt := 0, state := .live, profile := 1, cpns := [10, 11], gen := 2 }
def named100 (s : State) : State := s.setSlot 100 fun _ => slot100
/-- A delta of one handle at the start of the working area: a count of 1 and the handle. -/
def handle100 : Nat := 100 + 2 * 2 ^ 29
def listed (s : State) : State :=
  let s := named100 s
  s.setHbm (mwrites s.mems.hbm (12288 * 65536) (toLe 4 1 ++ zeros 12 ++ toLe 4 handle100))
/-- The open version's table holds that entry. -/
def tabled (s : State) : State :=
  regionWrite s 7 (512 * 65536) (toLe 4 0x54425451 ++ toLe 8 1 ++ toLe 4 1 ++ toLe 4 0 ++ toLe 4 64 ++ toLe 4 128 ++ zeros 36
    ++ toLe 12 77 ++ toLe 2 1 ++ toLe 2 1 ++ toLe 1 2 ++ zeros 3 ++ toLe 4 0xFFFFFFFF)
def frames2 (s : State) : State :=
  { s with seq := { s.seq with locs := [(10, { state := .resident, refcnt := 1, addr := 16384 }), (11, { state := .resident, refcnt := 1, addr := 16385 })] } }
/-- A line asked for and not granted yet. -/
def asked (u : LineUse) (op : LineOp) (s : State) : State := askLine s 0 7 u op
def askedOf (u : LineUse) (op : LineOp) : LineReq := { id := 0, port := 0, region := 7, pt := 0, use := u, op := op }
def asks (ops : List LineOp) (u : LineUse) (s : State) : State := askLines s 0 7 u ops
/-- Poison in the line of the region at a byte offset. -/
def badAt (off : Nat) (s : State) : State := { s with mems := { s.mems with badLines := [poolKey 0 off / 64] } }
/-- The line that the command waits for is left; the command goes on. -/
def taken (s : State) : State := countLine { s with cxh := { s.cxh with lines := [] } } 0
def extState (e : Extent) (s : State := base) : State := s.setCport 0 fun c => { c with up := true, exts := [e] }
def ckptExt : Extent := { poolExt 3 0 with region := 0 }
def ckptState (k : Ckpt) (s : State := base) : State := setCkpt ((extState ckptExt s).setReg pgCxh 0x234 0 5) 0 fun _ => k
/-- Partition 0 has a context, a row and a page; its checkpoint of generation 4 stands in the extent. -/
def ckptFull : State :=
  let s := opened (ckptState { state := 1, gen := 3, waitFrom := 1000 })
  let s := s.setRow 3 0 fun _ => { tokens := 20, staged := 4, ptes := [{ cpn := 10, fill := 16 }] }
  { s with seq := { s.seq with locs := [(10, { state := .resident, refcnt := 1, addr := 16384 })] } }
def ckptLoaded : State := ckptWrite ckptFull 0
def someCkpt : Checkpoint := takeCkpt ckptFull 0 4
/-- A publication's record 1, staged, based on a version. -/
def staged1 (v : Nat) (s : State) : State := regionWrite s 7 (recOff 1) (toLe 8 (v + 1) ++ toLe 8 v ++ [1, 0, 5, 0] ++ toLe 4 1)
/-- The region has no frame left. -/
def noFrames (s : State) : State := regionWrite s 7 24 (toLe 4 512)
/-- The extent of the region drains. -/
def drained (s : State) : State := setExt s 0 0 fun e => { e with size := 1 }
/-- The region's table holds the entry of slot 100, for which the directory has no room here. -/
def entryIn (s : State) : State :=
  regionWrite s 7 (512 * 65536) (newTable (named100 s) 0 (tabBytes s 7 0) 1 [100] [513, 514])
def mv10 : Move := { cpn := 10, kind := .page .t2, cls := 3, slice := 0, srcTier := .t1, srcAddr := 16384, dst := 5 }
def withTwo (m n : Node) : State := { base with dep := { base.dep with nodes := [(1, m), (2, n)], accNext := 3 } }
def flying : CxlReq := { id := 0, port := 0, ext := 0, cpn := 10, write := false }
def inFlight (s : State) : State := { s with cxh := { s.cxh with reqs := [flying] } }
/-- Page 10 lies in frame 5 of the spill extent. -/
def inSpill (s : State) : State :=
  let a := 5
  { s with seq := { s.seq with locs := [(10, { state := .resident, refcnt := 1, tier := .t2, addr := a })] }
           blw := { s.blw with t2 := [(a, .page 10)] } }
/-- Page 10 moves there from frame 16384. -/
def moving10 (s : State) : State :=
  { s with seq := { s.seq with locs := [(10, { state := .moving, ret := .resident, refcnt := 1, addr := 16384 })] }
           blw := { s.blw with moves := [(10, mv10)] }
           cxh := { s.cxh with reqs := [{ flying with write := true }] } }
theorem grant_next (s : State) (port id : Nat) (poison : Bool) (h : s.boot.fatal = false) :
    exec (.ctrlLineGrant port ⟨id, poison⟩) s = .next (lineGrant s port id poison) :=
  congrArg Host.Outcome.next (if_neg (by rw [h]; exact Bool.false_ne_true))

theorem witness_RegionsAndLines_0 : ∃ (s : State) (acc : Nat) (r : Nat) (v : Nat) (src : Nat) (i : Nat) (n : Node),
    liveNode s acc = some n ∧ n.acc = acc ∧ n.cmd = .region 0 r v src ∧ sweeping s (ringPt n.ring) 5 = false ∧ lineWaits s acc = false ∧
    beginCheck s n = none ∧ s.cxh.failed.contains r = false ∧ lineRoom s (rgnPort s r) = true ∧ openVersion s (ringPt n.ring) r = none ∧
    rBad s r 0 64 = false ∧ ((v ≠ 0 → rBad s r 0x10000 0x40000 = false)) ∧ ((if v = 0 then some (headRec s r) else findVersion s r v) = some i) :=
  ⟨(region7 (issued (.region 0 7 0 0))), 1, 7, 0, 0, 0, (live (.region 0 7 0 0)), by decide +kernel⟩

theorem witness_RegionsAndLines_1 : ∃ (s : State) (acc : Nat) (r : Nat) (v : Nat) (src : Nat) (n : Node) (o : OpenVersion),
    liveNode s acc = some n ∧ n.acc = acc ∧ n.cmd = .region 2 r v src ∧ lineWaits s acc = false ∧ beginCheck s n = none ∧
    s.cxh.failed.contains r = false ∧ lineRoom s (rgnPort s r) = true ∧ openVersion s (ringPt n.ring) r = some o ∧
    versionHeld s o.pt r acc = false ∧ rBad s r (recOff o.slot) 64 = false :=
  ⟨(opened7 (issued (.region 2 7 0 0))), 1, 7, 0, 0, (live (.region 2 7 0 0)), open7, by decide +kernel⟩

theorem witness_RegionsAndLines_2 : ∃ (s : State) (acc : Nat) (r : Nat) (v : Nat) (src : Nat) (i : Nat) (n : Node) (o : OpenVersion),
    liveNode s acc = some n ∧ n.acc = acc ∧ n.cmd = .region 3 r v src ∧ lineWaits s acc = false ∧ beginCheck s n = none ∧
    s.cxh.failed.contains r = false ∧ lineRoom s (rgnPort s r) = true ∧ openVersion s (ringPt n.ring) r = some o ∧ rBad s r 0 64 = false ∧
    rBad s r 0x10000 0x40000 = false ∧ findVersion s r v = some i ∧ headRec s r ≠ i :=
  ⟨(twoVersions (opened7 (issued (.region 3 7 5 0)))), 1, 7, 5, 0, 1, (live (.region 3 7 5 0)), open7, by decide +kernel⟩

theorem witness_RegionsAndLines_3 : ∃ (s : State) (acc : Nat) (op : Nat) (r : Nat) (v : Nat) (src : Nat) (n : Node) (x : Instr) (c : Comp),
    (liveNode s acc = some n ∧ n.acc = acc ∧ n.cmd = .region op r v src ∧ lineWaits s acc = false ∧ (((op = 0 ∧ x = .regionOpen acc ∧
    sweeping s (ringPt n.ring) 5 = false) ∨ (op = 1 ∧ x = .regionPublish acc) ∨ (op = 2 ∧ x = .regionClose acc) ∨ (op = 3 ∧
    x = .regionRelease acc)))) ∧ ((beginCheck s n = some c ∨ (beginCheck s n = none ∧ s.cxh.failed.contains r = true ∧
    c = failWith .poisoned) ∨ (beginCheck s n = none ∧ s.cxh.failed.contains r = false ∧ lineRoom s (rgnPort s r) = true ∧ ((op = 0 ∧
    c = invalidAt 16 ∧ (openVersion s (ringPt n.ring) r).isSome = true) ∨ (op = 0 ∧ c = invalidAt 24 ∧ openVersion s (ringPt n.ring) r = none ∧
    v ≠ 0 ∧ rBad s r 0 64 = false ∧ rBad s r 0x10000 0x40000 = false ∧ findVersion s r v = none) ∨ (op ≠ 0 ∧ c = invalidAt 16 ∧
    openVersion s (ringPt n.ring) r = none) ∨ (op = 2 ∧ c = failWith .busy ∧ ∃ o, openVersion s (ringPt n.ring) r = some o ∧
    versionHeld s o.pt r acc = true) ∨ (op = 3 ∧ c = invalidAt 24 ∧ (openVersion s (ringPt n.ring) r).isSome = true ∧ rBad s r 0 64 = false ∧
    rBad s r 0x10000 0x40000 = false ∧ ∀ i, findVersion s r v = some i → headRec s r = i))))) :=
  ⟨(region7 (issued (.region 2 7 0 0))), 1, 2, 7, 0, 0, (live (.region 2 7 0 0)), (.regionClose 1), (invalidAt 16), by decide +kernel, (.inr (.inr (by decide +kernel)))⟩

theorem witness_RegionsAndLines_4 :
    (∃ (s : State) (acc : Nat) (op : Nat) (r : Nat) (v : Nat) (src : Nat) (n : Node) (x : Instr),
    (liveNode s acc = some n ∧ n.acc = acc ∧ n.cmd = .region op r v src ∧ lineWaits s acc = false ∧ beginCheck s n = none ∧
    s.cxh.failed.contains r = false ∧ lineRoom s (rgnPort s r) = true) ∧ (((op = 0 ∧ x = .regionOpen acc ∧
    sweeping s (ringPt n.ring) 5 = false ∧ openVersion s (ringPt n.ring) r = none ∧ (rBad s r 0 64 = true ∨ (v ≠ 0 ∧
    rBad s r 0x10000 0x40000 = true))) ∨ (op = 2 ∧ x = .regionClose acc ∧ ∃ o, openVersion s (ringPt n.ring) r = some o ∧
    versionHeld s o.pt r acc = false ∧ rBad s r (recOff o.slot) 64 = true) ∨ (op = 3 ∧ x = .regionRelease acc ∧
    (openVersion s (ringPt n.ring) r).isSome = true ∧ (rBad s r 0 64 = true ∨ rBad s r 0x10000 0x40000 = true))))) ∧
    (∃ (s : State) (acc : Nat) (op : Nat) (r : Nat) (v : Nat) (src : Nat) (n : Node) (x : Instr),
    liveNode s acc = some n ∧ n.acc = acc ∧ n.cmd = .region op r v src ∧ (((op = 0 ∧ x = .regionOpen acc) ∨ (op = 1 ∧
    x = .regionPublish acc) ∨ (op = 2 ∧ x = .regionClose acc) ∨ (op = 3 ∧ x = .regionRelease acc))) ∧ ((lineWaits s acc = true ∨ (op = 0 ∧
    sweeping s (ringPt n.ring) 5 = true) ∨ (beginCheck s n = none ∧ s.cxh.failed.contains r = false ∧ lineRoom s (rgnPort s r) = false)))) :=
  ⟨⟨(badAt 0 (opened7 (issued (.region 3 7 5 0)))), 1, 3, 7, 5, 0, (live (.region 3 7 5 0)), (.regionRelease 1), by decide +kernel, (.inr (.inr (by decide +kernel)))⟩,
    ⟨(asked (.openRec 1 0) (.join 0) (opened7 (issued (.region 1 7 0 0)))), 1, 1, 7, 0, 0, (live (.region 1 7 0 0)), (.regionPublish 1), by decide +kernel⟩⟩

def s_RegionsAndLines_6 : State := asked (.openRec 1 0) (.join 0) (region7 (issued (.region 0 7 0 0)))
def s_RegionsAndLines_7 : State := asked (.openRec 1 0) (.join 0) (entryIn (region7 (issued (.region 0 7 0 0))))
def s_RegionsAndLines_8 : State := asked (.openRec 1 0) (.join 0) (opened7 (issued (.region 0 7 0 0)))
def s_RegionsAndLines_9 : State := asked (.openRec 1 1) (.join 1) (region7 (issued (.region 0 7 5 0)))
theorem witness_RegionsAndLines_6 :
    (∃ (s : State) (v : State) (u : State) (port : Nat) (id : Nat) (i : Nat) (l : LineReq) (n : Node) (c : Comp) (op : Nat) (q : Nat) (want : Nat) (src : Nat),
    s.boot.fatal = false ∧ s.cxh.lines.find? (fun l => l.port == port && l.id == id) = some l ∧ l.op = .join i ∧ l.use = .openRec n.acc i ∧
    openNode s n.acc = some n ∧ n.cmd = .region op q want src ∧ s.cxh.failed.contains l.region = false ∧
    rBad s l.region (lineOff (1 + i)) 64 = false ∧
    v = countLine { s with cxh := { s.cxh with lines := s.cxh.lines.filter fun x => x.id != id } } l.pt ∧ openVersion s l.pt l.region = none ∧
    rBad s l.region 0 64 = false ∧ recLive s l.region i = true ∧ ((want = 0 ∨ recVersion s l.region i = want)) ∧
    openRecord v l.pt n.hdr.epoch l.region i = (u, c) ∧ u.node n.acc = some n ∧ c.status ≠ .nospace) ∧
    (∃ (s : State) (v : State) (u : State) (port : Nat) (id : Nat) (i : Nat) (l : LineReq) (n : Node) (c : Comp) (op : Nat) (q : Nat) (want : Nat) (src : Nat),
    s.boot.fatal = false ∧ s.cxh.lines.find? (fun l => l.port == port && l.id == id) = some l ∧ l.op = .join i ∧ l.use = .openRec n.acc i ∧
    openNode s n.acc = some n ∧ n.cmd = .region op q want src ∧ s.cxh.failed.contains l.region = false ∧
    rBad s l.region (lineOff (1 + i)) 64 = false ∧
    v = countLine { s with cxh := { s.cxh with lines := s.cxh.lines.filter fun x => x.id != id } } l.pt ∧ openVersion s l.pt l.region = none ∧
    rBad s l.region 0 64 = false ∧ recLive s l.region i = true ∧ ((want = 0 ∨ recVersion s l.region i = want)) ∧
    openRecord v l.pt n.hdr.epoch l.region i = (u, c) ∧ u.node n.acc = some n ∧ c.status = .nospace ∧
    rBad u l.region (lineOff (1 + i)) 64 = false) ∧
    (∃ (s : State) (v : State) (port : Nat) (id : Nat) (i : Nat) (l : LineReq) (n : Node) (op : Nat) (q : Nat) (want : Nat) (src : Nat),
    s.boot.fatal = false ∧ s.cxh.lines.find? (fun l => l.port == port && l.id == id) = some l ∧ l.op = .join i ∧ l.use = .openRec n.acc i ∧
    openNode s n.acc = some n ∧ n.cmd = .region op q want src ∧ s.cxh.failed.contains l.region = false ∧
    rBad s l.region (lineOff (1 + i)) 64 = false ∧
    v = countLine { s with cxh := { s.cxh with lines := s.cxh.lines.filter fun x => x.id != id } } l.pt ∧
    (openVersion s l.pt l.region).isSome = true) ∧
    (∃ (s : State) (v : State) (port : Nat) (id : Nat) (i : Nat) (l : LineReq) (n : Node) (op : Nat) (q : Nat) (want : Nat) (src : Nat),
    s.boot.fatal = false ∧ s.cxh.lines.find? (fun l => l.port == port && l.id == id) = some l ∧ l.op = .join i ∧ l.use = .openRec n.acc i ∧
    openNode s n.acc = some n ∧ n.cmd = .region op q want src ∧ s.cxh.failed.contains l.region = false ∧
    rBad s l.region (lineOff (1 + i)) 64 = false ∧
    v = countLine { s with cxh := { s.cxh with lines := s.cxh.lines.filter fun x => x.id != id } } l.pt ∧ openVersion s l.pt l.region = none ∧
    rBad s l.region 0 64 = false ∧ ((recLive s l.region i = false ∨ (want ≠ 0 ∧ recVersion s l.region i ≠ want)))) :=
  ⟨⟨s_RegionsAndLines_6, (taken (s_RegionsAndLines_6)), ((openRecord (taken (s_RegionsAndLines_6)) 0 0 7 0).1), 0, 0, 0,
    (askedOf (.openRec 1 0) (.join 0)), (live (.region 0 7 0 0)), { result := 1 }, 0, 7, 0, 0, by decide +kernel⟩,
    ⟨s_RegionsAndLines_7, (taken (s_RegionsAndLines_7)), ((openRecord (taken (s_RegionsAndLines_7)) 0 0 7 0).1), 0, 0, 0,
    (askedOf (.openRec 1 0) (.join 0)), (live (.region 0 7 0 0)), (failWith .nospace), 0, 7, 0, 0, by decide +kernel⟩,
    ⟨s_RegionsAndLines_8, (taken (s_RegionsAndLines_8)), 0, 0, 0, (askedOf (.openRec 1 0) (.join 0)), (live (.region 0 7 0 0)), 0, 7, 0, 0, by decide +kernel⟩,
    ⟨s_RegionsAndLines_9, (taken (s_RegionsAndLines_9)), 0, 0, 1, (askedOf (.openRec 1 1) (.join 1)), (live (.region 0 7 5 0)), 0, 7, 5, 0, by decide +kernel⟩⟩

def s_RegionsAndLines_10 : State := taken (region7 (issued (.region 0 7 0 0)))
theorem witness_RegionsAndLines_10 : ∃ (s : State) (u : State) (pt : Nat) (epoch : Nat) (r : Nat) (i : Nat) (c : Comp),
    openRecord s pt epoch r i = (u, c) ∧ c.status = .ok :=
  ⟨s_RegionsAndLines_10, ((openRecord (s_RegionsAndLines_10) 0 0 7 0).1), 0, 0, 7, 0, { result := 1 }, by decide +kernel⟩

def s_RegionsAndLines_13 : State := asked (.closeRec 1 0) (.leave 0) (opened7 (issued (.region 2 7 0 0)))
def s_RegionsAndLines_14 : State := asked (.closeRec 1 0) (.leave 0) (opened7 (withTwo (live (.region 2 7 0 0)) { live (.region 1 7 0 0) with acc := 2 }))
def s_RegionsAndLines_15 : State := asked (.releaseRec 1 1) (.retire 1) (twoVersions (opened7 (issued (.region 3 7 5 0))))
def s_RegionsAndLines_16 : State := asked (.releaseRec 1 1) (.retire 1) (opened7 (issued (.region 3 7 5 0)))
theorem witness_RegionsAndLines_13 :
    (∃ (s : State) (u : State) (port : Nat) (id : Nat) (i : Nat) (acc : Nat) (q : Nat) (r : Nat) (v : Nat) (src : Nat) (l : LineReq) (n : Node) (o : OpenVersion),
    s.boot.fatal = false ∧ s.cxh.lines.find? (fun l => l.port == port && l.id == id) = some l ∧ openNode s acc = some n ∧ n.acc = acc ∧
    n.cmd = .region q r v src ∧ s.cxh.failed.contains l.region = false ∧ rBad s l.region (lineOff (1 + i)) 64 = false ∧
    openVersion s l.pt l.region = some o ∧ l.rest = [] ∧
    u = countLine { s with cxh := { s.cxh with lines := s.cxh.lines.filter fun x => x.id != id } } l.pt ∧ l.op = .leave i ∧
    l.use = .closeRec acc i ∧ versionHeld s l.pt l.region acc = false ∧ (leaveRec (dropOpen (closeImports u o) o.pt l.region) l.region i).2 = []) ∧
    (∃ (s : State) (u : State) (port : Nat) (id : Nat) (i : Nat) (acc : Nat) (q : Nat) (r : Nat) (v : Nat) (src : Nat) (l : LineReq) (n : Node) (o : OpenVersion),
    s.boot.fatal = false ∧ s.cxh.lines.find? (fun l => l.port == port && l.id == id) = some l ∧ openNode s acc = some n ∧ n.acc = acc ∧
    n.cmd = .region q r v src ∧ s.cxh.failed.contains l.region = false ∧ rBad s l.region (lineOff (1 + i)) 64 = false ∧
    openVersion s l.pt l.region = some o ∧ l.rest = [] ∧
    u = countLine { s with cxh := { s.cxh with lines := s.cxh.lines.filter fun x => x.id != id } } l.pt ∧ l.op = .leave i ∧
    l.use = .closeRec acc i ∧ versionHeld s l.pt l.region acc = true) ∧
    (∃ (s : State) (u : State) (port : Nat) (id : Nat) (i : Nat) (acc : Nat) (q : Nat) (r : Nat) (v : Nat) (src : Nat) (l : LineReq) (n : Node) (o : OpenVersion),
    s.boot.fatal = false ∧ s.cxh.lines.find? (fun l => l.port == port && l.id == id) = some l ∧ openNode s acc = some n ∧ n.acc = acc ∧
    n.cmd = .region q r v src ∧ s.cxh.failed.contains l.region = false ∧ rBad s l.region (lineOff (1 + i)) 64 = false ∧
    openVersion s l.pt l.region = some o ∧ l.rest = [] ∧
    u = countLine { s with cxh := { s.cxh with lines := s.cxh.lines.filter fun x => x.id != id } } l.pt ∧ l.op = .retire i ∧
    l.use = .releaseRec acc i ∧ rBad s l.region 0 64 = false ∧ recLive s l.region i = true ∧ headRec s l.region ≠ i) ∧
    (∃ (s : State) (u : State) (port : Nat) (id : Nat) (i : Nat) (acc : Nat) (q : Nat) (r : Nat) (v : Nat) (src : Nat) (l : LineReq) (n : Node) (o : OpenVersion),
    s.boot.fatal = false ∧ s.cxh.lines.find? (fun l => l.port == port && l.id == id) = some l ∧ openNode s acc = some n ∧ n.acc = acc ∧
    n.cmd = .region q r v src ∧ s.cxh.failed.contains l.region = false ∧ rBad s l.region (lineOff (1 + i)) 64 = false ∧
    openVersion s l.pt l.region = some o ∧ l.rest = [] ∧
    u = countLine { s with cxh := { s.cxh with lines := s.cxh.lines.filter fun x => x.id != id } } l.pt ∧ l.op = .retire i ∧
    l.use = .releaseRec acc i ∧ rBad s l.region 0 64 = false ∧ ((recLive s l.region i = false ∨ headRec s l.region = i))) :=
  ⟨⟨s_RegionsAndLines_13, (taken (s_RegionsAndLines_13)), 0, 0, 0, 1, 2, 7, 0, 0, (askedOf (.closeRec 1 0) (.leave 0)),
    (live (.region 2 7 0 0)), open7, by decide +kernel⟩,
    ⟨s_RegionsAndLines_14, (taken (s_RegionsAndLines_14)), 0, 0, 0, 1, 2, 7, 0, 0, (askedOf (.closeRec 1 0) (.leave 0)),
    (live (.region 2 7 0 0)), open7, by decide +kernel⟩,
    ⟨s_RegionsAndLines_15, (taken (s_RegionsAndLines_15)), 0, 0, 1, 1, 3, 7, 5, 0, (askedOf (.releaseRec 1 1) (.retire 1)),
    (live (.region 3 7 5 0)), open7, by decide +kernel⟩,
    ⟨s_RegionsAndLines_16, (taken (s_RegionsAndLines_16)), 0, 0, 1, 1, 3, 7, 5, 0, (askedOf (.releaseRec 1 1) (.retire 1)),
    (live (.region 3 7 5 0)), open7, by decide +kernel⟩⟩

theorem witness_RegionsAndLines_17 : ∃ (s : State) (port : Nat) (id : Nat) (acc : Nat) (q : Nat) (r : Nat) (v : Nat) (src : Nat) (poison : Bool) (l : LineReq) (n : Node),
    s.boot.fatal = false ∧ s.cxh.lines.find? (fun l => l.port == port && l.id == id) = some l ∧ l.use.acc = some acc ∧ openNode s acc = some n ∧
    n.acc = acc ∧ n.cmd = .region q r v src ∧ ((poison = true ∨ rBad s l.region (lineOff l.op.line) 64 = true)) :=
  ⟨(asked (.releaseRec 1 1) (.retire 1) (opened7 (issued (.region 3 7 5 0)))), 0, 0, 1, 3, 7, 5, 0, true,
    (askedOf (.releaseRec 1 1) (.retire 1)), (live (.region 3 7 5 0)), by decide +kernel⟩

def s_RegionsAndLines_18 : State := let u := asked (.releaseRec 1 1) (.retire 1) (opened7 (issued (.region 3 7 5 0))); askLine (u.setCport 0 fun c => { c with snoops := [(7, 3, 1)] }) 0 7 .tidy (.drop 2)
theorem witness_RegionsAndLines_18 : ∃ (s : State) (t : State) (port : Nat) (id : Nat) (poison : Bool) (l : LineReq) (x : _),
    (s.boot.fatal = false ∧ port < s.cxh.ports.length ∧ s.cxh.lines.find? (fun l => l.port == port && l.id == id) = some l ∧
    x ∈ (t.cport port).snoops) ∧ exec (.ctrlLineGrant port ⟨id, poison⟩) s = .next t :=
  ⟨s_RegionsAndLines_18, (lineGrant (s_RegionsAndLines_18) 0 0 false), 0, 0, false, (askedOf (.releaseRec 1 1) (.retire 1)), ((7, 3, 1)), by decide +kernel, (grant_next _ _ _ _ (by decide +kernel))⟩

theorem witness_RegionsAndLines_19 :
    (∃ (s : State) (port : Nat) (region : Nat) (line : Nat) (n : Nat),
    s.boot.fatal = false ∧ port < s.cxh.ports.length ∧ (s.cport port).up = true ∧ snoopMeets s port region line n = true) ∧
    (∃ (s : State) (port : Nat) (region : Nat) (line : Nat) (n : Nat),
    s.boot.fatal = false ∧ port < s.cxh.ports.length ∧ (s.cport port).up = true ∧ snoopMeets s port region line n = false) ∧
    (∃ (s : State) (port : Nat),
    s.boot.fatal = false ∧ port < s.cxh.ports.length ∧ (s.cport port).up = false) :=
  ⟨⟨(asked (.releaseRec 1 1) (.retire 1) (opened7 (issued (.region 3 7 5 0)))), 0, 7, 0, 4, by decide +kernel⟩,
    ⟨(asked (.releaseRec 1 1) (.retire 1) (opened7 (issued (.region 3 7 5 0)))), 0, 7, 3, 4, by decide +kernel⟩,
    ⟨base, 0, by decide +kernel⟩⟩

def s_PublishWritesAVersion_0 : State := badAt 0 (listed (opened7 (issued (.region 1 7 0 (2 ^ 60)))))
theorem witness_PublishWritesAVersion_0 : ∃ (s : State) (acc : Nat) (r : Nat) (v : Nat) (src : Nat) (k : Nat) (tf : Nat) (n : Node) (o : OpenVersion) (h : List Byte) (bs : List Byte) (old : List Byte) (named : List Nat) (delta : List Nat) (cpns : List Nat) (bad : Bool),
    (liveNode s acc = some n ∧ n.acc = acc ∧ n.cmd = .region 1 r v src ∧ lineWaits s acc = false ∧ beginCheck s n = none ∧
    s.cxh.failed.contains r = false ∧ lineRoom s (rgnPort s r) = true ∧ openVersion s (ringPt n.ring) r = some o ∧ readRef s n src 16 = .ok h ∧
    k = field h 0 4 ∧ refInArea s n.hdr o.pt src (16 + 4 * k) = true ∧ readRef s n src (16 + 4 * k) = .ok bs ∧
    ((List.range k).map fun i => field bs (16 + 4 * i) 4).mapM (fun h => (handleSlot s h).bind fun x => if x.2.pt = o.pt then some x.1 else none) = some named ∧
    bad = (rBad s o.region 0 64 || rBad s o.region 0x10000 0x40000 || rBad s o.region 0x50000 (ceilDiv (rgnFrames s o.region) 8) || rBad s o.region (recTable s o.region o.slot * frameBytes) (recTableFrames s o.region o.slot * frameBytes)) ∧
    delta = (deepestFirst s (named.eraseDups.filter fun i => !tabHas (tabEntries old) (s.slot i))).reverse ∧
    cpns = delta.flatMap (fun i => (s.slot i).cpns) ∧ tf = ceilDiv (tableSize old delta.length cpns.length) frameBytes ∧ bad = true) ∧
    old = tabBytes s o.region o.slot :=
  ⟨s_PublishWritesAVersion_0, 1, 7, 0, (2 ^ 60), 1, 1, (live (.region 1 7 0 (2 ^ 60))), open7, (toLe 4 1 ++ zeros 12),
    ((toLe 4 1 ++ zeros 12) ++ toLe 4 handle100), (tabBytes (s_PublishWritesAVersion_0) 7 0), [100], [100], [10, 11], true, by decide +kernel, (rfl)⟩

def s_PublishWritesAVersion_1 : State := let u := listed (opened7 (issued (.region 1 7 0 (2 ^ 60)))); u.setSlot 100 fun d => { d with parent := 9 }
theorem witness_PublishWritesAVersion_1 : ∃ (s : State) (acc : Nat) (r : Nat) (v : Nat) (src : Nat) (k : Nat) (tf : Nat) (n : Node) (o : OpenVersion) (h : List Byte) (bs : List Byte) (old : List Byte) (named : List Nat) (delta : List Nat) (cpns : List Nat) (bad : Bool),
    (liveNode s acc = some n ∧ n.acc = acc ∧ n.cmd = .region 1 r v src ∧ lineWaits s acc = false ∧ beginCheck s n = none ∧
    s.cxh.failed.contains r = false ∧ lineRoom s (rgnPort s r) = true ∧ openVersion s (ringPt n.ring) r = some o ∧ readRef s n src 16 = .ok h ∧
    k = field h 0 4 ∧ refInArea s n.hdr o.pt src (16 + 4 * k) = true ∧ readRef s n src (16 + 4 * k) = .ok bs ∧
    ((List.range k).map fun i => field bs (16 + 4 * i) 4).mapM (fun h => (handleSlot s h).bind fun x => if x.2.pt = o.pt then some x.1 else none) = some named ∧
    bad = (rBad s o.region 0 64 || rBad s o.region 0x10000 0x40000 || rBad s o.region 0x50000 (ceilDiv (rgnFrames s o.region) 8) || rBad s o.region (recTable s o.region o.slot * frameBytes) (recTableFrames s o.region o.slot * frameBytes)) ∧
    delta = (deepestFirst s (named.eraseDups.filter fun i => !tabHas (tabEntries old) (s.slot i))).reverse ∧
    cpns = delta.flatMap (fun i => (s.slot i).cpns) ∧ tf = ceilDiv (tableSize old delta.length cpns.length) frameBytes ∧ bad = false ∧
    named.eraseDups.all (parentOk s (tabEntries old) named.eraseDups) = false) ∧ old = tabBytes s o.region o.slot :=
  ⟨s_PublishWritesAVersion_1, 1, 7, 0, (2 ^ 60), 1, 1, (live (.region 1 7 0 (2 ^ 60))), open7, (toLe 4 1 ++ zeros 12),
    ((toLe 4 1 ++ zeros 12) ++ toLe 4 handle100), (tabBytes (s_PublishWritesAVersion_1) 7 0), [100], [100], [10, 11], false, by decide +kernel, (rfl)⟩

def s_PublishWritesAVersion_2 : State := tabled (listed (opened7 (issued (.region 1 7 0 (2 ^ 60)))))
theorem witness_PublishWritesAVersion_2 : ∃ (s : State) (acc : Nat) (r : Nat) (v : Nat) (src : Nat) (k : Nat) (tf : Nat) (n : Node) (o : OpenVersion) (h : List Byte) (bs : List Byte) (old : List Byte) (named : List Nat) (delta : List Nat) (cpns : List Nat) (bad : Bool),
    (liveNode s acc = some n ∧ n.acc = acc ∧ n.cmd = .region 1 r v src ∧ lineWaits s acc = false ∧ beginCheck s n = none ∧
    s.cxh.failed.contains r = false ∧ lineRoom s (rgnPort s r) = true ∧ openVersion s (ringPt n.ring) r = some o ∧ readRef s n src 16 = .ok h ∧
    k = field h 0 4 ∧ refInArea s n.hdr o.pt src (16 + 4 * k) = true ∧ readRef s n src (16 + 4 * k) = .ok bs ∧
    ((List.range k).map fun i => field bs (16 + 4 * i) 4).mapM (fun h => (handleSlot s h).bind fun x => if x.2.pt = o.pt then some x.1 else none) = some named ∧
    bad = (rBad s o.region 0 64 || rBad s o.region 0x10000 0x40000 || rBad s o.region 0x50000 (ceilDiv (rgnFrames s o.region) 8) || rBad s o.region (recTable s o.region o.slot * frameBytes) (recTableFrames s o.region o.slot * frameBytes)) ∧
    delta = (deepestFirst s (named.eraseDups.filter fun i => !tabHas (tabEntries old) (s.slot i))).reverse ∧
    cpns = delta.flatMap (fun i => (s.slot i).cpns) ∧ tf = ceilDiv (tableSize old delta.length cpns.length) frameBytes ∧ bad = false ∧
    named.eraseDups.all (parentOk s (tabEntries old) named.eraseDups) = true ∧ delta = []) ∧ old = tabBytes s o.region o.slot :=
  ⟨s_PublishWritesAVersion_2, 1, 7, 0, (2 ^ 60), 1, 1, (live (.region 1 7 0 (2 ^ 60))), open7, (toLe 4 1 ++ zeros 12),
    ((toLe 4 1 ++ zeros 12) ++ toLe 4 handle100), (tabBytes (s_PublishWritesAVersion_2) 7 0), [100], [], [], false, by decide +kernel, (rfl)⟩

def s_PublishWritesAVersion_3 : State := let u := listed (opened7 (issued (.region 1 7 0 (2 ^ 60)))); { u with seq := { u.seq with locs := [(10, { state := .poisoned, refcnt := 1, addr := 16384 }), (11, { state := .resident, refcnt := 1, addr := 16385 })] } }
theorem witness_PublishWritesAVersion_3 : ∃ (s : State) (acc : Nat) (r : Nat) (v : Nat) (src : Nat) (k : Nat) (tf : Nat) (n : Node) (o : OpenVersion) (h : List Byte) (bs : List Byte) (old : List Byte) (named : List Nat) (delta : List Nat) (cpns : List Nat) (bad : Bool),
    (liveNode s acc = some n ∧ n.acc = acc ∧ n.cmd = .region 1 r v src ∧ lineWaits s acc = false ∧ beginCheck s n = none ∧
    s.cxh.failed.contains r = false ∧ lineRoom s (rgnPort s r) = true ∧ openVersion s (ringPt n.ring) r = some o ∧ readRef s n src 16 = .ok h ∧
    k = field h 0 4 ∧ refInArea s n.hdr o.pt src (16 + 4 * k) = true ∧ readRef s n src (16 + 4 * k) = .ok bs ∧
    ((List.range k).map fun i => field bs (16 + 4 * i) 4).mapM (fun h => (handleSlot s h).bind fun x => if x.2.pt = o.pt then some x.1 else none) = some named ∧
    bad = (rBad s o.region 0 64 || rBad s o.region 0x10000 0x40000 || rBad s o.region 0x50000 (ceilDiv (rgnFrames s o.region) 8) || rBad s o.region (recTable s o.region o.slot * frameBytes) (recTableFrames s o.region o.slot * frameBytes)) ∧
    delta = (deepestFirst s (named.eraseDups.filter fun i => !tabHas (tabEntries old) (s.slot i))).reverse ∧
    cpns = delta.flatMap (fun i => (s.slot i).cpns) ∧ tf = ceilDiv (tableSize old delta.length cpns.length) frameBytes ∧ bad = false ∧
    named.eraseDups.all (parentOk s (tabEntries old) named.eraseDups) = true ∧ delta ≠ [] ∧ cpns.any (pagePoisoned s) = true) ∧
    old = tabBytes s o.region o.slot :=
  ⟨s_PublishWritesAVersion_3, 1, 7, 0, (2 ^ 60), 1, 1, (live (.region 1 7 0 (2 ^ 60))), open7, (toLe 4 1 ++ zeros 12),
    ((toLe 4 1 ++ zeros 12) ++ toLe 4 handle100), (tabBytes (s_PublishWritesAVersion_3) 7 0), [100], [100], [10, 11], false, by decide +kernel, (rfl)⟩

def s_PublishWritesAVersion_4 : State := let u := listed (opened7 (issued (.region 1 7 0 (2 ^ 60)))); { u with seq := { u.seq with locs := [(10, { state := .resident, refcnt := 1, tier := .t3, addr := 5 }), (11, { state := .resident, refcnt := 1, addr := 16385 })] } }
theorem witness_PublishWritesAVersion_4 : ∃ (s : State) (acc : Nat) (r : Nat) (v : Nat) (src : Nat) (k : Nat) (tf : Nat) (n : Node) (o : OpenVersion) (h : List Byte) (bs : List Byte) (old : List Byte) (named : List Nat) (delta : List Nat) (cpns : List Nat) (bad : Bool) (c : _),
    (liveNode s acc = some n ∧ n.acc = acc ∧ n.cmd = .region 1 r v src ∧ lineWaits s acc = false ∧ beginCheck s n = none ∧
    s.cxh.failed.contains r = false ∧ lineRoom s (rgnPort s r) = true ∧ openVersion s (ringPt n.ring) r = some o ∧ readRef s n src 16 = .ok h ∧
    k = field h 0 4 ∧ refInArea s n.hdr o.pt src (16 + 4 * k) = true ∧ readRef s n src (16 + 4 * k) = .ok bs ∧
    ((List.range k).map fun i => field bs (16 + 4 * i) 4).mapM (fun h => (handleSlot s h).bind fun x => if x.2.pt = o.pt then some x.1 else none) = some named ∧
    bad = (rBad s o.region 0 64 || rBad s o.region 0x10000 0x40000 || rBad s o.region 0x50000 (ceilDiv (rgnFrames s o.region) 8) || rBad s o.region (recTable s o.region o.slot * frameBytes) (recTableFrames s o.region o.slot * frameBytes)) ∧
    delta = (deepestFirst s (named.eraseDups.filter fun i => !tabHas (tabEntries old) (s.slot i))).reverse ∧
    cpns = delta.flatMap (fun i => (s.slot i).cpns) ∧ tf = ceilDiv (tableSize old delta.length cpns.length) frameBytes ∧ bad = false ∧
    named.eraseDups.all (parentOk s (tabEntries old) named.eraseDups) = true ∧ delta ≠ [] ∧ cpns.any (pagePoisoned s) = false ∧
    cpns.filter (fun c => !upper (s.loc c) || (s.loc c).state == .moving) = [c] ∧ rising s c = false ∧ reqOf s c = none ∧
    s.blw.queue.length < 65536) ∧ old = tabBytes s o.region o.slot :=
  ⟨s_PublishWritesAVersion_4, 1, 7, 0, (2 ^ 60), 1, 1, (live (.region 1 7 0 (2 ^ 60))), open7, (toLe 4 1 ++ zeros 12),
    ((toLe 4 1 ++ zeros 12) ++ toLe 4 handle100), (tabBytes (s_PublishWritesAVersion_4) 7 0), [100], [100], [10, 11], false, 10, by decide +kernel, (rfl)⟩

def s_PublishWritesAVersion_5 : State := noFrames (frames2 (listed (opened7 (issued (.region 1 7 0 (2 ^ 60))))))
theorem witness_PublishWritesAVersion_5 : ∃ (s : State) (acc : Nat) (r : Nat) (v : Nat) (src : Nat) (k : Nat) (tf : Nat) (n : Node) (o : OpenVersion) (h : List Byte) (bs : List Byte) (old : List Byte) (named : List Nat) (delta : List Nat) (cpns : List Nat) (bad : Bool),
    (liveNode s acc = some n ∧ n.acc = acc ∧ n.cmd = .region 1 r v src ∧ lineWaits s acc = false ∧ beginCheck s n = none ∧
    s.cxh.failed.contains r = false ∧ lineRoom s (rgnPort s r) = true ∧ openVersion s (ringPt n.ring) r = some o ∧ readRef s n src 16 = .ok h ∧
    k = field h 0 4 ∧ refInArea s n.hdr o.pt src (16 + 4 * k) = true ∧ readRef s n src (16 + 4 * k) = .ok bs ∧
    ((List.range k).map fun i => field bs (16 + 4 * i) 4).mapM (fun h => (handleSlot s h).bind fun x => if x.2.pt = o.pt then some x.1 else none) = some named ∧
    bad = (rBad s o.region 0 64 || rBad s o.region 0x10000 0x40000 || rBad s o.region 0x50000 (ceilDiv (rgnFrames s o.region) 8) || rBad s o.region (recTable s o.region o.slot * frameBytes) (recTableFrames s o.region o.slot * frameBytes)) ∧
    delta = (deepestFirst s (named.eraseDups.filter fun i => !tabHas (tabEntries old) (s.slot i))).reverse ∧
    cpns = delta.flatMap (fun i => (s.slot i).cpns) ∧ tf = ceilDiv (tableSize old delta.length cpns.length) frameBytes ∧ bad = false ∧
    named.eraseDups.all (parentOk s (tabEntries old) named.eraseDups) = true ∧ delta ≠ [] ∧ cpns.any (pagePoisoned s) = false ∧
    cpns.filter (fun c => !upper (s.loc c) || (s.loc c).state == .moving) = [] ∧
    ((stepFrames s o.region o.pt cpns.length tf = none ∨ freeRec s o.region = none))) ∧ old = tabBytes s o.region o.slot :=
  ⟨s_PublishWritesAVersion_5, 1, 7, 0, (2 ^ 60), 1, 1, (live (.region 1 7 0 (2 ^ 60))), open7, (toLe 4 1 ++ zeros 12),
    ((toLe 4 1 ++ zeros 12) ++ toLe 4 handle100), (tabBytes (s_PublishWritesAVersion_5) 7 0), [100], [100], [10, 11], false, by decide +kernel, (rfl)⟩

def s_PublishWritesAVersion_6 : State := frames2 (listed (opened7 (issued (.region 1 7 0 (2 ^ 60)))))
theorem witness_PublishWritesAVersion_6 : ∃ (s : State) (acc : Nat) (r : Nat) (v : Nat) (src : Nat) (k : Nat) (tf : Nat) (n : Node) (o : OpenVersion) (h : List Byte) (bs : List Byte) (old : List Byte) (named : List Nat) (delta : List Nat) (cpns : List Nat) (bad : Bool) (fs : _) (b : _) (i : _),
    (liveNode s acc = some n ∧ n.acc = acc ∧ n.cmd = .region 1 r v src ∧ lineWaits s acc = false ∧ beginCheck s n = none ∧
    s.cxh.failed.contains r = false ∧ lineRoom s (rgnPort s r) = true ∧ openVersion s (ringPt n.ring) r = some o ∧ readRef s n src 16 = .ok h ∧
    k = field h 0 4 ∧ refInArea s n.hdr o.pt src (16 + 4 * k) = true ∧ readRef s n src (16 + 4 * k) = .ok bs ∧
    ((List.range k).map fun i => field bs (16 + 4 * i) 4).mapM (fun h => (handleSlot s h).bind fun x => if x.2.pt = o.pt then some x.1 else none) = some named ∧
    bad = (rBad s o.region 0 64 || rBad s o.region 0x10000 0x40000 || rBad s o.region 0x50000 (ceilDiv (rgnFrames s o.region) 8) || rBad s o.region (recTable s o.region o.slot * frameBytes) (recTableFrames s o.region o.slot * frameBytes)) ∧
    delta = (deepestFirst s (named.eraseDups.filter fun i => !tabHas (tabEntries old) (s.slot i))).reverse ∧
    cpns = delta.flatMap (fun i => (s.slot i).cpns) ∧ tf = ceilDiv (tableSize old delta.length cpns.length) frameBytes ∧ bad = false ∧
    named.eraseDups.all (parentOk s (tabEntries old) named.eraseDups) = true ∧ delta ≠ [] ∧ cpns.any (pagePoisoned s) = false ∧
    cpns.filter (fun c => !upper (s.loc c) || (s.loc c).state == .moving) = [] ∧ stepFrames s o.region o.pt cpns.length tf = some (fs, b) ∧
    freeRec s o.region = some i) ∧ old = tabBytes s o.region o.slot :=
  ⟨s_PublishWritesAVersion_6, 1, 7, 0, (2 ^ 60), 1, 1, (live (.region 1 7 0 (2 ^ 60))), open7, (toLe 4 1 ++ zeros 12),
    ((toLe 4 1 ++ zeros 12) ++ toLe 4 handle100), (tabBytes (s_PublishWritesAVersion_6) 7 0), [100], [100], [10, 11], false, [513, 514], 515, 1, by decide +kernel, (rfl)⟩

theorem witness_PublishWritesAVersion_7 : ∃ (s : State) (acc : Nat) (r : Nat) (v : Nat) (src : Nat) (k : Nat) (n : Node) (o : OpenVersion) (h : List Byte) (c : Comp),
    (liveNode s acc = some n ∧ n.acc = acc ∧ n.cmd = .region 1 r v src ∧ lineWaits s acc = false ∧ beginCheck s n = none ∧
    s.cxh.failed.contains r = false ∧ lineRoom s (rgnPort s r) = true ∧ openVersion s (ringPt n.ring) r = some o ∧ readRef s n src 16 = .ok h ∧
    k = field h 0 4) ∧ (((refInArea s n.hdr o.pt src (16 + 4 * k) = false ∧
    c = failWith .perm) ∨ (refInArea s n.hdr o.pt src (16 + 4 * k) = true ∧ c = invalidAt 32 ∧ ∃ bs, readRef s n src (16 + 4 * k) = .ok bs ∧
    ((List.range k).map fun i => field bs (16 + 4 * i) 4).mapM (fun h => (handleSlot s h).bind fun x => if x.2.pt = o.pt then some x.1 else none) = none))) :=
  ⟨(let u := listed (opened7 (issued (.region 1 7 0 (2 ^ 60)))); u.setSlot 100 fun d => { d with pt := 1 }), 1, 7, 0, (2 ^ 60), 1,
    (live (.region 1 7 0 (2 ^ 60))), open7, (toLe 4 1 ++ zeros 12), (invalidAt 32), by decide +kernel, (.inr ⟨by decide +kernel, rfl, toLe 4 1 ++ zeros 12 ++ toLe 4 handle100, by decide +kernel, by decide +kernel⟩)⟩

def s_PublishWritesAVersion_8 : State := asked (.publish 1 ({ pages := [512], table := 515, tableFrames := 1, delta := [100], top := 0 })) (.claim [512]) (frames2 (listed (opened7 (issued (live (.region 1 7 0 (2 ^ 60))).cmd))))
def j_PublishWritesAVersion_8 : PubJob := { pages := [512], table := 515, tableFrames := 1, delta := [100], top := 0 }
theorem witness_PublishWritesAVersion_8 : ∃ (s : State) (u : State) (port : Nat) (id : Nat) (acc : Nat) (l : LineReq) (j : PubJob) (n : Node) (o : OpenVersion) (ls : List LineReq) (fs : _),
    s.boot.fatal = false ∧ s.cxh.lines.find? (fun l => l.port == port && l.id == id) = some l ∧ l.use = .publish acc j ∧
    openNode s acc = some n ∧ n.acc = acc ∧ openVersion s l.pt l.region = some o ∧ s.cxh.failed.contains l.region = false ∧
    rBad s l.region (lineOff l.op.line) 64 = false ∧ ls = s.cxh.lines.filter (fun x => x.id != id) ∧
    u = countLine { s with cxh := { s.cxh with lines := ls } } l.pt ∧ l.op = .claim fs ∧ fs.any (frameSet s l.region) = true ∧ j.taken = [] :=
  ⟨s_PublishWritesAVersion_8, (taken (s_PublishWritesAVersion_8)), 0, 0, 1, (askedOf (.publish 1 (j_PublishWritesAVersion_8)) (.claim [512])),
    j_PublishWritesAVersion_8, (live (.region 1 7 0 (2 ^ 60))), open7, [], [512], by decide +kernel⟩

def s_PublishWritesAVersion_9 : State := asked (.publish 1 ({ pages := [512, 513], table := 515, tableFrames := 1, taken := [600], delta := [100], top := 0 })) (.claim [512]) (frames2 (listed (opened7 (issued (live (.region 1 7 0 (2 ^ 60))).cmd))))
def j_PublishWritesAVersion_9 : PubJob := { pages := [512, 513], table := 515, tableFrames := 1, taken := [600], delta := [100], top := 0 }
theorem witness_PublishWritesAVersion_9 : ∃ (s : State) (u : State) (port : Nat) (id : Nat) (acc : Nat) (l : LineReq) (j : PubJob) (n : Node) (o : OpenVersion) (ls : List LineReq) (fs : _) (gs : _) (rest : _),
    s.boot.fatal = false ∧ s.cxh.lines.find? (fun l => l.port == port && l.id == id) = some l ∧ l.use = .publish acc j ∧
    openNode s acc = some n ∧ n.acc = acc ∧ openVersion s l.pt l.region = some o ∧ s.cxh.failed.contains l.region = false ∧
    rBad s l.region (lineOff l.op.line) 64 = false ∧ ls = s.cxh.lines.filter (fun x => x.id != id) ∧
    u = countLine { s with cxh := { s.cxh with lines := ls } } l.pt ∧ l.op = .claim fs ∧ fs.any (frameSet s l.region) = true ∧
    byLine j.taken = gs :: rest ∧ rBad s l.region (lineOff (4097 + gs.headD 0 / 512)) 64 = false :=
  ⟨s_PublishWritesAVersion_9, (taken (s_PublishWritesAVersion_9)), 0, 0, 1, (askedOf (.publish 1 (j_PublishWritesAVersion_9)) (.claim [512])),
    j_PublishWritesAVersion_9, (live (.region 1 7 0 (2 ^ 60))), open7, [], [512], [600], [], by decide +kernel⟩

def s_PublishWritesAVersion_10 : State := asks [.claim [513], .claim [1024]] (.publish 1 ({ pages := [513, 514], table := 1024, tableFrames := 1, delta := [100], top := 0 })) (frames2 (listed (opened7 (issued (live (.region 1 7 0 (2 ^ 60))).cmd))))
def j_PublishWritesAVersion_10 : PubJob := { pages := [513, 514], table := 1024, tableFrames := 1, delta := [100], top := 0 }
theorem witness_PublishWritesAVersion_10 : ∃ (s : State) (u : State) (port : Nat) (id : Nat) (acc : Nat) (l : LineReq) (j : PubJob) (n : Node) (o : OpenVersion) (ls : List LineReq) (fs : _) (op : _) (rest : _),
    s.boot.fatal = false ∧ s.cxh.lines.find? (fun l => l.port == port && l.id == id) = some l ∧ l.use = .publish acc j ∧
    openNode s acc = some n ∧ n.acc = acc ∧ openVersion s l.pt l.region = some o ∧ s.cxh.failed.contains l.region = false ∧
    rBad s l.region (lineOff l.op.line) 64 = false ∧ ls = s.cxh.lines.filter (fun x => x.id != id) ∧
    u = countLine { s with cxh := { s.cxh with lines := ls } } l.pt ∧ l.op = .claim fs ∧ fs.any (frameSet s l.region) = false ∧
    l.rest = op :: rest ∧ rBad s l.region (lineOff op.line) 64 = false :=
  ⟨s_PublishWritesAVersion_10, (taken (s_PublishWritesAVersion_10)), 0, 0, 1,
    ({ askedOf (.publish 1 (j_PublishWritesAVersion_10)) (.claim [513])  with rest := [.claim [1024]] }), j_PublishWritesAVersion_10,
    (live (.region 1 7 0 (2 ^ 60))), open7, [], [513], (.claim [1024]), [], by decide +kernel⟩

def s_PublishWritesAVersion_11 : State := asks [.claim [513, 514, 515]] (.publish 1 ({ pages := [513, 514], table := 515, tableFrames := 1, delta := [100], top := 0 })) (frames2 (listed (opened7 (issued (live (.region 1 7 0 (2 ^ 60))).cmd))))
def l_PublishWritesAVersion_11 : LineReq := askedOf (.publish 1 ({ pages := [513, 514], table := 515, tableFrames := 1, delta := [100], top := 0 })) (.claim [513, 514, 515])
def j_PublishWritesAVersion_11 : PubJob := { pages := [513, 514], table := 515, tableFrames := 1, delta := [100], top := 0 }
theorem witness_PublishWritesAVersion_11 : ∃ (s : State) (u : State) (port : Nat) (id : Nat) (acc : Nat) (l : LineReq) (j : PubJob) (n : Node) (o : OpenVersion) (ls : List LineReq) (fs : _) (i : _) (w : _),
    (s.boot.fatal = false ∧ s.cxh.lines.find? (fun l => l.port == port && l.id == id) = some l ∧ l.use = .publish acc j ∧
    openNode s acc = some n ∧ n.acc = acc ∧ openVersion s l.pt l.region = some o ∧ s.cxh.failed.contains l.region = false ∧
    rBad s l.region (lineOff l.op.line) 64 = false ∧ ls = s.cxh.lines.filter (fun x => x.id != id) ∧
    u = countLine { s with cxh := { s.cxh with lines := ls } } l.pt ∧ l.op = .claim fs ∧ fs.any (frameSet s l.region) = false ∧ l.rest = [] ∧
    freeRec (setFrames u l.region true fs) l.region = some i ∧ rBad s l.region (recOff i) 64 = false ∧
    (j.taken ++ fs).all (frameTakes s l.region) = true) ∧
    w = writeRegionPages (setFrames u l.region true fs) l.pt l.region ((j.delta.flatMap fun i => (s.slot i).cpns).zip j.pages) :=
  ⟨s_PublishWritesAVersion_11, (taken (s_PublishWritesAVersion_11)), 0, 0, 1, l_PublishWritesAVersion_11, j_PublishWritesAVersion_11,
    (live (.region 1 7 0 (2 ^ 60))), open7, [], [513, 514, 515], 1,
    (writeRegionPages (setFrames (taken (s_PublishWritesAVersion_11)) (l_PublishWritesAVersion_11).region true ([513, 514, 515])) (l_PublishWritesAVersion_11).pt (l_PublishWritesAVersion_11).region (((j_PublishWritesAVersion_11).delta.flatMap fun i => ((s_PublishWritesAVersion_11).slot i).cpns).zip (j_PublishWritesAVersion_11).pages)), by decide +kernel, (rfl)⟩

def s_PublishWritesAVersion_12 : State := asks [.claim [1024]] (.publish 1 ({ pages := [1020, 1021], table := 1022, tableFrames := 1, taken := [1025], delta := [100], top := 0 })) (drained (frames2 (listed (opened7 (issued (live (.region 1 7 0 (2 ^ 60))).cmd)))))
def j_PublishWritesAVersion_12 : PubJob := { pages := [1020, 1021], table := 1022, tableFrames := 1, taken := [1025], delta := [100], top := 0 }
theorem witness_PublishWritesAVersion_12 : ∃ (s : State) (u : State) (port : Nat) (id : Nat) (acc : Nat) (l : LineReq) (j : PubJob) (n : Node) (o : OpenVersion) (ls : List LineReq) (fs : _),
    s.boot.fatal = false ∧ s.cxh.lines.find? (fun l => l.port == port && l.id == id) = some l ∧ l.use = .publish acc j ∧
    openNode s acc = some n ∧ n.acc = acc ∧ openVersion s l.pt l.region = some o ∧ s.cxh.failed.contains l.region = false ∧
    rBad s l.region (lineOff l.op.line) 64 = false ∧ ls = s.cxh.lines.filter (fun x => x.id != id) ∧
    u = countLine { s with cxh := { s.cxh with lines := ls } } l.pt ∧ l.op = .claim fs ∧ fs.any (frameSet s l.region) = false ∧ l.rest = [] ∧
    byLine (j.taken ++ fs) ≠ [] ∧ freeRec (setFrames u l.region true fs) l.region ≠ none ∧ (j.taken ++ fs).all (frameTakes s l.region) = false ∧
    rBad s l.region (lineOff (4097 + ((byLine (j.taken ++ fs)).headD []).headD 0 / 512)) 64 = false :=
  ⟨s_PublishWritesAVersion_12, (taken (s_PublishWritesAVersion_12)), 0, 0, 1,
    (askedOf (.publish 1 (j_PublishWritesAVersion_12)) (.claim [1024])), j_PublishWritesAVersion_12, (live (.region 1 7 0 (2 ^ 60))), open7, [],
    [1024], by decide +kernel⟩

def s_PublishWritesAVersion_13 : State := asked (.publish 1 ({ pages := [513, 514], table := 515, tableFrames := 1, taken := [513, 514, 515], delta := [100], top := 0 })) (.stage 1) (frames2 (listed (opened7 (issued (live (.region 1 7 0 (2 ^ 60))).cmd))))
def j_PublishWritesAVersion_13 : PubJob := { pages := [513, 514], table := 515, tableFrames := 1, taken := [513, 514, 515], delta := [100], top := 0 }
theorem witness_PublishWritesAVersion_13 : ∃ (s : State) (u : State) (port : Nat) (id : Nat) (acc : Nat) (l : LineReq) (j : PubJob) (n : Node) (o : OpenVersion) (ls : List LineReq) (i : _) (k : _),
    s.boot.fatal = false ∧ s.cxh.lines.find? (fun l => l.port == port && l.id == id) = some l ∧ l.use = .publish acc j ∧
    openNode s acc = some n ∧ n.acc = acc ∧ openVersion s l.pt l.region = some o ∧ s.cxh.failed.contains l.region = false ∧
    rBad s l.region (lineOff l.op.line) 64 = false ∧ ls = s.cxh.lines.filter (fun x => x.id != id) ∧
    u = countLine { s with cxh := { s.cxh with lines := ls } } l.pt ∧ l.op = .stage i ∧ freeRec s l.region = some k ∧
    recState s l.region i = 0 ∧ headRec s l.region ≠ i ∧ rBad s l.region 0 64 = false :=
  ⟨s_PublishWritesAVersion_13, (taken (s_PublishWritesAVersion_13)), 0, 0, 1, (askedOf (.publish 1 (j_PublishWritesAVersion_13)) (.stage 1)),
    j_PublishWritesAVersion_13, (live (.region 1 7 0 (2 ^ 60))), open7, [], 1, 1, by decide +kernel⟩

def s_PublishWritesAVersion_14 : State := asked (.publish 1 ({ pages := [513, 514], table := 515, tableFrames := 1, taken := [513, 514, 515], delta := [100], top := 0 })) (.stage 1) (twoVersions (frames2 (listed (opened7 (issued (live (.region 1 7 0 (2 ^ 60))).cmd)))))
def j_PublishWritesAVersion_14 : PubJob := { pages := [513, 514], table := 515, tableFrames := 1, taken := [513, 514, 515], delta := [100], top := 0 }
theorem witness_PublishWritesAVersion_14 : ∃ (s : State) (u : State) (port : Nat) (id : Nat) (acc : Nat) (l : LineReq) (j : PubJob) (n : Node) (o : OpenVersion) (ls : List LineReq) (i : _) (k : _),
    s.boot.fatal = false ∧ s.cxh.lines.find? (fun l => l.port == port && l.id == id) = some l ∧ l.use = .publish acc j ∧
    openNode s acc = some n ∧ n.acc = acc ∧ openVersion s l.pt l.region = some o ∧ s.cxh.failed.contains l.region = false ∧
    rBad s l.region (lineOff l.op.line) 64 = false ∧ ls = s.cxh.lines.filter (fun x => x.id != id) ∧
    u = countLine { s with cxh := { s.cxh with lines := ls } } l.pt ∧ l.op = .stage i ∧ freeRec s l.region = some k ∧
    ((recState s l.region i ≠ 0 ∨ headRec s l.region = i)) ∧ rBad s l.region (recOff k) 64 = false :=
  ⟨s_PublishWritesAVersion_14, (taken (s_PublishWritesAVersion_14)), 0, 0, 1, (askedOf (.publish 1 (j_PublishWritesAVersion_14)) (.stage 1)),
    j_PublishWritesAVersion_14, (live (.region 1 7 0 (2 ^ 60))), open7, [], 1, 2, by decide +kernel⟩

def s_PublishWritesAVersion_15 : State := asked (.publish 1 ({ pages := [513, 514], table := 515, tableFrames := 1, taken := [513, 514, 515], delta := [100], top := 0 })) (.head 1) (staged1 1 (frames2 (listed (opened7 (issued (live (.region 1 7 0 (2 ^ 60))).cmd)))))
def j_PublishWritesAVersion_15 : PubJob := { pages := [513, 514], table := 515, tableFrames := 1, taken := [513, 514, 515], delta := [100], top := 0 }
theorem witness_PublishWritesAVersion_15 : ∃ (s : State) (u : State) (port : Nat) (id : Nat) (acc : Nat) (l : LineReq) (j : PubJob) (n : Node) (o : OpenVersion) (ls : List LineReq) (i : _),
    s.boot.fatal = false ∧ s.cxh.lines.find? (fun l => l.port == port && l.id == id) = some l ∧ l.use = .publish acc j ∧
    openNode s acc = some n ∧ n.acc = acc ∧ openVersion s l.pt l.region = some o ∧ s.cxh.failed.contains l.region = false ∧
    rBad s l.region (lineOff l.op.line) 64 = false ∧ ls = s.cxh.lines.filter (fun x => x.id != id) ∧
    u = countLine { s with cxh := { s.cxh with lines := ls } } l.pt ∧ l.op = .head i ∧ rBad s l.region (lineOff (1 + i)) 64 = false ∧
    headVersion s l.region = rget s l.region (recOff i + 8) 8 :=
  ⟨s_PublishWritesAVersion_15, (taken (s_PublishWritesAVersion_15)), 0, 0, 1, (askedOf (.publish 1 (j_PublishWritesAVersion_15)) (.head 1)),
    j_PublishWritesAVersion_15, (live (.region 1 7 0 (2 ^ 60))), open7, [], 1, by decide +kernel⟩

def s_PublishWritesAVersion_16 : State := asked (.publish 1 ({ pages := [513, 514], table := 515, tableFrames := 1, taken := [513, 514, 515], delta := [100], top := 0 })) (.head 1) (staged1 3 (frames2 (listed (opened7 (issued (live (.region 1 7 0 (2 ^ 60))).cmd)))))
def j_PublishWritesAVersion_16 : PubJob := { pages := [513, 514], table := 515, tableFrames := 1, taken := [513, 514, 515], delta := [100], top := 0 }
theorem witness_PublishWritesAVersion_16 : ∃ (s : State) (u : State) (port : Nat) (id : Nat) (acc : Nat) (l : LineReq) (j : PubJob) (n : Node) (o : OpenVersion) (ls : List LineReq) (i : _),
    s.boot.fatal = false ∧ s.cxh.lines.find? (fun l => l.port == port && l.id == id) = some l ∧ l.use = .publish acc j ∧
    openNode s acc = some n ∧ n.acc = acc ∧ openVersion s l.pt l.region = some o ∧ s.cxh.failed.contains l.region = false ∧
    rBad s l.region (lineOff l.op.line) 64 = false ∧ ls = s.cxh.lines.filter (fun x => x.id != id) ∧
    u = countLine { s with cxh := { s.cxh with lines := ls } } l.pt ∧ l.op = .head i ∧ rBad s l.region (lineOff (1 + i)) 64 = false ∧
    headVersion s l.region ≠ rget s l.region (recOff i + 8) 8 :=
  ⟨s_PublishWritesAVersion_16, (taken (s_PublishWritesAVersion_16)), 0, 0, 1, (askedOf (.publish 1 (j_PublishWritesAVersion_16)) (.head 1)),
    j_PublishWritesAVersion_16, (live (.region 1 7 0 (2 ^ 60))), open7, [], 1, by decide +kernel⟩

def s_PublishWritesAVersion_17 : State := asks [.live 1, .leave 0] (.publish 1 ({ pages := [513, 514], table := 515, tableFrames := 1, taken := [513, 514, 515], delta := [100], top := 0, slot := 1 })) (staged1 1 (frames2 (listed (opened7 (issued (live (.region 1 7 0 (2 ^ 60))).cmd)))))
def j_PublishWritesAVersion_17 : PubJob := { pages := [513, 514], table := 515, tableFrames := 1, taken := [513, 514, 515], delta := [100], top := 0, slot := 1 }
theorem witness_PublishWritesAVersion_17 : ∃ (s : State) (u : State) (port : Nat) (id : Nat) (acc : Nat) (l : LineReq) (j : PubJob) (n : Node) (o : OpenVersion) (ls : List LineReq) (i : _) (op : _) (rest : _),
    s.boot.fatal = false ∧ s.cxh.lines.find? (fun l => l.port == port && l.id == id) = some l ∧ l.use = .publish acc j ∧
    openNode s acc = some n ∧ n.acc = acc ∧ openVersion s l.pt l.region = some o ∧ s.cxh.failed.contains l.region = false ∧
    rBad s l.region (lineOff l.op.line) 64 = false ∧ ls = s.cxh.lines.filter (fun x => x.id != id) ∧
    u = countLine { s with cxh := { s.cxh with lines := ls } } l.pt ∧ l.op = .live i ∧ l.rest = op :: rest ∧
    rBad s l.region (lineOff op.line) 64 = false :=
  ⟨s_PublishWritesAVersion_17, (taken (s_PublishWritesAVersion_17)), 0, 0, 1,
    ({ askedOf (.publish 1 (j_PublishWritesAVersion_17)) (.live 1) with rest := [.leave 0] }), j_PublishWritesAVersion_17,
    (live (.region 1 7 0 (2 ^ 60))), open7, [], 1, (.leave 0), [], by decide +kernel⟩

def s_PublishWritesAVersion_18 : State := asks [.leave 0] (.publish 1 ({ pages := [513, 514], table := 515, tableFrames := 1, taken := [513, 514, 515], delta := [100], top := 0, slot := 1 })) (staged1 1 (frames2 (listed (opened7 (issued (live (.region 1 7 0 (2 ^ 60))).cmd)))))
def j_PublishWritesAVersion_18 : PubJob := { pages := [513, 514], table := 515, tableFrames := 1, taken := [513, 514, 515], delta := [100], top := 0, slot := 1 }
theorem witness_PublishWritesAVersion_18 : ∃ (s : State) (u : State) (port : Nat) (id : Nat) (acc : Nat) (l : LineReq) (j : PubJob) (n : Node) (o : OpenVersion) (ls : List LineReq) (i : _) (q : _) (r : _) (v : _) (src : _),
    s.boot.fatal = false ∧ s.cxh.lines.find? (fun l => l.port == port && l.id == id) = some l ∧ l.use = .publish acc j ∧
    openNode s acc = some n ∧ n.acc = acc ∧ openVersion s l.pt l.region = some o ∧ s.cxh.failed.contains l.region = false ∧
    rBad s l.region (lineOff l.op.line) 64 = false ∧ ls = s.cxh.lines.filter (fun x => x.id != id) ∧
    u = countLine { s with cxh := { s.cxh with lines := ls } } l.pt ∧ l.op = .leave i ∧ l.rest = [] ∧ (leaveRec u l.region i).2 = [] ∧
    n.cmd = .region q r v src :=
  ⟨s_PublishWritesAVersion_18, (taken (s_PublishWritesAVersion_18)), 0, 0, 1, (askedOf (.publish 1 (j_PublishWritesAVersion_18)) (.leave 0)),
    j_PublishWritesAVersion_18, (live (.region 1 7 0 (2 ^ 60))), open7, [], 0, 1, 7, 0, (2 ^ 60), by decide +kernel⟩

def n_PublishWritesAVersion_19 : Node := live (.region 1 7 0 (2 ^ 60))
theorem witness_PublishWritesAVersion_19 : ∃ (s : State) (port : Nat) (id : Nat) (acc : Nat) (q : Nat) (r : Nat) (v : Nat) (src : Nat) (top : Nat) (l : LineReq) (n : Node) (c : Comp),
    (s.boot.fatal = false ∧ s.cxh.lines.find? (fun l => l.port == port && l.id == id) = some l ∧ l.use = .back acc top (some c) ∧ l.rest = [] ∧
    openNode s acc = some n ∧ n.acc = acc ∧ n.cmd = .region q r v src ∧ s.cxh.failed.contains l.region = false ∧
    rBad s l.region (lineOff l.op.line) 64 = false) ∧ (((∃ i, l.op = .drop i) ∨ ∃ fs, l.op = .clear fs)) :=
  ⟨(asked (.back 1 0 (some (failWith .nospace))) (.drop 1) (staged1 1 (frames2 (listed (opened7 (issued (n_PublishWritesAVersion_19).cmd)))))),
    0, 0, 1, 1, 7, 0, (2 ^ 60), 0, (askedOf (.back 1 0 (some (failWith .nospace))) (.drop 1)), n_PublishWritesAVersion_19, (failWith .nospace), by decide +kernel, (.inl ⟨1, rfl⟩)⟩

theorem witness_ExtentsAndPoolPorts_0 : ∃ (s : State) (port : Nat) (base : Nat) (size : Nat) (w : Nat) (i : Nat) (tag : List Byte),
    s.boot.fatal = false ∧ port < s.cxh.ports.length ∧ (s.cport port).up = true ∧ (s.cport port).failed = false ∧ base % unitBytes = 0 ∧
    size % unitBytes = 0 ∧ tagOk s (field tag 0 1) (field tag 1 1 % 8) (field tag 4 4 % 2 ^ 20) = true ∧ (s.cport port).exts.length < 4096 ∧
    windowBase (s.cport port) (size / unitBytes) = some w ∧
    ((if field tag 0 1 = 1 then spillIndex s (field tag 1 1 % 8) else if field tag 0 1 = 2 then some (field tag 8 4) else some 0) = some i) :=
  ⟨(((Sys2Proof.Tests.base).setCport 0 fun c => { c with up := true }).setReg pgCxh 0x224 0 0x500007), 0, (2 ^ 40), (2 ^ 27), 0, 9,
    [2, 0, 0, 0, 7, 0, 0, 0, 9, 0, 0, 0, 0, 0, 0, 0], by decide +kernel⟩

theorem witness_ExtentsAndPoolPorts_1 : ∃ (s : State) (port : Nat) (base : Nat) (size : Nat) (tag : List Byte),
    s.boot.fatal = false ∧
    (((s.cport port).up = false ∨ (s.cport port).failed = true ∨ base % unitBytes ≠ 0 ∨ size % unitBytes ≠ 0 ∨ tagOk s (field tag 0 1) (field tag 1 1 % 8) (field tag 4 4 % 2 ^ 20) = false ∨ 4096 ≤ ((s.cport port).exts.filter (·.valid)).length ∨ windowBase (s.cport port) (size / unitBytes) = none)) :=
  ⟨(((Sys2Proof.Tests.base).setCport 0 fun c => { c with up := true })), 0, 5, (2 ^ 27), [2, 0, 0, 0, 7, 0, 0, 0, 9, 0, 0, 0, 0, 0, 0, 0], by decide +kernel⟩

theorem witness_ExtentsAndPoolPorts_3 :
    (∃ (s : State) (port : Nat) (i : Nat) (e : Extent),
    s.boot.fatal = false ∧ extAt s port i = some e ∧ port < s.cxh.ports.length ∧
    ((s.cxh.reqs.any (fun q => q.port == port && q.ext == i) = true ∨ s.cxh.lines.any (lineIn s port i) = true))) ∧
    (∃ (s : State) (port : Nat) (i : Nat) (e : Extent),
    s.boot.fatal = false ∧ extAt s port i = some e ∧ port < s.cxh.ports.length ∧
    s.cxh.reqs.any (fun q => q.port == port && q.ext == i) = false ∧ s.cxh.lines.any (lineIn s port i) = false ∧ e.draining = true ∧ e.kind ≠ 1) ∧
    (∃ (s : State) (port : Nat) (i : Nat) (e : Extent),
    s.boot.fatal = false ∧ extAt s port i = some e ∧ port < s.cxh.ports.length ∧
    s.cxh.reqs.any (fun q => q.port == port && q.ext == i) = false ∧ s.cxh.lines.any (lineIn s port i) = false ∧ e.draining = false ∧
    e.evac = true ∧ (extPages s e).all (fun c => (s.loc c).state == .poisoned || (s.loc c).state == .retired) = true) ∧
    (∃ (s : State) (port : Nat) (i : Nat) (e : Extent),
    s.boot.fatal = false ∧ extAt s port i = some e ∧ port < s.cxh.ports.length ∧
    s.cxh.reqs.any (fun q => q.port == port && q.ext == i) = false ∧ s.cxh.lines.any (lineIn s port i) = false ∧ e.draining = false ∧
    e.evac = false) :=
  ⟨⟨(inFlight (extState (poolExt 1 0))), 0, 0, (poolExt 1 0), by decide +kernel⟩,
    ⟨(extState { poolExt 2 0 with draining := true, drainAt := 5000 }), 0, 0, { poolExt 2 0 with draining := true, drainAt := 5000 }, by decide +kernel⟩,
    ⟨(extState { poolExt 1 0 with evac := true }), 0, 0, { poolExt 1 0 with evac := true }, by decide +kernel⟩,
    ⟨(extState (poolExt 1 0)), 0, 0, (poolExt 1 0), by decide +kernel⟩⟩

theorem witness_ExtentsAndPoolPorts_10 :
    (∃ (s : State) (rq : Requester) (e : Extent),
    s.boot.fatal = false ∧ rq.secure = true ∧ rq.src < 4 ∧ extAt s (selExt s).1 (selExt s).2 = some e ∧ e.kind ≠ 1 ∧ e.draining = false) ∧
    (∃ (s : State) (rq : Requester) (e : Extent) (c : _),
    s.boot.fatal = false ∧ rq.secure = true ∧ rq.src < 4 ∧ extAt s (selExt s).1 (selExt s).2 = some e ∧ e.kind = 1 ∧
    (selExt s).1 < s.cxh.ports.length ∧ extPages s e = [c] ∧ reqOf s c = none ∧ s.blw.queue.length < 65536) :=
  ⟨⟨(extState (poolExt 2 0)), sec, (poolExt 2 0), by decide +kernel⟩,
    ⟨(inSpill (extState (poolExt 1 0))), sec, (poolExt 1 0), 10, by decide +kernel⟩⟩

theorem witness_ExtentsAndPoolPorts_16 :
    (∃ (s : State) (port : Nat) (id : Nat) (q : CxlReq),
    s.boot.fatal = false ∧ s.cxh.reqs.find? (fun q => q.port == port && q.id == id) = some q ∧ q.write = false ∧ pageLive (s.loc q.cpn) = true ∧
    (((s.loc q.cpn).refcnt ≠ 0 ∨ (s.loc q.cpn).published = true)) ∧ s.seq.heldFlush = [] ∧ s.fab.holds = []) ∧
    (∃ (s : State) (port : Nat) (id : Nat) (q : CxlReq) (m : _) (d : _),
    s.boot.fatal = false ∧ s.cxh.reqs.find? (fun q => q.port == port && q.id == id) = some q ∧ q.write = true ∧ q.cpn < 2 ^ 40 ∧
    moveOf s q.cpn = some m ∧ m.kind = .page d ∧ m.heldFill = none ∧ m.clearHeld = false ∧ unneeded (s.loc q.cpn) = false ∧
    (s.loc q.cpn).state = .moving ∧ s.seq.heldFlush = [] ∧ s.fab.holds = [] ∧ (¬ ((s.loc q.cpn).ret = .sharedRo ∧ (s.loc q.cpn).refcnt = 1 ∧
    (s.loc q.cpn).published = false))) :=
  ⟨⟨(frames2 (inFlight (extState (poolExt 1 0)))), 0, 0, flying, by decide +kernel⟩,
    ⟨(moving10 (extState (poolExt 1 0))), 0, 0, { flying with write := true }, mv10, .t2, by decide +kernel⟩⟩

theorem witness_ExtentsAndPoolPorts_18 : ∃ (s : State) (port : Nat) (id : Nat),
    s.boot.fatal = false ∧ s.cxh.reqs.find? (fun q => q.port == port && q.id == id) = none :=
  ⟨Sys2Proof.Tests.base, 0, 0, by decide +kernel⟩

theorem witness_ExtentsAndPoolPorts_20 : ∃ (s : State) (port : Nat),
    s.boot.fatal = false ∧ port < s.cxh.ports.length ∧ (s.cport port).failed = true :=
  ⟨((Sys2Proof.Tests.base).setCport 0 fun c => { c with failed := true }), 0, by decide +kernel⟩

theorem witness_ExtentsAndPoolPorts_22 :
    (∃ (s : State) (rq : Requester) (r : Nat),
    s.boot.fatal = false ∧ r = bits (s.reg pgCxh 0x224 (s.reg pgCxh 0x220)) 0 20 ∧ rq.secure = true ∧ rq.src < 4 ∧
    bit (s.reg pgCxh 0x224 (s.reg pgCxh 0x220)) 20 = true ∧ s.cxh.opens.any (fun o => o.region == r) = false ∧ regionPages s r = 0) ∧
    (∃ (s : State) (rq : Requester) (r : Nat),
    s.boot.fatal = false ∧ r = bits (s.reg pgCxh 0x224 (s.reg pgCxh 0x220)) 0 20 ∧ rq.secure = true ∧ rq.src < 4 ∧
    bit (s.reg pgCxh 0x224 (s.reg pgCxh 0x220)) 20 = true ∧ ((s.cxh.opens.any (fun o => o.region == r) = true ∨ regionPages s r ≠ 0))) ∧
    (∃ (s : State) (rq : Requester) (r : Nat),
    s.boot.fatal = false ∧ r = bits (s.reg pgCxh 0x224 (s.reg pgCxh 0x220)) 0 20 ∧ rq.secure = true ∧ rq.src < 4 ∧
    bit (s.reg pgCxh 0x224 (s.reg pgCxh 0x220)) 20 = false) ∧
    (∃ (s : State) (rq : Requester) (r : Nat),
    s.boot.fatal = false ∧ r = bits (s.reg pgCxh 0x224 (s.reg pgCxh 0x220)) 0 20 ∧ rq.secure = false) :=
  ⟨⟨region7, sec, 7, by decide +kernel⟩,
    ⟨opened7, sec, 7, by decide +kernel⟩,
    ⟨Sys2Proof.Tests.base, sec, 0, by decide +kernel⟩,
    ⟨region7, own, 7, by decide +kernel⟩⟩

theorem witness_Checkpoints_0 :
    (∃ (s : State) (rq : Requester) (pt : Nat),
    s.boot.fatal = false ∧ rq.secure = true ∧ rq.src < 4 ∧ pt = s.reg pgCxh 0x230 ∧ ckptRuns s pt = true) ∧
    (∃ (s : State) (rq : Requester) (pt : Nat),
    s.boot.fatal = false ∧ rq.secure = true ∧ rq.src < 4 ∧ pt = s.reg pgCxh 0x230 ∧ ckptRuns s pt = false ∧ ckptPort s pt = none) ∧
    (∃ (s : State) (rq : Requester) (pt : Nat) (p : _) (e : _),
    s.boot.fatal = false ∧ rq.secure = true ∧ rq.src < 4 ∧ pt = s.reg pgCxh 0x230 ∧ ckptRuns s pt = false ∧ ckptPort s pt = some (p, e) ∧
    (((s.cport p).failed = true ∨ (s.cport p).up = false))) ∧
    (∃ (s : State) (rq : Requester) (pt : Nat) (p : _) (e : _),
    (s.boot.fatal = false ∧ rq.secure = true ∧ rq.src < 4 ∧ pt = s.reg pgCxh 0x230 ∧ ckptRuns s pt = false ∧ ckptPort s pt = some (p, e) ∧
    (s.cport p).failed = false ∧ (s.cport p).up = true) ∧
    ((bestCkpt s p e = none ∨ ptQuiet s pt = false ∨ ∀ h c, bestCkpt s p e = some (h, c) → ckptFits s pt c = false))) :=
  ⟨⟨(ckptState { state := 1, gen := 3 }), sec, 0, by decide +kernel⟩,
    ⟨base, sec, 0, by decide +kernel⟩,
    ⟨((ckptState {}).setCport 0 fun c => { c with failed := true }), sec, 0, 0, ckptExt, by decide +kernel⟩,
    ⟨(ckptState {}), sec, 0, 0, ckptExt, by decide +kernel, (.inl rfl)⟩⟩

theorem witness_Checkpoints_8 : ∃ (s : State) (rq : Requester) (pt : Nat) (p : _) (e : _) (h : _) (c : _),
    s.boot.fatal = false ∧ rq.secure = true ∧ rq.src < 4 ∧ pt = s.reg pgCxh 0x230 ∧ ckptRuns s pt = false ∧ ckptPort s pt = some (p, e) ∧
    (s.cport p).failed = false ∧ (s.cport p).up = true ∧ bestCkpt s p e = some (h, c) ∧ ckptFits s pt c = true ∧ ptQuiet s pt = true ∧
    pt < s.cxh.ckpt.length :=
  ⟨ckptLoaded, sec, 0, 0, ckptExt, 0, someCkpt, by decide +kernel⟩

theorem witness_Checkpoints_9 : ∃ (s : State) (rq : Requester),
    s.boot.fatal = false ∧ rq.secure = false :=
  ⟨base, own, by decide +kernel⟩

theorem witness_Checkpoints_11 :
    (∃ (s : State) (pt : Nat),
    s.boot.fatal = false ∧ ((bits (s.reg pgCxh 0x234 pt) 0 16 = 0 ∨ ckptRuns s pt = true))) ∧
    (∃ (s : State) (pt : Nat) (p : _) (e : _),
    s.boot.fatal = false ∧ bits (s.reg pgCxh 0x234 pt) 0 16 ≠ 0 ∧ ckptRuns s pt = false ∧ ckptPort s pt = some (p, e) ∧
    (s.cport p).failed = false ∧ (s.cport p).up = true ∧ pt < s.cxh.ckpt.length) ∧
    (∃ (s : State) (pt : Nat),
    s.boot.fatal = false ∧ pt < s.cxh.ckpt.length ∧ ((ckptRuns s pt = false ∨ ptQuiet s pt = false))) ∧
    (∃ (s : State) (pt : Nat) (p : _) (e : _),
    s.boot.fatal = false ∧ pt < s.cxh.ckpt.length ∧ ckptRuns s pt = true ∧ ptQuiet s pt = true ∧ s.time ≤ ckptBound s pt ∧
    ckptPort s pt = some (p, e)) :=
  ⟨⟨base, 0, by decide +kernel⟩,
    ⟨(ckptState {}), 0, 0, ckptExt, by decide +kernel⟩,
    ⟨(ckptState {}), 0, by decide +kernel⟩,
    ⟨ckptFull, 0, 0, ckptExt, by decide +kernel⟩⟩

theorem witness_Checkpoints_16 :
    (∃ (s : State) (pt : Nat),
    s.boot.fatal = false ∧ pt < s.cxh.ckpt.length ∧ ckptRuns s pt = true ∧ ptQuiet s pt = true ∧ s.time ≤ ckptBound s pt ∧ ckptPort s pt = none) ∧
    (∃ (s : State) (pt : Nat),
    s.boot.fatal = false ∧ pt < s.cxh.ckpt.length ∧ ckptRuns s pt = true ∧ ptQuiet s pt = true ∧ ckptBound s pt < s.time) :=
  ⟨⟨(setCkpt base 0 fun _ => { state := 1, waitFrom := 1000 }), 0, by decide +kernel⟩,
    ⟨{ ckptFull with time := 10 ^ 12 }, 0, by decide +kernel⟩⟩

end PartJ

namespace PartK

def goodDrive : DriveInfo :=
  { present := true, trains32 := true, gen5 := true, width := 4, nsid1Ok := true, mdtsOk := true, queuesOk := true, sectors := 1000000, fatal := false, cacheStays := false }
def drive0 (d : Drive) (s : State := base) : State := s.setDrive 0 fun _ => d
def perst0 (s : State := base) : State := { s with boot := { s.boot with perst := lset s.boot.perst 0 true } }
def rdCmd : NvmeCmd := { cid := 7, queue := 1, kind := .dataRead, cpn := 10, slot := 5, at_ := 900 }
def rdXfer : Xfer := { cpn := 10, slot := 5, write := false, left := 1 }
def rdDrive : Drive := { state := .ready, cmds := [rdCmd], xfers := [rdXfer], cidNext := 8, slot := [(5, 1)] }
/-- Page 10 moves from slot 5 of drive 0 to T1. -/
def rdMove : Move := { cpn := 10, kind := .page .t1, cls := 3, slice := 0, srcTier := .t3, srcAddr := 5, dst := 16384 }
def moving3 (s : State := base) : State :=
  { s with seq := { s.seq with locs := [(10, { tier := .t3, state := .moving, ret := .resident, refcnt := 1, addr := 5 })] }
           blw := { s.blw with moves := [(10, rdMove)], t1 := [(16384, .page 10)] } }
/-- A transfer to slot 5 that page 10 leaves T1 with. -/
def wrMove : Move := { cpn := 10, kind := .page .t3, cls := 3, slice := 0, srcTier := .t1, srcAddr := 16384, dst := 5 }
def movingOut (s : State := base) : State :=
  { s with seq := { s.seq with locs := [(10, { state := .moving, ret := .resident, refcnt := 1, addr := 16384 })] }
           blw := { s.blw with moves := [(10, wrMove)], t1 := [(16384, .page 10)] } }
def wrCmd (k : NvmeKind) : NvmeCmd := { rdCmd with kind := k }
def wrXfer (n : Nat) : Xfer := { rdXfer with write := true, left := n }
def wrDrive (k : NvmeKind) (n : Nat) : Drive := { rdDrive with cmds := [wrCmd k], xfers := [wrXfer n], locks := [(0, 10)] }
def bringDrive (c : NvmeKind) (steps : List AdminOp) (i : DriveInfo := goodDrive) : Drive :=
  { state := .initialising, info := some i, steps := steps, cmds := [{ rdCmd with kind := c, queue := 4 }], cidNext := 8 }
def brCmd (k : NvmeKind) : NvmeCmd := { rdCmd with kind := k, queue := 4 }
/-- NVH_CFG enables the drives with slots of 2^24 pages; the slot table begins in class 0. -/
def nvhOn (s : State := base) : State := (s.setReg pgNvh 0x200 0 0x61).setReg pgNvh 0x208 0 (16 * 65536)

theorem witness_DrivesComeAndGo_0 :
    (∃ (s : State) (rq : Requester) (f : Nat) (k : Nat),
    s.boot.fatal = false ∧ rq.secure = true ∧ rq.src < 4 ∧ f < 4 ∧ k < 32 ∧ 24 ≤ k ∧ bit f 0 = true ∧ bit (s.reg pgNvh 0x200) 0 = false) ∧
    (∃ (s : State) (rq : Requester) (f : Nat) (k : Nat),
    s.boot.fatal = false ∧ rq.secure = true ∧ rq.src < 4 ∧ f < 4 ∧ k < 32 ∧ k < 24) ∧
    (∃ (s : State) (rq : Requester) (f : Nat) (k : Nat),
    s.boot.fatal = false ∧ rq.secure = true ∧ rq.src < 4 ∧ f < 4 ∧ k < 32 ∧ 24 ≤ k ∧ bit (s.reg pgNvh 0x200) 0 = true ∧
    k ≠ bits (s.reg pgNvh 0x200) 2 5) ∧
    (∃ (s : State) (rq : Requester) (f : Nat) (k : Nat),
    s.boot.fatal = false ∧ rq.secure = true ∧ rq.src < 4 ∧ f < 4 ∧ k < 32 ∧ 24 ≤ k ∧ bit (s.reg pgNvh 0x200) 0 = false ∧ bit f 0 = false) :=
  ⟨⟨(perst0 (drive0 { info := some goodDrive })), sec, 1, 24, by decide +kernel⟩,
    ⟨base, sec, 1, 0, by decide +kernel⟩,
    ⟨nvhOn, sec, 1, 25, by decide +kernel⟩,
    ⟨base, sec, 0, 24, by decide +kernel⟩⟩

theorem witness_DrivesComeAndGo_4 : ∃ (s : State) (rq : Requester) (f : Nat) (k : Nat),
    s.boot.fatal = false ∧ rq.secure = true ∧ rq.src < 4 ∧ f < 4 ∧ k < 32 ∧ 24 ≤ k ∧ bit (s.reg pgNvh 0x200) 0 = true ∧
    k = bits (s.reg pgNvh 0x200) 2 5 :=
  ⟨nvhOn, sec, 3, 24, by decide +kernel⟩

theorem witness_DrivesComeAndGo_6 :
    (∃ (s : State) (np : Nat),
    np < s.nvh.drives.length ∧
    ((s.boot.fatal = true ∨ lget s.boot.perst np false = false ∨ (s.drive np).state = .failed ∨ (s.drive np).state = .initialising ∨ (s.drive np).state = .ready))) ∧
    (∃ (s : State) (np : Nat) (d : DriveInfo),
    np < s.nvh.drives.length ∧ s.boot.fatal = false ∧ lget s.boot.perst np false = true ∧ (s.drive np).state ≠ .failed ∧
    (s.drive np).state ≠ .initialising ∧ (s.drive np).state ≠ .ready ∧ bit (s.reg pgNvh 0x200) 0 = true ∧ d.present = true ∧ d.trains32 = true) ∧
    (∃ (s : State) (np : Nat) (d : DriveInfo),
    np < s.nvh.drives.length ∧ s.boot.fatal = false ∧ lget s.boot.perst np false = true ∧ (s.drive np).state ≠ .failed ∧
    (s.drive np).state ≠ .initialising ∧ (s.drive np).state ≠ .ready ∧ bit (s.reg pgNvh 0x200) 0 = true ∧ d.present = true ∧ d.trains32 = false) ∧
    (∃ (s : State) (np : Nat) (d : DriveInfo),
    np < s.nvh.drives.length ∧ s.boot.fatal = false ∧ lget s.boot.perst np false = true ∧ (s.drive np).state ≠ .failed ∧
    (s.drive np).state ≠ .initialising ∧ (s.drive np).state ≠ .ready ∧ bit (s.reg pgNvh 0x200) 0 = true ∧ d.present = false) :=
  ⟨⟨base, 0, by decide +kernel⟩,
    ⟨(perst0 (drive0 { state := .training, slot := [(1, 1), (3, 2)] } nvhOn)), 0, goodDrive, by decide +kernel⟩,
    ⟨(perst0 (drive0 { state := .training } nvhOn)), 0, { goodDrive with trains32 := false }, by decide +kernel⟩,
    ⟨(perst0 (drive0 { state := .training } nvhOn)), 0, { goodDrive with present := false }, by decide +kernel⟩⟩

theorem witness_DrivesComeAndGo_10 : ∃ (s : State) (np : Nat),
    np < s.nvh.drives.length ∧ s.boot.fatal = false ∧ lget s.boot.perst np false = true ∧ (s.drive np).state ≠ .failed ∧
    (s.drive np).state ≠ .initialising ∧ (s.drive np).state ≠ .ready ∧ bit (s.reg pgNvh 0x200) 0 = false :=
  ⟨perst0, 0, by decide +kernel⟩

def i_DrivesComeAndGo_12 : DriveInfo := { goodDrive with sectors := 4463 }
theorem witness_DrivesComeAndGo_11 :
    (∃ (s : State) (np : Nat) (c : NvmeCmd) (st : NvmeStatus) (i : DriveInfo) (a : _) (op : _) (rest : _),
    s.boot.fatal = false ∧ np < s.nvh.drives.length ∧ (s.drive np).cmds = [c] ∧ (s.drive np).sqWait = [] ∧ (s.drive np).freeing = [] ∧
    c.timedOut = false ∧ cmdLate s c = false ∧ c.kind = .admin a ∧ (s.drive np).state = .initialising ∧ (s.drive np).info = some i ∧
    st = .success ∧ ((a ≠ .setQueueCount ∨ driveCause i = 0)) ∧ (s.drive np).steps = op :: rest ∧ op ≠ .asyncEvent) ∧
    (∃ (s : State) (np : Nat) (c : NvmeCmd) (st : NvmeStatus) (i : DriveInfo),
    s.boot.fatal = false ∧ np < s.nvh.drives.length ∧ (s.drive np).cmds = [c] ∧ (s.drive np).sqWait = [] ∧ (s.drive np).freeing = [] ∧
    c.timedOut = false ∧ cmdLate s c = false ∧ c.kind = .admin .setQueueCount ∧ (s.drive np).state = .initialising ∧
    (s.drive np).info = some i ∧ st = .success ∧ driveCause i ≠ 0) ∧
    (∃ (s : State) (np : Nat) (c : NvmeCmd) (st : NvmeStatus) (i : DriveInfo),
    (s.boot.fatal = false ∧ np < s.nvh.drives.length ∧ (s.drive np).cmds = [c] ∧ (s.drive np).sqWait = [] ∧ (s.drive np).freeing = [] ∧
    c.timedOut = false ∧ cmdLate s c = false ∧ (s.drive np).state = .initialising ∧ (s.drive np).info = some i ∧ st ≠ .success) ∧
    ((c.kind = .label ∨ ∃ a, c.kind = .admin a))) ∧
    (∃ (s : State) (np : Nat) (c : NvmeCmd) (st : NvmeStatus) (i : DriveInfo) (a : _) (rest : _),
    s.boot.fatal = false ∧ np < s.nvh.drives.length ∧ (s.drive np).cmds = [c] ∧ (s.drive np).sqWait = [] ∧ (s.drive np).freeing = [] ∧
    c.timedOut = false ∧ cmdLate s c = false ∧ c.kind = .admin a ∧ (s.drive np).state = .initialising ∧ (s.drive np).info = some i ∧
    st = .success ∧ ((a ≠ .setQueueCount ∨ driveCause i = 0)) ∧ (s.drive np).steps = .asyncEvent :: rest) :=
  ⟨⟨(drive0 (bringDrive (.admin (.setQueueCount)) [(.setWriteCache), .asyncEvent])), 0, (brCmd (.admin (.setQueueCount))), .success, goodDrive,
    .setQueueCount, .setWriteCache, [.asyncEvent], by decide +kernel⟩,
    ⟨(drive0 (bringDrive (.admin .setQueueCount) [.asyncEvent] (i_DrivesComeAndGo_12))), 0, (brCmd (.admin .setQueueCount)), .success,
    i_DrivesComeAndGo_12, by decide +kernel⟩,
    ⟨(drive0 (bringDrive (.admin .getWriteCache) [.asyncEvent])), 0, (brCmd (.admin .getWriteCache)), .otherError, goodDrive, by decide +kernel, (.inr ⟨_, rfl⟩)⟩,
    ⟨(drive0 (bringDrive (.admin (.getWriteCache)) [.asyncEvent]) nvhOn), 0, (brCmd (.admin (.getWriteCache))), .success, goodDrive,
    .getWriteCache, [], by decide +kernel⟩⟩

theorem witness_DrivesComeAndGo_15 :
    (∃ (s : State) (np : Nat) (c : NvmeCmd) (st : NvmeStatus),
    s.boot.fatal = false ∧ np < s.nvh.drives.length ∧ (s.drive np).cmds = [c] ∧ (s.drive np).sqWait = [] ∧ (s.drive np).freeing = [] ∧
    c.timedOut = false ∧ cmdLate s c = false ∧ c.kind = .label ∧ (s.drive np).state = .initialising ∧ st = .success ∧
    inClass s 0 (slotPart s np).1 (slotPart s np).2 = true) ∧
    (∃ (s : State) (np : Nat) (c : NvmeCmd) (st : NvmeStatus),
    s.boot.fatal = false ∧ np < s.nvh.drives.length ∧ (s.drive np).cmds = [c] ∧ (s.drive np).sqWait = [] ∧ (s.drive np).freeing = [] ∧
    c.timedOut = false ∧ cmdLate s c = false ∧ c.kind = .admin .asyncEvent ∧ (s.drive np).state = .ready ∧ st = .success) :=
  ⟨⟨(drive0 (bringDrive .label []) nvhOn), 0, (brCmd .label), .success, by decide +kernel⟩,
    ⟨(drive0 { bringDrive (.admin .asyncEvent) [] with state := .ready }), 0, (brCmd (.admin .asyncEvent)), .success, by decide +kernel⟩⟩

theorem witness_DrivesComeAndGo_17 :
    (∃ (s : State) (rq : Requester) (np : Nat),
    s.boot.fatal = false ∧ np = s.reg pgNvh 0x210 ∧ np < s.nvh.drives.length ∧ rq.secure = true ∧ rq.src < 4 ∧ (s.drive np).state ≠ .ready) ∧
    (∃ (s : State) (rq : Requester) (np : Nat),
    s.boot.fatal = false ∧ np = s.reg pgNvh 0x210 ∧ np < s.nvh.drives.length ∧ rq.secure = true ∧ rq.src < 4 ∧ (s.drive np).state = .ready) ∧
    (∃ (s : State) (rq : Requester) (np : Nat),
    s.boot.fatal = false ∧ np = s.reg pgNvh 0x210 ∧ np < s.nvh.drives.length ∧ rq.secure = true ∧ rq.src < 4 ∧
    (s.drive np).slot.any (fun e => e.2 == 1 || e.2 == 2) = false) ∧
    (∃ (s : State) (rq : Requester) (np : Nat),
    s.boot.fatal = false ∧ np = s.reg pgNvh 0x210 ∧ np < s.nvh.drives.length ∧ rq.secure = true ∧ rq.src < 4 ∧
    (s.drive np).slot.any (fun e => e.2 == 1 || e.2 == 2) = true) :=
  ⟨⟨(drive0 { state := .failed, slot := [(1, 1), (3, 2)] }), sec, 0, by decide +kernel⟩,
    ⟨(drive0 { state := .ready }), sec, 0, by decide +kernel⟩,
    ⟨(drive0 { state := .ready, slot := [(4, 3)] }), sec, 0, by decide +kernel⟩,
    ⟨(drive0 { state := .ready, slot := [(4, 1)] }), sec, 0, by decide +kernel⟩⟩

theorem witness_DrivesComeAndGo_21 : ∃ (s : State) (rq : Requester) (np : Nat),
    s.boot.fatal = false ∧ np = s.reg pgNvh 0x210 ∧ np < s.nvh.drives.length ∧ rq.secure = false :=
  ⟨(drive0 { state := .ready }), own, 0, by decide +kernel⟩

theorem witness_DriveCommandsEnd_0 :
    (∃ (s : State) (np : Nat) (c : NvmeCmd) (x : Xfer),
    s.boot.fatal = false ∧ np < s.nvh.drives.length ∧ (s.drive np).cmds = [c] ∧ c.timedOut = false ∧ (s.drive np).sqWait = [] ∧
    (s.drive np).freeing = [] ∧ (s.drive np).xfers = [x] ∧ x.cpn = c.cpn ∧ x.slot = c.slot ∧ cmdLate s c = false ∧
    (c.kind = .dataRead ∨ c.kind = .macRead) ∧ x.left = 1 ∧ x.bad = false ∧ (s.drive np).bufWait = []) ∧
    (∃ (s : State) (np : Nat) (c : NvmeCmd) (x : Xfer),
    s.boot.fatal = false ∧ np < s.nvh.drives.length ∧ (s.drive np).cmds = [c] ∧ c.timedOut = false ∧ (s.drive np).sqWait = [] ∧
    (s.drive np).freeing = [] ∧ (s.drive np).xfers = [x] ∧ x.cpn = c.cpn ∧ x.slot = c.slot ∧ cmdLate s c = false ∧
    (c.kind = .dataRead ∨ c.kind = .macRead) ∧ 2 ≤ x.left) ∧
    (∃ (s : State) (np : Nat) (c : NvmeCmd) (x : Xfer) (w : _) (ws : _) (m : _),
    s.boot.fatal = false ∧ np < s.nvh.drives.length ∧ (s.drive np).cmds = [c] ∧ c.timedOut = false ∧ (s.drive np).sqWait = [] ∧
    (s.drive np).freeing = [] ∧ (s.drive np).xfers = [x] ∧ x.cpn = c.cpn ∧ x.slot = c.slot ∧ cmdLate s c = false ∧
    (c.kind = .dataRead ∨ c.kind = .macRead) ∧ x.left = 1 ∧ x.bad = false ∧ (s.drive np).bufWait = w :: ws ∧ moveOf s w = some m) ∧
    (∃ (s : State) (np : Nat) (c : NvmeCmd) (x : Xfer) (m : _) (st : NvmeStatus),
    s.boot.fatal = false ∧ np < s.nvh.drives.length ∧ (s.drive np).cmds = [c] ∧ c.timedOut = false ∧ (s.drive np).sqWait = [] ∧
    (s.drive np).freeing = [] ∧ (s.drive np).xfers = [x] ∧ x.cpn = c.cpn ∧ x.slot = c.slot ∧ cmdLate s c = false ∧
    (c.kind = .dataRead ∨ c.kind = .macRead) ∧ x.left = 1 ∧ x.write = false ∧ x.media = false ∧ (s.drive np).bufWait = [] ∧
    moveOf s c.cpn = some m ∧ m.srcTier = .t3 ∧ m.srcAddr = np * 2 ^ 31 + c.slot ∧ s.seq.heldFlush = [] ∧ s.fab.holds = [] ∧
    pageLive (s.loc c.cpn) = true ∧ (((s.loc c.cpn).refcnt ≠ 0 ∨ (s.loc c.cpn).published = true)) ∧ st ≠ .success) :=
  ⟨⟨(moving3 (drive0 rdDrive)), 0, rdCmd, rdXfer, by decide +kernel⟩,
    ⟨(moving3 (drive0 { rdDrive with xfers := [{ rdXfer with left := 2 }] })), 0, rdCmd, { rdXfer with left := 2 }, by decide +kernel⟩,
    ⟨(let u := moving3 (drive0 { rdDrive with bufWait := [11] }); { u with blw := { u.blw with moves := u.blw.moves ++ [(11, ({ rdMove with cpn := 11, srcAddr := 6 }))] } }),
    0, rdCmd, rdXfer, 11, [], { rdMove with cpn := 11, srcAddr := 6 }, by decide +kernel⟩,
    ⟨(moving3 (drive0 rdDrive)), 0, rdCmd, rdXfer, rdMove, .otherError, by decide +kernel⟩⟩

theorem witness_DriveCommandsEnd_4 :
    (∃ (s : State) (np : Nat) (c : NvmeCmd) (x : Xfer),
    s.boot.fatal = false ∧ np < s.nvh.drives.length ∧ (s.drive np).cmds = [c] ∧ c.timedOut = false ∧ (s.drive np).sqWait = [] ∧
    (s.drive np).freeing = [] ∧ (s.drive np).xfers = [x] ∧ x.cpn = c.cpn ∧ x.slot = c.slot ∧ cmdLate s c = false ∧ c.kind = .macWrite ∧
    x.left = 1 ∧ x.bad = false ∧ (s.drive np).bufWait = [] ∧ (s.drive np).lockWait = []) ∧
    (∃ (s : State) (np : Nat) (c : NvmeCmd) (x : Xfer),
    s.boot.fatal = false ∧ np < s.nvh.drives.length ∧ (s.drive np).cmds = [c] ∧ c.timedOut = false ∧ (s.drive np).sqWait = [] ∧
    (s.drive np).freeing = [] ∧ (s.drive np).xfers = [x] ∧ x.cpn = c.cpn ∧ x.slot = c.slot ∧ cmdLate s c = false ∧ c.kind = .macReadForWrite) ∧
    (∃ (s : State) (np : Nat) (c : NvmeCmd) (x : Xfer) (m : _) (st : NvmeStatus),
    s.boot.fatal = false ∧ np < s.nvh.drives.length ∧ (s.drive np).cmds = [c] ∧ c.timedOut = false ∧ (s.drive np).sqWait = [] ∧
    (s.drive np).freeing = [] ∧ (s.drive np).xfers = [x] ∧ x.cpn = c.cpn ∧ x.slot = c.slot ∧ cmdLate s c = false ∧
    (c.kind = .dataWrite ∨ c.kind = .macReadForWrite ∨ c.kind = .macWrite) ∧ x.left = 1 ∧ x.write = true ∧ x.media = false ∧
    (s.drive np).bufWait = [] ∧ (s.drive np).lockWait = [] ∧ c.cpn < 2 ^ 40 ∧ c.slot < 2 ^ 31 ∧ np < 16 ∧ moveOf s c.cpn = some m ∧
    m.kind = .page .t3 ∧ m.dst = np * 2 ^ 31 + c.slot ∧ m.heldFill = none ∧ m.clearHeld = false ∧ unneeded (s.loc c.cpn) = false ∧
    (s.loc c.cpn).state = .moving ∧ s.seq.heldFlush = [] ∧ s.fab.holds = [] ∧ (¬ ((s.loc c.cpn).ret = .sharedRo ∧ (s.loc c.cpn).refcnt = 1 ∧
    (s.loc c.cpn).published = false)) ∧ st ≠ .success) :=
  ⟨⟨(movingOut (drive0 (wrDrive .macWrite 1))), 0, (wrCmd .macWrite), (wrXfer 1), by decide +kernel⟩,
    ⟨(movingOut (drive0 (wrDrive .macReadForWrite 2))), 0, (wrCmd .macReadForWrite), (wrXfer 2), by decide +kernel⟩,
    ⟨(movingOut (drive0 (wrDrive .dataWrite 1))), 0, (wrCmd .dataWrite), (wrXfer 1), wrMove, .mediaError, by decide +kernel⟩⟩

theorem witness_DriveCommandsEnd_9 :
    (∃ (s : State) (np : Nat) (c : NvmeCmd),
    s.boot.fatal = false ∧ np < s.nvh.drives.length ∧ (s.drive np).sqWait = [] ∧ (s.drive np).freeing = [] ∧ c.timedOut = false ∧
    cmdLate s c = false ∧ (s.drive np).cmds = [c] ∧ c.kind = .trim ∧ tget (s.drive np).slot c.slot ≠ some 3) ∧
    (∃ (s : State) (np : Nat) (k : Nat) (c : NvmeCmd) (d : NvmeCmd),
    s.boot.fatal = false ∧ np < s.nvh.drives.length ∧ (s.drive np).sqWait = [] ∧ (s.drive np).freeing = [] ∧ c.timedOut = false ∧
    cmdLate s c = false ∧ (s.drive np).cmds = [c, d] ∧ c.kind = .abort k ∧ d.cid = k ∧ d.cid ≠ c.cid) :=
  ⟨⟨(drive0 { rdDrive with cmds := [{ rdCmd with kind := .trim }], xfers := [] }), 0, { rdCmd with kind := .trim }, by decide +kernel⟩,
    ⟨(drive0 { rdDrive with cmds := [{ rdCmd with kind := .abort 3 }, ({ rdCmd with cid := 3 })] }), 0, 3, { rdCmd with kind := .abort 3 },
    { rdCmd with cid := 3 }, by decide +kernel⟩⟩

theorem witness_DriveCommandsEnd_11 :
    (∃ (s : State) (np : Nat) (cid : Nat),
    s.boot.fatal = false ∧ (s.drive np).cmds.find? (fun c => c.cid == cid) = none) ∧
    (∃ (s : State) (np : Nat) (cid : Nat),
    s.boot.fatal = false ∧ (s.drive np).cmds.find? (fun c => c.cid == cid && !c.timedOut && !isAbort c.kind) = none) ∧
    (∃ (s : State) (np : Nat) (cid : Nat) (c : _),
    s.boot.fatal = false ∧ np < s.nvh.drives.length ∧ (s.drive np).cmds = [c] ∧ c.cid = cid ∧ c.timedOut = true ∧ (s.drive np).sqWait = [] ∧
    (s.drive np).freeing = []) :=
  ⟨⟨base, 0, 7, by decide +kernel⟩,
    ⟨base, 0, 7, by decide +kernel⟩,
    ⟨(drive0 { rdDrive with cmds := [({ rdCmd with timedOut := true })] }), 0, 7, { rdCmd with timedOut := true }, by decide +kernel⟩⟩

theorem witness_DriveCommandsEnd_15 :
    (∃ (s : State) (np : Nat),
    s.boot.fatal = false ∧ np < s.nvh.drives.length ∧ ((s.drive np).state = .failed ∨ (s.drive np).state = .absent)) ∧
    (∃ (s : State) (np : Nat),
    s.boot.fatal = false ∧ np < s.nvh.drives.length ∧ (s.drive np).state ≠ .failed ∧ (s.drive np).state ≠ .absent ∧ (s.drive np).cmds = [] ∧
    (s.drive np).sqWait = [] ∧ (s.drive np).xfers = [] ∧ (s.drive np).freeing = [] ∧ (s.drive np).bufWait = []) ∧
    (∃ (s : State) (np : Nat) (c : _) (x : _) (m : _),
    s.boot.fatal = false ∧ np < s.nvh.drives.length ∧ (s.drive np).state = .ready ∧ (s.drive np).cmds = [c] ∧ c.timedOut = false ∧
    c.kind = .dataRead ∧ (s.drive np).sqWait = [] ∧ (s.drive np).xfers = [x] ∧ x.cpn = c.cpn ∧ x.slot = c.slot ∧ x.left = 1 ∧ x.write = false ∧
    x.media = false ∧ (s.drive np).freeing = [] ∧ (s.drive np).bufWait = [] ∧ moveOf s c.cpn = some m ∧ m.srcTier = .t3 ∧
    m.srcAddr = np * 2 ^ 31 + c.slot ∧ s.seq.heldFlush = [] ∧ s.fab.holds = [] ∧ pageLive (s.loc c.cpn) = true ∧
    (((s.loc c.cpn).refcnt ≠ 0 ∨ (s.loc c.cpn).published = true))) :=
  ⟨⟨base, 0, by decide +kernel⟩,
    ⟨(drive0 { state := .ready, slot := [(1, 1), (3, 2), (5, 3)] }), 0, by decide +kernel⟩,
    ⟨(moving3 (drive0 rdDrive)), 0, rdCmd, rdXfer, rdMove, by decide +kernel⟩⟩

def c_DriveCommandsEnd_18 : NvmeCmd := { rdCmd with kind := .abort 3 }
theorem witness_DriveCommandsEnd_18 :
    (∃ (s : State) (np : Nat) (cid : Nat) (k : Nat) (c : NvmeCmd),
    s.boot.fatal = false ∧ np < s.nvh.drives.length ∧ (s.drive np).state ≠ .failed ∧ (s.drive np).state ≠ .absent ∧ (s.drive np).cmds = [c] ∧
    c.cid = cid ∧ c.kind = .abort k ∧ (s.drive np).sqWait = [] ∧ (s.drive np).xfers = [] ∧ (s.drive np).freeing = [] ∧ (s.drive np).bufWait = []) ∧
    (∃ (s : State) (np : Nat) (cid : Nat),
    s.boot.fatal = false ∧ np < s.nvh.drives.length ∧ (s.drive np).cmds.find? (fun c => c.cid == cid && isAbort c.kind) = none) :=
  ⟨⟨(drive0 { state := .ready, slot := [(1, 1), (3, 2), (5, 3)], cmds := [(c_DriveCommandsEnd_18)] }), 0, 7, 3, c_DriveCommandsEnd_18, by decide +kernel⟩,
    ⟨base, 0, 7, by decide +kernel⟩⟩

theorem witness_DriveCommandsEnd_8 : ∃ (s : State) (np : Nat) (c : NvmeCmd) (x : Xfer),
    s.boot.fatal = false ∧ np < s.nvh.drives.length ∧ (s.drive np).cmds = [c] ∧ c.timedOut = false ∧ (s.drive np).sqWait = [] ∧
    (s.drive np).freeing = [] ∧ (s.drive np).xfers = [x] ∧ x.cpn = c.cpn ∧ x.slot = c.slot ∧ 2 ≤ x.left ∧ cmdLate s c = true ∧
    (c.kind = .dataRead ∨ c.kind = .macRead ∨ c.kind = .dataWrite) ∧ (s.drive np).cidNext ≠ c.cid :=
  ⟨(moving3 (drive0 { rdDrive with xfers := [{ rdXfer with left := 2 }], cidNext := 9 } { base with time := 10 ^ 15 })), 0, rdCmd,
    { rdXfer with left := 2 }, by decide +kernel⟩

theorem witness_DriveCommandsEnd_13 : ∃ (s : State) (np : Nat) (cid : Nat) (c : _),
    s.boot.fatal = false ∧ (s.drive np).cmds.find? (fun c => c.cid == cid) = some c ∧ cmdLate s c = true ∧ isAbort c.kind = true :=
  ⟨(drive0 { rdDrive with cmds := [({ rdCmd with kind := .abort 3 })], xfers := [] } { base with time := 10 ^ 15 }), 0, 7,
    { rdCmd with kind := .abort 3 }, by decide +kernel⟩

end PartK

namespace PartL



theorem witness_HeadersAndSnapshots_2 :
    (∃ (s : State) (rq : Requester) (page : Nat),
    s.boot.fatal = false ∧ pageType page ≠ 0 ∧ rq.secure = true ∧ rq.src < 4 ∧ (s.page page).lock = false) ∧
    (∃ (s : State) (rq : Requester) (page : Nat) (val : Word),
    s.boot.fatal = false ∧ pageType page ≠ 0 ∧ rq.secure = true ∧ rq.src < 4 ∧ (s.page page).lock = true ∧
    bit val.toNat 0 = (s.page page).secure) ∧
    (∃ (s : State) (rq : Requester) (page : Nat) (val : Word),
    s.boot.fatal = false ∧ pageType page ≠ 0 ∧ rq.secure = true ∧ rq.src < 4 ∧ (s.page page).lock = true ∧
    bit val.toNat 0 ≠ (s.page page).secure) ∧
    (∃ (s : State) (rq : Requester) (page : Nat) (val : Word) (c : Instr),
    s.boot.fatal = false ∧ ((c = .snapRel rq page ∨ c = .logRel rq page ∨ c = .blkWorld rq page val)) ∧ pageType page ≠ 0 ∧ rq.secure = false) :=
  ⟨⟨base, sec, 4, by decide +kernel⟩,
    ⟨(base.setPage 4 fun p => { p with lock := true, secure := true }), sec, 4, 1, by decide +kernel⟩,
    ⟨(base.setPage 4 fun p => { p with lock := true, secure := true }), sec, 4, 0, by decide +kernel⟩,
    ⟨base, own, 4, 0, (.snapRel own 4), by decide +kernel⟩⟩

theorem witness_HeadersAndSnapshots_6 : ∃ (s : State) (rq : Requester) (page : Nat) (val : Word) (c : Instr),
    s.boot.fatal = false ∧ ((c = .snapRel rq page ∨ c = .logRel rq page ∨ c = .blkWorld rq page val)) ∧ pageType page = 0 :=
  ⟨base, own, 28, 0, (.logRel own 28), by decide +kernel⟩

theorem witness_HeadersAndSnapshots_7 :
    (∃ (s : State) (rq : Requester),
    s.boot.fatal = false ∧ rq.secure = true ∧ rq.src < 4 ∧ bit (s.reg pgSnp 0x200) 0 = true) ∧
    (∃ (s : State) (rq : Requester),
    s.boot.fatal = false ∧ rq.secure = true ∧ rq.src < 4 ∧ bit (s.reg pgSnp 0x200) 0 = false) :=
  ⟨⟨(base.setReg pgSnp 0x200 0 1), sec, by decide +kernel⟩,
    ⟨(base.setReg pgSnp 0x200 0 0), sec, by decide +kernel⟩⟩

theorem witness_ClocksAndSteps_0 :
    (∃ (s : State) (rq : Requester) (val : Word),
    s.boot.fatal = false ∧ rq.secure = true ∧ rq.src < 4 ∧ bits val.toNat 0 5 ≤ 28) ∧
    (∃ (s : State) (rq : Requester) (val : Word),
    s.boot.fatal = false ∧ rq.secure = true ∧ rq.src < 4 ∧ 28 < bits val.toNat 0 5) ∧
    (∃ (s : State) (rq : Requester) (val : Word),
    s.boot.fatal = false ∧ rq.secure = true ∧ rq.src < 4 ∧ val.toNat % 4 < 3) ∧
    (∃ (s : State) (rq : Requester) (val : Word),
    s.boot.fatal = false ∧ rq.secure = true ∧ rq.src < 4 ∧ val.toNat % 4 = 3) :=
  ⟨⟨base, sec, 28, by decide +kernel⟩,
    ⟨base, sec, 29, by decide +kernel⟩,
    ⟨base, sec, 2, by decide +kernel⟩,
    ⟨base, sec, 3, by decide +kernel⟩⟩

theorem witness_ClocksAndSteps_6 : ∃ (s : State) (rq : Requester) (val : Word) (c : Instr),
    s.boot.fatal = false ∧ rq.secure = false ∧ ((c = .clkTileReq rq val ∨ c = .clkTileAll rq val ∨ c = .clkSsc rq val)) :=
  ⟨base, own, 28, (.clkSsc own 28), by decide +kernel⟩

theorem witness_ClocksAndSteps_7 : ∃ (s : State) (tile : Nat) (k : Nat),
    s.boot.fatal = false ∧ tile < s.tiles.length ∧ (s.tile tile).pinned = false ∧ k < 29 ∧
    ((∀ n, n ∈ neighbours tile → stepsFit k (s.tile n).step = true)) :=
  ⟨base, 0, 24, by decide +kernel⟩

theorem witness_ClocksAndSteps_8 :
    (∃ (tile : Nat),
    tile < 48) ∧
    (∃ (s : State) (tile : Nat),
    (s.tile tile).pinned = true) :=
  ⟨⟨0, by decide +kernel⟩,
    ⟨(base.setTile 3 fun t => { t with pinned := true }), 3, by decide +kernel⟩⟩

end PartL

namespace PartM

def chanAt (c : Nat) (x : DmaCh) (s : State := base) : State := ((s.setReg pgDma 0x200 0 c).setReg pgDma 0x204 c 0x2000).setChan c fun _ => x
/-- The secure world's privileged channel 2, with SHARE 3 and BUCKET 20. -/
def chan2 (x : DmaCh) (s : State := base) : State := ((chanAt 2 x s).setReg pgDma 0x204 2 0x08).setReg pgDma 0x220 2 0x1403
def fillDesc : Desc := { op := 1, swrap := 0, dwrap := 0, scont := false, dcont := false, len := 128, src := 0x1122, dst := 5 * 2 ^ 60, addr := 64, err := 0 }
def doneCh (n : Nat) : DmaCh := { state := .running, count := n, fetched := [fillDesc], started := true, rd := 128, wr := 128, dstBase := 5 * 2 ^ 60 }
/-- Where every channel of the list but c is idle, every channel but c is. -/
theorem others_idle (s : State) (c : Nat)
    (h : (List.range s.dma.chs.length).all (fun x => x == c || (!beatReady s x && !(s.chan x).mover)) = true) :
    ∀ x, x ≠ c → beatReady s x = false ∧ (s.chan x).mover = false := by
  intro x hx
  by_cases hl : x < s.dma.chs.length
  · have h2 := List.all_eq_true.mp h x (List.mem_range.mpr hl)
    simpa [hx] using h2
  · have : s.chan x = {} := by simp [State.chan, lget, Nat.le_of_not_lt hl]
    simp [beatReady, this]

/-- Where every channel of the list is idle, every channel is. -/
theorem all_idle (s : State)
    (h : (List.range s.dma.chs.length).all (fun x => !beatReady s x && !(s.chan x).mover) = true) :
    ∀ x, beatReady s x = false ∧ (s.chan x).mover = false := by
  intro x
  by_cases hl : x < s.dma.chs.length
  · simpa using List.all_eq_true.mp h x (List.mem_range.mpr hl)
  · have : s.chan x = {} := by simp [State.chan, lget, Nat.le_of_not_lt hl]
    simp [beatReady, this]
/-- The bytes of a descriptor: FILL, COPY, and such with SCONT or DCONT. -/
def descBytes (op flags : Nat) : List Byte :=
  toLe 1 op ++ [0, 0] ++ toLe 1 flags ++ toLe 4 128 ++ toLe 8 (if flags = 1 then 0 else 0x1122) ++ toLe 8 (if flags = 2 then 0 else 2 ^ 60 + 640) ++ zeros 8
def fillBytes : List Byte := descBytes 1 0
def contBytes : List Byte := descBytes 1 1
def scopyBytes : List Byte := descBytes 0 1
def dcontBytes : List Byte := descBytes 0 2
/-- Channel 10 fetches the descriptor at the start of the working area. -/
def fetching (bs : List Byte) (x : DmaCh) : State :=
  let s := chanAt 10 { x with count := 3, state := .running, fetchAt := 2 ^ 60 }
  s.setHbm (mwrites s.mems.hbm (12288 * 65536) bs)

theorem witness_ChannelsAndRequests_0 :
    (∃ (s : State) (rq : Requester) (c : Nat),
    s.boot.fatal = false ∧ mayReach s rq pgDma = true ∧ c = chanSel s ∧ c < s.dma.chs.length ∧ maySelectChan s rq c = true ∧
    (((s.chan c).state = .idle ∨ (s.chan c).state = .stopped)) ∧ (s.chan c).count ≠ 0 ∧ (s.chan c).fetched = []) ∧
    (∃ (s : State) (rq : Requester) (c : Nat),
    s.boot.fatal = false ∧ mayReach s rq pgDma = true ∧ c = chanSel s ∧ c < s.dma.chs.length ∧ maySelectChan s rq c = true ∧
    ((s.chan c).state = .running ∨ (s.chan c).state = .waiting ∨ (s.chan c).state = .stopping ∨ (s.chan c).state = .fencing) ∧
    (s.chan c).started = false) ∧
    (∃ (s : State) (rq : Requester) (c : Nat),
    s.boot.fatal = false ∧ mayReach s rq pgDma = true ∧ c = chanSel s ∧ c < s.dma.chs.length ∧ maySelectChan s rq c = true ∧
    ((s.chan c).state = .running ∨ (s.chan c).state = .waiting ∨ (s.chan c).state = .stopping ∨ (s.chan c).state = .fencing) ∧
    (s.chan c).started = true) ∧
    (∃ (s : State) (rq : Requester) (c : Nat),
    s.boot.fatal = false ∧ mayReach s rq pgDma = true ∧ c = chanSel s ∧ c < s.dma.chs.length ∧ maySelectChan s rq c = true ∧
    (s.chan c).state = .error) :=
  ⟨⟨(chanAt 10 { count := 3, fetchAt := 2 ^ 60 }), own, 10, by decide +kernel⟩,
    ⟨(chanAt 10 { count := 3, state := .waiting }), own, 10, by decide +kernel⟩,
    ⟨(chanAt 10 { count := 3, state := .running, started := true, fetched := [fillDesc] }), own, 10, by decide +kernel⟩,
    ⟨(chanAt 10 { count := 3, state := .error, err := 4, started := true, fetched := [fillDesc] }), own, 10, by decide +kernel⟩⟩

theorem witness_ChannelsAndRequests_4 :
    (∃ (s : State) (rq : Requester) (c : Nat),
    s.boot.fatal = false ∧ mayReach s rq pgDma = true ∧ c = chanSel s ∧ c < s.dma.chs.length ∧ maySelectChan s rq c = true ∧
    ((s.chan c).count = 0 ∨ ((s.chan c).state ≠ .idle ∧ (s.chan c).state ≠ .stopped))) ∧
    (∃ (s : State) (rq : Requester) (c : Nat),
    s.boot.fatal = false ∧ mayReach s rq pgDma = true ∧ c = chanSel s ∧ c < s.dma.chs.length ∧ maySelectChan s rq c = true ∧
    chanRuns (s.chan c) = false) ∧
    (∃ (s : State) (rq : Requester) (c : Nat),
    s.boot.fatal = false ∧ mayReach s rq pgDma = true ∧ c = chanSel s ∧ c < s.dma.chs.length ∧ maySelectChan s rq c = true ∧
    (s.chan c).state ≠ .error) ∧
    (∃ (s : State) (rq : Requester) (c : Nat),
    s.boot.fatal = false ∧ mayReach s rq pgDma = true ∧ c = chanSel s ∧ c < s.dma.chs.length ∧ maySelectChan s rq c = false) :=
  ⟨⟨(chanAt 10 {}), own, 10, by decide +kernel⟩,
    ⟨(chanAt 10 {}), own, 10, by decide +kernel⟩,
    ⟨(chanAt 10 {}), own, 10, by decide +kernel⟩,
    ⟨((chanAt 10 {}).setReg pgDma 0x204 10 0x2008), own, 10, by decide +kernel⟩⟩

theorem witness_ChannelsAndRequests_10 : ∃ (s : State) (rq : Requester) (x : Instr),
    s.boot.fatal = false ∧ mayReach s rq pgDma = false ∧ ((x = .dmaStart rq ∨ x = .dmaStop rq ∨ x = .dmaClear rq)) :=
  ⟨base, { own with src := 5 }, (.dmaStop { own with src := 5 }), by decide +kernel⟩

theorem witness_ChannelsAndRequests_11 :
    (∃ (s : State) (rq : Requester) (c : Nat),
    s.boot.fatal = false ∧ mayReach s rq pgDma = true ∧ c = chanSel s ∧ c < s.dma.chs.length ∧ maySelectChan s rq c = true ∧
    privileged c = false) ∧
    (∃ (s : State) (rq : Requester) (c : Nat),
    s.boot.fatal = false ∧ mayReach s rq pgDma = true ∧ c = chanSel s ∧ c < s.dma.chs.length ∧
    (maySelectChan s rq c = false ∨ privileged c = true)) :=
  ⟨⟨(chanAt 10 { count := 3, state := .waiting, pend := 250 }), own, 10, by decide +kernel⟩,
    ⟨(chan2 { count := 3, state := .error }), sec, 2, by decide +kernel⟩⟩

theorem witness_ChannelsAndRequests_13 :
    (∃ (s : State) (line : Nat),
    s.boot.fatal = false ∧ 16 ≤ line ∧ line < 32) ∧
    (∃ (s : State) (line : Nat),
    s.boot.fatal = false ∧ (line < 16 ∨ 32 ≤ line)) :=
  ⟨⟨((chanAt 10 { count := 3, state := .waiting, pend := 255 }).setReg pgDma 0x204 10 (16 * 64)), 16, by decide +kernel⟩,
    ⟨base, 15, by decide +kernel⟩⟩

theorem witness_DescriptorsAndBeats_0 : ∃ (s : State) (c : Nat) (bs : List Byte),
    s.boot.fatal = false ∧ c < s.dma.chs.length ∧ mayFetch (s.chan c) = true ∧ dmaRead s c (s.chan c).fetchAt 32 = .data bs ∧
    (s.chan c).started = true :=
  ⟨(let x := chanAt 10 { count := 3, state := .running, fetched := [fillDesc], started := true, fetchAt := 2 ^ 60 }; x.setHbm (mwrites x.mems.hbm (12288 * 65536) ([3] ++ zeros 7 ++ toLe 8 (2 ^ 60 + 640)))),
    10, ([3] ++ zeros 7 ++ toLe 8 (2 ^ 60 + 640) ++ zeros 16), by decide +kernel⟩

theorem witness_DescriptorsAndBeats_1 : ∃ (s : State) (c : Nat) (e : Nat) (bs : List Byte),
    s.boot.fatal = false ∧ c < s.dma.chs.length ∧ mayFetch (s.chan c) = true ∧ (s.chan c).started = false ∧ (s.chan c).fetched = [] ∧ e ≠ 0 ∧
    (s.chan c).count ≠ 0 ∧ (((dmaRead s c (s.chan c).fetchAt 32 = .data bs ∧ descErr bs = e) ∨ dmaRead s c (s.chan c).fetchAt 32 = .err e)) :=
  ⟨(let x := chanAt 10 { count := 3, state := .running, fetchAt := 2 ^ 60 }; x.setHbm (mwrites x.mems.hbm (12288 * 65536) [4])), 10, 2,
    ([4] ++ zeros 31), by decide +kernel⟩

theorem witness_DescriptorsAndBeats_2 :
    (∃ (s : State) (c : Nat) (bs : List Byte) (d : Desc) (a : _) (b : _),
    s.boot.fatal = false ∧ c < s.dma.chs.length ∧ mayFetch (s.chan c) = true ∧ dmaRead s c (s.chan c).fetchAt 32 = .data bs ∧
    (s.chan c).started = false ∧ (s.chan c).fetched = [] ∧ (s.chan c).count ≠ 0 ∧ descErr bs = 0 ∧ d = parseDesc (s.chan c).fetchAt 0 bs ∧
    d.op < 2 ∧ transferBases (s.chan c) d = some (a, b) ∧ ((d.op = 0 → spaceErr a (chanOwner s c).2 = 0)) ∧ spaceErr b (chanOwner s c).2 = 0) ∧
    (∃ (s : State) (c : Nat) (bs : List Byte) (d : Desc),
    s.boot.fatal = false ∧ c < s.dma.chs.length ∧ mayFetch (s.chan c) = true ∧ dmaRead s c (s.chan c).fetchAt 32 = .data bs ∧
    (s.chan c).started = false ∧ (s.chan c).fetched = [] ∧ (s.chan c).count ≠ 0 ∧ descErr bs = 0 ∧ d = parseDesc (s.chan c).fetchAt 0 bs ∧
    d.op < 2 ∧ transferBases (s.chan c) d = none) ∧
    (∃ (s : State) (c : Nat) (bs : List Byte) (d : Desc),
    s.boot.fatal = false ∧ c < s.dma.chs.length ∧ mayFetch (s.chan c) = true ∧ dmaRead s c (s.chan c).fetchAt 32 = .data bs ∧
    (s.chan c).started = false ∧ (s.chan c).fetched = [] ∧ (s.chan c).count ≠ 0 ∧ descErr bs = 0 ∧ d = parseDesc (s.chan c).fetchAt 0 bs ∧
    d.op < 2 ∧ d.scont = true ∧ (s.chan c).srcEnd = none ∧ d.op = 0) ∧
    (∃ (s : State) (c : Nat) (bs : List Byte) (d : Desc),
    s.boot.fatal = false ∧ c < s.dma.chs.length ∧ mayFetch (s.chan c) = true ∧ dmaRead s c (s.chan c).fetchAt 32 = .data bs ∧
    (s.chan c).started = false ∧ (s.chan c).fetched = [] ∧ (s.chan c).count ≠ 0 ∧ descErr bs = 0 ∧ d = parseDesc (s.chan c).fetchAt 0 bs ∧
    d.op < 2 ∧ d.scont = true ∧ (s.chan c).dstEnd = none ∧ d.op = 1) :=
  ⟨⟨(fetching fillBytes {}), 10, fillBytes, (parseDesc (2 ^ 60) 0 fillBytes), 0x1122, (2 ^ 60 + 640), by decide +kernel⟩,
    ⟨(fetching contBytes {}), 10, contBytes, (parseDesc (2 ^ 60) 0 contBytes), by decide +kernel⟩,
    ⟨(fetching scopyBytes {}), 10, scopyBytes, (parseDesc (2 ^ 60) 0 scopyBytes), by decide +kernel⟩,
    ⟨(fetching contBytes {}), 10, contBytes, (parseDesc (2 ^ 60) 0 contBytes), by decide +kernel⟩⟩

theorem witness_DescriptorsAndBeats_6 : ∃ (s : State) (c : Nat) (bs : List Byte) (d : Desc),
    s.boot.fatal = false ∧ c < s.dma.chs.length ∧ mayFetch (s.chan c) = true ∧ dmaRead s c (s.chan c).fetchAt 32 = .data bs ∧
    (s.chan c).started = false ∧ (s.chan c).fetched = [] ∧ (s.chan c).count ≠ 0 ∧ descErr bs = 0 ∧ d = parseDesc (s.chan c).fetchAt 0 bs ∧
    d.op < 2 ∧ d.dcont = true ∧ (s.chan c).dstEnd = none :=
  ⟨(fetching dcontBytes {}), 10, dcontBytes, (parseDesc (2 ^ 60) 0 dcontBytes), by decide +kernel⟩

theorem witness_DescriptorsAndBeats_7 :
    (∃ (s : State) (c : Nat) (d : Desc) (rest : List Desc),
    s.boot.fatal = false ∧ c < s.dma.chs.length ∧ chanRuns (s.chan c) = true ∧ (s.chan c).started = true ∧ (s.chan c).fetched = d :: rest ∧
    ((d.op = 3 ∨ (d.op < 2 ∧ (s.chan c).wr = d.len))) ∧ (s.chan c).count = 1) ∧
    (∃ (s : State) (c : Nat) (d : Desc) (rest : List Desc),
    s.boot.fatal = false ∧ c < s.dma.chs.length ∧ chanRuns (s.chan c) = true ∧ (s.chan c).started = true ∧ (s.chan c).fetched = d :: rest ∧
    ((d.op = 3 ∨ (d.op < 2 ∧ (s.chan c).wr = d.len))) ∧ 1 < (s.chan c).count ∧ rest = [] ∧ (s.chan c).stopReq = false) ∧
    (∃ (s : State) (c : Nat) (d : Desc) (rest : List Desc),
    s.boot.fatal = false ∧ c < s.dma.chs.length ∧ chanRuns (s.chan c) = true ∧ (s.chan c).started = true ∧ (s.chan c).fetched = d :: rest ∧
    ((d.op = 3 ∨ (d.op < 2 ∧ (s.chan c).wr = d.len))) ∧ 1 < (s.chan c).count ∧ (s.chan c).stopReq = true) :=
  ⟨⟨(chanAt 10 (doneCh 1)), 10, fillDesc, [], by decide +kernel⟩,
    ⟨(chanAt 10 (doneCh 2)), 10, fillDesc, [], by decide +kernel⟩,
    ⟨(chanAt 10 { doneCh 2 with stopReq := true, state := .stopping }), 10, fillDesc, [], by decide +kernel⟩⟩

theorem witness_DescriptorsAndBeats_10 :
    (∃ (s : State) (c : Nat),
    s.boot.fatal = false ∧ c < s.dma.chs.length ∧ chanRuns (s.chan c) = true ∧ inFence (s.chan c) = true ∧
    (List.range 4).any (fun p => writesOut s p (2 ^ 40 + c)) = false ∧ (s.chan c).writeFailed = true) ∧
    (∃ (s : State) (c : Nat),
    s.boot.fatal = false ∧ c < s.dma.chs.length ∧ chanRuns (s.chan c) = true ∧ inFence (s.chan c) = true ∧
    (List.range 4).any (fun p => writesOut s p (2 ^ 40 + c)) = false ∧ (s.chan c).writeFailed = false ∧ (s.chan c).count = 1) ∧
    (∃ (s : State) (c : Nat) (d : _),
    s.boot.fatal = false ∧ c < s.dma.chs.length ∧ chanRuns (s.chan c) = true ∧ inFence (s.chan c) = true ∧
    (List.range 4).any (fun p => writesOut s p (2 ^ 40 + c)) = false ∧ (s.chan c).writeFailed = false ∧ 1 < (s.chan c).count ∧
    (s.chan c).fetched = [d] ∧ (s.chan c).stopReq = false) ∧
    (∃ (s : State) (c : Nat),
    s.boot.fatal = false ∧ mayFetch (s.chan c) = false) :=
  ⟨⟨(chanAt 10 { state := .fencing, count := 1, started := true, fetched := [{ fillDesc with op := 2 }], writeFailed := true }), 10, by decide +kernel⟩,
    ⟨(chanAt 10 { state := .fencing, count := 1, started := true, fetched := [{ fillDesc with op := 2 }] }), 10, by decide +kernel⟩,
    ⟨(chanAt 10 { state := .fencing, count := 2, started := true, fetched := [{ fillDesc with op := 2 }] }), 10, { fillDesc with op := 2 }, by decide +kernel⟩,
    ⟨base, 10, by decide +kernel⟩⟩

theorem witness_DescriptorsAndBeats_14 :
    (∃ (s : State) (c : Nat),
    s.boot.fatal = false ∧
    (chanRuns (s.chan c) = false ∨ (s.chan c).started = false ∨ chanHead (s.chan c) = none ∨ (∃ d, chanHead (s.chan c) = some d ∧ d.op ≠ 3 ∧
    (d.op < 2 → (s.chan c).wr ≠ d.len)))) ∧
    (∃ (s : State) (c : Nat),
    s.boot.fatal = false ∧
    (chanRuns (s.chan c) = false ∨ inFence (s.chan c) = false ∨ (List.range 4).any (fun p => writesOut s p (2 ^ 40 + c)) = true)) :=
  ⟨⟨base, 10, by decide +kernel, (.inl rfl)⟩,
    ⟨base, 10, by decide +kernel⟩⟩

def s_DescriptorsAndBeats_16 : State := chan2 { state := .running, count := 1, started := true, fetched := [fillDesc], dstBase := 5 * 2 ^ 60 + 47 * 2 ^ 40, credits := 3 }
theorem witness_DescriptorsAndBeats_16 : ∃ (s : State) (c : Nat) (k : Nat) (d : Desc) (bs : List Byte),
    (s.boot.fatal = false ∧ c < 64 ∧ c < s.dma.chs.length ∧ (s.chan c).state = .running ∧ (s.chan c).mover = false ∧ (s.chan c).buf = [] ∧
    chanHead (s.chan c) = some d ∧ inTransfer (s.chan c) = true ∧ mayRead c (s.chan c) d = true ∧ beatReady s c = true) ∧
    ((∀ x, x ≠ c → beatReady s x = false ∧ (s.chan x).mover = false)) ∧ k = (beatsAhead s c d).1 ∧ ((d.op = 1 ∧
    bs = patternBytes d.src (s.chan c).rd (beatsLen (s.chan c) d k) ∨ d.op = 0 ∧ refSpace (s.chan c).srcBase ≠ 0 ∧
    sourceBytes s c (s.chan c) d (s.chan c).rd (beatsLen (s.chan c) d k) = .data bs)) :=
  ⟨s_DescriptorsAndBeats_16, 2, ((beatsAhead (s_DescriptorsAndBeats_16) (2) (fillDesc)).1), fillDesc,
    (patternBytes (fillDesc).src 0 (beatsLen ((s_DescriptorsAndBeats_16).chan (2)) (fillDesc) ((beatsAhead (s_DescriptorsAndBeats_16) (2) (fillDesc)).1))), by decide +kernel, (others_idle _ _ (by decide +kernel)), (rfl), (.inl ⟨rfl, rfl⟩)⟩

def d_DescriptorsAndBeats_17 : Desc := { fillDesc with op := 0, src := 3 * 2 ^ 60, dst := 2 ^ 60 + 4096 }
theorem witness_DescriptorsAndBeats_17 : ∃ (s : State) (c : Nat) (e : Nat) (d : Desc),
    (s.boot.fatal = false ∧ c < 64 ∧ c < s.dma.chs.length ∧ (s.chan c).state = .running ∧ (s.chan c).mover = false ∧ (s.chan c).buf = [] ∧
    chanHead (s.chan c) = some d ∧ inTransfer (s.chan c) = true ∧ mayRead c (s.chan c) d = true ∧ beatReady s c = true ∧ d.op = 0 ∧
    refSpace (s.chan c).srcBase ≠ 0) ∧ ((∀ x, x ≠ c → beatReady s x = false ∧ (s.chan x).mover = false)) ∧
    sourceBytes s c (s.chan c) d (s.chan c).rd (beatsLen (s.chan c) d (beatsAhead s c d).1) = .err e :=
  ⟨(chanAt 10 { state := .running, count := 1, started := true, pend := 2, fetched := [(d_DescriptorsAndBeats_17)], srcBase := 3 * 2 ^ 60, dstBase := 2 ^ 60 + 4090 }),
    10, 1, d_DescriptorsAndBeats_17, by decide +kernel, (others_idle _ _ (by decide +kernel)), (rfl)⟩

def d_DescriptorsAndBeats_18 : Desc := { fillDesc with op := 0, src := 64, dst := 2 ^ 60 + 4096 }
def s_DescriptorsAndBeats_19 : State := chanAt 10 { state := .running, count := 1, started := true, pend := 2, fetched := [({ fillDesc with op := 0, src := 64, dst := 2 ^ 60 + 4096 })], srcBase := 64, dstBase := 2 ^ 60 + 4090 }
theorem witness_DescriptorsAndBeats_18 :
    (∃ (s : State) (c : Nat) (d : Desc),
    (s.boot.fatal = false ∧ c < 64 ∧ c < s.dma.chs.length ∧ (s.chan c).state = .running ∧ (s.chan c).mover = false ∧ (s.chan c).buf = [] ∧
    chanHead (s.chan c) = some d ∧ inTransfer (s.chan c) = true ∧ mayRead c (s.chan c) d = true ∧ beatReady s c = true ∧ d.op = 0 ∧
    refSpace (s.chan c).srcBase = 0 ∧ portActive s (chanPort s c) = false ∧ (s.link (chanPort s c)).reads.length < 1024) ∧
    ((∀ x, x ≠ c → beatReady s x = false ∧ (s.chan x).mover = false))) ∧
    (∃ (s : State) (c : Nat) (d : Desc),
    (s.boot.fatal = false ∧ c < 64 ∧ c < s.dma.chs.length ∧ (s.chan c).state = .running ∧ (s.chan c).mover = false ∧ (s.chan c).buf = [] ∧
    chanHead (s.chan c) = some d ∧ inTransfer (s.chan c) = true ∧ mayRead c (s.chan c) d = true ∧ beatReady s c = true ∧ d.op = 0 ∧
    refSpace (s.chan c).srcBase = 0 ∧ portActive s (chanPort s c) = true ∧ (s.link (chanPort s c)).reads.length < 1024 ∧
    chanPort s c < s.jlk.length) ∧ ((∀ x, x ≠ c → beatReady s x = false ∧ (s.chan x).mover = false))) :=
  ⟨⟨(chanAt 10 { state := .running, count := 1, started := true, pend := 2, fetched := [(d_DescriptorsAndBeats_18)], srcBase := 64, dstBase := 2 ^ 60 + 4090 } { Sys2Proof.Tests.base with jlk := List.replicate 12 {} }),
    10, d_DescriptorsAndBeats_18, by decide +kernel, (others_idle _ _ (by decide +kernel))⟩,
    ⟨s_DescriptorsAndBeats_19, 10, { fillDesc with op := 0, src := 64, dst := 2 ^ 60 + 4096 }, by decide +kernel, (others_idle _ _ (by decide +kernel))⟩⟩

def b_DescriptorsAndBeats_20 : List Byte := patternBytes 0x1122 64 64
def b_DescriptorsAndBeats_21 : List Byte := patternBytes 0x1122 64 64
theorem witness_DescriptorsAndBeats_20 :
    (∃ (s : State) (c : Nat) (d : Desc) (b : List Byte),
    (s.boot.fatal = false ∧ c < 64 ∧ c < s.dma.chs.length ∧ (s.chan c).state = .running ∧ (s.chan c).mover = true ∧ (s.chan c).buf = [b] ∧
    beatReady s c = true ∧ chanHead (s.chan c) = some d ∧ inTransfer (s.chan c) = true ∧ d.len ≤ (s.chan c).rd ∧
    placeErr s c (wrapAddr (s.chan c).dstBase d.dwrap (s.chan c).wr) b.length = 0) ∧ ((∀ x, x ≠ c → beatReady s x = false ∧
    (s.chan x).mover = false))) ∧
    (∃ (s : State) (c : Nat) (d : Desc) (b : List Byte),
    (s.boot.fatal = false ∧ c < 64 ∧ c < s.dma.chs.length ∧ (s.chan c).state = .running ∧ (s.chan c).mover = true ∧ (s.chan c).buf = [b] ∧
    beatReady s c = true ∧ chanHead (s.chan c) = some d ∧ inTransfer (s.chan c) = true ∧ d.len ≤ (s.chan c).rd ∧
    placeErr s c (wrapAddr (s.chan c).dstBase d.dwrap (s.chan c).wr) b.length ≠ 0) ∧ ((∀ x, x ≠ c → beatReady s x = false ∧
    (s.chan x).mover = false))) :=
  ⟨⟨(chan2 { state := .running, count := 1, started := true, fetched := [fillDesc], dstBase := 5 * 2 ^ 60 + 47 * 2 ^ 40, credits := 3, mover := true, rd := 128, wr := 64, buf := [(b_DescriptorsAndBeats_20)] }),
    2, fillDesc, b_DescriptorsAndBeats_20, by decide +kernel, (others_idle _ _ (by decide +kernel))⟩,
    ⟨(chan2 { state := .running, count := 1, started := true, fetched := [fillDesc], dstBase := 5 * 2 ^ 60 + 60 * 2 ^ 40, credits := 3, mover := true, rd := 128, wr := 64, buf := [(b_DescriptorsAndBeats_21)] }),
    2, fillDesc, b_DescriptorsAndBeats_21, by decide +kernel, (others_idle _ _ (by decide +kernel))⟩⟩

theorem witness_DescriptorsAndBeats_22 : ∃ (a : Nat),
    refSpace a = 5 :=
  ⟨(5 * 2 ^ 60 + 47 * 2 ^ 40 + 9), by decide +kernel⟩

theorem witness_DescriptorsAndBeats_23 : ∃ (s : State) (c : Nat),
    privileged c = true ∧ ((chanShare s c = 0 ∨ (s.chan c).credits = 0 ∨ chanBucket s c = 0)) :=
  ⟨(chan2 { credits := 0, buf := [[1]], state := .running, started := true, fetched := [fillDesc] }), 2, by decide +kernel⟩

theorem witness_DescriptorsAndBeats_24 : ∃ (s : State),
    s.boot.fatal = false ∧ ((∀ c, beatReady s c = false ∧ (s.chan c).mover = false)) :=
  ⟨base, by decide +kernel, (all_idle _ (by decide +kernel))⟩

end PartM

namespace PartN

def linkAt (p : Nat) (l : Jlk) (s : State := base) : State := s.setLink p fun _ => l
def kdata (q : Nat) (enc : Bool) : Frame :=
  { enc := enc, len := 48, fseq := q, body := .txn { op := .wrAck, tag := 3 } }
def kheld : List HeldFrame := [{ fseq := 4, frame := kdata 4 false }, { fseq := 5, frame := kdata 5 false }]
def kact : Jlk := { state := .active, lanes := 255 }
def keyedL : Jlk := { kact with keyed := true, kgenTx := 3, txSeq := 9 }
def kread (u : ReadUse) : MemRd := { tag := 5, addr := 0x1000, bytes := 64, got := zeros 16, at_ := 900, use := u }
def kring (s : State) : State := { s with dep := { s.dep with sq := [(3, { en := true, fetch := some (5, 1) })] } }

theorem witness_LinkTraining_0 :
    (∃ (s : State) (rq : Requester) (port : Nat),
    s.boot.fatal = false ∧ port < 12 ∧ port < s.jlk.length ∧ rq.secure = true ∧ rq.src < 4) ∧
    (∃ (s : State) (rq : Requester) (port : Nat),
    s.boot.fatal = false ∧ port < 12 ∧ port < s.jlk.length ∧ rq.secure = false) ∧
    (∃ (port : Nat),
    12 ≤ port) :=
  ⟨⟨(linkAt 4 {}), sec, 4, by decide +kernel⟩,
    ⟨base, own, 4, by decide +kernel⟩,
    ⟨12, by decide +kernel⟩⟩

theorem witness_LinkTraining_3 :
    (∃ (s : State) (port : Nat) (g : _),
    port < s.jlk.length ∧ (s.link port).state = .detect ∧ g < 4) ∧
    (∃ (s : State) (port : Nat) (g : _),
    port < s.jlk.length ∧ ((s.link port).state ≠ .detect ∨ 4 ≤ g)) ∧
    (∃ (s : State) (port : Nat) (lanes : _) (g : _),
    port < s.jlk.length ∧ (s.link port).state = .eq ∧ linkLate s port 20000000 = false ∧ bestGroup (maxWidth s port) (lanes % 256) = some g) ∧
    (∃ (s : State) (port : Nat) (lanes : _),
    port < s.jlk.length ∧ ((s.link port).state ≠ .eq ∨ (linkLate s port 20000000 = false ∧ bestGroup (maxWidth s port) (lanes % 256) = none))) :=
  ⟨⟨(linkAt 4 { state := .detect }), 4, 3, by decide +kernel⟩,
    ⟨(linkAt 4 { state := .detect }), 4, 4, by decide +kernel⟩,
    ⟨(linkAt 4 { state := .eq }), 4, 0x0F, { first := 0, width := 1, mask := 15 }, by decide +kernel⟩,
    ⟨(linkAt 4 { state := .eq }), 4, 0, by decide +kernel⟩⟩

theorem witness_LinkTraining_9 :
    (∃ (s : State) (port : Nat),
    port < s.jlk.length ∧ (s.link port).state ≠ .eq) ∧
    (∃ (s : State) (port : Nat),
    port < s.jlk.length ∧ (s.link port).state = .align ∧ linkLate s port 1000000 = false) ∧
    (∃ (s : State) (port : Nat),
    port < s.jlk.length ∧ (s.link port).state ≠ .align) ∧
    (∃ (s : State) (port : Nat) (g : _),
    port < s.jlk.length ∧ (s.link port).state = .align ∧ narrowerGroup (s.link port).groupWidth (s.link port).passed = some g) :=
  ⟨⟨base, 4, by decide +kernel⟩,
    ⟨(linkAt 4 { state := .align }), 4, by decide +kernel⟩,
    ⟨base, 4, by decide +kernel⟩,
    ⟨(linkAt 4 { state := .align, groupWidth := 0, passed := 0xF0 }), 4, (((narrowerGroup 0 0xF0)).getD { first := 0, width := 0, mask := 0 }), by decide +kernel⟩⟩

theorem witness_LinkTraining_15 : ∃ (s : State) (port : Nat),
    port < s.jlk.length ∧ (s.link port).state = .align ∧ narrowerGroup (s.link port).groupWidth (s.link port).passed = none :=
  ⟨(linkAt 4 { state := .align, groupWidth := 2, passed := 0xF0 }), 4, by decide +kernel⟩

theorem witness_LinkTraining_16 :
    (∃ (s : State) (port : Nat),
    port < s.jlk.length ∧ (s.link port).state ≠ .config) ∧
    (∃ (s : State) (port : Nat) (b : CfgBlock),
    port < s.jlk.length ∧ (s.link port).state = .config ∧ kindSuits port b.kind = false ∧ (s.link port).reads = []) ∧
    (∃ (s : State) (port : Nat) (b : CfgBlock) (g : _),
    port < s.jlk.length ∧ (s.link port).state = .config ∧ kindSuits port b.kind = true ∧ linkLate s port 100000 = false ∧
    b.nonce ≠ (s.link port).nonce ∧ bestGroup (s.link port).groupWidth ((s.link port).passed &&& b.lanes) = some g) ∧
    (∃ (s : State) (port : Nat) (b : CfgBlock),
    port < s.jlk.length ∧ (s.link port).state = .config ∧ kindSuits port b.kind = true ∧ linkLate s port 100000 = false ∧
    b.nonce = (s.link port).nonce) :=
  ⟨⟨base, 4, by decide +kernel⟩,
    ⟨(linkAt 4 { state := .config, held := kheld }), 4, ({ kind := 0, lanes := 255, nonce := 5, cred := [], nextRx := 0 }), by decide +kernel⟩,
    ⟨(linkAt 4 { keyedL with state := .config, passed := 255, nonce := 7, held := kheld }), 4,
    ({ kind := 2, lanes := 255, nonce := 5, cred := [1, 2, 3, 4, 5], nextRx := 0 }),
    (((bestGroup 0 255)).getD { first := 0, width := 0, mask := 0 }), by decide +kernel⟩,
    ⟨(linkAt 4 { keyedL with state := .config, passed := 255, nonce := 5, held := kheld }), 4,
    ({ kind := 2, lanes := 255, nonce := 5, cred := [1, 2, 3, 4, 5], nextRx := 0 }), by decide +kernel⟩⟩

theorem witness_LinkTraining_21 : ∃ (s : State) (port : Nat) (b : CfgBlock),
    port < s.jlk.length ∧ (s.link port).state = .config ∧ kindSuits port b.kind = true ∧ linkLate s port 100000 = false ∧
    b.nonce ≠ (s.link port).nonce ∧ bestGroup (s.link port).groupWidth ((s.link port).passed &&& b.lanes) = none :=
  ⟨(linkAt 4 { keyedL with state := .config, passed := 0, nonce := 7, held := kheld }), 4,
    ({ kind := 2, lanes := 255, nonce := 5, cred := [1, 2, 3, 4, 5], nextRx := 0 }), by decide +kernel⟩

theorem witness_LinkTraining_7 :
    (∃ (s : State) (port : Nat),
    port < s.jlk.length ∧ (s.link port).state = .eq ∧ linkLate s port 20000000 = true) ∧
    (∃ (s : State) (port : Nat),
    port < s.jlk.length ∧ (s.link port).state = .align ∧ linkLate s port 1000000 = true) :=
  ⟨⟨(linkAt 4 { state := .eq } { base with time := 30000000 }), 4, by decide +kernel⟩,
    ⟨(linkAt 4 { state := .align } { base with time := 30000000 }), 4, by decide +kernel⟩⟩

theorem witness_LinkTraining_18 : ∃ (s : State) (port : Nat) (b : CfgBlock),
    port < s.jlk.length ∧ (s.link port).state = .config ∧ kindSuits port b.kind = true ∧ linkLate s port 100000 = true :=
  ⟨(linkAt 4 { keyedL with state := .config, passed := 255, nonce := 7 } { base with time := 30000000 }), 4,
    ({ kind := 2, lanes := 255, nonce := 5, cred := [1, 2, 3, 4, 5], nextRx := 0 }), by decide +kernel⟩

theorem witness_RecoveryAndDown_0 :
    (∃ (s : State) (port : Nat) (c : Instr) (rq : Requester),
    (port < s.jlk.length ∧ (s.link port).state = .active ∧ s.boot.fatal = false ∧ rq.secure = true ∧ rq.src < 4 ∧ port < 12) ∧
    ((c = .rowLockLoss port ∨ c = .retrain rq port ∨ ∃ lane, c = .linkDegrade port lane ∧
    bits (s.reg (pgJlk port) 0x200) 8 8 < laneWindow s (s.link port) lane))) ∧
    (∃ (s : State) (port : Nat) (lane : _),
    port < s.jlk.length ∧ (s.link port).state = .active ∧ laneWindow s (s.link port) lane ≤ bits (s.reg (pgJlk port) 0x200) 8 8) ∧
    (∃ (s : State) (port : Nat) (rq : Requester),
    port < s.jlk.length ∧ (s.link port).state = .down ∧ s.boot.fatal = false ∧ rq.secure = true ∧ rq.src < 4 ∧ port < 12) ∧
    (∃ (s : State) (port : Nat) (rq : Requester),
    port < s.jlk.length ∧ (s.link port).state ≠ .active ∧ (s.link port).state ≠ .down ∧ s.boot.fatal = false ∧ rq.secure = true ∧ rq.src < 4 ∧
    port < 12) :=
  ⟨⟨(linkAt 4 { keyedL with held := kheld }), 4, (.rowLockLoss 4), sec, by decide +kernel, (.inl rfl)⟩,
    ⟨base, 4, 2, by decide +kernel⟩,
    ⟨(linkAt 4 { state := .down }), 4, sec, by decide +kernel⟩,
    ⟨(linkAt 4 {}), 4, sec, by decide +kernel⟩⟩

theorem witness_RecoveryAndDown_9 :
    (∃ (s : State) (port : Nat) (lanes : _) (g : _),
    port < s.jlk.length ∧ (s.link port).state = .recover ∧ recoverGroup s port lanes = some g ∧ linkLate s port (recoverNs s port) = false) ∧
    (∃ (s : State) (port : Nat) (lanes : _),
    port < s.jlk.length ∧ (s.link port).state = .recover ∧ recoverGroup s port lanes = none ∧ (s.link port).reads = []) :=
  ⟨⟨(linkAt 4 { keyedL with held := kheld, state := .recover, width := 1 }), 4, 0x0F,
    (((recoverGroup (linkAt 4 { keyedL with held := kheld, state := .recover, width := 1 }) 4 0x0F)).getD { first := 0, width := 0, mask := 0 }), by decide +kernel⟩,
    ⟨(linkAt 4 { keyedL with held := kheld, state := .recover, width := 1 }), 4, 0, by decide +kernel⟩⟩

theorem witness_RecoveryAndDown_13 :
    (∃ (s : State) (rq : Requester) (port : Nat),
    s.boot.fatal = false ∧ port < 12 ∧ port < s.jlk.length ∧ rq.secure = true ∧ rq.src < 4 ∧
    (((s.link port).state = .active ∨ (s.link port).state = .recover)) ∧ (s.link port).reads = []) ∧
    (∃ (s : State) (rq : Requester) (port : Nat),
    s.boot.fatal = false ∧ port < 12 ∧ port < s.jlk.length ∧ rq.secure = true ∧ rq.src < 4 ∧ (s.link port).state ≠ .active ∧
    (s.link port).state ≠ .recover) ∧
    (∃ (s : State) (rq : Requester) (port : Nat),
    s.boot.fatal = false ∧ port < 12 ∧ port < s.jlk.length ∧ rq.secure = false) :=
  ⟨⟨(let x := linkAt 0 { keyedL with held := kheld, unacked := [(1, 2)] }; { x with dep := { x.dep with sq := [(3, { en := true }), (4, { en := true, port := 1 })] } }),
    sec, 0, by decide +kernel⟩,
    ⟨(linkAt 4 {}), sec, 4, by decide +kernel⟩,
    ⟨base, own, 4, by decide +kernel⟩⟩

theorem witness_RecoveryAndDown_8 : ∃ (s : State) (port : Nat) (lanes : _) (g : _),
    port < s.jlk.length ∧ (s.link port).state = .recover ∧ recoverGroup s port lanes = some g ∧ linkLate s port (recoverNs s port) = true :=
  ⟨(linkAt 4 { keyedL with held := kheld, state := .recover, width := 1 } { base with time := 30000000 }), 4, 0x0F,
    (((recoverGroup (linkAt 4 { keyedL with held := kheld, state := .recover, width := 1 }) 4 0x0F)).getD { first := 0, width := 0, mask := 0 }), by decide +kernel⟩

theorem witness_FramesAreReceived_0 :
    (∃ (s : State) (port : Nat) (f : _) (a : _),
    port < s.jlk.length ∧ (s.link port).state = .active ∧ (s.link port).discarding = false ∧ isData f = true ∧ frameOk port f = true ∧
    ((f.enc = true → (s.link port).keyed = true ∧ a = true)) ∧ f.fseq = (s.link port).rxNext ∧ frameRefused s port f = none ∧
    (((s.part f.pt).state ≠ .scrubbing ∨ f.secure = true)) ∧ reservedPkt f = false ∧ frameChannel f < (s.link port).rxBuf.length) ∧
    (∃ (s : State) (port : Nat) (f : _) (a : _),
    port < s.jlk.length ∧ (s.link port).state = .active ∧ (s.link port).discarding = false ∧ isData f = true ∧ frameOk port f = true ∧
    ((f.enc = true → (s.link port).keyed = true ∧ a = true)) ∧ f.fseq ≠ (s.link port).rxNext ∧ seqBelow f.fseq (s.link port).rxNext = true) ∧
    (∃ (s : State) (port : Nat) (f : _) (a : _),
    port < s.jlk.length ∧ (s.link port).state = .active ∧ (s.link port).discarding = false ∧ isData f = true ∧ frameOk port f = true ∧
    ((f.enc = true → (s.link port).keyed = true ∧ a = true)) ∧ f.fseq ≠ (s.link port).rxNext ∧ seqBelow f.fseq (s.link port).rxNext = false) ∧
    (∃ (s : State) (port : Nat) (f : _),
    port < s.jlk.length ∧ (s.link port).state = .active ∧ (s.link port).discarding = false ∧ ((8 ≤ frameType f.body ∨ reservedFrame f = true)) ∧
    frameOk port f = false) :=
  ⟨⟨(linkAt 0 { keyedL with rxNext := 6 }), 0, (kdata 6 true), true, by decide +kernel⟩,
    ⟨(linkAt 0 { keyedL with rxNext := 6 }), 0, (kdata 5 true), true, by decide +kernel⟩,
    ⟨(linkAt 0 { keyedL with rxNext := 6 }), 0, (kdata 7 true), true, by decide +kernel⟩,
    ⟨(linkAt 0 { keyedL with rxNext := 6 }), 0, { kdata 6 true with len := 40 }, by decide +kernel⟩⟩

theorem witness_FramesAreReceived_4 :
    (∃ (s : State) (port : Nat) (f : _),
    port < s.jlk.length ∧ (s.link port).state = .active ∧ (s.link port).discarding = false ∧ isData f = true ∧ frameOk port f = true ∧
    f.enc = true ∧ (s.link port).tagFails = (0, 0) ∧ f.fseq ≠ 0) ∧
    (∃ (s : State) (port : Nat) (f : _),
    port < s.jlk.length ∧ (s.link port).state = .active ∧ (s.link port).discarding = false ∧ isData f = true ∧ frameOk port f = true ∧
    f.enc = true ∧ (s.link port).tagFails = (f.fseq, 7) ∧ (s.link port).reads = []) ∧
    (∃ (s : State) (port : Nat) (f : _) (a : _),
    port < s.jlk.length ∧ (s.link port).state = .active ∧ (s.link port).discarding = false ∧ isData f = true ∧ frameOk port f = true ∧
    ((f.enc = true → (s.link port).keyed = true ∧ a = true)) ∧ f.fseq = (s.link port).rxNext ∧ frameRefused s port f = none ∧
    (((s.part f.pt).state ≠ .scrubbing ∨ f.secure = true)) ∧ reservedPkt f = true) :=
  ⟨⟨(linkAt 0 { keyedL with rxNext := 6 }), 0, (kdata 6 true), by decide +kernel⟩,
    ⟨(linkAt 0 { keyedL with rxNext := 6, tagFails := (6, 7) }), 0, (kdata 6 true), by decide +kernel⟩,
    ⟨(linkAt 4 { keyedL with rxNext := 6 }), 4, ({ fseq := 6, enc := true, len := 64, body := .pkt { ptype := .reserved 0x20 } }), true, by decide +kernel⟩⟩

theorem witness_FramesAreReceived_8 : ∃ (s : State) (port : Nat) (f : Frame),
    (s.link port).state = .active ∧ (s.link port).discarding = true ∧ f.fseq ≠ (s.link port).rxNext :=
  ⟨(linkAt 0 { keyedL with rxNext := 6, discarding := true }), 0, (kdata 7 true), by decide +kernel⟩

theorem witness_FramesAreReceived_9 : ∃ (s : State) (port : Nat),
    (s.link port).state ≠ .active :=
  ⟨(linkAt 0 {}), 0, by decide +kernel⟩

theorem witness_ControlFramesAndTimers_1 :
    (∃ (s : State) (port : Nat) (a : Bool) (next : _) (h : _) (hs : _),
    port < s.jlk.length ∧ (s.link port).state = .active ∧ (((s.link port).keyed = false ∨ a = true)) ∧
    (s.link port).held.filter (fun h => !seqBelow h.fseq next) = h :: hs ∧ (s.link port).replays < 15) ∧
    (∃ (s : State) (port : Nat) (a : Bool) (next : _),
    port < s.jlk.length ∧ (s.link port).state = .active ∧ (((s.link port).keyed = false ∨ a = true)) ∧ (s.link port).held ≠ [] ∧
    ((∀ h, h ∈ (s.link port).held → seqBelow h.fseq next = false)) ∧ (s.link port).replays = 15) ∧
    (∃ (s : State) (port : Nat) (a : Bool) (next : _),
    port < s.jlk.length ∧ (s.link port).state = .active ∧ (((s.link port).keyed = false ∨ a = true)) ∧ (s.link port).replays < 16 ∧
    ((∀ h, h ∈ (s.link port).held → seqBelow h.fseq next = true))) ∧
    (∃ (s : State) (port : Nat) (ctr : Nat) (a : Bool) (c : Instr),
    (port < s.jlk.length ∧ (s.link port).state = .active ∧ (s.link port).keyed = true ∧ a = false) ∧
    (((∃ n, c = .jlkAckRx port n ctr a) ∨ (∃ n, c = .jlkNakRx port n ctr a) ∨ (∃ n, c = .creditRx port n ctr a) ∨ (∃ g n, c = .keyRx port g n ctr a)))) :=
  ⟨⟨(linkAt 4 { keyedL with held := kheld }), 4, true, 5, { fseq := 5, frame := kdata 5 false }, [], by decide +kernel⟩,
    ⟨(linkAt 4 { keyedL with held := kheld, replays := 15 }), 4, true, 4, by decide +kernel⟩,
    ⟨(linkAt 4 { keyedL with held := kheld, replays := 15 }), 4, true, 6, by decide +kernel⟩,
    ⟨(linkAt 4 keyedL), 4, 7, false, (.jlkAckRx 4 5 7 false), by decide +kernel, (.inl ⟨_, rfl⟩)⟩⟩

theorem witness_ControlFramesAndTimers_7 : ∃ (s : State) (port : Nat),
    (s.link port).state ≠ .active :=
  ⟨(linkAt 4 {}), 4, by decide +kernel⟩

theorem witness_ControlFramesAndTimers_11 :
    (∃ (s : State) (rq : Requester) (port : Nat),
    s.boot.fatal = false ∧ port < 12 ∧ port < s.jlk.length ∧ rq.secure = true ∧ rq.src < 4 ∧ (s.link port).keyed = true) ∧
    (∃ (s : State) (rq : Requester) (port : Nat),
    s.boot.fatal = false ∧ port < 12 ∧ port < s.jlk.length ∧ rq.secure = true ∧ rq.src < 4 ∧ (s.link port).keyed = false) ∧
    (∃ (s : State) (rq : Requester) (port : Nat),
    s.boot.fatal = false ∧ port < 12 ∧ port < s.jlk.length ∧ rq.secure = false) :=
  ⟨⟨(linkAt 4 keyedL), sec, 4, by decide +kernel⟩,
    ⟨(linkAt 4 {}), sec, 4, by decide +kernel⟩,
    ⟨(linkAt 4 {}), own, 4, by decide +kernel⟩⟩

theorem witness_ControlFramesAndTimers_14 :
    (∃ (s : State) (port : Nat) (h : _) (hs : _),
    port < s.jlk.length ∧ (s.link port).state = .active ∧ (s.link port).held = h :: hs ∧ (s.link port).replays < 15) ∧
    (∃ (s : State) (port : Nat),
    port < s.jlk.length ∧ (s.link port).state = .active ∧ (s.link port).held = []) ∧
    (∃ (s : State) (port : Nat) (x : _),
    port < s.jlk.length ∧ (s.link port).state = .active ∧ (s.link port).ackAt = some x) ∧
    (∃ (s : State) (port : Nat),
    port < s.jlk.length ∧ (s.link port).state = .active ∧ (s.link port).ackAt = none) :=
  ⟨⟨(linkAt 4 { keyedL with held := kheld, advanceAt := 400 }), 4, { fseq := 4, frame := kdata 4 false },
    ([{ fseq := 5, frame := kdata 5 false }]), by decide +kernel⟩,
    ⟨(linkAt 4 keyedL), 4, by decide +kernel⟩,
    ⟨(linkAt 4 { keyedL with ackAt := some 700 }), 4, 700, by decide +kernel⟩,
    ⟨(linkAt 4 keyedL), 4, by decide +kernel⟩⟩

theorem witness_HostMemoryAnswers_0 :
    (∃ (s : State) (port : Nat) (tag : Nat) (r : MemRd) (data : List Byte),
    port < 4 ∧ port < s.jlk.length ∧ s.boot.fatal = false ∧ (s.link port).reads = [r] ∧ r.tag = tag ∧ portActive s port = true ∧
    s.time ≤ readBound s port r ∧ data.length + r.got.length < r.bytes) ∧
    (∃ (s : State) (port : Nat) (tag : Nat) (r : MemRd) (cpn : _) (data : List Byte),
    port < 4 ∧ port < s.jlk.length ∧ s.boot.fatal = false ∧ (s.link port).reads = [r] ∧ r.tag = tag ∧ portActive s port = true ∧
    s.time ≤ readBound s port r ∧ data.length + r.got.length = r.bytes ∧ r.use = .movePage cpn) ∧
    (∃ (s : State) (port : Nat) (tag : Nat) (r : MemRd) (ring : _) (n : _) (st : _),
    port < 4 ∧ port < s.jlk.length ∧ s.boot.fatal = false ∧ (s.link port).reads = [r] ∧ r.tag = tag ∧ portActive s port = true ∧
    r.use = .ringFetch ring ∧ (s.subRing ring).fetch = some (tag, n) ∧ ((st = 1 ∨ st = 2 ∨ readBound s port r < s.time))) :=
  ⟨⟨(linkAt 0 { keyedL with reads := [kread (.ringFetch 3)] }), 0, 5, (kread (.ringFetch 3)), [1, 2, 3], by decide +kernel⟩,
    ⟨(linkAt 0 { keyedL with reads := [kread (.movePage 10)] }), 0, 5, (kread (.movePage 10)), 10, (zeros 48), by decide +kernel⟩,
    ⟨(kring (linkAt 0 { keyedL with reads := [kread (.ringFetch 3)] })), 0, 5, (kread (.ringFetch 3)), 3, 1, 2, by decide +kernel⟩⟩

theorem witness_HostMemoryAnswers_4 : ∃ (s : State) (port : Nat) (tag : Nat),
    port < 4 ∧ port < s.jlk.length ∧ portActive s port = true ∧ s.boot.fatal = false ∧ ((∀ r, r ∈ (s.link port).reads → r.tag ≠ tag)) :=
  ⟨(linkAt 0 { keyedL with reads := [kread (.ringFetch 3)] }), 0, 6, by decide +kernel⟩

theorem witness_HostMemoryAnswers_6 : ∃ (s : State) (port : Nat) (tag : Nat) (org : Nat) (ws : List (Nat × Nat)) (rest : List (Nat × Nat)),
    port < 4 ∧ port < s.jlk.length ∧ portActive s port = true ∧ (s.link port).unacked = ws ++ (tag, org) :: rest ∧ ((∀ w, w ∈ ws → w.1 ≠ tag)) :=
  ⟨(linkAt 0 { keyedL with unacked := [(1, 0), (2, 0), (3, 5)] }), 0, 2, 0, [(1, 0)], [(3, 5)], by decide +kernel⟩

theorem witness_HostMemoryAnswers_7 :
    (∃ (s : State) (port : Nat) (tag : Nat),
    port < 4 ∧ port < s.jlk.length ∧ portActive s port = true ∧ ((∀ w, w ∈ (s.link port).unacked → w.1 ≠ tag))) ∧
    (∃ (s : State) (port : Nat),
    (portActive s port = false ∨ 4 ≤ port)) :=
  ⟨⟨(linkAt 0 keyedL), 0, 5, by decide +kernel⟩,
    ⟨(linkAt 0 {}), 0, by decide +kernel⟩⟩

theorem witness_HostMemoryAnswers_10 : ∃ (s : State) (port : Nat) (st : _),
    port < 4 ∧ port < s.jlk.length ∧ portActive s port = true ∧ s.boot.fatal = false ∧ (st = 1 ∨ st = 2) :=
  ⟨(linkAt 0 keyedL), 0, 2, by decide +kernel⟩

end PartN

namespace PartO

def pLink (p : Nat) (l : Jlk) (s : State := base) : State := s.setLink p fun _ => l
def pAct : Jlk := { state := .active, lanes := 255, txLimit := [100, 100, 100, 100, 100], keyed := true, txSeq := 9 }
def pFrame : Frame := { vc := 1, len := 48, body := .txn { op := .mmioRsp, tag := 3 } }
/-- A frame waits in queue 2 of port 0. -/
def queued (s : State := base) (w : Frame := pFrame) (o : Nat := 0) : State :=
  (pLink 0 pAct s).setSched 0 fun t => { t with qs := lmod t.qs 2 fun e => { e with frames := [{ key := 4, frame := w, origin := o }] }, at_ := 1000 }
def choice (s : State) : Option (Nat × Nat × Tsc) := chooseQueue (decideAll (schedSync (s.sched 0) 1000) (s.link 0)) (s.link 0)
def pChoice : Option (Nat × Nat × Tsc) := choice queued
/-- A write that a ring waits for. -/
def wTxn : Txn := { op := .memWr, ackrq := true, bytes := 3, addr := 4096, data := [7, 8, 9] }
def wFrame : Frame := { vc := 1, len := 64, body := .txn wTxn }
def wQueued : State := queued base wFrame 3
def scrubbedPort (s : State) : State :=
  let m := { s.dep.cfg.pmap with pts := lset s.dep.cfg.pmap.pts 0 { lget s.dep.cfg.pmap.pts 0 {} with strict := true } }
  { s with dep := { s.dep with cfg := { s.dep.cfg with pmap := m }, cfgPrev := { s.dep.cfgPrev with pmap := m } }
           sec := { s.sec with pts := lset s.sec.pts 0 { state := .scrubbing } } }
def gated (s : State := base) : State :=
  s.setSched 0 fun t => { t with gates := { cycle := 1000, entries := [(5, 300), (7, 700)] }, gateStart := 500 }

theorem witness_FrameOrderAndGates_0 :
    (∃ (s : State) (port : Nat) (h : _),
    s.boot.fatal = false ∧ port < 12 ∧ port < s.jlk.length ∧ port < s.tsc.length ∧ portActive s port = true ∧ scrubHeld s port = false ∧
    nextReplay (s.link port) = some h) ∧
    (∃ (s : State) (port : Nat) (c : CtlFrame),
    s.boot.fatal = false ∧ port < 12 ∧ port < s.jlk.length ∧ port < s.tsc.length ∧ portActive s port = true ∧ scrubHeld s port = false ∧
    nextReplay (s.link port) = none ∧ minBy ctlRank (s.link port).ctl = some c) ∧
    (∃ (s : State) (port : Nat) (m : _) (ms : _),
    s.boot.fatal = false ∧ port < 12 ∧ port < s.jlk.length ∧ port < s.tsc.length ∧ portActive s port = true ∧ scrubHeld s port = false ∧
    nextReplay (s.link port) = none ∧ (s.link port).ctl = [] ∧ holdRoom (s.link port) = true ∧ (s.link port).mgmt = m :: ms ∧
    frameCredits (dressed (s.link port) (mgmtFrame m)) ≤ creditsLeft (s.link port) 4) ∧
    (∃ (s : State) (port : Nat),
    s.boot.fatal = false ∧ port < 12 ∧ port < s.jlk.length ∧ port < s.tsc.length ∧ portActive s port = true ∧ scrubHeld s port = false ∧
    nextReplay (s.link port) = none ∧ (s.link port).ctl = [] ∧ ((holdRoom (s.link port) = false ∨ ((s.link port).mgmt = [] ∧
    isHostPort port = false ∧ (s.link port).keyed = false)))) :=
  ⟨⟨(pLink 0 { pAct with held := [{ fseq := 8, frame := pFrame }], replayFrom := some 8 }), 0, { fseq := 8, frame := pFrame }, by decide +kernel⟩,
    ⟨(pLink 0 { pAct with ctl := [.credit, .ack 4] }), 0, (.ack 4), by decide +kernel⟩,
    ⟨(pLink 0 { pAct with mgmt := [{ mtype := 3, data := [1, 2, 3] }] }), 0, ({ mtype := 3, data := [1, 2, 3] }), [], by decide +kernel⟩,
    ⟨(pLink 4 { pAct with keyed := false }), 4, by decide +kernel⟩⟩

theorem witness_FrameOrderAndGates_4 :
    (∃ (s : State) (port : Nat),
    s.boot.fatal = false ∧ port < 12 ∧ port < s.jlk.length ∧ port < s.tsc.length ∧ portActive s port = true ∧ scrubHeld s port = false ∧
    nextReplay (s.link port) = none ∧ (s.link port).ctl = [] ∧ (s.link port).mgmt = [] ∧ holdRoom (s.link port) = true ∧
    ((isHostPort port = true ∨ (s.link port).keyed = true)) ∧
    chooseQueue (decideAll (schedSync (s.sched port) s.time) (s.link port)) (s.link port) = none) ∧
    (∃ (s : State) (port : Nat) (b : _) (q : _) (u : _) (f : _) (q' : _),
    s.boot.fatal = false ∧ port < 12 ∧ port < s.jlk.length ∧ port < s.tsc.length ∧ portActive s port = true ∧ scrubHeld s port = false ∧
    nextReplay (s.link port) = none ∧ (s.link port).ctl = [] ∧ (s.link port).mgmt = [] ∧ holdRoom (s.link port) = true ∧
    ((isHostPort port = true ∨ (s.link port).keyed = true)) ∧
    chooseQueue (decideAll (schedSync (s.sched port) s.time) (s.link port)) (s.link port) = some (b, q, u) ∧
    (lget u.qs q {}).frames.head? = some f ∧ replayDiscards s f.frame = false ∧ q' < 64 ∧
    (lget (decideAll (schedSync (s.sched port) s.time) (s.link port)).qs q' {}).elig = true ∧
    (lget (decideAll (schedSync (s.sched port) s.time) (s.link port)).qs q' {}).eband < 4) ∧
    (∃ (s : State) (port : Nat) (b : _) (q : _) (u : _) (f : _),
    (s.boot.fatal = false ∧ port < 12 ∧ port < s.jlk.length ∧ port < s.tsc.length ∧ portActive s port = true ∧ scrubHeld s port = false ∧
    nextReplay (s.link port) = none ∧ (s.link port).ctl = [] ∧ (s.link port).mgmt = [] ∧ holdRoom (s.link port) = true ∧
    ((isHostPort port = true ∨ (s.link port).keyed = true)) ∧
    chooseQueue (decideAll (schedSync (s.sched port) s.time) (s.link port)) (s.link port) = some (b, q, u) ∧
    (lget u.qs q {}).frames.head? = some f ∧ replayDiscards s f.frame = false) ∧ ((∀ x, f.frame.body = .txn x → x.op ≠ .memWr))) ∧
    (∃ (s : State) (port : Nat) (b : _) (q : _) (u : _) (f : _) (x : _),
    s.boot.fatal = false ∧ port < 12 ∧ port < s.jlk.length ∧ port < s.tsc.length ∧ portActive s port = true ∧ scrubHeld s port = false ∧
    nextReplay (s.link port) = none ∧ (s.link port).ctl = [] ∧ (s.link port).mgmt = [] ∧ holdRoom (s.link port) = true ∧
    ((isHostPort port = true ∨ (s.link port).keyed = true)) ∧
    chooseQueue (decideAll (schedSync (s.sched port) s.time) (s.link port)) (s.link port) = some (b, q, u) ∧
    (lget u.qs q {}).frames.head? = some f ∧ replayDiscards s f.frame = false ∧ f.frame.body = .txn x ∧ x.op = .memWr) :=
  ⟨⟨(pLink 0 pAct), 0, by decide +kernel⟩,
    ⟨queued, 0, ((pChoice.getD (0, 0, {})).1), ((pChoice.getD (0, 0, {})).2.1), ((pChoice.getD (0, 0, {})).2.2), { key := 4, frame := pFrame },
    2, by decide +kernel⟩,
    ⟨queued, 0, ((pChoice.getD (0, 0, {})).1), ((pChoice.getD (0, 0, {})).2.1), ((pChoice.getD (0, 0, {})).2.2), { key := 4, frame := pFrame }, by decide +kernel, (fun _ h => by cases h; decide)⟩,
    ⟨wQueued, 0, (((choice wQueued).getD (0, 0, {})).1), (((choice wQueued).getD (0, 0, {})).2.1), (((choice wQueued).getD (0, 0, {})).2.2),
    { key := 4, frame := wFrame, origin := 3 }, wTxn, by decide +kernel⟩⟩

theorem witness_FrameOrderAndGates_8 :
    (∃ (s : State) (port : Nat),
    s.boot.fatal = false ∧ port < s.jlk.length ∧ port < s.tsc.length ∧ portActive s port = true ∧ scrubHeld s port = true) ∧
    (∃ (s : State) (port : Nat),
    portActive s port = false) ∧
    (∃ (s : State) (port : Nat) (e : _),
    port < s.tsc.length ∧ gateSegment (s.sched port).gates (s.sched port).gateStart s.time = some e ∧ (s.sched port).pending = none) ∧
    (∃ (s : State) (port : Nat),
    port < s.tsc.length ∧ gateSegment (s.sched port).gates (s.sched port).gateStart s.time = none) :=
  ⟨⟨(scrubbedPort (pLink 0 pAct)), 0, by decide +kernel⟩,
    ⟨(pLink 0 {}), 0, by decide +kernel⟩,
    ⟨gated, 0, ((gateSegment (gated.sched 0).gates (gated.sched 0).gateStart 1000).getD (0, 0, 0)), by decide +kernel⟩,
    ⟨base, 0, by decide +kernel⟩⟩

theorem witness_FrameOrderAndGates_12 : ∃ (s : State) (port : Nat) (g : _) (take : _),
    port < s.tsc.length ∧ (s.sched port).pending = some (g, take) :=
  ⟨((gated).setSched 0 fun t => { t with pending := some ({ cycle := 2000, entries := [(5, 2000)] }, 4000) }), 0,
    ({ cycle := 2000, entries := [(5, 2000)] }), 4000, by decide +kernel⟩

end PartO

namespace PartP

def pLink (p : Nat) (l : Jlk) (s : State := base) : State := s.setLink p fun _ => l
def pAct : Jlk := { state := .active, lanes := 255, txLimit := [100, 100, 100, 100, 100], keyed := true, txSeq := 9 }
def pFrame : Frame := { vc := 1, len := 48, body := .txn { op := .mmioRsp, tag := 3 } }
def ready (s : State := base) : State := { s with boot := { s.boot with attReady := true } }
def spdmAt (p : Nat) (st : SpdmState) (master session keyed : Bool) : State :=
  pLink p { pAct with spdm := st, master := master, session := session, keyed := keyed, heartbeatAt := 400, kgenTx := 3 }
def prov (b : List Byte) : List Byte := padTo 48 ([1, 2] ++ zeros 6 ++ toLe 8 77 ++ b)
def keying (s : State) : State := { s with sec := { s.sec with pts := lset s.sec.pts 2 { state := .keying } } }
def mapped2 (s : State) : State :=
  let m := { s.dep.cfg.pmap with pts := lset s.dep.cfg.pmap.pts 2 { valid := true, hp := 1 } }
  { s with dep := { s.dep with cfg := { s.dep.cfg with pmap := m }, cfgPrev := { s.dep.cfgPrev with pmap := m } } }
theorem some_getD {α : Type} {o : Option α} {d : α} (h : o.isSome = true) : o = some (o.getD d) := by
  cases o <;> simp_all

def s_SpdmResponder_0 : State := spdmAt 0 .none false false false
def s_SpdmResponder_2 : State := let x := spdmAt 0 .none false false false; { x with boot := { x.boot with attReady := false } }
def s_SpdmResponder_3 : State := spdmAt 4 .none true false false
theorem witness_SpdmResponder_0 :
    (∃ (s : State) (port : Nat) (sel : _) (data : List Byte),
    port < s.jlk.length ∧ portActive s port = true ∧
    ((sel, data) ∈ [(0, toLe 4 romVer ++ [0]), (1, toLe 4 (devIdReg s) ++ [0]), (2, toLe 4 (bootStat s) ++ [0])] ∨ (2 < sel ∧
    data = zeros 4 ++ [1]))) ∧
    (∃ (s : State) (port : Nat) (c : Instr) (inPlace : _) (nonce : _) (pub : _) (slot : _) (off : _) (len : _) (index : _) (sign : _) (v : _),
    port < s.jlk.length ∧ portActive s port = true ∧
    (c, inPlace) ∈ ([(.getVersion port, !(s.link port).session), (.getCapabilities port, (s.link port).spdm == .versioned), (.negotiateAlgorithms port, (s.link port).spdm == .capable), (.getDigests port, negotiated (s.link port)), (.getCertificate port slot off len, negotiated (s.link port)), (.challenge port nonce, negotiated (s.link port)), (.getMeasurements port index sign, negotiated (s.link port)), (.keyExchange port pub, negotiated (s.link port)), (.finish port v, (s.link port).spdm == .handshake), (.heartbeat port, (s.link port).session), (.keyUpdate port, (s.link port).session), (.endSession port, (s.link port).session)] : List (Instr × Bool)) ∧
    s.boot.attReady = false) ∧
    (∃ (s : State) (port : Nat) (c : Instr) (inPlace : _) (nonce : _) (pub : _) (slot : _) (off : _) (len : _) (index : _) (sign : _) (v : _),
    port < s.jlk.length ∧ portActive s port = true ∧
    (c, inPlace) ∈ ([(.getVersion port, !(s.link port).session), (.getCapabilities port, (s.link port).spdm == .versioned), (.negotiateAlgorithms port, (s.link port).spdm == .capable), (.getDigests port, negotiated (s.link port)), (.getCertificate port slot off len, negotiated (s.link port)), (.challenge port nonce, negotiated (s.link port)), (.getMeasurements port index sign, negotiated (s.link port)), (.keyExchange port pub, negotiated (s.link port)), (.finish port v, (s.link port).spdm == .handshake), (.heartbeat port, (s.link port).session), (.keyUpdate port, (s.link port).session), (.endSession port, (s.link port).session)] : List (Instr × Bool)) ∧
    s.boot.attReady = true ∧ ((responds s port = false ∨ inPlace = false))) ∧
    (∃ (s : State) (port : Nat),
    port < s.jlk.length ∧ portActive s port = true ∧ s.boot.attReady = true ∧ responds s port = true ∧ (s.link port).spdm = .versioned) :=
  ⟨⟨s_SpdmResponder_0, 0, 1, (toLe 4 (devIdReg (s_SpdmResponder_0)) ++ [0]), by decide +kernel⟩,
    ⟨s_SpdmResponder_2, 0, (.getVersion 0), (!((s_SpdmResponder_2).link (0)).session), [], [], 0, 0, 100, 255, true, true, by decide +kernel⟩,
    ⟨s_SpdmResponder_3, 4, (.finish 4 true), (((s_SpdmResponder_3).link (4)).spdm == .handshake), [], [], 0, 0, 100, 255, true, true, by decide +kernel⟩,
    ⟨(spdmAt 0 .versioned false false false), 0, by decide +kernel⟩⟩

def s_SpdmResponder_9 : State := spdmAt 0 .negotiated false false false
theorem witness_SpdmResponder_6 :
    (∃ (s : State) (port : Nat),
    port < s.jlk.length ∧ portActive s port = true ∧ s.boot.attReady = true ∧ responds s port = true ∧ (s.link port).spdm = .capable) ∧
    (∃ (s : State) (port : Nat) (c : Instr) (code : _) (nonce : _) (slot : _) (off : _) (len : _),
    port < s.jlk.length ∧ portActive s port = true ∧ s.boot.attReady = true ∧ responds s port = true ∧ negotiated (s.link port) = true ∧
    (c, code) ∈ ([(.getDigests port, 0x01), (.getCertificate port slot off len, 0x02), (.challenge port nonce, 0x03)] : List (Instr × Byte)) ∧
    ((slot = 0 ∧ off ≤ (certChain s).length))) ∧
    (∃ (s : State) (port : Nat) (slot : _),
    port < s.jlk.length ∧ portActive s port = true ∧ s.boot.attReady = true ∧ responds s port = true ∧ negotiated (s.link port) = true ∧
    slot ≠ 0) ∧
    (∃ (s : State) (port : Nat) (index : _) (bs : _),
    (port < s.jlk.length ∧ portActive s port = true ∧ s.boot.attReady = true ∧ responds s port = true ∧ negotiated (s.link port) = true) ∧
    measureBlocks s index = some bs) :=
  ⟨⟨(spdmAt 0 .capable false false false), 0, by decide +kernel⟩,
    ⟨(spdmAt 0 .negotiated false false false), 0, (.getCertificate 0 0 0 100), 0x02, [], 0, 0, 100, by decide +kernel⟩,
    ⟨(spdmAt 0 .negotiated false false false), 0, 1, by decide +kernel⟩,
    ⟨s_SpdmResponder_9, 0, 255, ((measureBlocks (s_SpdmResponder_9) 255).getD []), by decide +kernel, (some_getD (by decide +kernel))⟩⟩

theorem witness_SpdmResponder_10 :
    (∃ (s : State) (port : Nat) (index : _),
    port < s.jlk.length ∧ portActive s port = true ∧ s.boot.attReady = true ∧ responds s port = true ∧ negotiated (s.link port) = true ∧
    measureBlocks s index = none) ∧
    (∃ (s : State) (port : Nat),
    port < s.jlk.length ∧ portActive s port = true ∧ s.boot.attReady = true ∧ responds s port = true ∧ negotiated (s.link port) = true ∧
    (s.link port).session = false) ∧
    (∃ (s : State) (port : Nat),
    port < s.jlk.length ∧ portActive s port = true ∧ s.boot.attReady = true ∧ responds s port = true ∧ negotiated (s.link port) = true ∧
    (s.link port).session = true) ∧
    (∃ (s : State) (port : Nat) (c : Instr) (sel : _) (code : _) (nonce : _) (pub : _) (slot : _) (off : _) (len : _) (index : _) (sign : _) (v : _),
    portActive s port = false ∧
    c ∈ ([.statusRd port sel, .spdmUnsupported port code, .getVersion port, .getCapabilities port, .negotiateAlgorithms port, .getDigests port, .getCertificate port slot off len, .challenge port nonce, .getMeasurements port index sign, .keyExchange port pub, .finish port v, .heartbeat port, .keyUpdate port, .endSession port, .sessionTimeout port, .spdmResponseRx port code v, .heartbeatSend port, .provision port nonce] : List Instr)) :=
  ⟨⟨(spdmAt 0 .negotiated false false false), 0, 77, by decide +kernel⟩,
    ⟨(spdmAt 0 .negotiated false false false), 0, by decide +kernel⟩,
    ⟨(spdmAt 0 .negotiated false true true), 0, by decide +kernel⟩,
    ⟨(pLink 0 {}), 0, (.keyUpdate 0), 1, 0x99, [], [], 0, 0, 100, 255, true, true, by decide +kernel⟩⟩

theorem witness_SessionsAndProvisioning_0 :
    (∃ (s : State) (port : Nat),
    port < s.jlk.length ∧ portActive s port = true ∧ (s.link port).reads = [] ∧ s.boot.attReady = true ∧ responds s port = true ∧
    (s.link port).spdm = .handshake) ∧
    (∃ (s : State) (port : Nat),
    (port < s.jlk.length ∧ portActive s port = true ∧ (s.link port).reads = [] ∧ s.boot.attReady = true ∧ responds s port = true ∧
    (s.link port).session = true) ∧ heartLate s port = false) ∧
    (∃ (s : State) (port : Nat),
    port < s.jlk.length ∧ portActive s port = true ∧ (s.link port).reads = [] ∧ s.boot.attReady = true ∧ responds s port = true ∧
    (s.link port).session = true ∧ (s.link port).keyed = true) ∧
    (∃ (s : State) (port : Nat),
    port < s.jlk.length ∧ portActive s port = true ∧ (s.link port).reads = [] ∧ (s.link port).session = false) :=
  ⟨⟨(spdmAt 0 .handshake false false false), 0, by decide +kernel⟩,
    ⟨{ spdmAt 0 .established false true true with time := 400 }, 0, by decide +kernel, (decide_eq_false (show ¬ 400 + Config.heartbeatNs < 400 by omega))⟩,
    ⟨(spdmAt 0 .established false true true), 0, by decide +kernel⟩,
    ⟨(spdmAt 0 .negotiated false false false), 0, by decide +kernel⟩⟩

theorem witness_SessionsAndProvisioning_9 :
    (∃ (s : State) (port : Nat),
    port < s.jlk.length ∧ portActive s port = true ∧ (s.link port).reads = [] ∧ (isHostPort port = true ∨ (s.link port).master = false)) ∧
    (∃ (s : State) (port : Nat) (st : _) (code : _) (nxt : _) (req : _),
    port < s.jlk.length ∧ portActive s port = true ∧ (s.link port).reads = [] ∧ isHostPort port = false ∧ (s.link port).master = true ∧
    (st, code, nxt, req) ∈ ([(.none, 0x04, .versioned, 0xE1), (.versioned, 0x61, .capable, 0xE3), (.capable, 0x63, .negotiated, 0x82), (.negotiated, 0x02, .negotiated, 0xE4), (.negotiated, 0x64, .handshake, 0xE5)] : List (SpdmState × Nat × SpdmState × Byte)) ∧
    (s.link port).spdm = st) ∧
    (∃ (s : State) (port : Nat),
    port < s.jlk.length ∧ portActive s port = true ∧ (s.link port).reads = [] ∧ isHostPort port = false ∧ (s.link port).master = true ∧
    (s.link port).spdm = .handshake) ∧
    (∃ (s : State) (port : Nat),
    (port < s.jlk.length ∧ portActive s port = true ∧ (s.link port).reads = [] ∧ isHostPort port = false ∧ (s.link port).master = true ∧
    (s.link port).spdm = .established) ∧ heartLate s port = false) :=
  ⟨⟨(spdmAt 0 .negotiated false false false), 0, by decide +kernel⟩,
    ⟨(spdmAt 4 .none true false false), 4, .none, 4, .versioned, 0xE1, by decide +kernel⟩,
    ⟨(spdmAt 4 .handshake true false false), 4, by decide +kernel⟩,
    ⟨{ spdmAt 4 .established true true true with time := 400 }, 4, by decide +kernel, (decide_eq_false (show ¬ 400 + Config.heartbeatNs < 400 by omega))⟩⟩

theorem witness_SessionsAndProvisioning_15 :
    (∃ (s : State) (port : Nat) (st : _) (req : _),
    port < s.jlk.length ∧ portActive s port = true ∧ (s.link port).reads = [] ∧ isHostPort port = false ∧ (s.link port).master = true ∧
    (st, req) ∈ ([(.none, [0x10, 0x84]), (.versioned, [0x12, 0xE1]), (.capable, [0x12, 0xE3]), (.negotiated, [0x12, 0x82]), (.handshake, [0x12, 0xE5])] : List (SpdmState × List Byte)) ∧
    (s.link port).spdm = st) ∧
    (∃ (s : State) (port : Nat) (code : _),
    port < s.jlk.length ∧ portActive s port = true ∧ (s.link port).reads = [] ∧ isHostPort port = false ∧ (s.link port).master = true ∧
    code ≠ 0x7F) ∧
    (∃ (s : State) (port : Nat) (code : _),
    port < s.jlk.length ∧ portActive s port = true ∧ (s.link port).reads = [] ∧ isHostPort port = false ∧ (s.link port).master = true ∧
    code ∉ [0x7F, 0x04, 0x61, 0x63, 0x02, 0x64, 0x65, 0x68]) ∧
    (∃ (s : State) (port : Nat),
    port < s.jlk.length ∧ portActive s port = true ∧ (s.link port).reads = [] ∧ isHostPort port = false ∧ (s.link port).master = true ∧
    (s.link port).session = true) :=
  ⟨⟨(spdmAt 4 .capable true false false), 4, .capable, [0x12, 0xE3], by decide +kernel⟩,
    ⟨(spdmAt 4 .handshake true false false), 4, 0x65, by decide +kernel⟩,
    ⟨(spdmAt 4 .handshake true false false), 4, 0x70, by decide +kernel⟩,
    ⟨(spdmAt 4 .established true true true), 4, by decide +kernel⟩⟩

theorem witness_SessionsAndProvisioning_19 :
    (∃ (s : State) (port : Nat) (m : List Byte),
    port < 4 ∧ port < s.jlk.length ∧ portActive s port = true ∧ (s.link port).session = true ∧ s.sec.pts.length = 8 ∧ s.chn.salt.length = 8 ∧
    ((m.length ≠ 48 ∨ field m 0 1 ≠ 1 ∨ 8 ≤ field m 1 1 ∨ allZero m 2 6 = false))) ∧
    (∃ (s : State) (port : Nat) (pt : Nat) (m : List Byte),
    port < 4 ∧ port < s.jlk.length ∧ portActive s port = true ∧ (s.link port).session = true ∧ s.sec.pts.length = 8 ∧ s.chn.salt.length = 8 ∧
    m.length = 48 ∧ field m 0 1 = 1 ∧ field m 1 1 = pt ∧ pt < 8 ∧ allZero m 2 6 = true ∧ (s.part pt).state ≠ .keying) ∧
    (∃ (s : State) (port : Nat) (pt : Nat) (m : List Byte),
    port < 4 ∧ port < s.jlk.length ∧ portActive s port = true ∧ (s.link port).session = true ∧ s.sec.pts.length = 8 ∧ s.chn.salt.length = 8 ∧
    m.length = 48 ∧ field m 0 1 = 1 ∧ field m 1 1 = pt ∧ pt < 8 ∧ allZero m 2 6 = true ∧ (s.part pt).state = .keying ∧
    bit (s.mapOf pt).hp port = false) ∧
    (∃ (s : State) (port : Nat) (pt : Nat) (m : List Byte),
    port < 4 ∧ port < s.jlk.length ∧ portActive s port = true ∧ (s.link port).session = true ∧ s.sec.pts.length = 8 ∧ s.chn.salt.length = 8 ∧
    m.length = 48 ∧ field m 0 1 = 1 ∧ field m 1 1 = pt ∧ pt < 8 ∧ allZero m 2 6 = true ∧ (s.part pt).state = .keying ∧
    bit (s.mapOf pt).hp port = true) :=
  ⟨⟨(spdmAt 0 .established false true true), 0, [1, 2, 3], by decide +kernel⟩,
    ⟨(spdmAt 0 .established false true true), 0, 2, (prov [9]), by decide +kernel⟩,
    ⟨(keying (spdmAt 0 .established false true true)), 0, 2, (prov [9]), by decide +kernel⟩,
    ⟨(mapped2 (keying (spdmAt 0 .established false true true))), 0, 2, (prov [9]), by decide +kernel⟩⟩

theorem witness_SessionsAndProvisioning_23 : ∃ (s : State) (port : Nat),
    ((isHostPort port = false ∨ (s.link port).session = false)) :=
  ⟨base, 0, by decide +kernel⟩

theorem witness_SessionsAndProvisioning_2 :
    (∃ (s : State) (port : Nat),
    (port < s.jlk.length ∧ portActive s port = true ∧ (s.link port).reads = [] ∧ s.boot.attReady = true ∧ responds s port = true ∧
    (s.link port).session = true) ∧ heartLate s port = true) ∧
    (∃ (s : State) (port : Nat),
    (port < s.jlk.length ∧ portActive s port = true ∧ (s.link port).reads = [] ∧ isHostPort port = false ∧ (s.link port).master = true ∧
    (s.link port).spdm = .established) ∧ heartLate s port = true) :=
  ⟨⟨{ spdmAt 0 .established false true true with time := Config.heartbeatNs + 401 }, 0, by decide +kernel, (decide_eq_true (show 400 + Config.heartbeatNs < Config.heartbeatNs + 401 by omega))⟩,
    ⟨{ spdmAt 4 .established true true true with time := Config.heartbeatNs + 401 }, 4, by decide +kernel, (decide_eq_true (show 400 + Config.heartbeatNs < Config.heartbeatNs + 401 by omega))⟩⟩

end PartP

namespace PartQ

/-- Queue pair 4 of partition 0, whose peer is pair 6 of device 9, in domain 1 with a window of 64 KiB; device 9 is reached through XP0, which is keyed. -/
def qp4 : Qpc := { state := .ready, pt := 0, pd := 1, peerDev := 9, peerPt := 2, peerQpn := 6 }
def fabric (c : Qpc := qp4) (s : State := base) : State :=
  let s := ((s.setReg pgFab 0x238 0 4).setReg pgFab 0x250 1 8).setReg pgFab 0x25C 1 65536
  let s := (s.setReg pgFab 0x22C 0 (5 * 65536 + 3 * 2 ^ 24)).setLink 4 fun _ => { state := .active, lanes := 255, keyed := true, txLimit := [99, 99, 99, 99, 99] }
  let r : Routes := { portUp := 255, out := [(8 * 4096 + 9, 0), (1 * 4096 + 9, 0)] }
  { s with dep := { s.dep with cfg := { s.dep.cfg with routes := r }, cfgPrev := { s.dep.cfgPrev with routes := r } },
           fab := { s.fab with qps := [(4, c)], cached := [4] } }
def xcmd (c : Nat) : XferCmd := { device := 9, qpn := 4, localCpn := c, remoteCpn := 77, key := 0 }
def qreq (sent : Bool) : QpReq := { acc := 1, psn := 3, sent := sent }
/-- The header of a whole page of profile 1. -/
def pageHdr : List Byte := zeros 10 ++ toLe 2 1 ++ zeros 8 ++ toLe 2 16 ++ toLe 1 (base.prof.kFmt + base.prof.vFmt * 16) ++ [0] ++ toLe 2 base.prof.ks ++ toLe 2 base.prof.vs ++ toLe 4 (0x1000 + base.prof.ka) ++ zeros 224
/-- Page 10 of sequence 3, whole, in frame 16384. -/
def whole10 (s : State) : State :=
  let s := (opened s).setRow 3 0 fun _ => { tokens := 16, ptes := [{ cpn := 10, fill := 16 }] }
  let s := s.setHbm (mwrites s.mems.hbm (16384 * 65536) pageHdr)
  { s with seq := { s.seq with locs := [(10, { state := .resident, refcnt := 1, addr := 16384 })] }, blw := { s.blw with t1 := [(16384, .page 10)] } }
/-- A WRITE key over the CPNs 20 to 23 of sequence 3: two layers of two pages. -/
def wkey : Key := { state := .valid, owner := 0, pd := 1, write := true, layerFirst := 0, layers := 2, cpn := 20, span := 2, seq := 3, gen := 7, check := 99 }
def rkey : Key := { state := .valid, owner := 0, pd := 1, cpn := 10, span := 1, gen := 7, check := 99 }
def keyed5 (k : Key) (s : State) : State :=
  let s := s.setReg pgFab 0x260 0 5
  { s with fab := { s.fab with keys := [(5, k)] } }
def karg : Nat := 5 + 7 * 2 ^ 12 + 99 * 2 ^ 20
/-- A packet from the peer to pair 4. -/
def fromPeer (t : PType) : Packet := { ptype := t, dstDev := 5, dstPt := 0, srcDev := 9, dstQpn := 4, srcQpn := 6, framePt := 2, start := true }
def ackPkt (a : Nat) : Packet := { fromPeer .ack with psn := 3, answer := a, arg := 42 }
def sendCmd (s : State) (c : Cmd) : State := { s with dep := { s.dep with nodes := [(1, live c)], accNext := 2 } }
def asm20 : Assembly := { qpn := 4, psn := 3, isPut := true, ok := true, key := 5, cpn := 20, frame := 16390, nextSeg := 16, data := pageHdr, complete := true }
def landState : State :=
  let s := keyed5 { wkey with inflight := 1 } (opened (fabric))
  { s with fab := { s.fab with asms := [asm20] } }
def hold10 : OdpHold := { qpn := 4, psn := 3, cpn := 10, key := 5, until_ := 5000, pkt := { fromPeer .getReq with psn := 3, arg := karg, cpn := 10 } }
def disc (d : Disc) (root : Bool := true) (s : State := base) : State :=
  let s := s.setReg pgFab 0x200 0 (b2n root)
  { s with fab := { s.fab with disc := d } }
def rep1 : Report := { serial := 88, level := 1, parent := 0, dgen := 4, neighSerial := List.replicate 8 0, neighPort := List.replicate 8 0 }
def probe4 : Probe := { serial := 88, level := 1, port := 3, id := 9, idValid := true, dgen := 4 }
def assign4 : AssignMsg := { serial := 0, id := 12, level := 2, nhops := 0, dgen := 4, path := 0 }
/-- Page 10 lies in T2, or moves. -/
def low10 (st : PgState) (s : State) : State :=
  let s := (whole10 s).setCport 0 fun c => { c with up := true, exts := [{ tag := [], kind := 1, pt := 0, region := 0, rbase := 0, base := 0, size := 2 }] }
  let s := { s with mems := { s.mems with pool := mwrites s.mems.pool (5 * 65536) pageHdr } }
  { s with seq := { s.seq with locs := [(10, { state := st, ret := .resident, tier := .t2, refcnt := 1, addr := 5 })] } }
def badPage (s : State) : State := { s with mems := { s.mems with badUnits := [16384 * 256] } }
/-- No T1 frame is free. -/
def noT1 (s : State) : State := (s.setReg pgBlw 0x204 0 1).setReg pgBlw 0x208 0 0
def postCmd : Cmd := .postRecv 4 64 (2 ^ 60)
def recv1 : PostedRecv := { acc := 1, bufRef := 2 ^ 60, len := 64 }
def send8 : Packet := { fromPeer .send with arg := 8, last := true, data := zeros 8 }
/-- A message of pair 4 assembles: its first packet has come. -/
def asmSend : Assembly := { qpn := 4, psn := 0, isPut := false, ok := true, key := 0, cpn := 0, frame := 0, nextSeg := 1, data := zeros 4 }
def seg1 : Packet := { fromPeer .send with seg := 1, start := false, last := true, arg := 8, data := zeros 4 }
def assembling (a : Assembly) (s : State) : State := { s with fab := { s.fab with asms := [a] } }
def get1 : GetIn := { acc := 1, qpn := 4, psn := 3, frame := 16390, data := zeros 4096 }
def getting (g : GetIn) (s : State) : State := { s with fab := { s.fab with gets := [g] } }
/-- A GET_PAGE of CPN 20 whose page has come whole. -/
def gotWhole (ok : Bool) : State :=
  getting { get1 with whole := true, acked := true, data := if ok then pageHdr else zeros 256 }
    (keyed5 wkey (fabric { qp4 with reqs := [qreq true] } (opened (issued (.getPage (xcmd 20))))))
def holdState (l : Loc) : State :=
  let s := whole10 (keyed5 { rkey with inflight := 1 } (fabric { qp4 with expPsn := 4 }))
  { s with fab := { s.fab with holds := [hold10] }, seq := { s.seq with locs := [(10, l)] } }

theorem witness_QueuePairsSendAndEnd_0 :
    (∃ (s : State) (rq : Requester) (p : _),
    s.boot.fatal = false ∧ mayReach s rq pgFab = true ∧ maySelectQp s rq = true ∧ qpnOwner s (qpSel s) = some p ∧
    (s.qp (qpSel s)).state = .reset ∧ pdPt s (s.qp (qpSel s)).pd = some p) ∧
    (∃ (s : State) (rq : Requester) (p : _),
    s.boot.fatal = false ∧ mayReach s rq pgFab = true ∧ maySelectQp s rq = true ∧ qpnOwner s (qpSel s) = some p ∧
    (s.qp (qpSel s)).state = .reset ∧ pdPt s (s.qp (qpSel s)).pd ≠ some p) ∧
    (∃ (s : State) (rq : Requester),
    s.boot.fatal = false ∧ mayReach s rq pgFab = true ∧ maySelectQp s rq = true ∧ qpnOwner s (qpSel s) = none) ∧
    (∃ (s : State) (rq : Requester) (p : _),
    s.boot.fatal = false ∧ mayReach s rq pgFab = true ∧ maySelectQp s rq = true ∧ qpnOwner s (qpSel s) = some p ∧
    (s.qp (qpSel s)).state ≠ .reset) :=
  ⟨⟨(fabric { qp4 with state := .reset, expPsn := 5 }), own, 0, by decide +kernel⟩,
    ⟨(fabric { qp4 with state := .reset, pd := 2 }), own, 0, by decide +kernel⟩,
    ⟨((fabric { qp4 with state := .reset }).setReg pgFab 0x238 0 40000), sec, by decide +kernel⟩,
    ⟨fabric, own, 0, by decide +kernel⟩⟩

theorem witness_QueuePairsSendAndEnd_4 :
    (∃ (s : State) (rq : Requester),
    s.boot.fatal = false ∧ mayReach s rq pgFab = true ∧ maySelectQp s rq = true ∧ (s.qp (qpSel s)).state = .ready ∧
    (((s.qp (qpSel s)).reqs ≠ [] ∨ (s.qp (qpSel s)).rq ≠ []))) ∧
    (∃ (s : State) (rq : Requester),
    s.boot.fatal = false ∧ mayReach s rq pgFab = true ∧ maySelectQp s rq = true ∧
    (((s.qp (qpSel s)).state = .error ∨ ((s.qp (qpSel s)).state = .ready ∧ (s.qp (qpSel s)).reqs = [] ∧ (s.qp (qpSel s)).rq = [])))) ∧
    (∃ (s : State) (rq : Requester),
    s.boot.fatal = false ∧ mayReach s rq pgFab = true ∧ maySelectQp s rq = false) :=
  ⟨⟨(fabric { qp4 with reqs := [qreq true] }), own, by decide +kernel⟩,
    ⟨(fabric { qp4 with state := .error }), own, by decide +kernel⟩,
    ⟨fabric, { own with pt := 1 }, by decide +kernel⟩⟩

theorem witness_QueuePairsSendAndEnd_9 : ∃ (s : State) (rq : Requester) (x : Instr),
    s.boot.fatal = false ∧ mayReach s rq pgFab = false ∧ ((x = .qpConnect rq ∨ x = .qpReset rq)) :=
  ⟨fabric, { own with src := 5 }, (.qpReset { own with src := 5 }), by decide +kernel⟩

theorem witness_QueuePairsSendAndEnd_10 :
    (∃ (s : State) (acc : Nat) (q : Nat) (n : Node) (c : Instr) (x : _) (l : _) (r : _) (k : _),
    liveNode s acc = some n ∧ n.acc = acc ∧
    (c, n.cmd) ∈ ([(.putPage acc, .putPage x), (.getPage acc, .getPage x), (.send acc, .send q l r), (.postRecv acc, .postRecv q l r)] : List (Instr × Cmd)) ∧
    x.qpn = q ∧ beginCheck s n = some k) ∧
    (∃ (s : State) (acc : Nat) (q : Nat) (n : Node) (c : Instr) (x : _) (l : _) (r : _),
    liveNode s acc = some n ∧ n.acc = acc ∧
    (c, n.cmd) ∈ ([(.putPage acc, .putPage x), (.getPage acc, .getPage x), (.send acc, .send q l r), (.postRecv acc, .postRecv q l r)] : List (Instr × Cmd)) ∧
    x.qpn = q ∧ beginCheck s n = none ∧ (s.qp q).state ≠ .ready) ∧
    (∃ (s : State) (acc : Nat) (q : Nat) (n : Node) (c : Instr) (x : _) (l : _) (r : _),
    liveNode s acc = some n ∧ n.acc = acc ∧
    (c, n.cmd) ∈ ([(.putPage acc, .putPage x), (.getPage acc, .getPage x), (.send acc, .send q l r), (.postRecv acc, .postRecv q l r)] : List (Instr × Cmd)) ∧
    x.qpn = q ∧ beginCheck s n = none ∧ (s.qp q).state = .ready ∧ s.fab.cached.contains q = false) ∧
    (∃ (s : State) (acc : Nat) (q : Nat) (n : Node) (c : Instr) (x : _) (l : _) (b : _),
    liveNode s acc = some n ∧ n.acc = acc ∧ beginCheck s n = none ∧ (s.qp q).state = .ready ∧ s.fab.cached.contains q = true ∧
    (c, n.cmd) ∈ ([(.putPage acc, .putPage x), (.getPage acc, .getPage x), (.send acc, .send q l b)] : List (Instr × Cmd)) ∧ x.qpn = q ∧
    ((qpReqOf s q acc = none ∨ qpTurn s q acc = false ∨ (qpReqOf s q acc).any (·.sent) = true))) :=
  ⟨⟨(fabric qp4 (issued (.putPage { xcmd 10 with qpn := 999 }))), 1, 999, (live (.putPage { xcmd 10 with qpn := 999 })), (.putPage 1),
    { xcmd 10 with qpn := 999 }, 0, 0, (failWith .perm), by decide +kernel⟩,
    ⟨(fabric { qp4 with state := .error } (issued (.putPage (xcmd 10)))), 1, 4, (live (.putPage (xcmd 10))), (.putPage 1), (xcmd 10), 0, 0, by decide +kernel⟩,
    ⟨(let u := fabric qp4 (issued (.putPage (xcmd 10))); { u with fab := { u.fab with cached := [] } }), 1, 4, (live (.putPage (xcmd 10))),
    (.putPage 1), (xcmd 10), 0, 0, by decide +kernel⟩,
    ⟨(fabric { qp4 with reqs := [qreq true] } (issued (.putPage (xcmd 10)))), 1, 4, (live (.putPage (xcmd 10))), (.putPage 1), (xcmd 10), 0, 0, by decide +kernel⟩⟩

theorem witness_QueuePairsSendAndEnd_14 :
    (∃ (s : State) (acc : Nat) (q : Nat) (n : Node) (r : _) (x : _) (c : _),
    liveNode s acc = some n ∧ n.acc = acc ∧ beginCheck s n = none ∧ (s.qp q).state = .ready ∧ s.fab.cached.contains q = true ∧
    qpReqOf s q acc = some r ∧ r.sent = false ∧ qpTurn s q acc = true ∧ n.cmd = .putPage x ∧ x.qpn = q ∧
    putRefused s (ringPt n.ring) x.localCpn = some c) ∧
    (∃ (s : State) (acc : Nat) (q : Nat) (n : Node) (r : _) (x : _),
    liveNode s acc = some n ∧ n.acc = acc ∧ beginCheck s n = none ∧ (s.qp q).state = .ready ∧ s.fab.cached.contains q = true ∧
    qpReqOf s q acc = some r ∧ r.sent = false ∧ qpTurn s q acc = true ∧ n.cmd = .putPage x ∧ x.qpn = q ∧
    putRefused s (ringPt n.ring) x.localCpn = none ∧ upper (s.loc x.localCpn) = true ∧
    storeBad s (pageStore s x.localCpn) 0 frameBytes = false ∧ (s.loc x.localCpn).compressed = false) ∧
    (∃ (s : State) (acc : Nat) (q : Nat) (n : Node) (r : _) (x : _),
    liveNode s acc = some n ∧ n.acc = acc ∧ beginCheck s n = none ∧ (s.qp q).state = .ready ∧ s.fab.cached.contains q = true ∧
    qpReqOf s q acc = some r ∧ r.sent = false ∧ qpTurn s q acc = true ∧ n.cmd = .putPage x ∧ x.qpn = q ∧
    putRefused s (ringPt n.ring) x.localCpn = none ∧ upper (s.loc x.localCpn) = true ∧ storeBad s (pageStore s x.localCpn) 0 frameBytes = true) ∧
    (∃ (s : State) (acc : Nat) (q : Nat) (n : Node) (r : _) (x : _),
    liveNode s acc = some n ∧ n.acc = acc ∧ beginCheck s n = none ∧ (s.qp q).state = .ready ∧ s.fab.cached.contains q = true ∧
    qpReqOf s q acc = some r ∧ r.sent = false ∧ qpTurn s q acc = true ∧ n.cmd = .putPage x ∧ x.qpn = q ∧
    putRefused s (ringPt n.ring) x.localCpn = none ∧ upper (s.loc x.localCpn) = false ∧ rising s x.localCpn = true) :=
  ⟨⟨(fabric { qp4 with reqs := [qreq false] } (issued (.putPage (xcmd 10)))), 1, 4, (live (.putPage (xcmd 10))), (qreq false), (xcmd 10),
    (invalidAt 24), by decide +kernel⟩,
    ⟨(fabric { qp4 with reqs := [qreq false] } (whole10 (issued (.putPage (xcmd 10))))), 1, 4, (live (.putPage (xcmd 10))), (qreq false),
    (xcmd 10), by decide +kernel⟩,
    ⟨(badPage (fabric { qp4 with reqs := [qreq false] } (whole10 (issued (.putPage (xcmd 10)))))), 1, 4, (live (.putPage (xcmd 10))),
    (qreq false), (xcmd 10), by decide +kernel⟩,
    ⟨(let u := fabric { qp4 with reqs := [qreq false] } (low10 .moving (issued (.putPage (xcmd 10)))); { u with blw := { u.blw with moves := [(10, { cpn := 10, kind := .page .t1, cls := 3, slice := 0, srcTier := .t2, srcAddr := 5, dst := 16384 })] } }),
    1, 4, (live (.putPage (xcmd 10))), (qreq false), (xcmd 10), by decide +kernel⟩⟩

def s_QueuePairsSendAndEnd_20 : State := keyed5 wkey (fabric { qp4 with reqs := [qreq false] } (opened (issued (.getPage (xcmd 20)))))
theorem witness_QueuePairsSendAndEnd_18 :
    (∃ (s : State) (acc : Nat) (q : Nat) (n : Node) (r : _) (x : _),
    liveNode s acc = some n ∧ n.acc = acc ∧ beginCheck s n = none ∧ (s.qp q).state = .ready ∧ s.fab.cached.contains q = true ∧
    qpReqOf s q acc = some r ∧ r.sent = false ∧ qpTurn s q acc = true ∧ n.cmd = .putPage x ∧ x.qpn = q ∧
    putRefused s (ringPt n.ring) x.localCpn = none ∧ upper (s.loc x.localCpn) = false ∧ rising s x.localCpn = false ∧ s.blw.queue = []) ∧
    (∃ (s : State) (acc : Nat) (q : Nat) (n : Node) (r : _) (x : _),
    (liveNode s acc = some n ∧ n.acc = acc ∧ beginCheck s n = none ∧ (s.qp q).state = .ready ∧ s.fab.cached.contains q = true ∧
    qpReqOf s q acc = some r ∧ r.sent = false ∧ qpTurn s q acc = true ∧ n.cmd = .getPage x ∧ x.qpn = q) ∧
    ((windowKey s x.localCpn = none ∨ ∃ i k, windowKey s x.localCpn = some (i, k) ∧
    (k.state ≠ .valid ∨ k.owner ≠ ringPt n.ring ∨ k.landed.contains x.localCpn = true)))) ∧
    (∃ (s : State) (acc : Nat) (q : Nat) (n : Node) (r : _) (x : _) (i : _) (k : _) (a : _) (u : _),
    liveNode s acc = some n ∧ n.acc = acc ∧ beginCheck s n = none ∧ (s.qp q).state = .ready ∧ s.fab.cached.contains q = true ∧
    qpReqOf s q acc = some r ∧ r.sent = false ∧ qpTurn s q acc = true ∧ n.cmd = .getPage x ∧ x.qpn = q ∧ windowKey s x.localCpn = some (i, k) ∧
    k.state = .valid ∧ k.owner = ringPt n.ring ∧ k.landed.contains x.localCpn = false ∧
    t1Alloc s (ringPt n.ring) (landField s k) (.reserved acc) = some (a, u)) ∧
    (∃ (s : State) (acc : Nat) (q : Nat) (n : Node) (r : _) (x : _) (i : _) (k : _),
    liveNode s acc = some n ∧ n.acc = acc ∧ beginCheck s n = none ∧ (s.qp q).state = .ready ∧ s.fab.cached.contains q = true ∧
    qpReqOf s q acc = some r ∧ r.sent = false ∧ qpTurn s q acc = true ∧ n.cmd = .getPage x ∧ x.qpn = q ∧ windowKey s x.localCpn = some (i, k) ∧
    k.state = .valid ∧ k.owner = ringPt n.ring ∧ k.landed.contains x.localCpn = false ∧
    t1Alloc s (ringPt n.ring) (landField s k) (.reserved acc) = none) :=
  ⟨⟨(fabric { qp4 with reqs := [qreq false] } (low10 .resident (issued (.putPage (xcmd 10))))), 1, 4, (live (.putPage (xcmd 10))), (qreq false),
    (xcmd 10), by decide +kernel⟩,
    ⟨(fabric { qp4 with reqs := [qreq false] } (opened (issued (.getPage (xcmd 20))))), 1, 4, (live (.getPage (xcmd 20))), (qreq false),
    (xcmd 20), by decide +kernel, (.inl rfl)⟩,
    ⟨s_QueuePairsSendAndEnd_20, 1, 4, (live (.getPage (xcmd 20))), (qreq false), (xcmd 20), 5, wkey,
    (((t1Alloc (s_QueuePairsSendAndEnd_20) 0 0 (.reserved 1)).getD (0, (s_QueuePairsSendAndEnd_20))).1),
    (((t1Alloc (s_QueuePairsSendAndEnd_20) 0 0 (.reserved 1)).getD (0, (s_QueuePairsSendAndEnd_20))).2), by decide +kernel⟩,
    ⟨(noT1 (keyed5 wkey (fabric { qp4 with reqs := [qreq false] } (opened (issued (.getPage (xcmd 20))))))), 1, 4, (live (.getPage (xcmd 20))),
    (qreq false), (xcmd 20), 5, wkey, by decide +kernel⟩⟩

def s_QueuePairsSendAndEnd_23 : State := let u := fabric { qp4 with reqs := [qreq false] } (issued (.send 4 5000 (2 ^ 60))); { u with mems := { u.mems with badUnits := [3145728] } }
def n_QueuePairsSendAndEnd_23 : Node := live (.send 4 5000 (2 ^ 60))
theorem witness_QueuePairsSendAndEnd_22 :
    (∃ (s : State) (acc : Nat) (q : Nat) (n : Node) (r : _) (l : _) (b : _) (bs : _),
    liveNode s acc = some n ∧ n.acc = acc ∧ beginCheck s n = none ∧ (s.qp q).state = .ready ∧ s.fab.cached.contains q = true ∧
    qpReqOf s q acc = some r ∧ r.sent = false ∧ qpTurn s q acc = true ∧ n.cmd = .send q l b ∧ readRef s n b l = .ok bs) ∧
    (∃ (s : State) (acc : Nat) (q : Nat) (n : Node) (r : _) (l : _) (b : _) (u : _) (k : _),
    liveNode s acc = some n ∧ n.acc = acc ∧ beginCheck s n = none ∧ (s.qp q).state = .ready ∧ s.fab.cached.contains q = true ∧
    qpReqOf s q acc = some r ∧ r.sent = false ∧ qpTurn s q acc = true ∧ n.cmd = .send q l b ∧ readRef s n b l = .error (u, k)) ∧
    (∃ (s : State) (acc : Nat) (q : Nat) (n : Node) (l : _) (b : _),
    liveNode s acc = some n ∧ n.acc = acc ∧ beginCheck s n = none ∧ (s.qp q).state = .ready ∧ s.fab.cached.contains q = true ∧
    n.cmd = .postRecv q l b ∧ (s.qp q).rq.any (fun x => x.acc == acc) = true) ∧
    (∃ (s : State) (acc : Nat) (q : Nat) (n : Node) (l : _) (b : _),
    liveNode s acc = some n ∧ n.acc = acc ∧ beginCheck s n = none ∧ (s.qp q).state = .ready ∧ s.fab.cached.contains q = true ∧
    n.cmd = .postRecv q l b ∧ (s.qp q).rq.any (fun x => x.acc == acc) = false ∧ inPdWindow s (s.qp q).pd b l = true ∧ (s.qp q).rq.length < 64) :=
  ⟨⟨(fabric { qp4 with reqs := [qreq false] } (issued (.send 4 5000 (2 ^ 60)))), 1, 4, (live (.send 4 5000 (2 ^ 60))), (qreq false), 5000,
    (2 ^ 60), (zeros 5000), by decide +kernel⟩,
    ⟨s_QueuePairsSendAndEnd_23, 1, 4, n_QueuePairsSendAndEnd_23, (qreq false), 5000, (2 ^ 60),
    (recPoison (s_QueuePairsSendAndEnd_23) (n_QueuePairsSendAndEnd_23) 0 (2 ^ 60)), (failWith .poisoned), by decide +kernel⟩,
    ⟨(fabric { qp4 with rq := [recv1] } (issued postCmd)), 1, 4, (live postCmd), 64, (2 ^ 60), by decide +kernel⟩,
    ⟨(fabric qp4 (issued postCmd)), 1, 4, (live postCmd), 64, (2 ^ 60), by decide +kernel⟩⟩

theorem witness_QueuePairsSendAndEnd_26 :
    (∃ (s : State) (acc : Nat) (q : Nat) (n : Node) (l : _) (b : _),
    liveNode s acc = some n ∧ n.acc = acc ∧ beginCheck s n = none ∧ (s.qp q).state = .ready ∧ s.fab.cached.contains q = true ∧
    n.cmd = .postRecv q l b ∧ (s.qp q).rq.any (fun x => x.acc == acc) = false ∧ inPdWindow s (s.qp q).pd b l = false) ∧
    (∃ (s : State) (acc : Nat) (q : Nat) (n : Node) (l : _) (b : _),
    liveNode s acc = some n ∧ n.acc = acc ∧ beginCheck s n = none ∧ (s.qp q).state = .ready ∧ s.fab.cached.contains q = true ∧
    n.cmd = .postRecv q l b ∧ (s.qp q).rq.any (fun x => x.acc == acc) = false ∧ inPdWindow s (s.qp q).pd b l = true ∧ 64 ≤ (s.qp q).rq.length) :=
  ⟨⟨(fabric qp4 (issued (.postRecv 4 64 (2 ^ 60 + 65536)))), 1, 4, (live (.postRecv 4 64 (2 ^ 60 + 65536))), 64, (2 ^ 60 + 65536), by decide +kernel⟩,
    ⟨(fabric { qp4 with rq := List.replicate 64 { acc := 9, bufRef := 2 ^ 60, len := 4 } } (issued postCmd)), 1, 4, (live postCmd), 64, (2 ^ 60), by decide +kernel⟩⟩

theorem witness_QueuePairsSendAndEnd_28 :
    (∃ (s : State) (p : Packet) (r : _) (n : _) (a : _),
    mine s p = true ∧ p.ptype = .ack ∧ s.node r.acc = some n ∧ n.outcome = none ∧
    (s.qp p.dstQpn).reqs.find? (fun y => y.psn == p.psn && y.sent) = some r ∧ p.answer = a ∧ 2 < a) ∧
    (∃ (s : State) (p : Packet) (r : _) (n : _),
    mine s p = true ∧ p.ptype = .ack ∧ s.node r.acc = some n ∧ n.outcome = none ∧
    (s.qp p.dstQpn).reqs.find? (fun y => y.psn == p.psn && y.sent) = some r ∧ p.answer = 0 ∧ getOf s r.acc = none) ∧
    (∃ (s : State) (p : Packet) (r : _) (n : _) (g : _),
    mine s p = true ∧ p.ptype = .ack ∧ s.node r.acc = some n ∧ n.outcome = none ∧
    (s.qp p.dstQpn).reqs.find? (fun y => y.psn == p.psn && y.sent) = some r ∧ p.answer = 0 ∧ getOf s r.acc = some g ∧ g.landed = false) ∧
    (∃ (s : State) (p : Packet) (r : _) (n : _) (g : _),
    mine s p = true ∧ p.ptype = .ack ∧ s.node r.acc = some n ∧ n.outcome = none ∧
    (s.qp p.dstQpn).reqs.find? (fun y => y.psn == p.psn && y.sent) = some r ∧ p.answer = 0 ∧ getOf s r.acc = some g ∧ g.landed = true ∧
    g.qpn = p.dstQpn) :=
  ⟨⟨(fabric { qp4 with sndPsn := 4, reqs := [qreq true] } (issued (.putPage (xcmd 10)))), (ackPkt 9), (qreq true), (live (.putPage (xcmd 10))),
    9, by decide +kernel⟩,
    ⟨(fabric { qp4 with sndPsn := 4, reqs := [qreq true] } (issued (.putPage (xcmd 10)))), (ackPkt 0), (qreq true), (live (.putPage (xcmd 10))), by decide +kernel⟩,
    ⟨(getting get1 (fabric { qp4 with sndPsn := 4, reqs := [qreq true] } (issued (.getPage (xcmd 20))))), (ackPkt 0), (qreq true),
    (live (.getPage (xcmd 20))), get1, by decide +kernel⟩,
    ⟨(getting { get1 with landed := true } (fabric { qp4 with sndPsn := 4, reqs := [qreq true] } (issued (.getPage (xcmd 20))))), (ackPkt 0),
    (qreq true), (live (.getPage (xcmd 20))), { get1 with landed := true }, by decide +kernel⟩⟩

theorem witness_QueuePairsSendAndEnd_32 :
    (∃ (s : State) (p : Packet) (r : _) (n : _),
    mine s p = true ∧ p.ptype = .ack ∧ s.node r.acc = some n ∧ n.outcome = none ∧
    (s.qp p.dstQpn).reqs.find? (fun y => y.psn == p.psn && y.sent) = some r ∧ p.answer = 2) ∧
    (∃ (s : State) (p : Packet) (r : _) (n : _),
    mine s p = true ∧ p.ptype = .ack ∧ s.node r.acc = some n ∧ n.outcome = none ∧
    (s.qp p.dstQpn).reqs.find? (fun y => y.psn == p.psn && y.sent) = some r ∧ p.answer = 1 ∧ getOf s r.acc = none) ∧
    (∃ (s : State) (p : Packet),
    mine s p = true ∧ p.ptype = .ack ∧ (s.qp p.dstQpn).reqs.find? (fun y => y.psn == p.psn && y.sent) = none) ∧
    (∃ (s : State) (p : Packet),
    (mine s p = false ∨ p.ptype ≠ .ack)) :=
  ⟨⟨(fabric { qp4 with sndPsn := 4, reqs := [qreq true] } (issued (.putPage (xcmd 10)))), (ackPkt 2), (qreq true), (live (.putPage (xcmd 10))), by decide +kernel⟩,
    ⟨(fabric { qp4 with sndPsn := 4, reqs := [qreq true] } (issued (.putPage (xcmd 10)))), (ackPkt 1), (qreq true), (live (.putPage (xcmd 10))), by decide +kernel⟩,
    ⟨fabric, (ackPkt 1), by decide +kernel⟩,
    ⟨fabric, (fromPeer .put), by decide +kernel⟩⟩

theorem witness_QueuePairsSendAndEnd_36 :
    (∃ (s : State) (q : Nat),
    s.boot.fatal = false ∧ (s.qp q).state = .ready ∧ (s.qp q).reqs.any (·.sent) = true ∧ (s.qp q).retries < retryMax s (s.qp q).pt) ∧
    (∃ (s : State) (q : Nat),
    s.boot.fatal = false ∧ (s.qp q).state = .ready ∧ (s.qp q).reqs.any (·.sent) = true ∧ retryMax s (s.qp q).pt ≤ (s.qp q).retries) ∧
    (∃ (s : State) (q : Nat),
    (s.boot.fatal = true ∨ (s.qp q).state ≠ .ready ∨ (s.qp q).reqs.any (·.sent) = false)) :=
  ⟨⟨(fabric { qp4 with sndPsn := 4, reqs := [qreq true] } (issued (.putPage (xcmd 10)))), 4, by decide +kernel⟩,
    ⟨(fabric { qp4 with sndPsn := 4, reqs := [qreq true], retries := 3 } (issued (.putPage (xcmd 10)))), 4, by decide +kernel⟩,
    ⟨fabric, 4, by decide +kernel⟩⟩

def p_TargetsServePackets_0 : Packet := { fromPeer .send with dstQpn := 999 }
theorem witness_TargetsServePackets_0 :
    (∃ (s : State) (port : Nat) (p : Packet) (c : Instr),
    ((c, p.ptype) ∈ [(.pktSendRx port p, .send), (.pktPutRx port p, .put), (.pktGetReqRx port p, .getReq)] ∧ mine s p = true ∧
    p.srcDev ≠ s.fab.devId ∧ routeOut s 8 p.srcDev < 8) ∧ ((qpnOwner s p.dstQpn = none ∨ ∃ pt, qpnOwner s p.dstQpn = some pt ∧
    (s.part pt).state = .scrubbing))) ∧
    (∃ (s : State) (port : Nat) (p : Packet) (c : Instr) (pt : _),
    (c, p.ptype) ∈ [(.pktSendRx port p, .send), (.pktPutRx port p, .put), (.pktGetReqRx port p, .getReq)] ∧ mine s p = true ∧
    p.srcDev ≠ s.fab.devId ∧ routeOut s 8 p.srcDev < 8 ∧ qpnOwner s p.dstQpn = some pt ∧ (s.part pt).state ≠ .scrubbing ∧
    s.fab.cached.contains p.dstQpn = false ∧ capRoom s p.dstPt 512 1 (fun x => (s.fab.miss.filter fun m => m.2.dstPt == x).length) = true) ∧
    (∃ (s : State) (port : Nat) (p : Packet) (c : Instr) (pt : _),
    (c, p.ptype) ∈ [(.pktSendRx port p, .send), (.pktPutRx port p, .put), (.pktGetReqRx port p, .getReq)] ∧ mine s p = true ∧
    p.srcDev ≠ s.fab.devId ∧ routeOut s 8 p.srcDev < 8 ∧ qpnOwner s p.dstQpn = some pt ∧ (s.part pt).state ≠ .scrubbing ∧
    s.fab.cached.contains p.dstQpn = true ∧ s.fab.holds = [] ∧ s.fab.miss = [] ∧
    (((s.qp p.dstQpn).state ≠ .ready ∨ (s.qp p.dstQpn).pt ≠ p.dstPt ∨ p.srcDev ≠ (s.qp p.dstQpn).peerDev ∨ p.srcQpn ≠ (s.qp p.dstQpn).peerQpn ∨ p.framePt ≠ (s.qp p.dstQpn).peerPt ∨ (p.seg = 0 ∧
    p.psn ≠ (s.qp p.dstQpn).expPsn ∧ 16 < psnBack (s.qp p.dstQpn) p.psn)))) ∧
    (∃ (s : State) (port : Nat) (p : Packet) (c : Instr) (pt : _),
    (c, p.ptype) ∈ [(.pktSendRx port p, .send), (.pktPutRx port p, .put), (.pktGetReqRx port p, .getReq)] ∧ mine s p = true ∧
    p.srcDev ≠ s.fab.devId ∧ routeOut s 8 p.srcDev < 8 ∧ qpnOwner s p.dstQpn = some pt ∧ (s.part pt).state ≠ .scrubbing ∧
    s.fab.cached.contains p.dstQpn = true ∧ s.fab.holds = [] ∧ s.fab.miss = [] ∧ (s.qp p.dstQpn).state = .ready ∧ (s.qp p.dstQpn).pt = p.dstPt ∧
    p.srcDev = (s.qp p.dstQpn).peerDev ∧ p.srcQpn = (s.qp p.dstQpn).peerQpn ∧ p.framePt = (s.qp p.dstQpn).peerPt ∧ p.seg = 0 ∧
    p.psn ≠ (s.qp p.dstQpn).expPsn ∧ psnBack (s.qp p.dstQpn) p.psn ≤ 16 ∧
    ((lget (s.qp p.dstQpn).ansLog (psnBack (s.qp p.dstQpn) p.psn - 1) 0 ≠ 0 ∨ p.ptype ≠ .getReq))) :=
  ⟨⟨fabric, 4, p_TargetsServePackets_0, (.pktSendRx 4 (p_TargetsServePackets_0)), by decide +kernel, (.inl rfl)⟩,
    ⟨(let x := fabric; { x with fab := { x.fab with cached := [] } }), 4, send8, (.pktSendRx 4 (send8)), 0, by decide +kernel⟩,
    ⟨(fabric { qp4 with state := .error }), 4, send8, (.pktSendRx 4 (send8)), 0, by decide +kernel⟩,
    ⟨(fabric { qp4 with expPsn := 3, ansLog := [0, 0, 7] }), 4, send8, (.pktSendRx 4 (send8)), 0, by decide +kernel⟩⟩

def p_TargetsServePackets_6 : Packet := { seg1 with last := false }
theorem witness_TargetsServePackets_4 :
    (∃ (s : State) (port : Nat) (p : Packet) (c : Instr) (pt : _),
    (c, p.ptype) ∈ [(.pktSendRx port p, .send), (.pktPutRx port p, .put), (.pktGetReqRx port p, .getReq)] ∧ mine s p = true ∧
    p.srcDev ≠ s.fab.devId ∧ routeOut s 8 p.srcDev < 8 ∧ qpnOwner s p.dstQpn = some pt ∧ (s.part pt).state ≠ .scrubbing ∧
    s.fab.cached.contains p.dstQpn = true ∧ s.fab.holds = [] ∧ s.fab.miss = [] ∧ (s.qp p.dstQpn).state = .ready ∧ (s.qp p.dstQpn).pt = p.dstPt ∧
    p.srcDev = (s.qp p.dstQpn).peerDev ∧ p.srcQpn = (s.qp p.dstQpn).peerQpn ∧ p.framePt = (s.qp p.dstQpn).peerPt ∧ p.seg ≠ 0 ∧
    s.fab.asms.find? (fun a => a.qpn == p.dstQpn && a.psn == p.psn) = none) ∧
    (∃ (s : State) (port : Nat) (p : Packet) (c : Instr) (pt : _) (x : _),
    (c, p.ptype) ∈ [(.pktSendRx port p, .send), (.pktPutRx port p, .put), (.pktGetReqRx port p, .getReq)] ∧ mine s p = true ∧
    p.srcDev ≠ s.fab.devId ∧ routeOut s 8 p.srcDev < 8 ∧ qpnOwner s p.dstQpn = some pt ∧ (s.part pt).state ≠ .scrubbing ∧
    s.fab.cached.contains p.dstQpn = true ∧ s.fab.holds = [] ∧ s.fab.miss = [] ∧ (s.qp p.dstQpn).state = .ready ∧ (s.qp p.dstQpn).pt = p.dstPt ∧
    p.srcDev = (s.qp p.dstQpn).peerDev ∧ p.srcQpn = (s.qp p.dstQpn).peerQpn ∧ p.framePt = (s.qp p.dstQpn).peerPt ∧ p.seg ≠ 0 ∧
    s.fab.asms.find? (fun a => a.qpn == p.dstQpn && a.psn == p.psn) = some x ∧ s.fab.asms = [x] ∧ x.complete = false ∧ p.seg ≠ x.nextSeg) ∧
    (∃ (s : State) (port : Nat) (p : Packet) (c : Instr) (pt : _) (x : _),
    (c, p.ptype) ∈ [(.pktSendRx port p, .send), (.pktPutRx port p, .put), (.pktGetReqRx port p, .getReq)] ∧ mine s p = true ∧
    p.srcDev ≠ s.fab.devId ∧ routeOut s 8 p.srcDev < 8 ∧ qpnOwner s p.dstQpn = some pt ∧ (s.part pt).state ≠ .scrubbing ∧
    s.fab.cached.contains p.dstQpn = true ∧ s.fab.holds = [] ∧ s.fab.miss = [] ∧ (s.qp p.dstQpn).state = .ready ∧ (s.qp p.dstQpn).pt = p.dstPt ∧
    p.srcDev = (s.qp p.dstQpn).peerDev ∧ p.srcQpn = (s.qp p.dstQpn).peerQpn ∧ p.framePt = (s.qp p.dstQpn).peerPt ∧ p.seg ≠ 0 ∧
    s.fab.asms.find? (fun a => a.qpn == p.dstQpn && a.psn == p.psn) = some x ∧ s.fab.asms = [x] ∧ x.complete = false ∧ p.seg = x.nextSeg ∧
    ((x.isPut = true ∨ p.last = false))) ∧
    (∃ (s : State) (port : Nat) (p : Packet) (c : Instr) (pt : _) (x : _) (r : _) (rest : _) (m : _),
    (c, p.ptype) ∈ [(.pktSendRx port p, .send), (.pktPutRx port p, .put), (.pktGetReqRx port p, .getReq)] ∧ mine s p = true ∧
    p.srcDev ≠ s.fab.devId ∧ routeOut s 8 p.srcDev < 8 ∧ qpnOwner s p.dstQpn = some pt ∧ (s.part pt).state ≠ .scrubbing ∧
    s.fab.cached.contains p.dstQpn = true ∧ s.fab.holds = [] ∧ s.fab.miss = [] ∧ (s.qp p.dstQpn).state = .ready ∧ (s.qp p.dstQpn).pt = p.dstPt ∧
    p.srcDev = (s.qp p.dstQpn).peerDev ∧ p.srcQpn = (s.qp p.dstQpn).peerQpn ∧ p.framePt = (s.qp p.dstQpn).peerPt ∧ p.seg ≠ 0 ∧
    s.fab.asms.find? (fun a => a.qpn == p.dstQpn && a.psn == p.psn) = some x ∧ s.fab.asms = [x] ∧ x.complete = false ∧ p.seg = x.nextSeg ∧
    x.isPut = false ∧ p.last = true ∧ (s.qp p.dstQpn).rq = r :: rest ∧ (x.data ++ p.data).length = p.arg ∧ s.node r.acc = some m ∧
    m.outcome = none) :=
  ⟨⟨fabric, 4, seg1, (.pktSendRx 4 (seg1)), 0, by decide +kernel⟩,
    ⟨(assembling asmSend (fabric { qp4 with expPsn := 1, ansLog := [15] })), 4, { seg1 with seg := 2 }, (.pktSendRx 4 ({ seg1 with seg := 2 })),
    0, asmSend, by decide +kernel⟩,
    ⟨(assembling asmSend (fabric { qp4 with expPsn := 1, ansLog := [15] })), 4, p_TargetsServePackets_6,
    (.pktSendRx 4 (p_TargetsServePackets_6)), 0, asmSend, by decide +kernel⟩,
    ⟨(assembling asmSend (fabric { qp4 with expPsn := 1, ansLog := [15], rq := [recv1] } (issued postCmd))), 4, seg1, (.pktSendRx 4 (seg1)), 0,
    asmSend, recv1, [], (live postCmd), by decide +kernel⟩⟩

def p_TargetsServePackets_10 : Packet := { send8 with last := false }
def s_TargetsServePackets_12 : State := keyed5 wkey (fabric qp4 opened)
def p_TargetsServePackets_12 : Packet := { fromPeer .put with arg := karg, cpn := 20, data := pageHdr ++ zeros 3840 }
theorem witness_TargetsServePackets_9 :
    (∃ (s : State) (port : Nat) (p : Packet) (c : Instr) (pt : _) (e : _),
    ((c, p.ptype) ∈ [(.pktSendRx port p, .send), (.pktPutRx port p, .put), (.pktGetReqRx port p, .getReq)] ∧ mine s p = true ∧
    p.srcDev ≠ s.fab.devId ∧ routeOut s 8 p.srcDev < 8 ∧ qpnOwner s p.dstQpn = some pt ∧ (s.part pt).state ≠ .scrubbing ∧
    s.fab.cached.contains p.dstQpn = true ∧ s.fab.holds = [] ∧ s.fab.miss = [] ∧ (s.qp p.dstQpn).state = .ready ∧ (s.qp p.dstQpn).pt = p.dstPt ∧
    p.srcDev = (s.qp p.dstQpn).peerDev ∧ p.srcQpn = (s.qp p.dstQpn).peerQpn ∧ p.framePt = (s.qp p.dstQpn).peerPt ∧ p.seg = 0 ∧
    p.psn = (s.qp p.dstQpn).expPsn ∧ p.psn < 2 ^ 24) ∧ (((p.ptype = .send ∧ (s.qp p.dstQpn).rq[sendsOpen s p.dstQpn]? = none ∧
    e = 12) ∨ (p.ptype = .send ∧ (∃ r, (s.qp p.dstQpn).rq[sendsOpen s p.dstQpn]? = some r ∧ r.len < p.arg) ∧ e = 13) ∨ (p.ptype = .put ∧
    keyCheck s p.dstQpn p.arg p.cpn true = .error e) ∨ (∃ i, p.ptype = .put ∧ keyCheck s p.dstQpn p.arg p.cpn true = .ok i ∧
    ((s.key i).landed.contains p.cpn = true ∨ landing s p.cpn = true) ∧ e = 8) ∨ (∃ i, p.ptype = .put ∧
    keyCheck s p.dstQpn p.arg p.cpn true = .ok i ∧ (s.key i).landed.contains p.cpn = false ∧ landing s p.cpn = false ∧ s.fab.gets = [] ∧
    headerOk s (s.key i) (p.data.take 256) = false ∧ e = 9) ∨ (∃ i, p.ptype = .put ∧ keyCheck s p.dstQpn p.arg p.cpn true = .ok i ∧
    (s.key i).landed.contains p.cpn = false ∧ landing s p.cpn = false ∧ s.fab.gets = [] ∧ headerOk s (s.key i) (p.data.take 256) = true ∧
    t1Alloc s (s.key i).owner (landField s (s.key i)) (.page p.cpn) = none ∧ e = 11) ∨ (p.ptype = .getReq ∧
    keyCheck s p.dstQpn p.arg p.cpn false = .error e) ∨ (∃ i, p.ptype = .getReq ∧ keyCheck s p.dstQpn p.arg p.cpn false = .ok i ∧
    ((s.loc p.cpn).state = .free ∨ (s.loc p.cpn).state = .retired ∨ effState (s.loc p.cpn) = .staging ∨ ((s.loc p.cpn).state ≠ .poisoned ∧
    (fullPage s p.cpn = false ∨ warmHeld s p.cpn = true))) ∧ e = 8) ∨ (∃ i, p.ptype = .getReq ∧ keyCheck s p.dstQpn p.arg p.cpn false = .ok i ∧
    (s.loc p.cpn).state = .poisoned ∧ e = 10)))) ∧
    (∃ (s : State) (port : Nat) (p : Packet) (c : Instr) (pt : _) (r : _),
    (c, p.ptype) ∈ [(.pktSendRx port p, .send), (.pktPutRx port p, .put), (.pktGetReqRx port p, .getReq)] ∧ mine s p = true ∧
    p.srcDev ≠ s.fab.devId ∧ routeOut s 8 p.srcDev < 8 ∧ qpnOwner s p.dstQpn = some pt ∧ (s.part pt).state ≠ .scrubbing ∧
    s.fab.cached.contains p.dstQpn = true ∧ s.fab.holds = [] ∧ s.fab.miss = [] ∧ (s.qp p.dstQpn).state = .ready ∧ (s.qp p.dstQpn).pt = p.dstPt ∧
    p.srcDev = (s.qp p.dstQpn).peerDev ∧ p.srcQpn = (s.qp p.dstQpn).peerQpn ∧ p.framePt = (s.qp p.dstQpn).peerPt ∧ p.seg = 0 ∧
    p.psn = (s.qp p.dstQpn).expPsn ∧ p.psn < 2 ^ 24 ∧ p.ptype = .send ∧ (s.qp p.dstQpn).rq[sendsOpen s p.dstQpn]? = some r ∧ p.arg ≤ r.len ∧
    p.last = false) ∧
    (∃ (s : State) (port : Nat) (p : Packet) (c : Instr) (pt : _) (r : _) (rest : _) (m : _),
    (c, p.ptype) ∈ [(.pktSendRx port p, .send), (.pktPutRx port p, .put), (.pktGetReqRx port p, .getReq)] ∧ mine s p = true ∧
    p.srcDev ≠ s.fab.devId ∧ routeOut s 8 p.srcDev < 8 ∧ qpnOwner s p.dstQpn = some pt ∧ (s.part pt).state ≠ .scrubbing ∧
    s.fab.cached.contains p.dstQpn = true ∧ s.fab.holds = [] ∧ s.fab.miss = [] ∧ (s.qp p.dstQpn).state = .ready ∧ (s.qp p.dstQpn).pt = p.dstPt ∧
    p.srcDev = (s.qp p.dstQpn).peerDev ∧ p.srcQpn = (s.qp p.dstQpn).peerQpn ∧ p.framePt = (s.qp p.dstQpn).peerPt ∧ p.seg = 0 ∧
    p.psn = (s.qp p.dstQpn).expPsn ∧ p.psn < 2 ^ 24 ∧ p.ptype = .send ∧ (s.qp p.dstQpn).rq = r :: rest ∧ sendsOpen s p.dstQpn = 0 ∧
    p.arg ≤ r.len ∧ p.last = true ∧ p.data.length = p.arg ∧ s.node r.acc = some m ∧ m.outcome = none) ∧
    (∃ (s : State) (port : Nat) (p : Packet) (c : Instr) (pt : _) (i : _) (a : _) (u : _),
    (c, p.ptype) ∈ [(.pktSendRx port p, .send), (.pktPutRx port p, .put), (.pktGetReqRx port p, .getReq)] ∧ mine s p = true ∧
    p.srcDev ≠ s.fab.devId ∧ routeOut s 8 p.srcDev < 8 ∧ qpnOwner s p.dstQpn = some pt ∧ (s.part pt).state ≠ .scrubbing ∧
    s.fab.cached.contains p.dstQpn = true ∧ s.fab.holds = [] ∧ s.fab.miss = [] ∧ (s.qp p.dstQpn).state = .ready ∧ (s.qp p.dstQpn).pt = p.dstPt ∧
    p.srcDev = (s.qp p.dstQpn).peerDev ∧ p.srcQpn = (s.qp p.dstQpn).peerQpn ∧ p.framePt = (s.qp p.dstQpn).peerPt ∧ p.seg = 0 ∧
    p.psn = (s.qp p.dstQpn).expPsn ∧ p.psn < 2 ^ 24 ∧ p.ptype = .put ∧ keyCheck s p.dstQpn p.arg p.cpn true = .ok i ∧
    (s.key i).landed.contains p.cpn = false ∧ landing s p.cpn = false ∧ s.fab.gets = [] ∧ headerOk s (s.key i) (p.data.take 256) = true ∧
    t1Alloc s (s.key i).owner (landField s (s.key i)) (.page p.cpn) = some (a, u)) :=
  ⟨⟨fabric, 4, send8, (.pktSendRx 4 (send8)), 0, 12, by decide +kernel, (.inl (by decide +kernel))⟩,
    ⟨(fabric { qp4 with rq := [recv1] } (issued postCmd)), 4, p_TargetsServePackets_10, (.pktSendRx 4 (p_TargetsServePackets_10)), 0, recv1, by decide +kernel⟩,
    ⟨(fabric { qp4 with rq := [recv1] } (issued postCmd)), 4, send8, (.pktSendRx 4 (send8)), 0, recv1, [], (live postCmd), by decide +kernel⟩,
    ⟨s_TargetsServePackets_12, 4, p_TargetsServePackets_12, (.pktPutRx 4 (p_TargetsServePackets_12)), 0, 5,
    (((t1Alloc (s_TargetsServePackets_12) 0 0 (.page 20)).getD (0, (s_TargetsServePackets_12))).1),
    (((t1Alloc (s_TargetsServePackets_12) 0 0 (.page 20)).getD (0, (s_TargetsServePackets_12))).2), by decide +kernel⟩⟩

def p_TargetsServePackets_13 : Packet := { fromPeer .getReq with arg := karg, cpn := 10 }
def p_TargetsServePackets_14 : Packet := { fromPeer .getReq with arg := karg, cpn := 10 }
theorem witness_TargetsServePackets_13 :
    (∃ (s : State) (port : Nat) (p : Packet) (c : Instr) (pt : _) (i : _),
    (c, p.ptype) ∈ [(.pktSendRx port p, .send), (.pktPutRx port p, .put), (.pktGetReqRx port p, .getReq)] ∧ mine s p = true ∧
    p.srcDev ≠ s.fab.devId ∧ routeOut s 8 p.srcDev < 8 ∧ qpnOwner s p.dstQpn = some pt ∧ (s.part pt).state ≠ .scrubbing ∧
    s.fab.cached.contains p.dstQpn = true ∧ s.fab.holds = [] ∧ s.fab.miss = [] ∧ (s.qp p.dstQpn).state = .ready ∧ (s.qp p.dstQpn).pt = p.dstPt ∧
    p.srcDev = (s.qp p.dstQpn).peerDev ∧ p.srcQpn = (s.qp p.dstQpn).peerQpn ∧ p.framePt = (s.qp p.dstQpn).peerPt ∧ p.seg = 0 ∧
    p.psn = (s.qp p.dstQpn).expPsn ∧ p.psn < 2 ^ 24 ∧ p.ptype = .getReq ∧ keyCheck s p.dstQpn p.arg p.cpn false = .ok i ∧
    pageLive (s.loc p.cpn) = true ∧ effState (s.loc p.cpn) ≠ .staging ∧ fullPage s p.cpn = true ∧ warmHeld s p.cpn = false ∧
    upper (s.loc p.cpn) = true ∧ (s.loc p.cpn).compressed = false ∧ storeBad s (pageStore s p.cpn) 0 frameBytes = false) ∧
    (∃ (s : State) (port : Nat) (p : Packet) (c : Instr) (pt : _) (i : _),
    (c, p.ptype) ∈ [(.pktSendRx port p, .send), (.pktPutRx port p, .put), (.pktGetReqRx port p, .getReq)] ∧ mine s p = true ∧
    p.srcDev ≠ s.fab.devId ∧ routeOut s 8 p.srcDev < 8 ∧ qpnOwner s p.dstQpn = some pt ∧ (s.part pt).state ≠ .scrubbing ∧
    s.fab.cached.contains p.dstQpn = true ∧ s.fab.holds = [] ∧ s.fab.miss = [] ∧ (s.qp p.dstQpn).state = .ready ∧ (s.qp p.dstQpn).pt = p.dstPt ∧
    p.srcDev = (s.qp p.dstQpn).peerDev ∧ p.srcQpn = (s.qp p.dstQpn).peerQpn ∧ p.framePt = (s.qp p.dstQpn).peerPt ∧ p.seg = 0 ∧
    p.psn = (s.qp p.dstQpn).expPsn ∧ p.psn < 2 ^ 24 ∧ p.ptype = .getReq ∧ keyCheck s p.dstQpn p.arg p.cpn false = .ok i ∧
    pageLive (s.loc p.cpn) = true ∧ effState (s.loc p.cpn) ≠ .staging ∧ fullPage s p.cpn = true ∧ warmHeld s p.cpn = false ∧
    upper (s.loc p.cpn) = false ∧ (s.key i).state = .valid) :=
  ⟨⟨(keyed5 rkey (fabric qp4 (whole10 base))), 4, p_TargetsServePackets_13, (.pktGetReqRx 4 (p_TargetsServePackets_13)), 0, 5, by decide +kernel⟩,
    ⟨(keyed5 rkey (fabric qp4 (low10 .resident base))), 4, p_TargetsServePackets_14, (.pktGetReqRx 4 (p_TargetsServePackets_14)), 0, 5, by decide +kernel⟩⟩

theorem witness_TargetsServePackets_15 : ∃ (s : State) (p : Packet),
    mine s p = false :=
  ⟨fabric, { send8 with dstDev := 77 }, by decide +kernel⟩

theorem witness_TargetsServePackets_18 :
    (∃ (s : State) (q : Nat),
    s.boot.fatal = false ∧ s.fab.fetching.contains q = true ∧ inClass s 0 ((qpcTable s).1 + 64 * q) 64 = true ∧
    s.fab.miss.any (fun m => m.1 == q) = false) ∧
    (∃ (s : State) (q : Nat),
    s.boot.fatal = false ∧ s.fab.fetching.contains q = false) :=
  ⟨⟨(let x := fabric; { x with fab := { x.fab with cached := [], fetching := [4] } }), 4, by decide +kernel⟩,
    ⟨fabric, 4, by decide +kernel⟩⟩

theorem witness_TargetsServePackets_20 : ∃ (s : State) (cpn : Nat) (x : Assembly),
    s.boot.fatal = false ∧ s.fab.asms.find? (fun a => a.isPut && a.ok && a.complete && a.cpn == cpn) = some x :=
  ⟨landState, 20, asm20, by decide +kernel⟩

theorem witness_TargetsServePackets_22 :
    (∃ (s : State) (cpn : Nat),
    s.boot.fatal = false ∧ s.fab.asms.find? (fun a => a.isPut && a.ok && a.complete && a.cpn == cpn) = none ∧
    s.fab.gets.find? (fun g => g.whole && !g.landed && xferResult s g.acc == cpn) = none) ∧
    (∃ (s : State) (cpn : Nat) (ok : Bool) (g : _) (n : _) (k : _),
    (s.boot.fatal = false ∧ s.fab.asms.find? (fun a => a.isPut && a.ok && a.complete && a.cpn == cpn) = none ∧
    s.fab.gets.find? (fun g => g.whole && !g.landed && xferResult s g.acc == cpn) = some g ∧ s.node g.acc = some n ∧ n.outcome = none) ∧
    (((windowKey s cpn = none ∧ k = failWith .revoked) ∨ (∃ i w, windowKey s cpn = some (i, w) ∧ headerOk s w (g.data.take 256) = false ∧
    k = failWith .format) ∨ (∃ i w, windowKey s cpn = some (i, w) ∧ headerOk s w (g.data.take 256) = true ∧ ok = false ∧
    k = failWith .nospace 0 11)))) ∧
    (∃ (s : State) (cpn : Nat) (ok : Bool) (g : _) (n : _) (i : _) (w : _),
    s.boot.fatal = false ∧ s.fab.asms.find? (fun a => a.isPut && a.ok && a.complete && a.cpn == cpn) = none ∧
    s.fab.gets.find? (fun g => g.whole && !g.landed && xferResult s g.acc == cpn) = some g ∧ s.node g.acc = some n ∧ n.outcome = none ∧
    windowKey s cpn = some (i, w) ∧ s.key i = w ∧ getOf s g.acc = some g ∧ headerOk s w (g.data.take 256) = true ∧ ok = true) :=
  ⟨⟨fabric, 20, by decide +kernel⟩,
    ⟨(gotWhole false), 20, true, { get1 with whole := true, acked := true, data := zeros 256 }, (live (.getPage (xcmd 20))), (failWith .format), by decide +kernel, (.inr (.inl ⟨5, wkey, by decide +kernel⟩))⟩,
    ⟨(gotWhole true), 20, true, { get1 with whole := true, acked := true, data := pageHdr }, (live (.getPage (xcmd 20))), 5, wkey, by decide +kernel⟩⟩

theorem witness_TargetsServePackets_25 :
    (∃ (s : State) (p : Packet) (r : _) (g : _),
    mine s p = true ∧ p.ptype = .getData ∧ (s.qp p.dstQpn).reqs.find? (fun y => y.psn == p.psn) = some r ∧ getOf s r.acc = some g ∧
    g.whole = false ∧ p.seg = g.data.length / 4096) ∧
    (∃ (s : State) (p : Packet),
    mine s p = true ∧ p.ptype = .getData ∧ (((s.qp p.dstQpn).reqs.find? (fun y => y.psn == p.psn) = none ∨ s.fab.gets = []))) ∧
    (∃ (s : State) (p : Packet),
    (mine s p = false ∨ p.ptype ≠ .getData)) :=
  ⟨⟨(getting get1 (fabric { qp4 with reqs := [qreq true] } (issued (.getPage (xcmd 20))))),
    { fromPeer .getData with psn := 3, seg := 1, data := zeros 4096 }, (qreq true), get1, by decide +kernel⟩,
    ⟨fabric, { fromPeer .getData with psn := 3, seg := 1, data := zeros 4096 }, by decide +kernel⟩,
    ⟨fabric, send8, by decide +kernel⟩⟩

theorem witness_TargetsServePackets_28 :
    (∃ (s : State) (q : Nat) (psn : Nat),
    s.boot.fatal = false ∧ s.fab.holds.find? (fun h => h.qpn == q && h.psn == psn) = none) ∧
    (∃ (s : State) (q : Nat) (psn : Nat) (h : _),
    s.boot.fatal = false ∧ s.fab.holds = [h] ∧ h.qpn = q ∧ h.psn = psn ∧ s.fab.miss.any (fun m => m.1 == q) = false ∧ h.pkt.dstQpn = q ∧
    h.pkt.psn = psn ∧ h.pkt.cpn = h.cpn ∧ psn < 2 ^ 24 ∧ psnBack (s.qp q) psn ∈ [1, 2, 3, 4, 5, 6, 7, 8, 9, 10, 11, 12, 13, 14, 15, 16] ∧
    pageLive (s.loc h.cpn) = true ∧ upper (s.loc h.cpn) = false) ∧
    (∃ (s : State) (q : Nat) (psn : Nat) (h : _),
    s.boot.fatal = false ∧ s.fab.holds = [h] ∧ h.qpn = q ∧ h.psn = psn ∧ s.fab.miss.any (fun m => m.1 == q) = false ∧ h.pkt.dstQpn = q ∧
    h.pkt.psn = psn ∧ h.pkt.cpn = h.cpn ∧ psn < 2 ^ 24 ∧ psnBack (s.qp q) psn ∈ [1, 2, 3, 4, 5, 6, 7, 8, 9, 10, 11, 12, 13, 14, 15, 16] ∧
    pageLive (s.loc h.cpn) = true ∧ upper (s.loc h.cpn) = true ∧ (s.loc h.cpn).compressed = false ∧
    storeBad s (pageStore s h.cpn) 0 frameBytes = false) :=
  ⟨⟨fabric, 4, 3, by decide +kernel⟩,
    ⟨(holdState { tier := .t2, state := .resident, refcnt := 1 }), 4, 3, hold10, by decide +kernel⟩,
    ⟨(holdState { state := .resident, refcnt := 1, addr := 16384 }), 4, 3, hold10, by decide +kernel⟩⟩

theorem witness_KeysAreCreatedAndRevoked_0 :
    (∃ (s : State) (rq : Requester) (e : _),
    s.boot.fatal = false ∧ mayReach s rq pgFab = true ∧ maySelectKey s rq = true ∧ (s.key (keySel s)).state = .free ∧
    keyErr s rq.pt (s.key (keySel s)) = e ∧ e ≠ 0) ∧
    (∃ (s : State) (rq : Requester),
    s.boot.fatal = false ∧ mayReach s rq pgFab = true ∧ maySelectKey s rq = true ∧ (s.key (keySel s)).state = .free ∧
    keyErr s rq.pt (s.key (keySel s)) = 0) ∧
    (∃ (s : State) (rq : Requester),
    s.boot.fatal = false ∧ mayReach s rq pgFab = true ∧ maySelectKey s rq = true ∧ (s.key (keySel s)).state ≠ .free) ∧
    (∃ (s : State) (rq : Requester),
    s.boot.fatal = false ∧ mayReach s rq pgFab = true ∧ maySelectKey s rq = true ∧ (s.key (keySel s)).state = .valid) :=
  ⟨⟨(keyed5 { rkey with state := .free, pd := 2 } fabric), own, 1, by decide +kernel⟩,
    ⟨(keyed5 { rkey with state := .free, gen := 255 } fabric), own, by decide +kernel⟩,
    ⟨(keyed5 rkey fabric), own, by decide +kernel⟩,
    ⟨(keyed5 rkey fabric), own, by decide +kernel⟩⟩

theorem witness_KeysAreCreatedAndRevoked_4 :
    (∃ (s : State) (rq : Requester),
    s.boot.fatal = false ∧ mayReach s rq pgFab = true ∧ maySelectKey s rq = true ∧ (s.key (keySel s)).state ≠ .valid) ∧
    (∃ (s : State) (rq : Requester),
    s.boot.fatal = false ∧ mayReach s rq pgFab = true ∧ maySelectKey s rq = false) :=
  ⟨⟨(keyed5 { rkey with state := .revoking } fabric), own, by decide +kernel⟩,
    ⟨(keyed5 { rkey with owner := 3 } fabric), own, by decide +kernel⟩⟩

theorem witness_KeysAreCreatedAndRevoked_7 : ∃ (s : State) (rq : Requester) (x : Instr),
    s.boot.fatal = false ∧ mayReach s rq pgFab = false ∧ ((x = .keyCreate rq ∨ x = .keyRevoke rq)) :=
  ⟨fabric, { own with src := 5 }, (.keyCreate { own with src := 5 }), by decide +kernel⟩

theorem witness_KeysAreCreatedAndRevoked_8 :
    (∃ (s : State) (i : Nat),
    s.boot.fatal = false ∧ (s.key i).state = .revoking ∧ (s.key i).inflight = 0) ∧
    (∃ (s : State) (i : Nat),
    s.boot.fatal = false ∧ ((s.key i).state ≠ .revoking ∨ (s.key i).inflight ≠ 0)) :=
  ⟨⟨(keyed5 { rkey with state := .revoking } fabric), 5, by decide +kernel⟩,
    ⟨(keyed5 { rkey with state := .revoking, inflight := 1 } fabric), 5, by decide +kernel⟩⟩

theorem witness_DiscoveryAndForwarding_0 :
    (∃ (s : State) (rq : Requester),
    s.boot.fatal = false ∧ mayReach s rq pgFab = true ∧ isRoot s = true) ∧
    (∃ (s : State) (rq : Requester),
    s.boot.fatal = false ∧ mayReach s rq pgFab = true ∧ isRoot s = false) ∧
    (∃ (s : State) (rq : Requester),
    s.boot.fatal = false ∧ mayReach s rq pgFab = false) :=
  ⟨⟨(disc { dgen := 65535 }), own, by decide +kernel⟩,
    ⟨(disc {} false), own, by decide +kernel⟩,
    ⟨base, { own with src := 5 }, by decide +kernel⟩⟩

theorem witness_DiscoveryAndForwarding_3 :
    (∃ (s : State) (port : Nat) (p : Probe),
    s.boot.fatal = false ∧ 4 ≤ port ∧ ((p.level ≠ 0xFF ∧
    (newerGen s.fab.disc.seenDgen p.dgen = true ∨ (newerGen s.fab.disc.seenDgen p.dgen = false ∧ s.fab.disc.seenDgen = some p.dgen ∧
    s.fab.disc.level.all (fun o => decide (p.level + 1 < o)) = true))))) ∧
    (∃ (s : State) (port : Nat) (p : Probe),
    s.boot.fatal = false ∧ 4 ≤ port ∧ newerGen s.fab.disc.seenDgen p.dgen = false ∧ s.fab.disc.seenDgen = some p.dgen ∧ p.level ≠ 0xFF ∧
    s.fab.disc.level = some (p.level + 1)) ∧
    (∃ (s : State) (port : Nat) (p : Probe),
    s.boot.fatal = false ∧ 4 ≤ port ∧ newerGen s.fab.disc.seenDgen p.dgen = false ∧
    ((s.fab.disc.seenDgen ≠ some p.dgen ∨ p.level = 0xFF ∨ s.fab.disc.level.any (fun o => decide (o < p.level + 1)) = true))) :=
  ⟨⟨(disc {} false), 7, probe4, by decide +kernel⟩,
    ⟨(disc { seenDgen := some 4, level := some 2, parent := some 5 } false), 7, probe4, by decide +kernel⟩,
    ⟨(disc { seenDgen := some 4, level := some 1, parent := some 1 } false), 7, probe4, by decide +kernel⟩⟩

theorem witness_DiscoveryAndForwarding_6 :
    (∃ (s : State) (a : _) (x : _),
    s.boot.fatal = false ∧ s.fab.disc.reportAt = some a ∧ s.fab.disc.parent = some x) ∧
    (∃ (s : State),
    s.boot.fatal = false ∧ ((s.fab.disc.reportAt = none ∨ s.fab.disc.parent = none))) ∧
    (∃ (s : State) (port : _) (r : Report),
    s.boot.fatal = false ∧ 4 ≤ port ∧ isRoot s = true ∧ s.fab.disc.state = 1 ∧ r.dgen = s.fab.disc.dgen) ∧
    (∃ (s : State) (port : _) (r : Report),
    s.boot.fatal = false ∧ 4 ≤ port ∧ ((isRoot s = false ∨ s.fab.disc.state ≠ 1 ∨ r.dgen ≠ s.fab.disc.dgen))) :=
  ⟨⟨(disc { seenDgen := some 4, level := some 2, parent := some 1, reportAt := some 5000 } false), 5000, 1, by decide +kernel⟩,
    ⟨base, by decide +kernel⟩,
    ⟨(disc { dgen := 4, state := 1, ids := [(0, 0)] }), 7, rep1, by decide +kernel⟩,
    ⟨(disc {}), 7, rep1, by decide +kernel⟩⟩

theorem witness_DiscoveryAndForwarding_11 :
    (∃ (s : State),
    s.boot.fatal = false ∧ ((isRoot s = false ∨ s.fab.disc.state ≠ 1))) ∧
    (∃ (s : State) (port : _) (a : AssignMsg),
    s.boot.fatal = false ∧ 4 ≤ port ∧ a.serial = s.sec.serial) ∧
    (∃ (s : State) (port : _) (a : AssignMsg),
    s.boot.fatal = false ∧ 4 ≤ port ∧ a.serial ≠ s.sec.serial) ∧
    (∃ (s : State),
    s.boot.fatal = false ∧ s.fab.disc.state ≠ 1) :=
  ⟨⟨(disc {}), by decide +kernel⟩,
    ⟨(disc {} false), 7, assign4, by decide +kernel⟩,
    ⟨(disc {} false), 7, { assign4 with serial := 55 }, by decide +kernel⟩,
    ⟨base, by decide +kernel⟩⟩

theorem witness_DiscoveryAndForwarding_16 :
    (∃ (s : State) (port : _),
    s.boot.fatal = false ∧ 4 ≤ port ∧ bit (s.reg pgSnp 0x200) 2 = true) ∧
    (∃ (s : State) (port : _),
    s.boot.fatal = false ∧ 4 ≤ port ∧ bit (s.reg pgSnp 0x200) 2 = false) :=
  ⟨⟨(base.setReg pgSnp 0x200 0 5), 7, by decide +kernel⟩,
    ⟨(base.setReg pgSnp 0x200 0 1), 7, by decide +kernel⟩⟩

theorem witness_DiscoveryAndForwarding_18 : ∃ (port : Nat),
    port < 4 :=
  ⟨3, by decide +kernel⟩

theorem witness_DiscoveryAndForwarding_22 :
    (∃ (s : State) (port : Nat) (p : Packet),
    s.boot.fatal = false ∧ 4 ≤ port ∧ s.fab.idValid = true ∧ p.dstDev ≠ s.fab.devId ∧ routeOut s (port - 4) p.dstDev ≤ 7 ∧ 1 < p.hops ∧
    forwardAllowed s (routeOut s (port - 4) p.dstDev) p.framePt = true ∧ 4 + routeOut s (port - 4) p.dstDev < s.tsc.length) ∧
    (∃ (s : State) (port : Nat) (p : Packet),
    s.boot.fatal = false ∧ 4 ≤ port ∧ s.fab.idValid = true ∧ p.dstDev ≠ s.fab.devId ∧
    ((7 < routeOut s (port - 4) p.dstDev ∨ p.hops ≤ 1 ∨ forwardAllowed s (routeOut s (port - 4) p.dstDev) p.framePt = false))) ∧
    (∃ (s : State) (port : Nat) (p : Packet),
    (s.boot.fatal = true ∨ port < 4 ∨ p.dstDev = s.fab.devId ∨ s.fab.idValid = false)) :=
  ⟨⟨fabric, 5, { fromPeer .put with dstDev := 9, srcDev := 3, hops := 4 }, by decide +kernel⟩,
    ⟨fabric, 5, { fromPeer .put with dstDev := 9, srcDev := 3, hops := 1 }, by decide +kernel⟩,
    ⟨fabric, 3, { fromPeer .put with dstDev := 9, srcDev := 3, hops := 4 }, by decide +kernel⟩⟩

end PartQ

namespace PartR

def partAt (p : Part) (s : State := base) : State := { s with sec := { s.sec with pts := lset s.sec.pts 0 p } }
def scrubAt (k : Nat) (zero : Bool) : State :=
  let s := partAt { state := .scrubbing, pepoch := 5, ts := some (zeros 32), prk := [1], seed := 9, scrub := { step := k, startedAt := 900, zero := zero } } (opened (issued .nop))
  let s := { s with seq := { s.seq with locs := [(10, { state := .resident, addr := 16384 })] }, mems := { s.mems with spad := [(5, 7), (2 ^ 24 * 3, 7)] } }
  { s with tsc := s.tsc.map fun t => { t with scrubbing := [0] } }
def cqOn (s : State := base) : State := s.setCplRing 0 0 fun c => { c with en := true }
def errE : ErrEntry := { code := 1, cls := 1, page := 0, epoch := 0, kind := 0, layer := 0, detail1 := 0, object := 0, time := 5 }
def errOne (s : State := base) : State := { s with cnt := { s.cnt with bufs := lset s.cnt.bufs 0 { entries := [errE], lost := 2 } } }
/-- The recorder runs for partition 0, with segments of 4 KiB in HBM. -/
def recOn (r : Rec) (wrap : Bool := true) (s : State := base) : State :=
  let s := (s.setReg pgRec 0x200 0 (1 + b2n wrap * 4 + 12 * 8 + 4 * 2 ^ 10)).setReg pgRec 0x204 0 0x2000000
  { s with rec_ := { r with state := 1, running := [0] } }
def aRecord : Record := { rtype := 1, pt := 0, ref := 1, time := 990, body := zeros 64 }
/-- A recording of one segment that holds one record. -/
def recording (r : Record) (s : State := base) : State :=
  let s := ((recOn {} true s).setReg pgRec 0x200 0 (12 * 8 + 4 * 2 ^ 10))
  let s := { s with rec_ := { s.rec_ with state := 0, running := [], used := 64 + recordLen r, count := 1 } }
  let s := s.setHbm (mwrites s.mems.hbm 0x2000000 (segHeader s ++ recordBytes r))
  { s with rec_ := { replay := 1 } }
def cplRec (st : Nat) : Record := { rtype := 3, pt := 0, ref := 1, time := 990, body := [0, 0] ++ toLe 1 st ++ zeros 45 }
def owned (st : Nat) (r : Record) : State := let s := recording r; { s with rec_ := { s.rec_ with own := [(1, [0, 0] ++ toLe 1 st ++ zeros 45)] } }

theorem witness_ScrubRuns_0 :
    (∃ (s : State) (rq : Requester) (val : Word) (pt : Nat),
    s.boot.fatal = false ∧ s.reg pgSec 0x200 = pt ∧ pt < s.sec.pts.length ∧ rq.secure = true ∧ rq.src < 4 ∧ bit val.toNat 0 = true ∧
    (((s.part pt).state = .keying ∨ (s.part pt).state = .active ∨ (s.part pt).state = .failed))) ∧
    (∃ (s : State) (rq : Requester) (val : Word) (pt : Nat),
    s.boot.fatal = false ∧ s.reg pgSec 0x200 = pt ∧ pt < s.sec.pts.length ∧ rq.secure = true ∧ rq.src < 4 ∧ bit val.toNat 0 = true ∧
    (((s.part pt).state = .empty ∨ (s.part pt).state = .scrubbing))) ∧
    (∃ (s : State) (rq : Requester) (val : Word) (pt : Nat),
    s.boot.fatal = false ∧ s.reg pgSec 0x200 = pt ∧ pt < s.sec.pts.length ∧ rq.secure = true ∧ rq.src < 4 ∧ bit val.toNat 0 = false) ∧
    (∃ (s : State) (rq : Requester) (pt : Nat),
    s.boot.fatal = false ∧ s.reg pgSec 0x200 = pt ∧ pt < s.sec.pts.length ∧ rq.secure = false) :=
  ⟨⟨(recOn {} true (opened (issued .nop (cqOn)))), sec, 1, 0, by decide +kernel⟩,
    ⟨(partAt { state := .empty }), sec, 1, 0, by decide +kernel⟩,
    ⟨base, sec, 2, 0, by decide +kernel⟩,
    ⟨base, own, 0, by decide +kernel⟩⟩

theorem witness_ScrubRuns_4 :
    (∃ (s : State) (pt : Nat),
    s.boot.fatal = false ∧ pt < s.sec.pts.length ∧ (s.part pt).state ≠ .scrubbing) ∧
    (∃ (s : State) (pt : Nat),
    s.boot.fatal = false ∧ pt < s.sec.pts.length ∧ (s.part pt).state = .scrubbing ∧ 1 ≤ (s.part pt).scrub.step ∧ (s.part pt).scrub.step < 8) ∧
    (∃ (s : State) (pt : Nat),
    s.boot.fatal = false ∧ pt < s.sec.pts.length ∧ (s.part pt).state = .scrubbing ∧ 1 ≤ (s.part pt).scrub.step ∧ (s.part pt).scrub.step = 8) :=
  ⟨⟨base, 0, by decide +kernel⟩,
    ⟨(scrubAt 1 false), 0, by decide +kernel⟩,
    ⟨(scrubAt 8 true), 0, by decide +kernel⟩⟩

theorem witness_ScrubRuns_7 :
    (∃ (s : State) (pt : Nat) (tier : Nat),
    s.boot.fatal = false ∧ pt < s.sec.pts.length ∧ (s.part pt).sweeps.contains tier = true) ∧
    (∃ (s : State) (pt : Nat) (tier : Nat),
    s.boot.fatal = false ∧ pt < s.sec.pts.length ∧ (s.part pt).sweeps.contains tier = false) :=
  ⟨⟨(let x := partAt { state := .empty, sweeps := [2, 3, 4, 5] }; { x with blw := { x.blw with t2 := [(5, .page 10)] } }), 0, 2, by decide +kernel⟩,
    ⟨base, 0, 2, by decide +kernel⟩⟩

end PartR

namespace PartS

def partAt (p : Part) (s : State := base) : State := { s with sec := { s.sec with pts := lset s.sec.pts 0 p } }
def scrubAt (k : Nat) (zero : Bool) : State :=
  let s := partAt { state := .scrubbing, pepoch := 5, ts := some (zeros 32), prk := [1], seed := 9, scrub := { step := k, startedAt := 900, zero := zero } } (opened (issued .nop))
  let s := { s with seq := { s.seq with locs := [(10, { state := .resident, addr := 16384 })] }, mems := { s.mems with spad := [(5, 7), (2 ^ 24 * 3, 7)] } }
  { s with tsc := s.tsc.map fun t => { t with scrubbing := [0] } }
def cqOn (s : State := base) : State := s.setCplRing 0 0 fun c => { c with en := true }
def errE : ErrEntry := { code := 1, cls := 1, page := 0, epoch := 0, kind := 0, layer := 0, detail1 := 0, object := 0, time := 5 }
def errOne (s : State := base) : State := { s with cnt := { s.cnt with bufs := lset s.cnt.bufs 0 { entries := [errE], lost := 2 } } }
/-- The recorder runs for partition 0, with segments of 4 KiB in HBM. -/
def recOn (r : Rec) (wrap : Bool := true) (s : State := base) : State :=
  let s := (s.setReg pgRec 0x200 0 (1 + b2n wrap * 4 + 12 * 8 + 4 * 2 ^ 10)).setReg pgRec 0x204 0 0x2000000
  { s with rec_ := { r with state := 1, running := [0] } }
def aRecord : Record := { rtype := 1, pt := 0, ref := 1, time := 990, body := zeros 64 }
/-- A recording of one segment that holds one record. -/
def recording (r : Record) (s : State := base) : State :=
  let s := ((recOn {} true s).setReg pgRec 0x200 0 (12 * 8 + 4 * 2 ^ 10))
  let s := { s with rec_ := { s.rec_ with state := 0, running := [], used := 64 + recordLen r, count := 1 } }
  let s := s.setHbm (mwrites s.mems.hbm 0x2000000 (segHeader s ++ recordBytes r))
  { s with rec_ := { replay := 1 } }
def cplRec (st : Nat) : Record := { rtype := 3, pt := 0, ref := 1, time := 990, body := [0, 0] ++ toLe 1 st ++ zeros 45 }
def owned (st : Nat) (r : Record) : State := let s := recording r; { s with rec_ := { s.rec_ with own := [(1, [0, 0] ++ toLe 1 st ++ zeros 45)] } }
def seedRec : Record := { rtype := 7, pt := 0, ref := 0, time := 990, body := toLe 8 0x1234 ++ zeros 8 }

theorem witness_ErrorsAndCounters_1 : ∃ (s : State),
    s.boot.fatal = true :=
  ⟨({ base with boot := { base.boot with fatal := true } }), by decide +kernel⟩

theorem witness_ErrorsAndCounters_2 :
    (∃ (s : State) (ring : Nat) (e : _) (rest : _),
    s.boot.fatal = false ∧ ring < s.cnt.bufs.length ∧ (lget s.cnt.bufs ring {}).entries = e :: rest ∧
    cqRoom (s.cplRing (errRing s ring).1 (errRing s ring).2) = true) ∧
    (∃ (s : State) (ring : Nat),
    s.boot.fatal = false ∧ ring < s.cnt.bufs.length ∧
    (((lget s.cnt.bufs ring {}).entries = [] ∨ cqRoom (s.cplRing (errRing s ring).1 (errRing s ring).2) = false))) :=
  ⟨⟨(errOne (cqOn)), 0, errE, [], by decide +kernel⟩,
    ⟨errOne, 0, by decide +kernel⟩⟩

theorem witness_ErrorsAndCounters_4 :
    (∃ (s : State),
    s.boot.fatal = false ∧ bits (s.reg pgCnt 0x200) 0 16 ≠ 0) ∧
    (∃ (s : State),
    s.boot.fatal = false ∧ bits (s.reg pgCnt 0x200) 0 16 = 0) :=
  ⟨⟨((base.setReg pgCnt 0x200 0 5).setReg pgCnt 0x204 0 0x3000000), by decide +kernel⟩,
    ⟨base, by decide +kernel⟩⟩

theorem witness_ErrorsAndCounters_6 :
    (∃ (s : State) (rq : Requester) (tile : Nat) (n : Nat),
    s.boot.fatal = false ∧ tile < 48 ∧ n < 8 ∧ mayPerf s rq tile = true) ∧
    (∃ (s : State) (rq : Requester) (tile : Nat) (n : Nat),
    s.boot.fatal = false ∧ tile < 48 ∧ n < 8 ∧ mayPerf s rq tile = false) ∧
    (∃ (s : State) (tile : Nat) (n : Nat),
    s.boot.fatal = false ∧ ((48 ≤ tile ∨ 8 ≤ n))) :=
  ⟨⟨(base.setTile 3 fun t => { t with pmc := [1, 2, 3, 4, 5, 6, 7, 8] }), sec, 3, 2, by decide +kernel⟩,
    ⟨base, own, 3, 2, by decide +kernel⟩,
    ⟨base, 48, 2, by decide +kernel⟩⟩

theorem witness_RecorderAndReplay_0 :
    (∃ (s : State) (rq : Requester) (p : _),
    s.boot.fatal = false ∧ rq.secure = true ∧ rq.src < 4 ∧ s.rec_.state = 1 ∧ s.rec_.running = [p] ∧ s.rec_.buf = [] ∧
    ((if s.rec_.used = 0 then 64 else s.rec_.used) + 16 ≤ recSegBytes s) ∧ bit (s.reg pgRec 0x200) 1 = false) ∧
    (∃ (s : State) (rq : Requester),
    s.boot.fatal = false ∧ rq.secure = true ∧ rq.src < 4 ∧ s.rec_.running = []) ∧
    (∃ (s : State) (rq : Requester),
    s.boot.fatal = false ∧ rq.secure = false) :=
  ⟨⟨(recOn {}), sec, 0, by decide +kernel⟩,
    ⟨base, sec, by decide +kernel⟩,
    ⟨base, own, by decide +kernel⟩⟩

theorem witness_RecorderAndReplay_3 :
    (∃ (s : State) (r : _) (rest : _),
    s.boot.fatal = false ∧ s.rec_.state = 1 ∧ s.rec_.buf = r :: rest ∧ recFits s r = false) ∧
    (∃ (s : State),
    s.boot.fatal = false ∧ ((s.rec_.state ≠ 1 ∨ s.rec_.buf = [] ∨ (∃ r rest, s.rec_.buf = r :: rest ∧ recFits s r = true)))) ∧
    (∃ (s : State) (p : _),
    s.boot.fatal = false ∧ s.rec_.state = 1 ∧ s.rec_.lostPending.length = 8 ∧
    (List.range 8).find? (fun p => decide (0 < lget s.rec_.lostPending p 0) && recRoom s p 16) = some p) ∧
    (∃ (s : State),
    s.boot.fatal = false ∧
    ((s.rec_.state ≠ 1 ∨ (List.range 8).find? (fun p => decide (0 < lget s.rec_.lostPending p 0) && recRoom s p 16) = none))) :=
  ⟨⟨(recOn { buf := [aRecord], used := 4090, count := 3 }), aRecord, [], by decide +kernel⟩,
    ⟨base, by decide +kernel, (.inl (by decide +kernel))⟩,
    ⟨(recOn { lostPending := [5, 2, 0, 0, 0, 0, 0, 0], lost := 7, used := 4090, count := 3 }), 0, by decide +kernel⟩,
    ⟨base, by decide +kernel⟩⟩

theorem witness_RecorderAndReplay_7 :
    (∃ (s : State) (rq : Requester) (val : Word),
    s.boot.fatal = false ∧ rq.secure = true ∧ rq.src < 4 ∧ s.rec_.replay = 1 ∧ bit val.toNat 0 = true) ∧
    (∃ (s : State) (rq : Requester) (val : Word),
    s.boot.fatal = false ∧ rq.secure = true ∧ rq.src < 4 ∧ s.rec_.replay ≠ 1 ∧ bit val.toNat 0 = true ∧
    replayReady (storeFields s rq pgRec 0x224 0 val.toNat) = true) ∧
    (∃ (s : State) (rq : Requester) (val : Word),
    s.boot.fatal = false ∧ rq.secure = true ∧ rq.src < 4 ∧ s.rec_.replay ≠ 1 ∧ bit val.toNat 0 = true ∧
    replayReady (storeFields s rq pgRec 0x224 0 val.toNat) = false) ∧
    (∃ (s : State) (rq : Requester) (val : Word),
    s.boot.fatal = false ∧ rq.secure = true ∧ rq.src < 4 ∧ bit val.toNat 0 = false) :=
  ⟨⟨(recording aRecord), sec, 1, by decide +kernel⟩,
    ⟨(let x := recording { rtype := 0x0A, pt := 0, ref := 0, time := 990, body := zeros 144 }; { x with rec_ := {} }), sec, 0x181, by decide +kernel⟩,
    ⟨(let x := recording aRecord; { x with rec_ := {} }), sec, 1, by decide +kernel⟩,
    ⟨(recording aRecord), sec, 0, by decide +kernel⟩⟩

theorem witness_RecorderAndReplay_12 :
    (∃ (s : State),
    s.boot.fatal = false ∧ s.rec_.replay = 1 ∧ nextRecord s s.rec_.pos = none) ∧
    (∃ (s : State) (r : _) (a : _) (next : _),
    s.boot.fatal = false ∧ s.rec_.replay = 1 ∧ nextRecord s s.rec_.pos = some (r, a, next) ∧
    ((r.pt ≠ replayPt s ∨ r.rtype ∉ [1, 2, 3, 5, 6, 7, 8, 0x0D]))) ∧
    (∃ (s : State) (r : _) (a : _) (next : _),
    s.boot.fatal = false ∧ s.rec_.replay = 1 ∧ nextRecord s s.rec_.pos = some (r, a, next) ∧ r.pt = replayPt s ∧ r.rtype = 0x0D) ∧
    (∃ (s : State) (r : _) (a : _) (next : _),
    s.boot.fatal = false ∧ s.rec_.replay = 1 ∧ nextRecord s s.rec_.pos = some (r, a, next) ∧ r.pt = replayPt s ∧ r.rtype = 7 ∧
    replayPt s < s.sec.pts.length) :=
  ⟨⟨(let x := recording aRecord; { x with rec_ := { x.rec_ with pos := 64 + recordLen aRecord } }), by decide +kernel⟩,
    ⟨(recording { aRecord with pt := 3 }), { aRecord with pt := 3 }, 64, (64 + recordLen ({ aRecord with pt := 3 })), by decide +kernel⟩,
    ⟨(recording { aRecord with rtype := 0x0D }), { aRecord with rtype := 0x0D }, 64, (64 + recordLen ({ aRecord with rtype := 0x0D })), by decide +kernel⟩,
    ⟨(recording seedRec), seedRec, 64, (64 + recordLen seedRec), by decide +kernel⟩⟩

theorem witness_RecorderAndReplay_16 :
    (∃ (s : State) (r : _) (a : _) (next : _) (o : _),
    s.boot.fatal = false ∧ s.rec_.replay = 1 ∧ nextRecord s s.rec_.pos = some (r, a, next) ∧ r.pt = replayPt s ∧ r.rtype = 3 ∧
    tget s.rec_.own r.ref = some o ∧ sameCpl s o r.body = true) ∧
    (∃ (s : State) (r : _) (a : _) (next : _) (o : _),
    s.boot.fatal = false ∧ s.rec_.replay = 1 ∧ nextRecord s s.rec_.pos = some (r, a, next) ∧ r.pt = replayPt s ∧ r.rtype = 3 ∧
    tget s.rec_.own r.ref = some o ∧ sameCpl s o r.body = false) ∧
    (∃ (s : State),
    (s.boot.fatal = true ∨ s.rec_.replay ≠ 1)) :=
  ⟨⟨(owned 5 (cplRec 5)), (cplRec 5), 64, (64 + recordLen (cplRec 5)), ([0, 0] ++ toLe 1 5 ++ zeros 45), by decide +kernel⟩,
    ⟨(owned 6 (cplRec 5)), (cplRec 5), 64, (64 + recordLen (cplRec 5)), ([0, 0] ++ toLe 1 6 ++ zeros 45), by decide +kernel⟩,
    ⟨base, by decide +kernel⟩⟩

end PartS

namespace PartT

def pwrAt (watts : Nat) (p : Pwr) (s : State := base) : State :=
  { s with pwr := { p with fast := List.replicate 10 watts } }
def heat (ts : List Nat) (p : Pwr := {}) : State := { base with pwr := { p with temps := ts } }
def rails (mv : List Nat) : RailSample := { mv := mv, amps := List.replicate 10 5, watts := 700 }
def bootAt (k : Nat) (b : Boot := {}) : State := { State.reset with time := 4000, boot := { b with stage := k, pwrOk := true, rstN := true }, clk := { lock := true, refOk := true } }
/-- Partition 0 is strict. -/
def strict0 (s : State) : State :=
  let m := { s.dep.cfg.pmap with pts := lset s.dep.cfg.pmap.pts 0 { lget s.dep.cfg.pmap.pts 0 {} with strict := true } }
  { s with dep := { s.dep with cfg := { s.dep.cfg with pmap := m }, cfgPrev := { s.dep.cfgPrev with pmap := m } } }

theorem witness_PowerAndHeat_1 :
    (∃ (s : State),
    s.boot.fatal = false ∧ s.tiles.length = 48 ∧ s.boot.pwrOk = true) ∧
    (∃ (s : State),
    s.boot.fatal = false ∧ s.tiles.length = 48 ∧ s.boot.pwrOk = false) :=
  ⟨⟨base, by decide +kernel⟩,
    ⟨({ base with boot := { base.boot with pwrOk := false } }), by decide +kernel⟩⟩

theorem witness_PowerAndHeat_5 : ∃ (s : State) (x : RailSample) (q : List Nat) (a : Nat) (b : Nat) (c : Instr),
    s.boot.fatal = true ∧
    c ∈ ([.powerEval, .powerSample x, .refclkLoss, .thermalSample q, .thermalLevelFall, .thermalLimitStep, .thermalDiffThrottle a b, .thermLevelSample] : List Instr) :=
  ⟨({ base with boot := { base.boot with fatal := true } }), (rails (List.range 10 |>.map fun i => lget railNominal i 0)), [], 0, 1,
    .powerEval, by decide +kernel⟩

theorem witness_PowerAndHeat_6 :
    (∃ (s : State) (rq : Requester) (val : Word) (c : Instr),
    ((c = .pwrLimit rq val ∨ c = .pwrPtCeil rq val)) ∧ s.boot.fatal = false ∧ rq.secure = true ∧ rq.src < 4 ∧
    ((hasStrict s.appliedMap = true → powerFits s.appliedMap (ptCeil s) (bits (s.reg pgPwr 0x200) 0 11) = true))) ∧
    (∃ (s : State) (rq : Requester) (val : Word) (c : Instr),
    ((c = .pwrLimit rq val ∨ c = .pwrPtCeil rq val)) ∧ s.boot.fatal = false ∧ rq.secure = true ∧ rq.src < 4 ∧ c = .pwrLimit rq val ∧
    hasStrict s.appliedMap = true ∧ 600 ≤ bits val.toNat 0 11 ∧ bits val.toNat 0 11 ≤ 1500 ∧
    powerFits s.appliedMap (ptCeil s) (bits val.toNat 0 11) = false) ∧
    (∃ (s : State) (rq : Requester) (val : Word) (c : Instr),
    ((c = .pwrLimit rq val ∨ c = .pwrPtCeil rq val)) ∧ s.boot.fatal = false ∧ rq.secure = false) :=
  ⟨⟨base, sec, 700, (.pwrLimit sec 700), by decide +kernel⟩,
    ⟨(strict0 base), sec, 600, (.pwrLimit sec 600), by decide +kernel⟩,
    ⟨base, own, 700, (.pwrLimit own 700), by decide +kernel⟩⟩

def s_PowerAndHeat_10 : State := { base with pwr := { base.pwr with level := 1 } }
theorem witness_PowerAndHeat_9 :
    (∃ (s : State) (q : _) (u : _),
    s.boot.fatal = false ∧ s.tiles.length = 48 ∧ u = { s with pwr := { s.pwr with temps := (List.range 64).map fun i => lget q i 0 % 1024 } } ∧
    tripped u = true) ∧
    (∃ (s : State) (q : _) (u : _),
    s.boot.fatal = false ∧ s.tiles.length = 48 ∧ u = { s with pwr := { s.pwr with temps := (List.range 64).map fun i => lget q i 0 % 1024 } } ∧
    tripped u = false) ∧
    (∃ (s : State) (a : _),
    s.boot.fatal = false ∧ s.tiles.length = 48 ∧ s.pwr.lowSince = some a) ∧
    (∃ (s : State),
    s.boot.fatal = false ∧ s.tiles.length = 48 ∧ s.pwr.lowSince = none) :=
  ⟨⟨base, (List.replicate 64 1000),
    ({ (base) with pwr := { (base).pwr with temps := (List.range 64).map fun i => lget (List.replicate 64 1000) i 0 % 1024 } }), by decide +kernel⟩,
    ⟨s_PowerAndHeat_10, (List.replicate 48 100),
    ({ (s_PowerAndHeat_10) with pwr := { (s_PowerAndHeat_10).pwr with temps := (List.range 64).map fun i => lget (List.replicate 48 100) i 0 % 1024 } }), by decide +kernel⟩,
    ⟨(heat [] { level := 3, lowSince := some 500, heldCold := true }), 500, by decide +kernel⟩,
    ⟨base, by decide +kernel⟩⟩

theorem witness_PowerAndHeat_13 :
    (∃ (s : State),
    s.boot.fatal = false ∧ s.tiles.length = 48 ∧ 2 ≤ s.pwr.level ∧ s.pwr.thermDrop.length = 48) ∧
    (∃ (s : State),
    s.boot.fatal = false ∧ s.tiles.length = 48 ∧ s.pwr.level < 2) ∧
    (∃ (s : State) (a : _) (b : _),
    s.boot.fatal = false ∧ s.tiles.length = 48 ∧ a < 48 ∧ b < 48 ∧ lget s.pwr.temps a 0 < lget s.pwr.temps b 0 ∧
    (neighbours a).contains b = true ∧ (strictOn s.appliedMap b).isNone = true ∧ (120 < tileDiff s a b ∨ (100 < tileDiff s a b ∧
    0 < (s.tile b).diffHold))) ∧
    (∃ (s : State) (a : _) (b : _),
    s.boot.fatal = false ∧ s.tiles.length = 48 ∧ a < 48 ∧ b < 48 ∧ lget s.pwr.temps a 0 < lget s.pwr.temps b 0 ∧
    (neighbours a).contains b = true ∧ (strictOn s.appliedMap b).isNone = true ∧ ((tileDiff s a b ≤ 100 ∨ (tileDiff s a b ≤ 120 ∧
    (s.tile b).diffHold = 0)))) :=
  ⟨⟨(heat ([450] ++ List.replicate 63 100) { level := 2 }), by decide +kernel⟩,
    ⟨base, by decide +kernel⟩,
    ⟨(heat ([100, 300] ++ List.replicate 62 100)), 0, 1, by decide +kernel⟩,
    ⟨(heat ([100, 190] ++ List.replicate 62 100)), 0, 1, by decide +kernel⟩⟩

theorem witness_PowerAndHeat_17 : ∃ (s : State) (a : _) (b : _),
    s.boot.fatal = false ∧ s.tiles.length = 48 ∧ a < 48 ∧ b < 48 ∧ lget s.pwr.temps a 0 < lget s.pwr.temps b 0 ∧
    ((neighbours a).contains b = false ∨ (strictOn s.appliedMap b).isSome = true) :=
  ⟨(heat (List.replicate 40 100 ++ List.replicate 24 200)), 0, 40, by decide +kernel⟩

end PartT

namespace PartU

def pwrAt (watts : Nat) (p : Pwr) (s : State := base) : State :=
  { s with pwr := { p with fast := List.replicate 10 watts } }
def heat (ts : List Nat) (p : Pwr := {}) : State := { base with pwr := { p with temps := ts } }
def rails (mv : List Nat) : RailSample := { mv := mv, amps := List.replicate 10 5, watts := 700 }
def bootAt (k : Nat) (b : Boot := {}) : State := { State.reset with time := 4000, boot := { b with stage := k, pwrOk := true, rstN := true }, clk := { lock := true, refOk := true } }
theorem some_getD {α : Type} {o : Option α} {d : α} (h : o.isSome = true) : o = some (o.getD d) := by
  cases o <;> simp_all

theorem witness_ColdAndWarmReset_0 :
    (∃ (s : State) (rq : Requester) (c : Instr) (cause : _) (pw : _) (rs : _),
    (c, cause, pw, rs) ∈ ([(.cold rq, 4, s.boot.pwrOk, s.boot.rstN), (.pwrOkRise, 1, true, s.boot.rstN), (.pwrOkFall, 3, false, true), (.rstNLow, 2, s.boot.pwrOk, false)] : List (Instr × Nat × Bool × Bool)) ∧
    ((c = .cold rq → rq.secure = true ∧ rq.src < 4)) ∧ ((c = .pwrOkRise → s.boot.pwrOk = false)) ∧ ((c = .pwrOkFall → s.boot.pwrOk = true ∧
    s.boot.rstN = true)) ∧ ((c = .rstNLow → s.boot.rstN = true))) ∧
    (∃ (s : State),
    s.boot.rstN = false) ∧
    (∃ (s : State),
    (s.boot.pwrOk = false ∨ s.boot.rstN = false)) ∧
    (∃ (s : State),
    s.boot.pwrOk = true) :=
  ⟨⟨base, sec, (.cold sec), 4, true, true, by decide +kernel⟩,
    ⟨({ State.reset with boot := { pwrOk := true } }), by decide +kernel⟩,
    ⟨({ State.reset with boot := { pwrOk := true } }), by decide +kernel⟩,
    ⟨base, by decide +kernel⟩⟩

theorem witness_ColdAndWarmReset_5 :
    (∃ (s : State),
    s.boot.rstN = true) ∧
    (∃ (s : State) (rq : Requester),
    rq.src < 4 ∧ rq.secure = true ∧ s.boot.warmRunning = false) ∧
    (∃ (s : State) (rq : Requester),
    rq.src < 4 ∧ rq.secure = true ∧ s.boot.warmRunning = true) ∧
    (∃ (rq : Requester),
    rq.src < 4 ∧ rq.secure = false) :=
  ⟨⟨base, by decide +kernel⟩,
    ⟨(opened (issued .nop)), sec, by decide +kernel⟩,
    ⟨({ base with boot := { base.boot with warmRunning := true } }), sec, by decide +kernel⟩,
    ⟨own, by decide +kernel⟩⟩

theorem witness_BootAndPortReset_0 :
    (∃ (s : State) (d : _),
    s.boot.halted = false ∧ s.boot.fatal = false ∧ s.boot.perst.length = 18 ∧ s.boot.stage = 1 ∧ (stageBound s).all (s.time ≤ ·) = true ∧
    d = false) ∧
    (∃ (s : State) (d : _) (r : _),
    s.boot.halted = false ∧ s.boot.fatal = false ∧ s.boot.perst.length = 18 ∧ s.boot.stage = 1 ∧ (stageBound s).all (s.time ≤ ·) = true ∧
    d = true ∧ r = false) ∧
    (∃ (s : State) (d : _) (r : _),
    s.boot.halted = false ∧ s.boot.fatal = false ∧ s.boot.perst.length = 18 ∧ s.boot.stage = 1 ∧ (stageBound s).all (s.time ≤ ·) = true ∧
    d = true ∧ r = true) ∧
    (∃ (s : State) (f : _),
    s.boot.halted = false ∧ s.boot.fatal = false ∧ s.boot.perst.length = 18 ∧ s.boot.stage = 2 ∧ s.boot.romOk = false ∧
    (stageBound s).all (s.time ≤ ·) = true ∧ f % 2 ^ 12 = 2 ^ 12 - 1) :=
  ⟨⟨(bootAt 1), false, by decide +kernel⟩,
    ⟨(bootAt 1), true, false, by decide +kernel⟩,
    ⟨(bootAt 1), true, true, by decide +kernel⟩,
    ⟨(bootAt 2), 0xFFF, by decide +kernel⟩⟩

theorem witness_BootAndPortReset_5 :
    (∃ (s : State) (f : _),
    s.boot.halted = false ∧ s.boot.fatal = false ∧ s.boot.perst.length = 18 ∧ s.boot.stage = 2 ∧ s.boot.romOk = false ∧
    (stageBound s).all (s.time ≤ ·) = true ∧ f % 2 ^ 12 ≠ 2 ^ 12 - 1) ∧
    (∃ (s : State),
    s.boot.halted = false ∧ s.boot.fatal = false ∧ s.boot.perst.length = 18 ∧ s.boot.stage = 2 ∧ s.boot.romOk = true ∧
    (stageBound s).all (s.time ≤ ·) = true) ∧
    (∃ (s : State),
    s.boot.halted = false ∧ s.boot.fatal = false ∧ s.boot.perst.length = 18 ∧ s.boot.stage = 3) ∧
    (∃ (s : State),
    s.boot.halted = false ∧ s.boot.fatal = false ∧ s.boot.perst.length = 18 ∧ s.boot.stage = 4 ∧ (stageBound s).all (s.time ≤ ·) = true ∧
    s.sec.attOk = true) :=
  ⟨⟨(bootAt 2), 0, by decide +kernel⟩,
    ⟨(bootAt 2 { romOk := true }), by decide +kernel⟩,
    ⟨(bootAt 3), by decide +kernel⟩,
    ⟨(let x := bootAt 4; { x with sec := { x.sec with attOk := true } }), by decide +kernel⟩⟩

theorem witness_BootAndPortReset_9 :
    (∃ (s : State),
    s.boot.halted = false ∧ s.boot.fatal = false ∧ s.boot.perst.length = 18 ∧ s.boot.stage = 4 ∧ (stageBound s).all (s.time ≤ ·) = true ∧
    s.sec.attOk = false) ∧
    (∃ (s : State) (b : _),
    (s.boot.halted = false ∧ s.boot.fatal = false ∧ s.boot.perst.length = 18) ∧ stageBound s = some b) :=
  ⟨⟨(bootAt 4), by decide +kernel⟩,
    ⟨(bootAt 1), ((stageBound (bootAt 1)).getD 0), by decide +kernel, (some_getD (by decide +kernel))⟩⟩

theorem witness_BootAndPortReset_13 :
    (∃ (s : State),
    inStage s 1 = false) ∧
    (∃ (s : State),
    (inStage s 2 = false ∨ s.boot.romOk = true)) ∧
    (∃ (s : State),
    (inStage s 2 = false ∨ s.boot.romOk = false)) ∧
    (∃ (s : State),
    inStage s 3 = false) :=
  ⟨⟨base, by decide +kernel⟩,
    ⟨base, by decide +kernel⟩,
    ⟨base, by decide +kernel⟩,
    ⟨base, by decide +kernel⟩⟩

theorem witness_BootAndPortReset_17 :
    (∃ (s : State),
    inStage s 4 = false) ∧
    (∃ (s : State),
    (stageBound s = none ∨ s.boot.halted = true ∨ s.boot.fatal = true)) :=
  ⟨⟨base, by decide +kernel⟩,
    ⟨base, by decide +kernel⟩⟩

theorem witness_BootAndPortReset_19 :
    (∃ (s : State) (rq : Requester) (val : Word) (p : Nat),
    s.boot.fatal = false ∧ rq.secure = true ∧ rq.src < 4 ∧ p = val.toNat % 64 ∧ (((12 ≤ p ∧ p < 16) ∨ (18 ≤ p ∧ p < 32) ∨ 48 ≤ p))) ∧
    (∃ (s : State) (rq : Requester) (val : Word) (p : Nat),
    s.boot.fatal = false ∧ rq.secure = true ∧ rq.src < 4 ∧ p = val.toNat % 64 ∧ ((p < 12 ∨ (16 ≤ p ∧ p < 18) ∨ (32 ≤ p ∧ p < 48))) ∧
    ((s.boot.warmRunning = true ∨ tmem s.boot.portReset p = true))) ∧
    (∃ (s : State) (rq : Requester) (val : Word) (p : Nat),
    s.boot.fatal = false ∧ rq.secure = true ∧ rq.src < 4 ∧ p = val.toNat % 64 ∧ s.boot.warmRunning = false ∧ tmem s.boot.portReset p = false ∧
    p < 12 ∧ p < s.jlk.length ∧ (s.link p).reads = [] ∧ (s.link p).state ≠ .disabled) ∧
    (∃ (s : State) (rq : Requester) (val : Word) (p : Nat),
    s.boot.fatal = false ∧ rq.secure = true ∧ rq.src < 4 ∧ p = val.toNat % 64 ∧ s.boot.warmRunning = false ∧ tmem s.boot.portReset p = false ∧
    p < 12 ∧ (s.link p).state = .disabled) :=
  ⟨⟨base, sec, 13, 13, by decide +kernel⟩,
    ⟨({ base with boot := { base.boot with portReset := [(16, 9000)] } }), sec, 16, 16, by decide +kernel⟩,
    ⟨(base.setLink 4 fun _ => { state := .active, keyed := true, session := true }), sec, 4, 4, by decide +kernel⟩,
    ⟨(base.setLink 4 fun _ => {}), sec, 4, 4, by decide +kernel⟩⟩

theorem witness_BootAndPortReset_23 : ∃ (s : State) (rq : Requester) (val : Word) (p : Nat),
    s.boot.fatal = false ∧ rq.secure = true ∧ rq.src < 4 ∧ p = val.toNat % 64 ∧ s.boot.warmRunning = false ∧ tmem s.boot.portReset p = false ∧
    (((16 ≤ p ∧ p < 18) ∨ (32 ≤ p ∧ p < 48))) ∧ s.boot.perst.length = 18 :=
  ⟨base, sec, 17, 17, by decide +kernel⟩

theorem witness_BootAndPortReset_24 :
    (∃ (s : State) (p : Nat) (b : Nat),
    s.boot.fatal = false ∧ tget s.boot.portReset p = some b ∧ s.boot.perst.length = 18 ∧ 16 ≤ p ∧ p < 18) ∧
    (∃ (s : State) (p : Nat) (b : Nat),
    s.boot.fatal = false ∧ tget s.boot.portReset p = some b ∧ s.boot.perst.length = 18 ∧ 32 ≤ p ∧ p < 48 ∧ bit (s.reg pgNvh 0x200) 0 = true) ∧
    (∃ (s : State) (p : Nat) (b : Nat),
    s.boot.fatal = false ∧ tget s.boot.portReset p = some b ∧ s.boot.perst.length = 18 ∧ 32 ≤ p ∧ p < 48 ∧ bit (s.reg pgNvh 0x200) 0 = false) :=
  ⟨⟨({ base with boot := { base.boot with portReset := [(16, 9000)] } }), 16, 9000, by decide +kernel⟩,
    ⟨(let x : State := { base with boot := { base.boot with portReset := [(33, 9000)] } }; x.setReg pgNvh 0x200 0 1), 33, 9000, by decide +kernel⟩,
    ⟨({ base with boot := { base.boot with portReset := [(33, 9000)] } }), 33, 9000, by decide +kernel⟩⟩

theorem witness_BootAndPortReset_27 : ∃ (s : State) (rq : Requester),
    s.boot.fatal = false ∧ rq.secure = false :=
  ⟨base, own, by decide +kernel⟩

theorem witness_BootAndPortReset_28 : ∃ (s : State) (p : Nat),
    (s.boot.fatal = true ∨ tget s.boot.portReset p = none) :=
  ⟨base, 13, by decide +kernel⟩

def s_BootAndPortReset_11 : State := { bootAt 1 with time := 10 ^ 12 }
theorem witness_BootAndPortReset_11 : ∃ (s : State) (b : Nat) (c : Instr) (d : _) (a : _) (r : _) (m : _) (f : _),
    s.boot.halted = false ∧ s.boot.fatal = false ∧ stageBound s = some b ∧ b < s.time ∧ ((s.boot.stage = 1 ∧
    c = .fuseLoad d a r) ∨ (s.boot.stage = 2 ∧ s.boot.romOk = false ∧ c = .romSelfCheck m f) ∨ (s.boot.stage = 2 ∧ s.boot.romOk = true ∧
    c = .memoryFillDone) ∨ (s.boot.stage = 4 ∧ c = .attestationReady)) :=
  ⟨s_BootAndPortReset_11, ((stageBound (s_BootAndPortReset_11)).getD 0), (.fuseLoad true true true), true, true, true, true, 0, by decide +kernel⟩

end PartU

namespace PartV

/-- The state a step leads to. -/
def nextOf (o : Host.Outcome State Fault Refusal) : State :=
  match o with
  | .next t => t
  | _ => State.reset

theorem witness_StepTakesFront_0 : ∃ (s : State) (c : Instr) (cs : List Instr),
    s.pending = c :: cs :=
  ⟨({ base with pending := [.nodeComplete 1, .deviceFatal 3] }), (.nodeComplete 1), [.deviceFatal 3], by decide +kernel⟩

theorem witness_StepTakesFront_1 :
    (∃ (s : State),
    s.pending = [] ∧ s.clk.refOk = true) ∧
    (∃ (s : State),
    s.pending = [] ∧ s.clk.refOk = false) :=
  ⟨⟨base, by decide +kernel⟩,
    ⟨({ base with clk := { base.clk with refOk := false } }), by decide +kernel⟩⟩

def s_FatalIsLeftOnlyByReset_0 : State := { base with boot := { base.boot with fatal := true, stage := 15, code := 0x70 } }
theorem witness_FatalIsLeftOnlyByReset_0 : ∃ (s : State) (t : State),
    (s.boot.fatal = true ∧ bootStat s = 0xF + 0x70 * 2 ^ 8) ∧ step s = .next t ∧ ((∀ c, s.pending.head? = some c → isReset c = false)) :=
  ⟨s_FatalIsLeftOnlyByReset_0, (nextOf (step (s_FatalIsLeftOnlyByReset_0))), by decide +kernel, (rfl), (fun c h => by cases h)⟩

def s_TimeNeverStepsBack_0 : State := { base with pending := [.nodeComplete 1] }
theorem witness_TimeNeverStepsBack_0 : ∃ (s : State) (t : State),
    step s = .next t ∧ ((∀ c, s.pending.head? = some c → isReset c = false)) :=
  ⟨s_TimeNeverStepsBack_0, (nextOf (step (s_TimeNeverStepsBack_0))), (rfl), (fun c h => by cases h; rfl)⟩

theorem witness_MemoriesStayCanonical_0 : ∃ (s : State) (t : State),
    s.memsWf = true ∧ step s = .next t :=
  ⟨base, (nextOf (step (base))), by decide +kernel, (rfl)⟩

theorem witness_UnmappedPages_0 : ∃ (s : State) (rq : Requester) (addr : Nat),
    s.boot.fatal = false ∧ rq.src < 4 ∧ pageType (winPage addr) = 0 :=
  ⟨base, own, 0xF0000, by decide +kernel⟩

theorem witness_RegisterWindow_0 :
    (∃ (s : State) (rq : Requester) (addr : Nat),
    rq.src < 4 ∧ s.boot.fatal = false ∧ pageType (winPage addr) ≠ 0 ∧ addr % 4 ≠ 0) ∧
    (∃ (s : State) (rq : Requester) (addr : Nat) (size : _),
    rq.src < 4 ∧ s.boot.fatal = false ∧ pageType (winPage addr) ≠ 0 ∧ ((size ≠ 4 ∨ addr % 4 ≠ 0))) ∧
    (∃ (rq : Requester) (val : _) (c : Instr) (page : _) (off : _),
    rq.src < 4 ∧ rq.secure = true ∧
    (c, page, off) ∈ ([(.clkTileReq rq val, pgClk, 0x20C), (.clkTileAll rq val, pgClk, 0x214), (.clkSsc rq val, pgClk, 0x204), (.pwrLimit rq val, pgPwr, 0x200), (.pwrPtCeil rq val, pgPwr, 0x210), (.glbPortRst rq val, pgGlb, 0x22C)] : List (Instr × Nat × Nat))) ∧
    (∃ (s : State) (rq : Requester) (addr : Nat),
    rq.src < 4 ∧ s.boot.fatal = false ∧ rq.secure = false ∧ addr % 4 = 0 ∧ pageType (winPage addr) ≠ 0 ∧ areaOf (winOff addr) = .block ∧
    (s.page (winPage addr)).secure = true) :=
  ⟨⟨base, own, 0x40222, by decide +kernel⟩,
    ⟨base, own, 0x40222, 4, by decide +kernel⟩,
    ⟨sec, 5, (.clkTileReq sec 5), pgClk, 0x20C, by decide +kernel⟩,
    ⟨(base.setPage 4 fun p => { p with secure := true }), own, 0x40200, by decide +kernel⟩⟩

theorem witness_RegisterWindow_6 :
    (∃ (s : State) (rq : Requester) (addr : Nat),
    rq.src < 4 ∧ pageType (winPage addr) ≠ 0 ∧ addr % 4 = 0 ∧ mayReadReg s rq (winPage addr) (winOff addr) = false) ∧
    (∃ (s : State) (rq : Requester),
    rq.src < 4 ∧ tget (s.page pgGlb).latch (latchKey rq 0x20C) = none) ∧
    (∃ (rq : Requester) (addr : Nat) (val : _) (size : _) (tag : _) (c : Instr),
    4 ≤ rq.src ∧ (c = .regWrite rq addr val ∨ c = .mmioWr rq addr size val ∨ c = .mmioRd rq addr size tag)) :=
  ⟨⟨base, own, 0x10208, by decide +kernel⟩,
    ⟨base, own, by decide +kernel⟩,
    ⟨{ own with src := 5 }, 0x40222, 5, 4, 3, (.regWrite { own with src := 5 } 0x40222 5), by decide +kernel⟩⟩

theorem witness_NonSecureCommandsAreRefused_0 : ∃ (rq : Requester) (val : Word) (n : Nat) (c : Instr),
    rq.secure = false ∧
    c ∈ ([.blwT1Cfg rq val, .chnSalt rq n val, .ckptGo rq, .ckptRestore rq, .clkSsc rq val, .clkTileAll rq val, .clkTileReq rq val, .cold rq, .depStageLen rq val, .detach rq, .down rq n, .extRelease rq, .extReleaseEvac rq, .glbPortRst rq val, .hbcRetAdd rq n val, .jlkEn rq n val, .nvhEnable rq val.toNat n, .pwrLimit rq val, .pwrPtCeil rq val, .recMark rq val, .recReplay rq val, .reinit rq, .rekey rq n, .retrain rq n, .rgnFormat rq val, .scrub rq val, .seqSrSeedHi rq val, .snpRelease rq, .snpTrig rq, .warmReset rq] : List Instr) :=
  ⟨own, 1, 0, (.cold own), by decide +kernel⟩

end PartV

end Sys2Proof.Tests
end

namespace Sys2Proof.Proofs.Commands

open Sys2Proof.Machine Sys2Proof.Safety

/-! ### A command at its unit -/

theorem exec_append (acc : Nat) (rivals : List Nat) (s : State) : exec (.append acc rivals) s = execAppend acc rivals s := rfl
theorem exec_flush (c : Try) (s : State) : exec (.flush c) s = execFlush c s := rfl
theorem exec_seqClose (c : Try) (s : State) : exec (.seqClose c) s = execSeqClose c s := rfl
theorem exec_seqFork (c : Try) (s : State) : exec (.seqFork c) s = execSeqFork c s := rfl
theorem exec_prefixPublish (c : Try) (s : State) : exec (.prefixPublish c) s = execPrefixPublish c s := rfl
theorem exec_warm (c : Try) (s : State) : exec (.warm c) s = execWarm c s := rfl

/-- A live command stands in the node store and has not ended. -/
theorem liveNode_eq_some {s : State} {acc : Nat} {n : Node} (h : liveNode s acc = some n) :
    s.node acc = some n ∧ n.outcome = none := by
  unfold liveNode at h
  split at h
  next m hm =>
    split at h
    next hlive =>
      cases h
      exact ⟨hm, Option.isNone_iff_eq_none.mp hlive.2.1⟩
    next => cases h
  next => cases h

/-- A command of the Lock column goes on in the same state where the arbitration of its cycle leaves the state as it is. -/
theorem contended_of_arbitrate_eq {s : State} {acc q : Nat} {rivals : List Nat} {n : Node} (f : State → Node → State)
    (hlive : liveNode s acc = some n) (hlock : lockSeq n.cmd = some q) (harb : arbitrate s q (acc :: rivals) = s) :
    contended s acc rivals f = f s n := by
  simp [contended, hlive, hlock, harb]

/-! ### The end of a command -/

@[simp] theorem finish_seq (s : State) (acc : Nat) (c : Comp) : (finish s acc c).seq = s.seq := State.setNode_seq ..
@[simp] theorem finish_chn (s : State) (acc : Nat) (c : Comp) : (finish s acc c).chn = s.chn := State.setNode_chn ..
@[simp] theorem finish_blw (s : State) (acc : Nat) (c : Comp) : (finish s acc c).blw = s.blw := State.setNode_blw ..
@[simp] theorem finish_mems (s : State) (acc : Nat) (c : Comp) : (finish s acc c).mems = s.mems := State.setNode_mems ..
@[simp] theorem finish_fab (s : State) (acc : Nat) (c : Comp) : (finish s acc c).fab = s.fab := State.setNode_fab ..
@[simp] theorem finish_cfg (s : State) (acc : Nat) (c : Comp) : (finish s acc c).dep.cfg = s.dep.cfg := by
  unfold finish State.setNode; split <;> rfl

/-- A command that has not ended yet ends with the outcome it is given. -/
theorem finish_ended {s : State} {acc : Nat} {n : Node} (c : Comp) (hnode : s.node acc = some n) (hopen : n.outcome = none) :
    Ended (finish s acc c) acc c := by
  simp [Ended, finish, State.node_setNode, hnode, hopen]

/-- Giving up a lock that no command holds changes no context. -/
theorem dropLock_ctx_of_free {s : State} {q : Nat} (hfree : (s.ctx q).lockOwner = none) (r : Nat) :
    (dropLock s q).ctx r = s.ctx r := by
  unfold dropLock
  rw [State.ctx_setCtx]
  split
  next h => subst h; rw [← hfree]
  next => rfl

/-! ### The gate of the location leaves -/

/-- The leaf table lists each leaf once, as the tables that the model builds do. -/
def LeavesListedOnce (s : State) : Prop := (s.blw.leaves.map Prod.fst).Nodup

/-- An entry of a table whose keys differ is what the table reads at its key. -/
theorem tget_eq_of_mem_nodup {V : Type} : ∀ {t : Tbl V}, (t.map Prod.fst).Nodup → ∀ e ∈ t, tget t e.1 = some e.2
  | [], _, _, he => by cases he
  | (k, v) :: t, hnd, e, he => by
    obtain ⟨hk, ht⟩ := List.nodup_cons.mp hnd
    rcases List.mem_cons.mp he with rfl | he
    · simp [tget]
    · have hne : k ≠ e.1 := fun h => hk (List.mem_map.mpr ⟨e, he, h.symm⟩)
      simpa [tget, hne] using tget_eq_of_mem_nodup ht e he

/-- Work meets no leaf that is away where each leaf that was away before it is away after it. -/
theorem leavesMet_eq_nil_iff (s t : State) : leavesMet s t = [] ↔
    ∀ f ∈ s.blw.leaves, (f.2.inT2 || f.2.moving) = true →
      ((tgetD t.blw.leaves f.1 {}).inT2 || (tgetD t.blw.leaves f.1 {}).moving) = true := by
  simp only [leavesMet, List.map_eq_nil_iff, List.filter_eq_nil_iff, Bool.and_eq_true, Bool.not_eq_true', not_and,
    Bool.not_eq_false]

/-- With every leaf at home, no work meets one that is away. -/
theorem leavesMet_of_leavesHome {s : State} (h : LeavesHome s) (t : State) : leavesMet s t = [] := by
  refine (leavesMet_eq_nil_iff s t).mpr fun f hf haway => ?_
  have hhome := List.all_eq_true.mp h f hf
  rw [haway] at hhome
  cases hhome

/-- Work that leaves the leaf table as it is meets no leaf. -/
theorem leavesMet_of_leaves_eq {s t : State} (hs : LeavesListedOnce s) (h : t.blw.leaves = s.blw.leaves) : leavesMet s t = [] := by
  refine (leavesMet_eq_nil_iff s t).mpr fun f hf haway => ?_
  have hread : tgetD t.blw.leaves f.1 {} = f.2 := by rw [h, tgetD, tget_eq_of_mem_nodup hs f hf]; rfl
  rw [hread]
  exact haway

/-- The gate lets work pass that meets no leaf which is away. -/
theorem leafGate_of_none_met {s : State} {f : State → State} (h : leavesMet s (f s) = []) (acc : Nat) (dl : Option Nat) :
    leafGate s acc dl f = f s := by
  simp [leafGate, h]

/-- The gate holds work that meets a leaf which is away: it only calls the leaves that do not come already. -/
theorem leafGate_of_met {s : State} {f : State → State} (h : leavesMet s (f s) ≠ []) (acc : Nat) (dl : Option Nat) :
    leafGate s acc dl f = callLeaves s ((leavesMet s (f s)).filter fun n => !leafComes s n) acc dl := by
  dsimp only [leafGate]
  split
  next hnil => exact absurd hnil h
  next => rfl

/-! ### A command that finds its lock free -/

theorem onSequence_of_lockReady {s : State} {n : Node} {q : Nat} (h : LockReady s n q) (f : State → State) :
    onSequence s n q f = f s := by
  obtain ⟨-, hbegin, hcached, hfree, hwindow, hclass⟩ := h
  simp only [List.contains_eq_mem, decide_eq_true_eq] at hcached
  simp [onSequence, hfree, hbegin, ctxHere, hcached, lockFree, hwindow, ctxAccess, structAccess, hclass]

theorem withTiles_of_tiles {s : State} {n : Node} (q : Nat) (h : nodeTiles s n ≠ []) (f : State → State) :
    withTiles s n q f = f s := by
  simp [withTiles, h]

/-- R51: an APPEND at another position than the end of its layer ends with INVALID at POS0. -/
theorem appendCmd_of_wrong_position {s : State} {n : Node} {a : AppendCmd} {p : Profile}
    (hprof : seqProfile s n.hdr.epoch a.seq = some p) (hnone : a.pos0 ≠ 0xFFFFFFFF) (hpos : a.pos0 ≠ (s.row a.seq a.layer).tokens) :
    appendCmd s n a =
      finish (allocDone (dropLock s a.seq) n.acc) n.acc (invalidAt 24 0 (s.row a.seq a.layer).tokens) := by
  simp [appendCmd, hprof, hnone, hpos]

/-- Settles O14: the APPEND passes the arbitration, the leaf gate, the checks of its sequence and of its tiles unchanged, and then ends at
the check of its position, before it takes the lock. -/
theorem appendPositionIsChecked : Obligations.AppendPositionIsChecked := by
  intro s acc rivals n a p hlive hacc hcmd harb hready htiles hprof hnone hpos
  obtain ⟨hnode, hopen⟩ := liveNode_eq_some hlive
  have ⟨hhome, _, _, hfree, _, _⟩ := hready
  have hrun : runAppend s n a =
      finish (allocDone (dropLock s a.seq) acc) acc (invalidAt 24 0 (s.row a.seq a.layer).tokens) := by
    rw [runAppend, onSequence_of_lockReady hready, withTiles_of_tiles _ htiles, appendCmd_of_wrong_position hprof hnone hpos, hacc]
  have hexec : exec (.append acc rivals) s = .next (runAppend s n a) := by
    rw [exec_append, execAppend, contended_of_arbitrate_eq _ hlive (by rw [hcmd]; rfl) harb, hcmd]
    exact congrArg _ (leafGate_of_none_met (leavesMet_of_leavesHome hhome _) acc none)
  refine ⟨_, hexec, ?_⟩
  rw [hrun]
  refine ⟨finish_ended _ hnode hopen, fun r => ?_, ?_⟩
  · exact (congrArg (fun x : Seq => tgetD x.ctxs r {}) (finish_seq ..)).trans (dropLock_ctx_of_free hfree r)
  · simp [allocDone, dropLock, State.setCtx]

/-! ### A command that finds its lock held -/

/-- R69 decides only about a free lock. -/
theorem arbitrate_of_held {s : State} {q b : Nat} (h : (s.ctx q).lockOwner = some b) (accs : List Nat) : arbitrate s q accs = s := by
  simp [arbitrate, h]

/-- A command of sequence q on the way to its lock: its checks hold, the context is at hand, and another command holds the lock. -/
structure LockHeld (s : State) (n : Node) (q b : Nat) : Prop where
  begins : beginCheck s n = none
  cached : s.seq.cached.contains q = true
  owner : (s.ctx q).lockOwner = some b
  other : b ≠ n.acc

theorem LockHeld.not_own {s : State} {n : Node} {q b : Nat} (h : LockHeld s n q b) : (s.ctx q).lockOwner ≠ some n.acc := by
  simp [h.owner, h.other]

theorem onSequence_of_lockHeld {s : State} {n : Node} {q b : Nat} (h : LockHeld s n q b) (f : State → State) :
    onSequence s n q f = lockBusy s n := by
  have hcached := h.cached
  simp only [List.contains_eq_mem, decide_eq_true_eq] at hcached
  simp [onSequence, h.owner, h.other, h.begins, ctxHere, hcached, lockFree]

/-- From s to t no sequence, page, directory slot, key or memory changed. -/
structure KeepsData (s t : State) : Prop where
  seq : t.seq = s.seq
  chn : t.chn = s.chn
  blw : t.blw = s.blw
  mems : t.mems = s.mems
  fab : t.fab = s.fab

theorem KeepsData.trans {s t u : State} (h : KeepsData s t) (k : KeepsData t u) : KeepsData s u :=
  ⟨k.seq.trans h.seq, k.chn.trans h.chn, k.blw.trans h.blw, k.mems.trans h.mems, k.fab.trans h.fab⟩

theorem lockBusy_keepsData (s : State) (n : Node) : KeepsData s (lockBusy s n) := by
  constructor <;> simp [lockBusy, count]

theorem lockBusy_ended {s : State} {n : Node} (hnode : s.node n.acc = some n) (hopen : n.outcome = none) :
    Ended (lockBusy s n) n.acc (failWith .busy) := finish_ended _ hnode hopen

/-! ### A WARM that lost its lock gives back its tiles -/

theorem setTiles_keepsData (f : Nat → Tile → Tile) (ts : List Nat) (s : State) :
    KeepsData s (ts.foldl (fun s t => s.setTile t (f t)) s) ∧ (ts.foldl (fun s t => s.setTile t (f t)) s).dep = s.dep := by
  induction ts generalizing s with
  | nil => exact ⟨⟨rfl, rfl, rfl, rfl, rfl⟩, rfl⟩
  | cons t ts ih => exact ⟨⟨(ih _).1.seq, (ih _).1.chn, (ih _).1.blw, (ih _).1.mems, (ih _).1.fab⟩, (ih _).2⟩

theorem warmRelease_keepsData (s : State) (acc : Nat) : KeepsData s (warmRelease s acc) ∧ (warmRelease s acc).dep = s.dep := by
  unfold warmRelease
  split
  next => exact ⟨⟨rfl, rfl, rfl, rfl, rfl⟩, rfl⟩
  next o _ =>
    obtain ⟨hdata, hdep⟩ := setTiles_keepsData (fun _ v => { v with reserved := v.reserved - o.spadUnits }) o.tiles s
    exact ⟨hdata.trans ⟨rfl, rfl, rfl, rfl, rfl⟩, hdep⟩

/-- A command that waits for no frames leaves the list of waits as it is. -/
theorem allocDone_of_not_waiting {s : State} {acc : Nat} (h : allocWaiting s acc = false) : allocDone s acc = s := by
  have hkeep : s.seq.allocWaits.filter (fun w => w.acc != acc) = s.seq.allocWaits := by
    refine List.filter_eq_self.mpr fun w hw => ?_
    simpa using List.any_eq_false.mp h w hw
  simp only [allocDone, hkeep]

/-- A WARM that holds neither lock nor pages and waits for no frames gives back no more than its tiles. -/
theorem warmDrop_keepsData {s : State} {acc : Nat} (hwait : allocWaiting s acc = false)
    (hop : ∀ o, warmOpOf s acc = some o → o.pages = [] ∧ (s.ctx o.seq).lockOwner ≠ some acc) :
    KeepsData s (warmDrop s acc) ∧ (warmDrop s acc).dep = s.dep := by
  unfold warmDrop
  split
  next => exact ⟨⟨rfl, rfl, rfl, rfl, rfl⟩, rfl⟩
  next o ho =>
    obtain ⟨hpages, hlock⟩ := hop o ho
    have hkeeps := warmRelease_keepsData s acc
    have hctx : ((warmRelease s acc).ctx o.seq).lockOwner = (s.ctx o.seq).lockOwner := by rw [State.ctx, hkeeps.1.seq, ← State.ctx]
    simpa [allocDone_of_not_waiting hwait, hpages, hctx, hlock] using hkeeps

/-- A WARM that ended with BUSY before it wrote a page has no page and no lock to give back. -/
theorem warmDrop_lockBusy {s : State} {n : Node} {q b : Nat} (h : LockHeld s n q b) (hwait : allocWaiting s n.acc = false)
    (hop : ∀ x, warmOpOf s n.acc = some x → x.pages = [] ∧ x.seq = q) :
    KeepsData s (warmDrop (lockBusy s n) n.acc) ∧ (warmDrop (lockBusy s n) n.acc).dep = (lockBusy s n).dep := by
  have hbusy := lockBusy_keepsData s n
  have hwarm : warmOpOf (lockBusy s n) n.acc = warmOpOf s n.acc := by simp [warmOpOf, lockBusy, finish, count]
  obtain ⟨hdrop, hdep⟩ := warmDrop_keepsData (s := lockBusy s n) (acc := n.acc)
    (by rw [allocWaiting, hbusy.seq, ← allocWaiting, hwait]) fun x hx => by
      obtain ⟨hpages, hseq⟩ := hop x (hwarm ▸ hx)
      refine ⟨hpages, ?_⟩
      rw [State.ctx, hbusy.seq, ← State.ctx, hseq]
      exact h.not_own
  exact ⟨hbusy.trans hdrop, hdep⟩

/-- R68 for a WARM: it ends with BUSY and gives back the tiles that its issue reserved. -/
theorem runWarm_of_lockHeld {s : State} {n : Node} {q b : Nat} (h : LockHeld s n q b) (hnode : s.node n.acc = some n)
    (hopen : n.outcome = none) (tiles ntok imageRef tokensRef : Nat) :
    runWarm s n q tiles ntok imageRef tokensRef = warmDrop (lockBusy s n) n.acc := by
  obtain ⟨m, hm, hend⟩ := Option.bind_eq_some_iff.mp (lockBusy_ended hnode hopen)
  simp [runWarm, h.not_own, onSequence_of_lockHeld h, hm, hend]

/-! ### The six commands that try a held lock (R50, R68) -/

/-- The command c, with its rivals of the cycle, runs node n, which needs the append lock of sequence q as it begins: a PREFIX_PUBLISH waits for no
pin and no sweep, a WARM for no frames, with no page written. -/
inductive LockTry (s : State) (rivals : List Nat) (n : Node) (q : Nat) : Instr → Prop
  | append (a : AppendCmd) : n.cmd = .append a → a.seq = q → LockTry s rivals n q (.append n.acc rivals)
  | flush (l : Nat) : n.cmd = .flush q l → LockTry s rivals n q (.flush ⟨n.acc, rivals⟩)
  | seqClose (z : Bool) : n.cmd = .seqClose q z → LockTry s rivals n q (.seqClose ⟨n.acc, rivals⟩)
  | seqFork (w f : Nat) : n.cmd = .seqFork w false q f → q < 2 ^ 20 → LockTry s rivals n q (.seqFork ⟨n.acc, rivals⟩)
  | prefixPublish (b : Nat) (p pin : Bool) (r k : Nat) : n.cmd = .prefixPublish q b p pin r k → pinWaits s n.acc = false →
      sweeping s (ringPt n.ring) 5 = false → LockTry s rivals n q (.prefixPublish ⟨n.acc, rivals⟩)
  | warm (tl k i o : Nat) : n.cmd = .warm q tl k i o → allocWaiting s n.acc = false →
      (∀ x, warmOpOf s n.acc = some x → x.pages = [] ∧ x.seq = q) → LockTry s rivals n q (.warm ⟨n.acc, rivals⟩)

/-- The arbitration of a cycle changes nothing about a held lock: the command goes on in the same state. -/
theorem contended_of_lockHeld {s : State} {rivals : List Nat} {n : Node} {q b : Nat} (f : State → Node → State)
    (hlive : liveNode s n.acc = some n) (hlock : lockSeq n.cmd = some q) (h : LockHeld s n q b) :
    contended s n.acc rivals f = f s n :=
  contended_of_arbitrate_eq f hlive hlock (arbitrate_of_held h.owner _)

/-- What the unit does for each of the six, before the gate of the leaves. -/
theorem LockTry.exec_eq {s : State} {rivals : List Nat} {n : Node} {q b : Nat} {c : Instr} (hc : LockTry s rivals n q c)
    (hlive : liveNode s n.acc = some n) (h : LockHeld s n q b) :
    ∃ f : State → State, exec c s = .next (leafGate s n.acc none f) ∧ Ended (f s) n.acc (failWith .busy) ∧ KeepsData s (f s) := by
  obtain ⟨hnode, hopen⟩ := liveNode_eq_some hlive
  have hbusy : ∀ {t : State}, t = lockBusy s n → Ended t n.acc (failWith .busy) ∧ KeepsData s t := fun ht =>
    ht ▸ ⟨lockBusy_ended hnode hopen, lockBusy_keepsData s n⟩
  cases hc with
  | append a hcmd hq =>
    subst hq
    refine ⟨fun s => runAppend s n a, ?_, hbusy (onSequence_of_lockHeld h _)⟩
    rw [exec_append, execAppend, contended_of_lockHeld _ hlive (by rw [hcmd]; rfl) h, hcmd]
  | flush l hcmd =>
    refine ⟨fun s => runFlush s n q l, ?_, hbusy (onSequence_of_lockHeld h _)⟩
    rw [exec_flush, execFlush, contended_of_lockHeld _ hlive (by rw [hcmd]; rfl) h, hcmd]
  | seqClose z hcmd =>
    refine ⟨fun s => onSequence s n q fun s => closeCmd s n q z, ?_, hbusy (onSequence_of_lockHeld h _)⟩
    rw [exec_seqClose, execSeqClose, contended_of_lockHeld _ hlive (by rw [hcmd]; rfl) h, hcmd]
  | seqFork w k hcmd hq =>
    have hmod : q % 2 ^ 20 = q := Nat.mod_eq_of_lt hq
    refine ⟨fun s => runFork s n w false q k, ?_, hbusy ?_⟩
    · rw [exec_seqFork, execSeqFork, contended_of_lockHeld _ hlive (by rw [hcmd]; exact congrArg some hmod) h, hcmd]
    · simp only [runFork, hmod]
      exact onSequence_of_lockHeld h _
  | prefixPublish bl p pin r k hcmd hpin hsweep =>
    refine ⟨_, by rw [exec_prefixPublish, execPrefixPublish, contended_of_lockHeld _ hlive (by rw [hcmd]; rfl) h, hcmd], hbusy ?_⟩
    simp [hsweep, runPublish, hpin, onSequence_of_lockHeld h]
  | warm tl k i o hcmd hwait hop =>
    refine ⟨fun s => runWarm s n q tl k i o, ?_, ?_⟩
    · rw [exec_warm, execWarm, contended_of_lockHeld _ hlive (by rw [hcmd]; rfl) h, hcmd]
    · obtain ⟨hkeeps, hdep⟩ := warmDrop_lockBusy h hwait hop
      dsimp only
      rw [runWarm_of_lockHeld h hnode hopen]
      refine ⟨?_, hkeeps⟩
      rw [Ended, State.node, hdep]
      exact lockBusy_ended hnode hopen

/-- R68 on every state whose leaf table lists each leaf once: the command ends at once with BUSY and changes no data. -/
theorem LockTry.ends_busy {s : State} {rivals : List Nat} {n : Node} {q b : Nat} {c : Instr} (hc : LockTry s rivals n q c)
    (hlive : liveNode s n.acc = some n) (h : LockHeld s n q b) (hleaves : LeavesListedOnce s) :
    ∃ t, exec c s = .next t ∧ Ended t n.acc (failWith .busy) ∧ KeepsData s t := by
  obtain ⟨f, hexec, hend, hkeeps⟩ := hc.exec_eq hlive h
  refine ⟨f s, ?_, hend, hkeeps⟩
  rw [hexec, leafGate_of_none_met (leavesMet_of_leaves_eq hleaves (congrArg Blw.leaves hkeeps.blw))]

/-! ### A leaf table that lists a leaf twice -/

/-- A profile of partition 0. -/
def plainProfile : Profile :=
  { owner := 0, tppLog2 := 4, kFmt := 1, vFmt := 1, kvh := 1, hdimCode := 0, rotEn := false, rotPair := false, mute := false, sr := false,
    kvhBase := 0, rotDims := 0, rotBase := 0, rotPosScale := 0 }

/-- An issued FLUSH of all layers of sequence 3, on ring 0. -/
def flushNode : Node := { acc := 1, ring := 0, hdr := { opcode := 0x06 }, cmd := .flush 3 0xFF, issued := true }

/-- Sequence 3 is open and its lock held by command 7; the leaf table is as given. -/
def flushAtHeldLock (leaves : Tbl Leaf) : State :=
  { State.reset with
    dep := { sq := [(0, { mgr := true })], nodes := [(1, flushNode)], accNext := 8
             cfg := { profiles := [(1, plainProfile)], pmap := { pts := lset (List.replicate 8 {}) 0 { seqCount := 16 } } } }
    seq := { ctxs := [(3, { state := .open_, layers := 1, profile := 1, lockOwner := some 7 })], cached := [3] }
    blw := { leaves := leaves } }

theorem flushAtHeldLock_live (leaves : Tbl Leaf) : liveNode (flushAtHeldLock leaves) 1 = some flushNode :=
  if_pos ⟨rfl, rfl, by simp [unitsReady, unitBits, unitLags, flushNode, flushAtHeldLock, bit], Bool.false_ne_true⟩

theorem flushAtHeldLock_lockHeld (leaves : Tbl Leaf) : LockHeld (flushAtHeldLock leaves) flushNode 3 7 where
  begins := rfl
  cached := rfl
  owner := rfl
  other := by decide

/-- With leaf 0 listed once, in T2, the FLUSH ends with BUSY: the hypotheses of `LockTry.ends_busy` hold together. -/
theorem flushAtHeldLock_ends_busy :
    ∃ t, exec (.flush ⟨1, []⟩) (flushAtHeldLock [(0, { inT2 := true })]) = .next t ∧ Ended t 1 (failWith .busy) ∧
      KeepsData (flushAtHeldLock [(0, { inT2 := true })]) t :=
  (LockTry.flush 0xFF rfl).ends_busy (n := flushNode) (flushAtHeldLock_live _) (flushAtHeldLock_lockHeld _) (List.nodup_singleton 0)

/-- Leaf 0 is listed at home and then in T2. -/
def leafListedTwice : State := flushAtHeldLock [(0, {}), (0, { inT2 := true })]

/-- The gate reads the first listing of leaf 0 and finds the second away: the FLUSH, which changes no leaf, is held for its return. -/
theorem exec_flush_leafListedTwice :
    exec (.flush ⟨1, []⟩) leafListedTwice = .next (callLeaves leafListedTwice [0] 1 none) := by
  have hheld : LockHeld leafListedTwice flushNode 3 7 := flushAtHeldLock_lockHeld _
  have hmet : leavesMet leafListedTwice (runFlush leafListedTwice flushNode 3 0xFF) = [0] := by
    rw [runFlush, onSequence_of_lockHeld hheld]
    decide +kernel
  have hcomes : leafComes leafListedTwice 0 = false := rfl
  rw [exec_flush, execFlush]
  refine congrArg _ ((contended_of_lockHeld _ (flushAtHeldLock_live _) rfl hheld).trans ?_)
  refine (leafGate_of_met (f := fun s => runFlush s flushNode 3 0xFF) (by simp [hmet]) 1 none).trans ?_
  simp [hmet, hcomes]

/-- Refutes O15: no hypothesis says that the leaf table lists a leaf once. Where it lists leaf 0 at home and then in T2, the gate takes a FLUSH that
finds its lock held for one that met a leaf which is away, and holds it: the FLUSH does not end with BUSY, and the move queue changes. On every
state that lists each leaf once the statement holds (`LockTry.ends_busy`). -/
theorem not_heldLockGivesBusy : ¬ Obligations.HeldLockGivesBusy := by
  intro h
  obtain ⟨begins, cached, owner, other⟩ : LockHeld leafListedTwice flushNode 3 7 := flushAtHeldLock_lockHeld _
  obtain ⟨t, hexec, hend, -⟩ := h leafListedTwice 1 3 7 [] flushNode (flushAtHeldLock_live _) rfl rfl begins cached owner other
    (.flush ⟨1, []⟩) (.inr (.inl ⟨0xFF, rfl, rfl⟩))
  have ht : callLeaves leafListedTwice [0] 1 none = t := Host.Outcome.next.inj (exec_flush_leafListedTwice.symm.trans hexec)
  have hopen : (callLeaves leafListedTwice [0] 1 none).node 1 = some flushNode := rfl
  rw [← ht, Ended, hopen] at hend
  cases hend

end Sys2Proof.Proofs.Commands

namespace Sys2Proof.Proofs.Registers

open Sys2Proof.Machine Sys2Proof.Safety

/-! ### Reporting that touches no page header -/

/-- An operation that leaves the page headers alone at every step of a fold leaves them alone as a whole. -/
theorem foldl_pages {α : Type} (f : State → α → State) (h : ∀ s a, (f s a).pages = s.pages) (l : List α) (s : State) :
    (l.foldl f s).pages = s.pages := by
  induction l generalizing s with
  | nil => rfl
  | cons a l ih => exact (ih _).trans (h s a)

@[simp] theorem sendTxn_pages (s : State) (p tc pt : Nat) (b : Bool) (t : Txn) (o : Nat) :
    (sendTxn s p tc pt b t o).pages = s.pages := State.setSched_pages ..

@[simp] theorem sendPkt_pages (s : State) (p tc vc pt : Nat) (b : Bool) (k : Packet) :
    (sendPkt s p tc vc pt b k).pages = s.pages := State.setSched_pages ..

@[simp] theorem hostWrite_pages (s : State) (p tc pt : Nat) (b : Bool) (a : Nat) (bs : List Byte) (o : Nat) :
    (hostWrite s p tc pt b a bs o).pages = s.pages := foldl_pages _ (fun _ _ => sendTxn_pages ..) _ _

@[simp] theorem recWrite_pages (s : State) (a : Nat) (bs : List Byte) : (recWrite s a bs).pages = s.pages := by
  unfold recWrite
  split
  · exact hostWrite_pages ..
  · rfl

@[simp] theorem recPlace_pages (s : State) (r : Record) : (recPlace s r).pages = s.pages := by
  simp [recPlace, count]

@[simp] theorem recPush_pages (s : State) (r : Record) : (recPush s r).pages = s.pages := by
  unfold recPush
  split
  · rfl
  · split
    · exact recPlace_pages s r
    · split <;> rfl

@[simp] theorem recNow_pages (s : State) (ty pt ref : Nat) (body : List Byte) (b : Bool) :
    (recNow s ty pt ref body b).pages = s.pages := by
  unfold recNow
  split
  · exact recPush_pages ..
  · rfl

@[simp] theorem errPush_pages (s : State) (r : Nat) (e : ErrEntry) : (errPush s r e).pages = s.pages := by
  unfold errPush
  dsimp only
  split <;> rfl

/-- An error event fills buffers and may be recorded; it writes no page header. -/
@[simp] theorem errPost_pages (s : State) (code cls page kind layer d1 obj : Nat) (reach : List Nat) :
    (errPost s code cls page kind layer d1 obj reach).pages = s.pages := by
  unfold errPost
  refine (foldl_pages _ (fun s pt => ?_) _ _).trans ?_
  · dsimp only
    rw [recNow_pages]
    split
    · exact errPush_pages ..
    · rfl
  · split
    · exact errPush_pages ..
    · rfl

/-! ### Reporting that keeps every error log -/

/-- From s to t the error log of every page is as it was (R348). -/
structure KeepsLogs (s t : State) : Prop where
  log : ∀ n, (t.page n).log = (s.page n).log

theorem KeepsLogs.refl (s : State) : KeepsLogs s s := ⟨fun _ => rfl⟩

theorem KeepsLogs.trans {s t u : State} (h : KeepsLogs s t) (k : KeepsLogs t u) : KeepsLogs s u :=
  ⟨fun n => (k.log n).trans (h.log n)⟩

theorem KeepsLogs.of_pages {s t : State} (h : t.pages = s.pages) : KeepsLogs s t :=
  ⟨fun n => by rw [State.page, h, ← State.page]⟩

/-- An update of a page's header that leaves its log alone keeps every log. -/
theorem setPage_keepsLogs (s : State) (n : Nat) {f : Page → Page} (hf : ∀ p, (f p).log = p.log) : KeepsLogs s (s.setPage n f) := by
  refine ⟨fun m => ?_⟩
  by_cases h : n = m
  · subst h
    rw [State.page_setPage_same, hf]
  · rw [State.page_setPage_ne s n m f h]

theorem irqMod_keepsLogs (s : State) (n : Nat) {f : Page → Page} (hf : ∀ p, (f p).log = p.log) : KeepsLogs s (irqMod s n f) := by
  have hset := setPage_keepsLogs s n hf
  unfold irqMod
  dsimp only
  split
  · exact hset.trans (.of_pages (sendTxn_pages ..))
  · exact hset

theorem setIrq_keepsLogs (s : State) (n i : Nat) : KeepsLogs s (setIrq s n i) := irqMod_keepsLogs s n fun _ => rfl

theorem latchPage_keepsLogs (id src time : Nat) (a : State × Bool) (p : Nat) : KeepsLogs a.1 (latchPage id src time a p).1 := by
  unfold latchPage
  dsimp only
  split
  · exact .refl _
  · have hskew : KeepsLogs a.1 (latchSkew a.1).2 := .of_pages rfl
    refine (hskew.trans (setPage_keepsLogs _ p ?_)).trans (setIrq_keepsLogs ..)
    exact fun _ => rfl

theorem latchPages_keepsLogs (id src time : Nat) (l : List Nat) (a : State × Bool) :
    KeepsLogs a.1 (l.foldl (latchPage id src time) a).1 := by
  induction l generalizing a with
  | nil => exact .refl _
  | cons p l ih => exact (latchPage_keepsLogs id src time a p).trans (ih _)

/-- A snapshot trigger latches pages and is recorded and sent on (R352, R353); it clears and fills no error log. -/
theorem snapTrigger_keepsLogs (s : State) (src : Nat) : KeepsLogs s (snapTrigger s src) := by
  unfold snapTrigger
  extract_lets id time snp s1 r s2 snp2 s3 s4 taken s5
  have hfirst : KeepsLogs s s1 := .of_pages rfl
  have hlatch : KeepsLogs s s2 := hfirst.trans (latchPages_keepsLogs id src time snapPages (s1, false))
  clear_value s2 r
  have hmissed : s3.pages = s2.pages := by unfold s3; split <;> rfl
  have hline : s4.pages = s3.pages := rfl
  clear_value s3 s4
  have hrecords : s5.pages = s4.pages := foldl_pages _ (fun _ _ => foldl_pages _ (fun _ _ => recNow_pages ..) _ _) _ _
  have hreport : KeepsLogs s s5 := hlatch.trans (.of_pages (hrecords.trans (hline.trans hmissed)))
  clear_value s5
  split
  · exact hreport.trans (.of_pages (foldl_pages _ (fun _ _ => sendPkt_pages ..) _ _))
  · exact hreport

theorem errTrigger_keepsLogs (s : State) (cls : Nat) : KeepsLogs s (errTrigger s cls) := by
  unfold errTrigger
  split
  · exact snapTrigger_keepsLogs ..
  · exact .refl s

/-! ### A register error -/

/-- R348: the first error of a page fills its log. -/
theorem logOnly_log_of_empty {s : State} {page : Nat} (hempty : (s.page page).log = none) (code lsb off d : Nat) (rq : Requester) :
    ((logOnly s page code lsb off d rq).page page).log = some (newLog s code lsb off d rq) := by
  rw [logOnly, (setIrq_keepsLogs ..).log, State.page_setPage_same, hempty]

/-- After its log, a register error is only reported: the event and the trigger keep what the log holds. -/
theorem logErr_keepsLogs_of_logOnly (s : State) (page code lsb off d : Nat) (rq : Requester) :
    KeepsLogs (logOnly s page code lsb off d rq) (logErr s page code lsb off d rq) :=
  KeepsLogs.trans (.of_pages (errPost_pages ..)) (errTrigger_keepsLogs ..)

/-- R348: a register error is only reported, and its page's log holds its code if it was empty. -/
theorem logErr_logged (s : State) (page code lsb off d : Nat) (rq : Requester) :
    Logged s (logErr s page code lsb off d rq) page code := by
  refine ⟨logErr_reports .., fun hempty => ?_⟩
  rw [(logErr_keepsLogs_of_logOnly ..).log, logOnly_log_of_empty hempty]
  rfl

/-! ### An access to a page that R339 does not list -/

theorem exec_regWrite_of_port {rq : Requester} (hport : rq.src < 4) (s : State) (addr : Nat) (val : Word) :
    exec (.regWrite rq addr val) s = .next (windowWrite s rq addr 4 val.toNat) :=
  congrArg _ (if_neg (Nat.not_le.mpr hport))

theorem exec_mmioWr_of_port {rq : Requester} (hport : rq.src < 4) (s : State) (addr size : Nat) (val : Word) :
    exec (.mmioWr rq addr size val) s = .next (windowWrite (rxConsume s rq.src (isMmioWr addr)) rq addr size val.toNat) :=
  congrArg _ (if_neg (Nat.not_le.mpr hport))

/-- The answer to a read that ended with r: its STATUS, its value and what it changed. -/
def readAnswer (rq : Requester) (tag : Nat) (r : (Nat × Nat) × State) : State :=
  sendTxn r.2 rq.src 0 rq.pt rq.secure
    { op := .mmioRsp, status := r.1.1, tag := tag, bytes := 4, data := if r.1.1 = 0 then toLe 4 r.1.2 else zeros 4 }

/-- A read of the value 0 is answered with four zero bytes. -/
theorem readAnswer_zero (rq : Requester) (tag : Nat) (s : State) :
    readAnswer rq tag ((0, 0), s) = sendTxn s rq.src 0 rq.pt rq.secure
      { op := .mmioRsp, status := 0, tag := tag, bytes := 4, data := zeros 4 } := by
  have hzero : toLe 4 0 = zeros 4 := by decide
  simp only [readAnswer, hzero, ite_self]

theorem exec_mmioRd_of_port {rq : Requester} (hport : rq.src < 4) (s : State) (addr size tag : Nat) :
    exec (.mmioRd rq addr size tag) s =
      .next (readAnswer rq tag (readWindow (rxConsume s rq.src (isTxn .mmioRd tag)) rq addr size)) :=
  congrArg _ (if_neg (Nat.not_le.mpr hport))

theorem windowWrite_of_unmapped {addr : Nat} (hpage : pageType (winPage addr) = 0) (s : State) (rq : Requester) (size w : Nat) :
    windowWrite s rq addr size w = unmapped s rq addr := by
  simp [windowWrite, writeWindow, hpage]

theorem readWindow_of_unmapped {addr : Nat} (hpage : pageType (winPage addr) = 0) (s : State) (rq : Requester) (size : Nat) :
    readWindow s rq addr size = ((0, 0), unmapped s rq addr) := by
  simp [readWindow, hpage]

/-- R340: GLB records an access that reaches no page. -/
theorem unmapped_logged {s : State} (halive : s.boot.fatal = false) (rq : Requester) (addr : Nat) :
    Logged s (unmapped s rq addr) pgGlb 0x04 := by
  rw [unmapped, halive]
  exact logErr_logged ..

@[simp] theorem rxConsume_boot (s : State) (port : Nat) (p : Frame → Bool) : (rxConsume s port p).boot = s.boot := State.setLink_boot ..

/-- Settles O36: each of the three accesses comes down to the record of GLB, which fills an empty log with code 0x04 and is only reported; the
read answers four bytes of the value 0. -/
theorem unmappedPages : Obligations.UnmappedPages := by
  intro s rq addr halive hport hpage
  have hrx : ∀ p, (rxConsume s rq.src p).boot.fatal = false := fun p => by rw [rxConsume_boot, halive]
  refine ⟨fun val => ?write, fun size val => ?mmioWrite, fun size tag => ?mmioRead⟩
  case write =>
    exact ⟨_, by rw [exec_regWrite_of_port hport, windowWrite_of_unmapped hpage], unmapped_logged halive rq addr⟩
  case mmioWrite =>
    exact ⟨_, by rw [exec_mmioWr_of_port hport, windowWrite_of_unmapped hpage], unmapped_logged (hrx _) rq addr⟩
  case mmioRead =>
    exact ⟨_, _, by rw [exec_mmioRd_of_port hport, readWindow_of_unmapped hpage, readAnswer_zero],
      unmapped_logged (hrx _) rq addr, rfl⟩

end Sys2Proof.Proofs.Registers
